-- ==== Sys2Proof/Word.lean ====
section
/-! DEFINITION. The plainest word types and the sparse map type of the model. -/
namespace Sys2Proof

abbrev Byte := BitVec 8
abbrev Word := BitVec 32
abbrev DWord := BitVec 64

/-- A sparse map: pairs of a key and a value, keys strictly rising; an absent key has the default its reader names. -/
abbrev Map (α : Type) := List (Nat × α)

end Sys2Proof

namespace Sys2Proof.Machine

/-- The exact value of a number code (R252–R255): NaN, an infinity, or (−1)^neg · m · 2^e. -/
inductive Num where
  | nan
  | inf (neg : Bool)
  | fin (neg : Bool) (m : Nat) (e : Int)
  deriving DecidableEq, Repr

/-- What a conversion of one element gives (R259, R262, R263): the code, and whether it saturated, met a NaN, flushed. -/
structure Conv where
  code : Nat
  sat : Bool
  nan : Bool
  flushed : Bool
  deriving DecidableEq, Repr

end Sys2Proof.Machine
end

