-- ==== Sys2Proof/Syntax.lean ====
section
/-! DEFINITION. The commands of the block: one constructor for each row of spec/opcode_table.json, with the operands the
surroundings or the block's units bring to that step. -/
namespace Sys2Proof

/-- The views of registers and Catalogue (R46, R445). -/
inductive View where
  | priv
  | ctx (c : Nat)
  deriving DecidableEq, Repr

/-- The straps sampled at the release of RST_N (R495). -/
structure Straps where
  build0 : Nat
  build1 : Nat
  memCap : List Nat
  xchSpeed : List Nat
  meridianRev0 : Nat
  meridianRev1 : Nat
  mgmtMac : Nat
  deriving DecidableEq, Repr

/-- What self-test found (R523): failing cores by stand and physical position, failing rows by array and row, and
failing control cores by half and index. -/
structure SelfTest where
  cores : List (Nat × Nat)
  rows : List (Nat × Nat)
  control : List (Nat × Nat)
  deriving DecidableEq, Repr

/-- The clocks of R492. -/
inductive ClockId where
  | refClk (half : Nat)
  | timeRef
  | host
  | mem (port : Nat)
  | xch (port : Nat)
  | mgmt
  deriving DecidableEq, Repr

/-- A window request as written to CAT_REQ (R56), without GO and OP. -/
structure CatReq where
  last : Bool
  chkgen : Bool
  index : BitVec 16
  sub : BitVec 8
  length : BitVec 16
  deriving DecidableEq, Repr

/-- A CAP frame (R64) as received, without the operation code that the command's row fixes. `size` is the length of the
datagram's payload, and `srcAddr`, `srcPort` the sender. -/
structure CapFrame where
  size : Nat
  version : Byte
  response : Bool
  flags : BitVec 16
  session : BitVec 32
  seq : BitVec 64
  length : BitVec 16
  keyId : Byte
  reserved : Byte
  status : BitVec 32
  payload : List Byte
  tag : List Byte
  srcAddr : List Byte
  srcPort : Nat
  dstPort : Nat
  deriving DecidableEq, Repr

/-- A frame for the management stack itself (R63). -/
inductive MgmtFrame where
  | neighbourSolicitation (src target : List Byte)
  | echoRequest (src data : List Byte)
  | fragment
  deriving DecidableEq, Repr

/-- A 128-byte command (R90) by its fields. -/
structure Cmd where
  seq : BitVec 64
  opcode : Byte
  flags : Byte
  ctrl : BitVec 16
  kernelId : BitVec 16
  indirect : BitVec 16
  deadline : BitVec 64
  release : BitVec 64
  pred : Vector Word 6
  overflow : BitVec 64
  param : Vector Word 16
  deriving DecidableEq, Repr

/-- An overflow edge block (R100). -/
structure OverflowBlock where
  count : Word
  reserved : Word
  next : BitVec 64
  refs : List Word
  deriving DecidableEq, Repr

/-- The fields of a core instruction (R215) beside its opcode. -/
structure Fields where
  rd : BitVec 5
  ra : BitVec 5
  rb : BitVec 5
  rc : BitVec 5
  mod : BitVec 4
  imm : Word
  deriving DecidableEq, Repr

/-- A semaphore (R347): slot of a core, or a shared one. -/
inductive SemId where
  | core (c slot : Nat)
  | shared (i : Nat)
  deriving DecidableEq, Repr

/-- The source of a semaphore operation (R352). -/
inductive SemSource where
  | core (c : Nat)
  | command (ring : Nat)
  | remote (flow : Nat)
  deriving DecidableEq, Repr

/-- An Eclahild packet (R383) in its Ethernet frame (R376), without the TYPE that the command's row fixes: `header` is the frame's 14
bytes of addresses and EtherType, `trailer` what follows the packet's CRC. -/
structure Packet where
  header : List Byte
  version : Byte
  flags : Byte
  reserved3 : Byte
  length : BitVec 16
  srcDevice : BitVec 16
  dstDevice : BitVec 16
  srcFlow : BitVec 16
  dstFlow : BitVec 16
  reserved14 : BitVec 16
  psn : Word
  ackPsn : Word
  incarnation : Word
  peerIncarnation : Word
  segment : List Byte
  crc : Word
  trailer : List Byte
  deriving DecidableEq, Repr

/-- A SIGNAL or SIGNAL_ACK message (R389). -/
structure SignalMsg where
  flags : Byte
  ring : Byte
  result : Byte
  amount : Word
  seq : BitVec 64
  target : BitVec 64
  deriving DecidableEq, Repr

/-- The header of a routing message (R321). -/
structure RouteHdr where
  originHalf : Nat
  destHalf : Nat
  hb : Nat
  generation : Nat
  deadline : Nat
  deriving DecidableEq, Repr

/-- One entry of a TOKENS message (R321). -/
structure TokenEntry where
  tag : BitVec 64
  loc : Nat
  row : List Byte
  deriving DecidableEq, Repr

/-- One entry of an ANSWERS message (R321). -/
structure AnswerEntry where
  tag : BitVec 64
  status : Nat
  row : List Byte
  deriving DecidableEq, Repr

/-- What the code of an on-chip memory found at an access (R421, R433): nothing, a corrected error in a row, or an
uncorrectable one. -/
inductive Ecc where
  | clean
  | corrected (row : Nat)
  | uncorrectable
  deriving DecidableEq, Repr

/-- The fields of an instruction that starts a transfer or a slice operation, and what the code of the core's memory found at the access
it makes there (R433). -/
structure CodedFields where
  fields : Fields
  ecc : Ecc
  deriving DecidableEq, Repr

/-- A word of instruction memory, and what its code found (R215, R421). -/
structure Fetched where
  word : BitVec 64
  ecc : Ecc
  deriving DecidableEq, Repr

/-- A semaphore, and what the code of its word found (R352, R421). -/
structure SemAccess where
  sem : SemId
  ecc : Ecc
  deriving DecidableEq, Repr

/-- What the code of a word of a node, of an edge block, of a landing or of a command queue found (R434). -/
structure NodeWord where
  queueWord : Bool
  ecc : Ecc
  deriving DecidableEq, Repr

/-- A transfer slot of a core (R232). -/
structure SlotRef where
  core : Nat
  slot : Nat
  deriving DecidableEq, Repr

/-- A check of a matrix slice (R201). -/
inductive SliceCheck where
  | load
  | row
  | pass
  deriving DecidableEq, Repr

/-- A check of a core's slice that failed (R204). -/
structure FailedCheck where
  core : Nat
  check : SliceCheck
  deriving DecidableEq, Repr

/-- What comes with a block that a sub-port read: RERR, and that a newer write of the block has reached the sub-port (R284, R503). -/
structure ReadReply where
  rerr : Bool
  newer : Bool
  deriving DecidableEq, Repr

/-- A beat of read data: 64 bytes, their check bytes and RERR (R503). -/
structure Beat where
  data : List Byte
  check : List Byte
  rerr : Bool
  deriving DecidableEq, Repr

/-- A requester of device memory (R285). -/
inductive Consumer where
  | core (c : Nat)
  | unit (node : Nat)
  | shape (node : Nat)
  | ringEngine (ring : Nat)
  | partialWrite (node : Nat)
  | scrubber
  deriving DecidableEq, Repr

/-- One commanded command of the block. -/
inductive Instr where
  -- bring-up, clocks and firmware
  | blockReset (straps : Straps)
  | pwrOkLow (half : Nat)
  | meridianTrainingDone (failed0 failed1 : List Nat)
  | healthTestsPass
  | selfTestDone (found : SelfTest)
  | firmwareInitDone
  | clockFault (clock : ClockId)
  | fwLoad
  | fwFetchDone (ok : Bool) (image : List Byte)
  -- Catalogue windows and CAP
  | catRead (v : View) (r : CatReq)
  | catWrite (v : View) (r : CatReq)
  | catList (v : View) (r : CatReq)
  | capOpen (f : CapFrame)
  | capClose (f : CapFrame)
  | capKeepalive (f : CapFrame)
  | capRead (f : CapFrame)
  | capWrite (f : CapFrame)
  | capList (f : CapFrame)
  | capUnknownOperation (op : BitVec 7) (f : CapFrame)
  | capIdleTimeout (slot : Nat)
  | openFirstRequestTimeout (slot : Nat)
  | sessionCloseWrite (slot : Nat) (value : Byte)
  | mgmtIcmpv6 (f : MgmtFrame)
  | deviceIdWrite (value : BitVec 16)
  -- contexts and rings
  | contextCreate (c : BitVec 16)
  | contextDestroy (c : BitVec 16)
  | contextReset (c : BitVec 16)
  | contextResetComplete
  | reclaim (c : BitVec 16)
  | ringEnable (ring : Nat)
  | ringDisable (ring : Nat)
  | resumeRetry (ring : Nat)
  | resumeSkip (ring : Nat)
  | ringAbort (ring : Nat)
  | doorbell (ring : Nat) (tail : BitVec 64)
  | registerWrite (page : Nat) (offset : Nat) (size : Nat) (value : BitVec 512)
  -- command acceptance
  | commandFetch (ring : Nat) (cmds : List Cmd) (uncorrectable : Bool)
  | overflowChainRead (ring : Nat) (blocks : List OverflowBlock) (uncorrectable : Bool)
  | refHoldTimeout (ring : Nat)
  | ringStallResume (half : Nat)
  | shapeSubstitution (node : Nat) (uncorrectable : Bool)
  -- Dvorsor
  | tick
  | sectorSelect (sector : Nat)
  | grantIssue (sector : Nat)
  | grantWord (core : Nat)
  | kernelLoad (core : Nat) (uncorrectable : Bool)
  | parameterRead (core : Nat) (uncorrectable : Bool)
  | schedNotification (half : Nat)
  | executorFinish (node : Nat)
  | quantumExpiry (comp : Nat)
  | compartmentSwitch (comp : Nat)
  | compartmentAssign (comp : Nat)
  -- completion
  | recordRetire (ring : Nat)
  | maxDelayExpiry (ring : Nat)
  | irqMaskWrite (ring : Nat) (value : BitVec 64)
  | completionRetryTimer (ctx : Nat)
  | epochConsumedPoll (ctx : Nat) (read : Option (BitVec 64))
  | taskLimitExpiry (node : Nat)
  -- commands at their executors
  | nopCommand (node : Nat)
  | launchCommand (node : Nat)
  | copyCommand (node : Nat) (hostData : List Byte) (uncorrectable : Bool)
  | gatherCommand (node : Nat) (uncorrectable : Bool)
  | updateCommand (node : Nat) (hostIds : List Nat) (hostData : List Byte) (uncorrectable : Option Nat)
  | epochCommand (node : Nat)
  | routeCommand (node : Nat) (uncorrectable : Bool)
  | signalCommand (node : Nat)
  | waitCommand (node : Nat)
  | fenceCommand (node : Nat)
  | markCommand (node : Nat)
  | hostStepCommand (node : Nat)
  | stepReply (ring : Nat) (value : BitVec 64)
  -- core instructions: scalar
  | add (core : Nat) (f : Fields)
  | sub (core : Nat) (f : Fields)
  | and (core : Nat) (f : Fields)
  | or (core : Nat) (f : Fields)
  | xor (core : Nat) (f : Fields)
  | sll (core : Nat) (f : Fields)
  | srl (core : Nat) (f : Fields)
  | sra (core : Nat) (f : Fields)
  | mul (core : Nat) (f : Fields)
  | mulhu (core : Nat) (f : Fields)
  | min (core : Nat) (f : Fields)
  | max (core : Nat) (f : Fields)
  | slt (core : Nat) (f : Fields)
  | sltu (core : Nat) (f : Fields)
  -- core instructions: control flow and control
  | nop (core : Nat) (fetch : Fetched)
  | beq (core : Nat) (f : Fields)
  | bne (core : Nat) (f : Fields)
  | blt (core : Nat) (f : Fields)
  | bge (core : Nat) (f : Fields)
  | bltu (core : Nat) (f : Fields)
  | bgeu (core : Nat) (f : Fields)
  | jal (core : Nat) (f : Fields)
  | jalr (core : Nat) (f : Fields)
  | crr (core : Nat) (f : Fields)
  | crw (core : Nat) (f : Fields)
  | cntrd (core : Nat) (f : Fields)
  | trap (core : Nat) (f : Fields)
  -- core instructions: vector
  | vadd (core : Nat) (f : Fields)
  | vsub (core : Nat) (f : Fields)
  | vmul (core : Nat) (f : Fields)
  | vfma (core : Nat) (f : Fields)
  | vmin (core : Nat) (f : Fields)
  | vmax (core : Nat) (f : Fields)
  | vand (core : Nat) (f : Fields)
  | vor (core : Nat) (f : Fields)
  | vxor (core : Nat) (f : Fields)
  | vcmp (core : Nat) (f : Fields)
  | vsel (core : Nat) (f : Fields)
  | vbcast (core : Nat) (f : Fields)
  | vext (core : Nat) (f : Fields)
  | vlane (core : Nat) (f : Fields)
  | vred (core : Nat) (f : Fields)
  | vexp2 (core : Nat) (f : Fields)
  | vrcp (core : Nat) (f : Fields)
  | vrsqrt (core : Nat) (f : Fields)
  | vmaxrun (core : Nat) (f : Fields)
  | vexpsub (core : Nat) (f : Fields)
  | vrescale (core : Nat) (f : Fields)
  | vdivsafe (core : Nat) (f : Fields)
  -- core instructions: memory and slice
  | lds (core : Nat) (f : Fields) (ecc : Ecc)
  | sts (core : Nat) (f : Fields) (ecc : Ecc)
  | vld (core : Nat) (f : Fields) (ecc : Ecc)
  | vst (core : Nat) (f : Fields)
  | xld (core : Nat) (f : CodedFields)
  | xst (core : Nat) (f : CodedFields)
  | xmv (core : Nat) (f : CodedFields)
  | transferDone (core slot : Nat) (uncorrectable : Bool) (hostData : List Byte)
  | tdigest (core : Nat) (f : Fields)
  | mload (core : Nat) (f : CodedFields)
  | loaderDone (core : Nat)
  | mswap (core : Nat) (f : Fields)
  | mstream (core : Nat) (f : CodedFields)
  | checksumMismatch (failed : FailedCheck)
  | mismatchReport (half : Nat)
  -- core instructions: ordering, synchronisation, marking and work
  | qbar (core : Nat) (f : Fields)
  | fence (core : Nat) (f : Fields)
  | xwait (core : Nat) (f : Fields)
  | signal (core : Nat) (f : Fields)
  | take (core : Nat) (f : Fields)
  | waitge (core : Nat) (f : Fields)
  | semrd (core : Nat) (f : Fields)
  | seminit (core : Nat) (f : Fields)
  | mark (core : Nat) (f : Fields)
  | getwork (core : Nat) (f : Fields)
  | endwork (core : Nat) (f : Fields)
  -- semaphores
  | semaphoreCycle (sem : SemAccess) (arriving : List SemSource)
  | semaphoreRelease (core queue : Nat)
  | waitWatchdogFire (core queue : Nat)
  | waitTimeout (node : Nat)
  | bind (record : List Byte)
  | unbind (value : BitVec 16)
  | remoteSignal (flow : Nat) (m : SignalMsg)
  | signalAck (flow : Nat) (m : SignalMsg)
  -- Eclahild
  | flowOpen (record : List Byte)
  | flowClose (value : BitVec 16)
  | markRelease (record : List Byte)
  | openRetryTimer (flow : Nat)
  | data (port : Nat) (p : Packet)
  | ack (port : Nat) (p : Packet)
  | nak (port : Nat) (p : Packet)
  | openPacket (port : Nat) (p : Packet)
  | openAck (port : Nat) (p : Packet)
  | closePacket (port : Nat) (p : Packet)
  | closed (port : Nat) (p : Packet)
  | ackTimer (flow : Nat)
  | nakTimer (flow : Nat)
  | rtoExpiry (flow : Nat)
  -- fabric time and exchange ports
  | syncReq (port : Nat) (p : Packet)
  | sync (port : Nat) (p : Packet)
  | delayReq (port : Nat) (p : Packet)
  | delayResp (port : Nat) (p : Packet)
  | syncIntervalTimer
  | ppsEdge (tod : BitVec 64) (todValid : Bool)
  | macLinkChange (port : Nat) (up : Bool)
  | macFault (port : Nat)
  | macLaneFail (port dir lane : Nat)
  | exchangeLaneTest (port : Nat) (failed : List (Nat × Nat))
  -- experts
  | delivery (flow : Option Nat) (h : RouteHdr) (tokenBytes resultBytes : Nat) (entries : List (Nat × Nat))
  | deliveryAllocate (half : Nat)
  | tokens (flow : Option Nat) (h : RouteHdr) (entries : List TokenEntry)
  | answers (flow : Option Nat) (h : RouteHdr) (entries : List AnswerEntry)
  | cancel (flow : Option Nat) (h : RouteHdr)
  | cancelAck (flow : Option Nat) (h : RouteHdr)
  | stepTimeoutExpiry (node : Nat)
  | layerCancel (half layer : Nat) (value : BitVec 16)
  | descriptorWrite (half layer : Nat) (bytes : List Byte)
  | biasWindowEnd (half layer : Nat)
  | deviceSideEnable (half d : Nat)
  | deviceSideDisable (half d : Nat)
  -- memory, regions and tables
  | regionsWrite (c : Nat) (bytes : List Byte)
  | tableRegister (bytes : List Byte)
  | tableUnregister (id : BitVec 16)
  | tableRestoreDone (table : Nat)
  | epochDrainEnd (table : Nat)
  | rdata (port : Nat) (address : Nat) (consumer : Consumer) (bytes : List Byte) (check : List Byte) (reply : ReadReply)
  | partialWrite (address : Nat) (bytes : List Byte) (node : Nat) (block : Beat)
  | wack (slot : SlotRef)
  | scrub (port : Nat) (address : Nat) (bytes : List Byte) (check : List Byte) (reply : ReadReply)
  | laneRemapRsp (port : Nat) (noSpare : Bool)
  | coldFill (table row : Nat) (bytes : List Byte)
  -- translation and host reads
  | xltRsp (tag : Nat) (none_ : Bool) (addr : Nat) (pageLog2 : Nat) (readOk writeOk : Bool)
  | pageRsp (group : Nat) (result : Nat)
  | invReq (itag : Nat) (pasid : Option Nat) (global : Bool) (iova : Nat) (sizeLog2 : Nat)
  | hostReadCompletion (ring : Nat) (address : BitVec 64) (error : Bool) (bytes : List Byte)
  -- islands
  | islandEvaluation (stand : Nat) (current : Nat) (temp : Nat)
  | fastDrop (stand : Nat) (current : Nat)
  | regulatorAck (stand : Nat)
  | sensorFault (stand : Nat)
  | retainEntry (comp : Nat)
  | telemetryRefresh (powerMilliwatts : Nat) (compPower : List Nat)
  -- faults and repair
  | coreProbe (core : Nat)
  | probeTimeout (core : Nat)
  | fenceCore (value : BitVec 16)
  | unfenceCore (value : BitVec 16) (selfTestPasses : Bool)
  | recallAck (core : Nat)
  | recallAckTimeout (core : Nat)
  | standDrained (stand : Nat)
  | islandFault (stand : Nat)
  | regulatorFault (comp : Nat)
  | nodeLost (node : Nat) (word : NodeWord)
  | unitFault (mover : Bool) (unit : Nat)
  | meridianLaneTest (dir : Nat) (failed : List Nat)
  | heartbeatTimeout (half core : Nat)
  | repairLoad (bytes : List Byte)
  -- security and debug
  | keyWrite (slot : Nat) (bytes : List Byte)
  | debugLock (value : Byte)
  | dmiAccess (address : Byte) (op : BitVec 2) (data : Word)
  | halfDrained (half : Nat)
  -- trace and counters
  | traceEnable (value : Byte)
  | triggerNow (value : Byte)
  | windowEnd
  | pcSampleTimer (stand : Nat)
  | syncRecordTimer
  | traceReadyChange (ready : Bool)
  | gcSelect (selects : List Word)
  | gcClear (value : Byte)
  | coreEvents (c : Nat) (events : List (BitVec 16))
  | eventFreeze (value : Byte)
  -- late rows
  | mstreamDone (core : Nat)
  | hartBreakpoint (hart : Nat)
  | testPortAccess (ir : Nat) (mandatory : Bool)
  | laneWordUncorrectable (port dir lane : Nat)
  | controlCoreMemoryError (half core : Nat)
  | healthTestFail
  deriving DecidableEq, Repr

end Sys2Proof
end

