-- ==== Sys2Proof/Decode.lean ====
section
/-! DEFINITION. Decoding of the table's words. The rows of the table are steps of a block and give no bits, so no word
spells a command (DESIGN CHOICE, log 10). -/
namespace Sys2Proof

/-- The command that a word spells by the table's bits: none, as no row of the table gives bits. -/
def decodeTableWord (_nbits _w : Nat) : Option Instr := none

end Sys2Proof
end

