-- ==== Sys2Proof/Config.lean ====
section
/-! DEFINITION. What the manual leaves open: free values, constants without a body that no proof can see into. -/
namespace Sys2Proof.Config

/-- The next value of the block's random-number source (R457: session ids, nonces, incarnations), by draw number. DESIGN CHOICE, log 3. -/
opaque freeRandom : Nat → BitVec 128

/-- Where the results of VEXP2, VRCP, VRSQRT, VEXPSUB and VDIVSAFE fall inside the accuracy R229 allows, in units in the
last place from the nearest value: the same for the same inputs on every core. DESIGN CHOICE, log 5. -/
opaque ulpOffset (op : BitVec 8) (a b : Word) : Int

/-- What a read of a debug module register returns (R488, by reference to another specification). PRESUMED, log 6. -/
opaque debugRead (n : Nat) (address : BitVec 8) : Word

/-- What the test port shifts out for an instruction it answers (R512, by reference to IEEE 1149.1). DESIGN CHOICE, log 7. -/
opaque tapOut (n : Nat) (ir : Nat) : DWord

/-- A byte of host memory read through a pinned host region (R288) by a unit whose command brings no data: by read number
and host address. DESIGN CHOICE, log 13. -/
opaque hostByte (n : Nat) (iova : Nat) : BitVec 8

/-- The I32 accumulator element that a NaN group sum of T2 with UNSCALED leaves (R268 gives a NaN, which I32 cannot hold): by
number of the instruction, row and column. DESIGN CHOICE, log 15. -/
opaque nanSum (n row col : Nat) : Word

/-- Which 64-byte blocks a read met as uncorrectable, where the command says only that one was (R285: a COPY, a GATHER): by
number of the read and block number. DESIGN CHOICE, log 17. -/
opaque lostBlock (n block : Nat) : Bool

/-- Which of the blocks of a read, counted modulo their number, is one that it met as uncorrectable (R285): by number of the read.
DESIGN CHOICE, log 17. -/
opaque lostIndex (n : Nat) : Nat

/-- Flits of the Meridian link that a crossing of a class with so many bytes takes (R32, R471; no rule gives the size of a flit).
DESIGN CHOICE, log 149. -/
opaque crossingFlits (cls bytes : Nat) : Nat

/-- The 8 bytes that a fill of a cold table's cache writes into its tag array (R302 gives no layout): by number of the fill
and row. DESIGN CHOICE, log 18. -/
opaque coldTag (n row : Nat) : DWord

/-- How many memory movers a half has beyond the first (R432 names their ids and gives no number). DESIGN CHOICE, log 19. -/
opaque moreMovers : Nat

/-- Whether a core passes the self-test that an UNFENCE through a Catalogue window or CAP runs (R440; the command brings no
outcome): by number of the write and core. DESIGN CHOICE, log 20. -/
opaque selfTest (n core : Nat) : Bool

end Sys2Proof.Config
end

