-- ==== Sys2Proof/Machine/State.lean ====
section
/-! DEFINITION. The state of the block: plain data, every piece of state the manual names, and the model's own fields
(`pending`, `freeCtr`, `outputs`, `slewAcc`). Reset values are those of the manual; log entries name the others. -/
namespace Sys2Proof.Machine

/-- Reasons the machine stops. No command of this block stops: every condition the manual reports is state of the block
(an abort code, a ring fault, an exception, a flag). The type has one reason, which nothing raises; safe. -/
inductive Fault where
  /-- Raised by nothing; safe. -/
  | unused
  deriving DecidableEq, Repr

/-- Reasons a command is refused. -/
inductive Refusal where
  /-- Raised by an arm of exec whose command has no meaning yet; safe. -/
  | notModelled (mnemonic : String)
  deriving DecidableEq, Repr

/-- What leaves the block at its ports (R491, R498, R501, R503, R506, R509, R510), oldest first. -/
inductive Output where
  | hostWrite (pasid : Option Nat) (addr : BitVec 64) (bytes : List Byte)
  | hostRead (pasid : Option Nat) (addr : BitVec 64) (len : Nat)
  | msix (vector : Nat)
  | xltReq (tag : Nat) (pasid : Option Nat) (iova : Nat) (write : Bool)
  | pageReq (group : Nat) (pasid : Option Nat) (iova : Nat) (write : Bool)
  | invCpl (itag : Nat)
  | blockWrite (address : Nat) (bytes check : List Byte)
  | laneRemapReq (port subport lane : Nat)
  | packet (port : Nat) (type : Byte) (p : Packet)
  | capResponse (srcPort : Nat) (dstAddr : List Byte) (dstPort : Nat) (op : Byte) (session : Word) (seq : BitVec 64) (keyId : Byte)
      (status : Word) (payload tag : List Byte)
  | neighbourAdvert (dst target : List Byte)
  | echoReply (dst data : List Byte)
  | traceRecord (bytes : List Byte)
  | regulatorRequest (comp millivolts : Nat)
  | testPort (ir : Nat) (value : BitVec 64)
  deriving DecidableEq, Repr

/-- Fuse data (R522 step 2), fixed for a block. -/
structure Fuses where
  uid0 : List Byte
  uid1 : List Byte
  revision : Nat
  spares : Map Nat
  ceilings : Map Nat
  stepSupply : Map (List Nat)
  tjThrottle : Nat
  tjCrit : Nat
  keyHash : List Byte
  minSvn : Nat
  debugLockFuse : Byte
  deriving DecidableEq, Repr

/-- A control core, by hart number (R6, R452, R455, R488): the bytes of its tightly coupled memory from offset 0, the rest of its
256 KiB being zero until it works there, and the PC it was started at. What its firmware does is the effect of the block's commands
(DESIGN CHOICE, log 158). -/
structure ControlCore where
  tcm : List Byte
  pc : Nat
  started : Bool
  deriving DecidableEq, Repr

/-- Bring-up, power pins and firmware load (R453, R494, R522–R524). `findings` are the stand and physical position of each core
that self-test or a fence since found failing, and `rowFindings` the array and row of each row that self-test found failing. -/
structure Boot where
  stage : Nat
  haltReason : Nat
  coresFailed : Nat
  linkTrained : Bool
  entropyOk : Bool
  selfTested : Bool
  findings : List (Nat × Nat)
  rowFindings : List (Nat × Nat)
  ready : Bool
  pwrOk0 : Bool
  pwrOk1 : Bool
  blockFault : Bool
  portFaults : List ClockId
  fwAddr : BitVec 64
  fwLen : BitVec 64
  fwLoad : Bool
  fwState : Nat
  fwReason : Nat
  fwDone : Bool
  fwDoneEvents : BitVec 16
  loadsRefused : BitVec 16
  fwVersion : Word
  fwDigest : List Byte
  fwLoadTime : Nat
  fwEntry : Nat
  controlCores : Map ControlCore
  randomDraws : Nat
  deriving DecidableEq, Repr

/-- Staged bytes of a window or session (R61, R62). -/
structure Staging where
  index : Nat
  sub : Nat
  bytes : List Byte
  deriving DecidableEq, Repr

/-- A Catalogue window (R55–R59). CAT_STATUS.BUSY is 1 while a request waits for the root (R489). -/
structure Window where
  req : BitVec 64
  aux : BitVec 64
  busy : Bool
  done : Bool
  doneEvents : BitVec 16
  type : Byte
  abort : Word
  generation : Word
  total : Word
  buffer : List Byte
  staging : Option Staging
  deriving DecidableEq, Repr

/-- A request that waits while the root's hart is halted (R489), for the entropy source (R457), or, with `capStarted` when its
session has accepted it, for the end of a context reset (R530). -/
inductive RootRequest where
  | window (v : View) (op : Nat) (r : CatReq)
  | cap (op : Nat) (f : CapFrame)
  | capStarted (slot op : Nat) (f : CapFrame)
  | row (i : Instr)
  deriving DecidableEq, Repr

/-- An answered CAP request, kept to be sent again (R69). -/
structure CapReply where
  op : Byte
  seq : Nat
  status : Word
  payload : List Byte
  deriving DecidableEq, Repr

/-- A CAP session (R68–R73). `ending` is set when the session ends with the request it is executing (R463). -/
structure Session where
  id : Word
  keyId : Nat
  view : View
  peer : List Byte
  peerPort : Nat
  last : Nat
  openedAt : Nat
  lastRequest : Nat
  authenticated : Bool
  key : List Byte
  cached : Option CapReply
  inExecution : Bool
  ending : Bool
  staging : Option Staging
  deriving DecidableEq, Repr

/-- A CAP key slot (R456). -/
structure KeySlot where
  role : Word
  key : List Byte
  deriving DecidableEq, Repr

/-- The Catalogue's own state and CAP (R49–R73, R456). -/
structure Catalogue where
  priv : Window
  windows : Map Window
  ctxGen : Map Nat
  slotGen : Map Nat
  peerGen : Map Nat
  answer : Word
  waiting : List RootRequest
  capEnable : Bool
  udpPort : Nat
  address : List Byte
  idleTimeout : Nat
  authFailures : Word
  discarded : Word
  retransmits : Word
  sessions : Map Session
  usedIds : List Word
  keys : Map KeySlot
  deriving DecidableEq, Repr

/-- The block-wide settings of the Catalogue. -/
structure Settings where
  deviceId : Nat
  refHoldLimit : Nat
  taskLimit : Nat
  tickNs : Nat
  quantum : Nat
  slackThreshold : List Nat
  deferLimit : List Nat
  energyAware : Byte
  energyNeed : List Nat
  traceControl : Word
  waitWatchdog : Nat
  scrubHours : Nat
  ceilingDerate : Nat
  faultVector : Nat
  probePeriod : Nat
  ceRowLimit : Nat
  ceWindow : Nat
  reissueLimit : Nat
  exclusiveRegions : Bool
  traceOpenAllowed : Bool
  debugLock : Byte
  etherType : Nat
  macPrefix : List Byte
  rto : Nat
  maxRetries : Nat
  deriving DecidableEq, Repr

/-- A region (R286). STATE is 0 UNUSED, 1 READY, 2 PENDING, 3 FAILED, 4 REVOKED. -/
structure Region where
  base : Nat
  size : Nat
  iova : Nat
  flags : Byte
  state : Nat
  deriving DecidableEq, Repr

/-- A context (R76, R155, R156, R170, R286, R364, R468). -/
structure Context where
  pasid : Word
  shapeBase : BitVec 64
  shapeSize : Nat
  kernelTable : BitVec 64
  kernelCount : Nat
  nodeQuota : Nat
  edgeQuota : Nat
  compMin : BitVec 16
  compMax : BitVec 16
  deadStall : Bool
  deadStallEvents : BitVec 16
  deadlineMisses : Word
  resetCount : Nat
  tallyBase : BitVec 64
  epochNext : Nat
  epochConsumed : Nat
  tallyBlocked : Option (BitVec 64)
  tallyHostError : Bool
  signalsDropped : Nat
  droppedShown : Nat
  coreEvents : List (BitVec 16)
  deriving DecidableEq, Repr

/-- A completion record (R162). -/
structure Record where
  seq : Nat
  status : Nat
  flags : Byte
  detail : BitVec 16
  escalated : Nat
  endTime : Nat
  run : Nat
  saturations : Nat
  nans : Nat
  deriving DecidableEq, Repr

/-- A ring fault (R107–R110). -/
structure RingFault where
  cause : Nat
  seq : Nat
  time : Nat
  address : BitVec 64
  node : Option Nat
  nodeState : List Byte
  cmd : Option Cmd
  cores : List (Nat × Nat × Nat)
  deriving DecidableEq, Repr

/-- A command the ring engine has read and not yet accepted, stopped at a step of R88. -/
structure HeldCommand where
  cmd : Cmd
  step : Nat
  since : Nat
  chain : Option (List Word)
  deriving DecidableEq, Repr

/-- A ring (R77–R84, R105–R108, R160–R165, R340, R342, R346). Ring r of context c has the number 8c + r; device-side ring
d of half h has 8192 + 32h + d. The states shown (R105, R107) are formed from the conditions held here. `fetched` holds the
commands read and not yet taken to acceptance; with `reread` the slot at the fetch pointer, before them, is to be read again.
`entryOwed` is set while the Tally's ring entry of the latest ENABLE is still to be written. -/
structure Ring where
  ctx : Nat
  enabled : Bool
  draining : Bool
  stall : Nat
  stallOrder : Nat
  fault : Option RingFault
  keptFaults : List RingFault
  capture : Option RingFault
  aborting : Bool
  mode : Byte
  sizeLog2 : Nat
  buffers : List (BitVec 64)
  nextSeq : Nat
  fetch : Nat
  tail : Nat
  reread : Bool
  fetched : List Cmd
  held : Option HeldCommand
  skipping : Option Nat
  overrun : Bool
  overrunEvents : BitVec 16
  complBase : BitVec 64
  complSizeLog2 : Nat
  vectors : Word
  moderation : Word
  complSignal : BitVec 64
  completedThrough : Nat
  entryOwed : Bool
  handedThrough : Nat
  blocked : Bool
  backlog : List Record
  blockedAt : BitVec 64
  irqFault : Bool
  irqNotify : Bool
  lastFault : Byte
  faultEvents : BitVec 16
  notifyEvents : BitVec 16
  maskFault : Bool
  maskNotify : Bool
  pendingNotes : Nat
  firstNoteAt : Nat
  mailbox : BitVec 64
  stepSeq : Nat
  stepCookie : BitVec 64
  stepFlag : Bool
  stepEvents : BitVec 16
  stepId : Word
  faultsHandled : Word
  deriving DecidableEq, Repr

/-- A successor entry (R117), with the acceptance order of the successor, which names it after its node index is used again. -/
structure Edge where
  node : Nat
  cross : Bool
  order : Nat
  deriving DecidableEq, Repr

/-- An item on a requeue list (R132, R136, R424). -/
structure ReqItem where
  item : Nat
  alt : Bool
  reissue : Bool
  barred : List Nat
  deriving DecidableEq, Repr

/-- A Dvorsor node (R111–R116). Node i of half h has the number 131072 h + i. STATE is as R113 codes it. `writeLost`
is set when a partial write of the command met an uncorrectable block (R285). `asRead` is the command as the ring engine read it
(R109), before its shape words are substituted. `barred` holds, item by item, the cores that
reported a mismatch on it (R136). -/
structure Node where
  state : Nat
  ring : Nat
  ctx : Nat
  seq : Nat
  cmd : Cmd
  asRead : Cmd
  units : Nat
  barrier : Bool
  fenceOn : List (Nat × Nat)
  accepted : Bool
  acceptedAt : Nat
  deferred : Bool
  acceptOrder : Nat
  dispatchOrder : Nat
  delayList : Option (Nat × Nat)
  readyAt : Nat
  dispatchedAt : Option Nat
  firstDispatch : Option Nat
  sector : Option Nat
  landing : Bool
  nextItem : Nat
  grid : Nat
  requeue : List ReqItem
  outstanding : Nat
  workers : List Nat
  reissues : Map Nat
  barred : List (Nat × Nat)
  stopped : Bool
  succs : List Edge
  result : Option Nat
  status : Nat
  detail : Nat
  endTime : Nat
  escalated : Nat
  sat : Nat
  nans : Nat
  precisionFailed : Bool
  uncorrectable : Bool
  writeLost : Bool
  reissuedFlag : Bool
  stepShape : List Byte
  escalatedFlag : Bool
  signalState : Nat
  signalDropped : Bool
  bare : Bool
  deriving DecidableEq, Repr

/-- A request of a core for work (R133). -/
structure WorkRequest where
  core : Nat
  count : Nat
  deriving DecidableEq, Repr

/-- A sector (R129–R135, R144, R154). -/
structure Sector where
  openSet : List Nat
  waiting : List WorkRequest
  itemsGranted : BitVec 64
  deferrals : BitVec 64
  deadlineMisses : BitVec 64
  switches : Word
  grantsSampled : Nat
  candidateSince : Map Nat
  deriving DecidableEq, Repr

/-- A compartment (R144–R147, R403, R409, R415). GATING is 0 RUN, 1 waking, 2 RETAIN. -/
structure Compartment where
  holder : Option Nat
  yielding : Bool
  assignedAt : Nat
  quantum : Nat
  assignOrder : Nat
  engaged : List Nat
  freeSince : Nat
  gating : Nat
  supply : Nat
  power : Nat
  fenced : Bool
  deriving DecidableEq, Repr

/-- A stand: spare map, fencing, stand memory and its clock island (R18, R189, R400–R416, R426, R444). -/
structure Stand where
  sparePos : Nat
  spareState : Nat
  fencedMask : BitVec 16
  standFenced : Bool
  draining : Bool
  substituting : Option Nat
  mismatches : List Nat
  memoryCe : List Nat
  standCe : Nat
  mem : List Host.Cell
  step : Nat
  pendingStep : Option Nat
  lastChange : Nat
  runSince : Nat
  current : Nat
  temp : Nat
  trip : Bool
  sensorFault : Bool
  currentLimited : Bool
  thermalLimited : Bool
  headroom : Nat
  headroomAt : Option Nat
  fastDropped : Bool
  derate : Nat
  sampleTag : Byte
  deriving DecidableEq, Repr

/-- The resident kernel of a core (R191). -/
structure Kernel where
  ctx : Nat
  id : Nat
  imageLen : Nat
  entry : Nat
  grantN : Nat
  mode : Byte
  seed : Word
  deriving DecidableEq, Repr

/-- A grant a core holds (R134, R135). -/
structure Grant where
  node : Nat
  kernelId : Nat
  first : Nat
  count : Nat
  alt : Bool
  reissue : Bool
  firstInstr : Nat
  deriving DecidableEq, Repr

/-- A rounding stream and the event counts of one item of the grant (R261, R275). -/
structure ItemState where
  item : Nat
  key : Word
  ctr : Word
  sat : Nat
  nans : Nat
  deriving DecidableEq, Repr

/-- A stationary or shadow operand with its checksum values (R195, R196, R201): `colSums` is c, of each group
and row, and `rowSums` is d, of each group and column. -/
structure Operand where
  format : Nat
  elems : List Nat
  scales : List Byte
  colSums : List Num
  rowSums : List Num
  deriving DecidableEq, Repr

/-- A transfer descriptor (R233). -/
structure Descriptor where
  rows : Nat
  cols : Nat
  srcStride : Nat
  dstStride : Nat
  srcFmt : Nat
  dstFmt : Nat
  flags : Byte
  reserved15 : Byte
  srcScale : Int
  dstScale : Int
  srcSStride : Nat
  dstSStride : Nat
  reserved28 : Word
  deriving DecidableEq, Repr

/-- A transfer slot in use (R235). `acks` counts the lines whose write is not yet acknowledged. -/
structure TransferSlot where
  tag : Nat
  op : Byte
  device : Nat
  src : Nat
  dst : Nat
  desc : Descriptor
  round : Nat
  ftz : Bool
  item : Nat
  key : Word
  ctr : Word
  acks : Nat
  instr : Nat
  pc : Nat
  ctx : Nat
  deriving DecidableEq, Repr

/-- An instruction that has been decoded and has not completed (R184, R218–R221). `waitsFor` is a QBAR token's sources. -/
structure QInstr where
  id : Nat
  op : Byte
  f : Fields
  queue : Nat
  pc : Nat
  ecc : Ecc
  started : Bool
  waitsFor : List Nat
  deriving DecidableEq, Repr

/-- What the front end is doing (R185, R192, R218, R246). A core that waits for a grant and holds one has been granted
items whose grant word is on its way; one that is draining is in its dispatch loop and has not yet asked for work. -/
inductive Front where
  | decoding
  | held (i : QInstr)
  | draining
  | waitingGrant
  | kernelLoad
  | paramRead
  deriving DecidableEq, Repr

/-- A logical core (R183–R198, R213, R224–R227, R249). `onesUntil` is the fabric time at which the check of the latest ones row
has resolved. -/
structure Core where
  regs : Vector Word 32
  vregs : Vector (Vector Word 16) 32
  pc : Nat
  dmem : List Host.Cell
  imem : List Byte
  sems : Map Word
  counters : Vector (BitVec 64) 8
  counterLatch : Vector Word 8
  counterReset : Bool
  coincident : Byte
  kernel : Option Kernel
  grant : Option Grant
  prevNode : Option Nat
  ftz : Bool
  round : Nat
  flushed : Bool
  nanseen : Bool
  isat : Bool
  flushedEvents : Byte
  nanseenEvents : Byte
  isatEvents : Byte
  timeHi : Word
  items : List ItemState
  stationary : Option Operand
  shadow : Option Operand
  loaderBusy : Bool
  onesUntil : Nat
  lastRows : List (Nat × Nat × List Byte)
  slots : Map TransferSlot
  inflight : List QInstr
  nextId : Nat
  front : Front
  resume : Nat
  askCount : Nat
  dispatchLoop : Bool
  exc : Byte
  excPc : Nat
  excQueue : Nat
  excAddress : BitVec 64
  probing : Bool
  recalling : Option Nat
  reports : List Nat
  deriving DecidableEq, Repr

/-- An operation on a semaphore (R349). -/
inductive SemOp where
  | signal (n : Nat)
  | take (n : Nat)
  | waitge (n : Nat)
  | read
  | init (value : Nat) (mono : Bool)
  deriving DecidableEq, Repr

/-- An operation on its way to a semaphore (R352, R363, R364). `kind` is that of R169: 0 SIGNAL or WAIT command, 1 completion
signal, 2 instruction, 3 applied for a remote device. `watchdog` is WAIT_WATCHDOG as it was when a wait of a core started (R360,
R373). -/
structure SemMsg where
  sem : SemId
  source : SemSource
  queue : Nat
  instr : Nat
  node : Option Nat
  kind : Nat
  ctx : Nat
  resetCount : Nat
  watchdog : Nat
  op : SemOp
  deriving DecidableEq, Repr

/-- A waiter on a semaphore (R353, R359). -/
structure Waiter where
  sem : SemId
  core : Option Nat
  queue : Nat
  instr : Nat
  node : Option Nat
  ctx : Nat
  resetCount : Nat
  watchdog : Nat
  amount : Nat
  take : Bool
  deriving DecidableEq, Repr

/-- A release or an answer on its way to a core (R357, R358), with the context and reset count of its operation (R363, R364). -/
structure Release where
  core : Nat
  queue : Nat
  instr : Nat
  value : Word
  sem : SemId
  ctx : Nat
  resetCount : Nat
  returns : Nat
  deriving DecidableEq, Repr

/-- A shared semaphore (R347, R366, R375). -/
structure SharedSem where
  word : Word
  bound : Bool
  owner : BitVec 16
  guests : List (BitVec 16)
  deriving DecidableEq, Repr

/-- The semaphore fabric (R347–R375). -/
structure Fabric where
  shared : Map SharedSem
  msgs : List SemMsg
  waiters : List Waiter
  releases : List Release
  stale : BitVec 64
  fencedOps : BitVec 64
  returns : BitVec 64
  watchdogFires : BitVec 64
  abandoned : BitVec 64
  remoteRefused : BitVec 64
  remoteDuplicates : BitVec 64
  overflows : BitVec 64
  deriving DecidableEq, Repr

/-- An exchange port (R378, R398, R429, R507). -/
structure XPort where
  enable : Bool
  speed : Nat
  linkUp : Bool
  failed : Bool
  tx : BitVec 64
  rx : BitVec 64
  crcErrors : BitVec 64
  badPackets : BitVec 64
  txDelay : Nat
  rxDelay : Nat
  lanesFailed0 : List Nat
  lanesFailed1 : List Nat
  deriving DecidableEq, Repr

/-- A DATA packet sent and not yet acknowledged (R385, R386). -/
structure TxPacket where
  psn : Nat
  last : Bool
  segment : List Byte
  plane : Nat
  sentAt : Nat
  firstSentAt : Nat
  retries : Nat
  deriving DecidableEq, Repr

/-- A flow (R379–R387, R399). State 0 CLOSED, 1 OPENING, 2 OPEN. -/
structure Flow where
  ctx : Nat
  peer : Nat
  peerCtx : Nat
  planes : Byte
  state : Nat
  reason : Nat
  remote : Nat
  peerInc : Word
  retransmits : Word
  messages : BitVec 64
  nextPsn : Nat
  unacked : List TxPacket
  unsent : List (Bool × List Byte)
  lastPlane : Nat
  expected : Nat
  rxBuffer : Map (Bool × List Byte)
  rxMessage : List Byte
  inbox : List (List Byte)
  ackOwed : Nat
  ackSince : Nat
  gapSince : Option Nat
  openSentAt : Nat
  deriving DecidableEq, Repr

/-- A mark set (R390): marks of the 8 rings for kinds 0 and 1, at 2 ring + kind. -/
structure MarkSet where
  ctx : Nat
  peer : Nat
  peerCtx : Nat
  marks : List Nat
  deriving DecidableEq, Repr

/-- A peer's counters (R391). -/
structure Peer where
  incarnation : Word
  rtt : Nat
  retransmits : BitVec 64
  signalsApplied : BitVec 64
  deriving DecidableEq, Repr

/-- A remote signal of kind 0 or 1 not yet acknowledged (R169, R381). `peerCtx` is the peer context of the flow on which it was first
sent. -/
structure RemoteSignal where
  ring : Nat
  kind : Nat
  seq : Nat
  node : Nat
  device : Nat
  target : BitVec 64
  amount : Nat
  sent : Bool
  peerCtx : Option Nat
  deriving DecidableEq, Repr

/-- An exchange of R393 in progress. -/
structure TimeExchange where
  number : Nat
  port : Nat
  t1 : Int
  t2 : Int
  t3 : Int
  step : Nat
  deriving DecidableEq, Repr

/-- Fabric time (R392–R396, R511). State 0 FREE_RUN, 1 ACQUIRING, 2 LOCKED, 3 HOLDOVER. -/
structure Clock where
  now : Nat
  slewAcc : Nat
  slew : Int
  source : Nat
  interval : Nat
  maxSlew : Nat
  state : Nat
  lostSync : Bool
  lostSyncEvents : Byte
  offset : Int
  pathDelay : Nat
  steps : Word
  stepped : Bool
  good : Nat
  missed : Nat
  delays : List Nat
  exchange : Option TimeExchange
  nextExchange : Nat
  lastPps : Option (Nat × Nat)
  deriving DecidableEq, Repr

/-- Eclahild and the exchange ports (R376–R399). -/
structure Eclahild where
  ports : Map XPort
  flows : Map Flow
  marks : List MarkSet
  peers : Map Peer
  incarnation : Word
  unmatchedOpens : BitVec 64
  signals : List RemoteSignal
  deriving DecidableEq, Repr

/-- A line of a cold table's cache (R302). -/
structure CacheLine where
  row : Nat
  line : Nat
  order : Nat
  deriving DecidableEq, Repr

/-- A table (R293). STATE 1 OPEN, 2 DRAINING, 3 RESTORING. -/
structure Table where
  owner : Nat
  format : Nat
  flags : Byte
  elems : Nat
  base : Nat
  rows : Nat
  stride : Nat
  state : Nat
  epoch : Nat
  bitmap0 : Nat
  bitmap1 : Nat
  backing : BitVec 64
  cacheRows : Nat
  invalidIds : BitVec 64
  badBags : BitVec 64
  satEvents : Word
  nanEvents : Word
  coldMisses : BitVec 64
  cache : List CacheLine
  fills : List Nat
  fillOrder : Nat
  deriving DecidableEq, Repr

/-- A GATHER in the units (R289). Of a COLD table, `rows` holds the rows read so far and `waitingRows` those not yet fetched
(R303). -/
structure Gather where
  node : Nat
  table : Nat
  epoch : Nat
  port : Nat
  waitingRows : List Nat
  rows : List (Nat × List Byte)
  deriving DecidableEq, Repr

/-- A cached translation (R306): of `size` bytes from `iova`. -/
structure Translation where
  pasid : Option Nat
  iova : Nat
  pageLog2 : Nat
  addr : Nat
  read : Bool
  write : Bool
  deriving DecidableEq, Repr

/-- An outstanding translation request (R501). `purpose` is 0 for a ring, with the ring in `who`, 1 for a pinned region of
context `who`, 2 for the Tally of context `who`, 3 for the firmware fetch, 4 for a record of ring `who`, 5 for the command
of node `who`. `target` is the address of the access that needs it. -/
structure XltRequest where
  tag : Nat
  pasid : Option Nat
  ctx : Nat
  iova : Nat
  write : Bool
  purpose : Nat
  who : Nat
  target : Nat
  deriving DecidableEq, Repr

/-- A requester of a fault record (R307), as in `XltRequest`; `write` is its own need, whatever the record asked for. -/
structure Requester where
  purpose : Nat
  who : Nat
  target : Nat
  write : Bool
  deriving DecidableEq, Repr

/-- A page fault record (R307, R308). -/
structure FaultRecord where
  page : Nat
  pasid : Option Nat
  ctx : Nat
  write : Bool
  invalidated : Bool
  state : Nat
  requesters : List Requester
  count : Nat
  first : Nat
  deriving DecidableEq, Repr

/-- A memory port's counters and lane errors (R295, R430, R505). -/
structure MemPort where
  corrected : BitVec 64
  uncorrectable : BitVec 64
  writebacks : BitVec 64
  writebacksDropped : BitVec 64
  laneErrors : List (Nat × Nat × Nat)
  lanesFailed : List (Nat × Nat)
  remap : Option (Nat × Nat)
  remapWaiting : List (Nat × Nat)
  deriving DecidableEq, Repr

/-- Bytes that a command of a node wrote without covering their 64-byte block: the sub-port has yet to read, merge and write the block
(R282). `old` is what they replaced; `bit` is a selector bit that is set only with them: its byte's address, its number and its old
value (R296). -/
structure PartialWrite where
  node : Nat
  addr : Nat
  old : List Byte
  new : List Byte
  bit : Option (Nat × Nat × Bool)
  deriving DecidableEq, Repr

/-- An invalidation that waits for the accesses that use a translation it dropped (R306): cold fills, by table and row, and
transfers, by core and instruction. -/
structure InvWait where
  itag : Nat
  fills : List (Nat × Nat)
  slots : List (Nat × Nat)
  deriving DecidableEq, Repr

/-- Device memory, tables and translation (R280–R309). `xltWaiting` holds the requests that found all 512 tags outstanding, without
their tags. -/
structure Memory where
  dev : List Host.Cell
  ports : Map MemPort
  tables : Map Table
  regions : Map (List Region)
  gathers : List Gather
  xlat : List Translation
  pinned : List Translation
  requests : List XltRequest
  nextTag : Nat
  records : Map FaultRecord
  pageRequests : BitVec 64
  readData : List Byte
  pageWaiters : List XltRequest
  xltWaiting : List XltRequest
  partials : List PartialWrite
  invWaiting : List InvWait
  deriving DecidableEq, Repr

/-- The routing of one token (R315–R317). The masks have a bit per rank; `capDropped` holds the ranks that capacity dropped. -/
structure TokenRoute where
  k : Nat
  nan : Bool
  picks : List Nat
  scores : List Word
  capDropped : Nat
  dropped : Nat
  missing : Nat
  answered : Nat
  deriving DecidableEq, Repr

/-- A destination of a ROUTE that has received one of its deliveries (R322, R332). -/
structure Destination where
  device : Nat
  half : Nat
  flow : Option Nat
  deriving DecidableEq, Repr

/-- A delivery of a half-batch to one destination (R321, R322); an entry is a slot, a rank and a local expert. -/
structure RouteDelivery where
  device : Nat
  half : Nat
  flow : Option Nat
  hb : Nat
  sent : Bool
  entries : List (Nat × Nat × Nat)
  deriving DecidableEq, Repr

/-- A ROUTE in the engine (R310–R325). -/
structure Route where
  node : Nat
  ctx : Nat
  half : Nat
  layer : Nat
  generation : Nat
  tokens : List TokenRoute
  deliveries : List RouteDelivery
  demand : Map Nat
  deriving DecidableEq, Repr

/-- A quarantined generation (R332). -/
structure Quarantine where
  half : Nat
  generation : Nat
  owed : List Destination
  deriving DecidableEq, Repr

/-- A routing layer (R312, R337, R338, R344). -/
structure Layer where
  bytes : List Byte
  steps : BitVec 64
  tokens : BitVec 64
  assignments : BitVec 64
  dropped : BitVec 64
  skipped : BitVec 64
  nanScores : BitVec 64
  cancelled : Word
  failedAnswers : BitVec 64
  missingRanks : BitVec 64
  imbalanced : Word
  biasUpdates : Word
  window : Map Nat
  windowSteps : Nat
  ended : List (Map Nat)
  streak : Nat
  locked : Bool
  deriving DecidableEq, Repr

/-- The configuration and counters of a routing engine (R345). -/
structure Engine where
  workspace : Nat
  expertTable : Nat
  expertCount : Nat
  poolBase : Nat
  poolSize : Nat
  lateAnswers : BitVec 64
  poolRefused : BitVec 64
  coldBase : Nat
  coldSlotBytes : Nat
  coldSlots : Nat
  coldFetches : BitVec 64
  deriving DecidableEq, Repr

/-- An expert portion in the receive pool (R327, R328). `refused` is the answer status of a portion that holds no room: 1
SKIPPED, 2 FAILED; 0 for one that does. -/
structure Portion where
  half : Nat
  ctx : Nat
  flow : Option Nat
  origin : Nat
  originHalf : Nat
  generation : Nat
  hb : Nat
  deadline : Nat
  loc : Nat
  count : Nat
  tokenBytes : Nat
  resultBytes : Nat
  base : Nat
  size : Nat
  tags : List (BitVec 64)
  launch : Option (Nat × Nat)
  coldSlot : Option Nat
  cancelled : Bool
  refused : Nat
  deriving DecidableEq, Repr

/-- A delivery waiting for pool room (R327). -/
structure WaitingDelivery where
  ctx : Nat
  flow : Option Nat
  half : Nat
  origin : Nat
  hdr : RouteHdr
  tokenBytes : Nat
  resultBytes : Nat
  entries : List (Nat × Nat)
  deriving DecidableEq, Repr

/-- A slot of the cold cache (R329). -/
structure ColdSlot where
  half : Nat
  index : Nat
  loc : Nat
  ring : Nat
  copySeq : Nat
  copyPending : Bool
  lastUse : Nat
  deriving DecidableEq, Repr

/-- A routing message for a half of the origin device itself (R322). -/
structure LocalMessage where
  half : Nat
  ctx : Nat
  bytes : List Byte
  deriving DecidableEq, Repr

/-- Expert routing (R310–R346). -/
structure Experts where
  layers : Map Layer
  engines : Map Engine
  routes : List Route
  quarantines : List Quarantine
  portions : List Portion
  waiting : List WaitingDelivery
  coldSlots : List ColdSlot
  localMsgs : List LocalMessage
  deriving DecidableEq, Repr

/-- An entry of the repair table (R439). -/
structure RepairEntry where
  kind : Nat
  flags : Nat
  a : Nat
  b : Nat
  time : Nat
  deriving DecidableEq, Repr

/-- A record of the fault log (R442). -/
structure LogRecord where
  time : Nat
  cls : Nat
  action : Nat
  location : Nat
  address : Nat
  ring : Nat
  cause : Nat
  seqLo : Nat
  deriving DecidableEq, Repr

/-- A recall in progress (R423): its task, the cores that still owe an acknowledgement, and what follows. -/
structure Recall where
  node : Nat
  cores : List Nat
  retry : Bool
  deriving DecidableEq, Repr

/-- The block fault flags. -/
inductive BlockFlag where
  | repair | fence | spare | degraded
  deriving DecidableEq, Repr

/-- Faults, fencing and repair (R419–R444). `resetCores` are the cores whose grants the context reset in progress recalls, and
`unfences` the UNFENCE writes that wait for its end, with the outcome of their self-tests (R530). -/
structure Faults where
  repair : Bool
  fence : Bool
  spare : Bool
  degraded : Bool
  repairEvents : Byte
  fenceEvents : Byte
  spareEvents : Byte
  degradedEvents : Byte
  maskBits : Byte
  logNext : Nat
  log : List LogRecord
  coresFenced : BitVec 64
  sparesUsed : BitVec 64
  rowsRepaired : BitVec 64
  lanesSpared : BitVec 64
  takeovers : BitVec 64
  memoryCe : BitVec 64
  queueCe : BitVec 64
  mismatches : BitVec 64
  generation : Word
  entries : List RepairEntry
  recalls : List Recall
  rowErrors : List (Nat × Nat × List Nat)
  sparesRows : Map Nat
  meridianFailed0 : List Nat
  meridianFailed1 : List Nat
  meridianSpares0 : Nat
  meridianSpares1 : Nat
  meridianSuspect0 : List Nat
  meridianSuspect1 : List Nat
  meridianNarrow0 : Bool
  meridianNarrow1 : Bool
  meridianDown : Bool
  controlFailed : List Nat
  spareTaken0 : Bool
  spareTaken1 : Bool
  unitsFenced : List (Nat × Nat)
  mismatchQueue : List (Nat × Nat × Nat)
  resetCores : List Nat
  unfences : List (Nat × Bool)
  deriving DecidableEq, Repr

/-- An event of an event ring (R486). -/
structure Event where
  time : Nat
  code : Nat
  arg : Nat
  data : Nat
  deriving DecidableEq, Repr

/-- The trace stream, counters, event rings and debug module (R464–R490). `fifo` holds the records accepted and not yet sent, with
their half, or 2 for one of the merge point. A half drains for a halted hart since `suspended0` or `suspended1`. -/
structure Debug where
  gcSelect : List Word
  gcValues : List (BitVec 64)
  gcFreeze : Bool
  traceEnable : Bool
  sink : Nat
  traceMode : Nat
  bufferBase : BitVec 64
  bufferSize : BitVec 64
  triggerSelect : Byte
  triggerMarkId : Word
  triggerPost : Nat
  traceState : Nat
  wrapped : Bool
  loss : Bool
  lossEvents : Byte
  writeIndex : Nat
  triggerIndex : Nat
  lost : BitVec 64
  sampleControl : Word
  sampleComps : BitVec 64
  fifo : List (Nat × List Byte)
  traceBlock : List (List Byte)
  lost0 : Nat
  lost1 : Nat
  lossAt0 : Nat
  lossAt1 : Nat
  armed : Bool
  windowLeft : Nat
  traceReady : Bool
  events : Map (List Event)
  ringSelect : Word
  eventFreeze : Bool
  freezeOn : Byte
  dmi : BitVec 64
  dbgBusy : Bool
  dbgDone : Bool
  dbgDoneEvents : Byte
  dbgResult : Nat
  dbgData : Word
  dmactive : Bool
  hartsel : Nat
  halted : List Nat
  haltMode : Nat
  drained : List Nat
  suspended0 : Option Nat
  suspended1 : Option Nat
  tapIr : Nat
  deriving DecidableEq, Repr

/-- A walk of a node's successors that waits for a SCHED credit (R119, R138): the half it runs in, the status of its node and the
successors it has still to reach. -/
structure Walk where
  half : Nat
  status : Nat
  edges : List Edge
  deriving DecidableEq, Repr

/-- The graph and the commands' scheduling (R111–R147); `sched0` and `sched1` hold the notifications on their way to a half,
with the predecessor's status, and `walks` the walks that wait for a credit; `resetFabric`: step 4 of R527 is still to run. -/
structure Dvorsor where
  nodes : Map Node
  sectors : Map Sector
  comps : Map Compartment
  sched0 : List (Edge × Nat)
  sched1 : List (Edge × Nat)
  walks : List Walk
  crossSent0 : BitVec 64
  crossSent1 : BitVec 64
  paramBase0 : Nat
  paramBase1 : Nat
  nextOrder : Nat
  resetting : Option Nat
  resetFabric : Bool
  deriving DecidableEq, Repr

/-- Power telemetry (R414). `hottest` is the highest stand temperature since the last refresh. -/
structure Power where
  now : Nat
  peak : Nat
  energy : BitVec 64
  tempMax : Nat
  trips : BitVec 64
  fastDrops : BitVec 64
  stepChanges : BitVec 64
  hottest : Nat
  deriving DecidableEq, Repr

/-- The state of the block. -/
structure State where
  straps : Straps
  fuses : Fuses
  boot : Boot
  cat : Catalogue
  set : Settings
  ctxs : Map Context
  rings : Map Ring
  dv : Dvorsor
  stands : Map Stand
  cores : Map Core
  fab : Fabric
  ecl : Eclahild
  clock : Clock
  mem : Memory
  exp : Experts
  flt : Faults
  dbg : Debug
  pwr : Power
  outputs : List Output
  freeCtr : Nat
  pending : List Instr
  deriving DecidableEq, Repr

/-! ### Reset values (R521 and the field maps; log 1, 2, 4, 8 name those the manual does not give) -/

def Straps.reset : Straps :=
  ⟨0, 0, List.replicate 12 64, List.replicate 8 2, 0, 0, 0⟩

/-- The nominal supplies of R400, which a compartment without fuse data of its own has. -/
def nominalSupply : List Nat := [680, 630, 590, 550, 520]

def Fuses.reset : Fuses :=
  ⟨List.replicate 16 0, List.replicate 16 0, 0, [], [], [], 100, 110, List.replicate 48 0, 0, 0⟩

def Boot.reset : Boot where
  stage := 0
  haltReason := 0
  coresFailed := 0
  linkTrained := false
  entropyOk := false
  selfTested := false
  findings := []
  rowFindings := []
  ready := false
  pwrOk0 := true
  pwrOk1 := true
  blockFault := false
  portFaults := []
  fwAddr := 0
  fwLen := 0
  fwLoad := false
  fwState := 0
  fwReason := 0
  fwDone := false
  fwDoneEvents := 0
  loadsRefused := 0
  fwVersion := 0
  fwDigest := []
  fwLoadTime := 0
  fwEntry := 0
  controlCores := []
  randomDraws := 0

def Window.reset : Window := ⟨0, 0, false, false, 0, 0, 0, 0, 0, [], none⟩

def Catalogue.reset : Catalogue where
  priv := Window.reset
  windows := []
  ctxGen := []
  slotGen := []
  peerGen := []
  answer := 0
  waiting := []
  capEnable := true
  udpPort := 47140
  address := List.replicate 16 0
  idleTimeout := 60000
  authFailures := 0
  discarded := 0
  retransmits := 0
  sessions := []
  usedIds := []
  keys := []

def Settings.reset : Settings where
  deviceId := 0
  refHoldLimit := 50000
  taskLimit := 1000
  tickNs := 64
  quantum := 2000
  slackThreshold := List.replicate 8 200
  deferLimit := List.replicate 8 500
  energyAware := 0xFC
  energyNeed := [0, 48, 96, 160]
  traceControl := 0
  waitWatchdog := 50000
  scrubHours := 24
  ceilingDerate := 100
  faultVector := 0xFFFF
  probePeriod := 50
  ceRowLimit := 4
  ceWindow := 3600
  reissueLimit := 8
  exclusiveRegions := false
  traceOpenAllowed := false
  debugLock := 0
  etherType := 0x88B5
  macPrefix := [0x02, 0x4E, 0x58]
  rto := 20
  maxRetries := 8

/-- A context right after its creation (R76, R155, R156, R170, R468). -/
def Context.reset : Context where
  pasid := 0
  shapeBase := 0
  shapeSize := 0
  kernelTable := 0
  kernelCount := 0
  nodeQuota := 4096
  edgeQuota := 32768
  compMin := 0
  compMax := 0x2020
  deadStall := false
  deadStallEvents := 0
  deadlineMisses := 0
  resetCount := 0
  tallyBase := 0
  epochNext := 1
  epochConsumed := 0
  tallyBlocked := none
  tallyHostError := false
  signalsDropped := 0
  droppedShown := 0
  coreEvents := List.replicate 8 0

/-- A ring that has not been configured (R77, R82, R160, R164, R342). -/
def Ring.reset : Ring where
  ctx := 0
  enabled := false
  draining := false
  stall := 0
  stallOrder := 0
  fault := none
  keptFaults := []
  capture := none
  aborting := false
  mode := 0
  sizeLog2 := 6
  buffers := []
  nextSeq := 1
  fetch := 1
  tail := 1
  reread := false
  fetched := []
  held := none
  skipping := none
  overrun := false
  overrunEvents := 0
  complBase := 0
  complSizeLog2 := 6
  vectors := 0xFFFFFFFF
  moderation := 1
  complSignal := 0
  completedThrough := 0
  entryOwed := false
  handedThrough := 0
  blocked := false
  backlog := []
  blockedAt := 0
  irqFault := false
  irqNotify := false
  lastFault := 0
  faultEvents := 0
  notifyEvents := 0
  maskFault := false
  maskNotify := false
  pendingNotes := 0
  firstNoteAt := 0
  mailbox := 0
  stepSeq := 0
  stepCookie := 0
  stepFlag := false
  stepEvents := 0
  stepId := 0
  faultsHandled := 0

def Sector.reset : Sector := ⟨[], [], 0, 0, 0, 0, 0, []⟩

def Compartment.reset : Compartment := ⟨none, false, 0, 0, 0, [], 0, 0, 0, 0, false⟩

def Stand.reset : Stand where
  sparePos := 16
  spareState := 0
  fencedMask := 0
  standFenced := false
  draining := false
  substituting := none
  mismatches := List.replicate 16 0
  memoryCe := List.replicate 16 0
  standCe := 0
  mem := []
  step := 4
  pendingStep := none
  lastChange := 0
  runSince := 0
  current := 0
  temp := 0
  trip := false
  sensorFault := false
  currentLimited := false
  thermalLimited := false
  headroom := 0
  headroomAt := none
  fastDropped := false
  derate := 100
  sampleTag := 0

/-- A core after a core reset (R449, R529), in its dispatch loop. -/
def Core.reset : Core where
  regs := Vector.replicate 32 0
  vregs := Vector.replicate 32 (Vector.replicate 16 0)
  pc := 0
  dmem := []
  imem := []
  sems := []
  counters := Vector.replicate 8 0
  counterLatch := Vector.replicate 8 0
  counterReset := false
  coincident := 0
  kernel := none
  grant := none
  prevNode := none
  ftz := false
  round := 0
  flushed := false
  nanseen := false
  isat := false
  flushedEvents := 0
  nanseenEvents := 0
  isatEvents := 0
  timeHi := 0
  items := []
  stationary := none
  shadow := none
  loaderBusy := false
  onesUntil := 0
  lastRows := []
  slots := []
  inflight := []
  nextId := 0
  front := .waitingGrant
  resume := 0
  askCount := 1
  dispatchLoop := true
  exc := 0
  excPc := 0
  excQueue := 0
  excAddress := 0
  probing := false
  recalling := none
  reports := []

def SharedSem.reset : SharedSem := ⟨0, false, 0, [0, 0, 0]⟩

def Fabric.reset : Fabric := ⟨[], [], [], [], 0, 0, 0, 0, 0, 0, 0, 0⟩

def XPort.reset : XPort := ⟨false, 2, false, false, 0, 0, 0, 0, 0, 0, [], []⟩

def Clock.reset : Clock where
  now := 0
  slewAcc := 0
  slew := 0
  source := 0xFFFF
  interval := 1000
  maxSlew := 100
  state := 0
  lostSync := false
  lostSyncEvents := 0
  offset := 0
  pathDelay := 0
  steps := 0
  stepped := false
  good := 0
  missed := 0
  delays := []
  exchange := none
  nextExchange := 1
  lastPps := none

def Peer.reset : Peer := ⟨0, 0, 0, 0⟩

def Eclahild.reset : Eclahild := ⟨[], [], [], [], 0, 0, []⟩

def MemPort.reset : MemPort := ⟨0, 0, 0, 0, [], [], none, []⟩

def Memory.reset : Memory := ⟨[], [], [], [], [], [], [], [], 0, [], 0, [], [], [], [], []⟩

def Layer.reset : Layer :=
  ⟨List.replicate 64 0, 0, 0, 0, 0, 0, 0, 0, 0, 0, 0, 0, [], 0, [], 0, false⟩

def Engine.reset : Engine := ⟨0, 0, 0, 0, 0, 0, 0, 0, 0, 0, 0⟩

def Experts.reset : Experts := ⟨[], [], [], [], [], [], [], []⟩

def Faults.reset : Faults where
  repair := false
  fence := false
  spare := false
  degraded := false
  repairEvents := 0
  fenceEvents := 0
  spareEvents := 0
  degradedEvents := 0
  maskBits := 0
  logNext := 0
  log := []
  coresFenced := 0
  sparesUsed := 0
  rowsRepaired := 0
  lanesSpared := 0
  takeovers := 0
  memoryCe := 0
  queueCe := 0
  mismatches := 0
  generation := 0
  entries := []
  recalls := []
  rowErrors := []
  sparesRows := []
  meridianFailed0 := []
  meridianFailed1 := []
  meridianSpares0 := 0
  meridianSpares1 := 0
  meridianSuspect0 := []
  meridianSuspect1 := []
  meridianNarrow0 := false
  meridianNarrow1 := false
  meridianDown := false
  controlFailed := []
  spareTaken0 := false
  spareTaken1 := false
  unitsFenced := []
  mismatchQueue := []
  resetCores := []
  unfences := []

def Debug.reset : Debug where
  gcSelect := List.replicate 256 0
  gcValues := List.replicate 256 0
  gcFreeze := false
  traceEnable := false
  sink := 0
  traceMode := 0
  bufferBase := 0
  bufferSize := 0
  triggerSelect := 0
  triggerMarkId := 0
  triggerPost := 1024
  traceState := 0
  wrapped := false
  loss := false
  lossEvents := 0
  writeIndex := 0
  triggerIndex := 0
  lost := 0
  sampleControl := 0
  sampleComps := 0
  fifo := []
  traceBlock := []
  lost0 := 0
  lost1 := 0
  lossAt0 := 0
  lossAt1 := 0
  armed := false
  windowLeft := 0
  traceReady := true
  events := []
  ringSelect := 0
  eventFreeze := false
  freezeOn := 0
  dmi := 0
  dbgBusy := false
  dbgDone := false
  dbgDoneEvents := 0
  dbgResult := 0
  dbgData := 0
  dmactive := false
  hartsel := 0
  halted := []
  haltMode := 0
  drained := []
  suspended0 := none
  suspended1 := none
  tapIr := 0

def Power.reset : Power := ⟨0, 0, 0, 0, 0, 0, 0, 0⟩

def Dvorsor.reset : Dvorsor := ⟨[], [], [], [], [], [], 0, 0, 0, 0, 0, none, false⟩

/-- The block while its reset is asserted: every item as R521 leaves it. -/
def State.reset : State where
  straps := Straps.reset
  fuses := Fuses.reset
  boot := Boot.reset
  cat := Catalogue.reset
  set := Settings.reset
  ctxs := []
  rings := []
  dv := Dvorsor.reset
  stands := []
  cores := []
  fab := Fabric.reset
  ecl := Eclahild.reset
  clock := Clock.reset
  mem := Memory.reset
  exp := Experts.reset
  flt := Faults.reset
  dbg := Debug.reset
  pwr := Power.reset
  outputs := []
  freeCtr := 0
  pending := []

end Sys2Proof.Machine
end

