-- ==== Sys2Proof/Machine/Maps.lean ====
section
/-! DEFINITION. The operations on sparse maps and on byte memories in canonical form. -/
namespace Sys2Proof.Machine

/-- The entry of a key. -/
def Map.look {α : Type} : Map α → Nat → Option α
  | [], _ => none
  | (k, v) :: m, a => if a = k then some v else Map.look m a

/-- The entry of a key, or the default. -/
def Map.at {α : Type} (m : Map α) (d : α) (a : Nat) : α :=
  (Map.look m a).getD d

/-- The map with one entry written; keys stay rising. -/
def Map.put {α : Type} : Map α → Nat → α → Map α
  | [], a, x => [(a, x)]
  | (k, v) :: m, a, x =>
    if a < k then (a, x) :: (k, v) :: m
    else if a = k then (a, x) :: m
    else (k, v) :: Map.put m a x

/-- The map without an entry. -/
def Map.del {α : Type} : Map α → Nat → Map α
  | [], _ => []
  | (k, v) :: m, a => if a = k then Map.del m a else (k, v) :: Map.del m a

/-- Every value of the map changed by a function of key and value. -/
def Map.each {α β : Type} (m : Map α) (f : Nat → α → β) : Map β :=
  m.map fun p => (p.1, f p.1 p.2)

/-- The byte at an address: 0 where nothing is listed (DESIGN CHOICE, log 1). -/
def Cells.read : List Host.Cell → Nat → Byte
  | [], _ => 0
  | (b, w) :: m, a => if a = b then w else Cells.read m a

/-- The memory with one byte written, in canonical form. -/
def Cells.write : List Host.Cell → Nat → Byte → List Host.Cell
  | [], a, v => if v = 0 then [] else [(a, v)]
  | (b, w) :: m, a, v =>
    if a < b then (if v = 0 then (b, w) :: m else (a, v) :: (b, w) :: m)
    else if a = b then (if v = 0 then m else (a, v) :: m)
    else (b, w) :: Cells.write m a v

/-- `n` bytes from an address upward. -/
def Cells.bytes (m : List Host.Cell) (a : Nat) : Nat → List Byte
  | 0 => []
  | n + 1 => Cells.read m a :: Cells.bytes m (a + 1) n

/-- The memory with bytes written from an address upward. -/
def Cells.store : List Host.Cell → Nat → List Byte → List Host.Cell
  | m, _, [] => m
  | m, a, v :: vs => Cells.store (Cells.write m a v) (a + 1) vs

/-- The canonical form: addresses strictly rising and no listed zero. -/
def Cells.wf : List Host.Cell → Bool
  | [] => true
  | [(_, v)] => v != 0
  | (a, v) :: (b, w) :: m => v != 0 && decide (a < b) && Cells.wf ((b, w) :: m)

/-- The canonical form of device memory. -/
abbrev Memory.wf (m : Memory) : Bool := Cells.wf m.dev

end Sys2Proof.Machine
end

