-- ==== Sys2Proof/Machine/Bits.lean ====
section
/-! DEFINITION. Bytes, words and the cyclic codes (R8, R383, R478). -/
namespace Sys2Proof.Machine

/-- Bits [lo + n - 1 : lo] of a number. -/
def bits (v lo n : Nat) : Nat := (v >>> lo) % 2 ^ n

/-- A bit of a number. -/
def bit (v i : Nat) : Bool := bits v i 1 = 1

/-- A Bool as a number. -/
def b2n (b : Bool) : Nat := if b then 1 else 0

/-- The little-endian bytes of a number. -/
def leBytes : Nat → Nat → List Byte
  | 0, _ => []
  | n + 1, v => BitVec.ofNat 8 v :: leBytes n (v / 256)

/-- The number of little-endian bytes. -/
def leNat : List Byte → Nat
  | [] => 0
  | b :: bs => b.toNat + 256 * leNat bs

/-- The number of big-endian bytes. -/
def beNat (l : List Byte) : Nat := l.foldl (fun n b => n * 256 + b.toNat) 0

/-- The big-endian bytes of a number. -/
def beBytes (n v : Nat) : List Byte := (leBytes n v).reverse

/-- `n` bytes of a list from an offset, padded with zeros. -/
def slice (l : List Byte) (off n : Nat) : List Byte :=
  let t := (l.drop off).take n
  t ++ List.replicate (n - t.length) 0

/-- A little-endian field of a byte list. -/
def field (l : List Byte) (off n : Nat) : Nat := leNat (slice l off n)

/-- The bytes of a list with a field replaced. -/
def setSlice (l : List Byte) (off : Nat) (v : List Byte) : List Byte :=
  slice l 0 off ++ v ++ l.drop (off + v.length)

/-- A signed reading of the low `n` bits. -/
def signed (n v : Nat) : Int :=
  let u := v % 2 ^ n
  if u < 2 ^ (n - 1) then (u : Int) else (u : Int) - (2 ^ n : Nat)

/-- The low `n` bits of an integer. -/
def wrapInt (n : Nat) (v : Int) : Nat := (v % ((2 ^ n : Nat) : Int)).toNat

/-- The ceiling of a quotient. -/
def ceilDiv (a b : Nat) : Nat := (a + b - 1) / b

/-- One bit step of a reflected cyclic code. -/
def crcBit (poly c : Nat) : Nat := if c % 2 = 1 then (c / 2) ^^^ poly else c / 2

/-- A reflected cyclic code over bytes, from a register value. -/
def crcBytes (poly : Nat) (c : Nat) : List Byte → Nat
  | [] => c
  | b :: bs =>
    let s := crcBit poly
    let x := c ^^^ b.toNat
    crcBytes poly (s (s (s (s (s (s (s (s x)))))))) bs

/-- CRC-32C (R383). -/
def crc32c (l : List Byte) : Word :=
  BitVec.ofNat 32 ((crcBytes 0x82F63B78 0xFFFFFFFF l) ^^^ 0xFFFFFFFF)

/-- CRC-64 of ECMA-182, reflected (R478). -/
def crc64 (l : List Byte) : BitVec 64 :=
  BitVec.ofNat 64 ((crcBytes 0xC96C5795D7870F42 0xFFFFFFFFFFFFFFFF l) ^^^ 0xFFFFFFFFFFFFFFFF)

/-- A U32 as four bytes. -/
def u32 (v : Nat) : List Byte := leBytes 4 v

/-- A U64 as eight bytes. -/
def u64 (v : Nat) : List Byte := leBytes 8 v

/-- A U16 as two bytes. -/
def u16 (v : Nat) : List Byte := leBytes 2 v

/-- A U8 as one byte. -/
def u8 (v : Nat) : List Byte := leBytes 1 v

/-- All bytes of a list are zero. -/
def allZero (l : List Byte) : Bool := l.all (· == 0)

/-- The bytes split into pieces of `n`. -/
def pieces (n : Nat) : Nat → List Byte → List (List Byte)
  | 0, _ => []
  | k + 1, l => if l.isEmpty then [] else l.take n :: pieces n k (l.drop n)

end Sys2Proof.Machine
end

