-- ==== Sys2Proof/Machine/Formats.lean ====
section
/-! DEFINITION. Number formats: codes, exact values, rounding, conversion (R251–R264), and the arithmetic of the vector
unit (R229, R272). -/
namespace Sys2Proof.Machine

/-! ### Formats -/

/-- Bits of an element in memory (R251). -/
def fmtWidth (f : Nat) : Nat :=
  if f = 1 then 32 else if f = 2 ∨ f = 3 then 16 else if f = 7 ∨ f = 8 ∨ f = 9 then 4 else if f = 10 then 2 else 8

/-- The grouped formats I4, F4, F3, T2 (R251). -/
def fmtGrouped (f : Nat) : Bool := decide (7 ≤ f ∧ f ≤ 10)

/-- Exponent width, fraction width and bias of a float format (R252); none for the other kinds. -/
def fmtFloat (f : Nat) : Option (Nat × Nat × Nat) :=
  if f = 1 then some (8, 23, 127)
  else if f = 2 then some (5, 10, 15)
  else if f = 3 then some (8, 7, 127)
  else if f = 4 then some (4, 3, 7)
  else if f = 5 then some (5, 2, 15)
  else if f = 8 then some (2, 1, 1)
  else if f = 9 then some (1, 1, 1)
  else none

/-- Formats with infinities (R252). -/
def fmtHasInf (f : Nat) : Bool := f == 1 || f == 2 || f == 3 || f == 5

/-- Formats that keep the sign of zero (R255). -/
def fmtSignedZero (f : Nat) : Bool := fmtHasInf f

/-- Formats that FTZ governs (R263). -/
def fmtFlushes (f : Nat) : Bool := decide (1 ≤ f ∧ f ≤ 5)

/-- The canonical NaN (R255); formats without NaN write 0 (R262). -/
def fmtNaN (f : Nat) : Nat :=
  if f = 1 then 0x7FC00000 else if f = 2 then 0x7E00 else if f = 3 then 0x7FC0 else if f = 4 then 0x80
  else if f = 5 then 0x7E else if f = 10 then 2 else if f = 11 then 0xFF else 0

/-- Bytes of `n` packed elements (R256). -/
def fmtBytes (f n : Nat) : Nat := ceilDiv (n * fmtWidth f) 8

/-- Element `j` of a packed row (R256). -/
def unpackAt (f : Nat) (row : List Byte) (j : Nat) : Nat :=
  let w := fmtWidth f
  if w < 8 then bits (field row (j * w / 8) 1) (w * (j % (8 / w))) w else field row (j * w / 8) (w / 8)

/-- The first `n` elements of a packed row. -/
def unpack (f n : Nat) (row : List Byte) : List Nat := (List.range n).map (unpackAt f row)

/-- A packed row of element codes (R256). -/
def pack (f : Nat) (codes : List Nat) : List Byte :=
  let w := fmtWidth f
  leBytes (fmtBytes f codes.length) (codes.foldr (fun c acc => acc * 2 ^ w + c % 2 ^ w) 0)

/-! ### Exact values -/

/-- The value of an unscaled element code (R252–R254). -/
def decodeNum (f code : Nat) : Num :=
  match fmtFloat f with
  | some (eb, fb, bias) =>
    let s := bit code (eb + fb)
    let ex := bits code fb eb
    let fr := bits code 0 fb
    if f = 4 ∧ bits code 0 8 = 0x80 then .nan
    else if fmtHasInf f ∧ ex = 2 ^ eb - 1 then (if fr = 0 then .inf s else .nan)
    else if ex = 0 then
      (if fr = 0 then .fin (s && fmtSignedZero f) 0 0 else .fin s fr (1 - (bias : Int) - (fb : Int)))
    else .fin s (2 ^ fb + fr) ((ex : Int) - bias - fb)
  | none =>
    if f = 10 then
      (if bits code 0 2 = 0 then .fin false 0 0 else if bits code 0 2 = 1 then .fin false 1 0
        else if bits code 0 2 = 3 then .fin true 1 0 else .nan)
    else if f = 11 then (if bits code 0 8 = 255 then .nan else .fin false 1 ((bits code 0 8 : Int) - 127))
    else
      let v := signed (fmtWidth f) code
      .fin (decide (v < 0)) v.natAbs 0

/-- The code is a subnormal of a format that FTZ governs. -/
def isSubnormal (f code : Nat) : Bool :=
  match fmtFloat f with
  | some (eb, fb, _) => fmtFlushes f && bits code fb eb == 0 && bits code 0 fb != 0
  | none => false

/-- An element read under FTZ (R263): the value and whether it was flushed. -/
def readNum (f : Nat) (ftz : Bool) (code : Nat) : Num × Bool :=
  if ftz && isSubnormal f code then
    (match decodeNum f code with
      | .fin s _ _ => (.fin s 0 0, true)
      | x => (x, true))
  else (decodeNum f code, false)

/-- A value times 2^k. -/
def Num.scale (k : Int) : Num → Num
  | .fin s m e => .fin s m (if m = 0 then 0 else e + k)
  | x => x

/-- An element under its group's SE8 scale (R254, R257). -/
def Num.withScale (scale : Nat) (x : Num) : Num :=
  if scale = 255 then .nan else x.scale ((scale : Int) - 127)

/-- The finite value as a signed multiple of 2^q, exact when q is at or below its exponent. -/
def Num.fixed (q : Int) : Num → Int
  | .fin s m e => let v : Int := (m <<< (e - q).toNat : Nat); if s then -v else v
  | _ => 0

/-- The value of a signed multiple of 2^q; zero takes the sign given. -/
def Num.ofFixed (zeroNeg : Bool) (q : Int) (v : Int) : Num :=
  if v = 0 then .fin zeroNeg 0 0 else .fin (decide (v < 0)) v.natAbs q

/-- The exponent ⌊log2⌋ of a nonzero magnitude. -/
def magExp (m : Nat) (e : Int) : Int := (Nat.log2 m : Int) + e

/-! ### Rounding (R260) -/

/-- A magnitude m · 2^e as a rounded multiple of 2^q: mode 0 nearest even, 1 toward zero, 2 stochastic with a draw. -/
def roundAt (mode draw : Nat) (m : Nat) (e q : Int) : Nat :=
  if q ≤ e then m <<< (e - q).toNat
  else
    let k := (q - e).toNat
    let t := m >>> k
    let r := m % 2 ^ k
    if mode = 0 then (if 2 * r > 2 ^ k ∨ (2 * r = 2 ^ k ∧ t % 2 = 1) then t + 1 else t)
    else if mode = 2 then (if draw >>> 8 < 2 ^ 24 * r / 2 ^ k then t + 1 else t)
    else t

/-- The exponent of a format's grid at a magnitude: unbounded above, the subnormal grid below (R259 step 4). -/
def gridExp (fb bias : Nat) (m : Nat) (e : Int) : Int :=
  max (magExp m e - fb) (1 - (bias : Int) - fb)

/-- The code without sign of t · 2^q, q on the format's grid, and whether it is above the largest finite value. -/
def encodeMag (f eb fb bias : Nat) (t : Nat) (q : Int) : Nat × Bool :=
  let (t, q) := if t = 2 ^ (fb + 1) then (2 ^ fb, q + 1) else (t, q)
  let top : Nat := if fmtHasInf f then 2 ^ eb - 2 else 2 ^ eb - 1
  if t < 2 ^ fb then (t, false)
  else
    let ex := (q + fb + bias).toNat
    if ex > top then (top * 2 ^ fb + (2 ^ fb - 1), true) else (ex * 2 ^ fb + (t - 2 ^ fb), false)

/-- A nonzero magnitude is below the smallest normal of a format that FTZ governs (R263). -/
def belowNormal (f : Nat) (m : Nat) (e : Int) : Bool :=
  match fmtFloat f with
  | some (_, _, bias) => fmtFlushes f && m != 0 && decide (magExp m e < 1 - (bias : Int))
  | none => false

/-- A sign on a float code; a zero keeps it only in the formats of R255, and F4 and F3 never write −0 (R253). -/
def withSign (f eb fb : Nat) (s : Bool) (c : Nat) : Nat :=
  if s && (c != 0 || fmtSignedZero f) then 2 ^ (eb + fb) + c else c

/-- The range of an integer format (R254); T2 takes −1 to 1. -/
def intRange (f : Nat) : Int × Int :=
  if f = 6 then (-128, 127) else if f = 7 then (-8, 7) else (-1, 1)

/-- The code of an integer in an integer format, saturated (R262). -/
def encodeInt (f : Nat) (v : Int) : Nat × Bool :=
  let (lo, hi) := intRange f
  let w := if v < lo then lo else if v > hi then hi else v
  (wrapInt (fmtWidth f) w, v != w)

/-- Steps 4 to 6 of a conversion (R259–R263), of a value already divided by its destination's scale. -/
def convertNum (f mode draw : Nat) (ftz : Bool) (x : Num) : Conv :=
  match fmtFloat f with
  | some (eb, fb, bias) =>
    (match x with
      | .nan => ⟨fmtNaN f, false, true, false⟩
      | .inf s =>
        if fmtHasInf f then ⟨withSign f eb fb s ((2 ^ eb - 1) * 2 ^ fb), false, false, false⟩
        else ⟨withSign f eb fb s ((2 ^ eb - 1) * 2 ^ fb + (2 ^ fb - 1)), true, false, false⟩
      | .fin s m e =>
        if m = 0 then ⟨withSign f eb fb s 0, false, false, false⟩
        else if ftz && belowNormal f m e then ⟨withSign f eb fb s 0, false, false, true⟩
        else
          let q := gridExp fb bias m e
          let (c, o) := encodeMag f eb fb bias (roundAt mode draw m e q) q
          ⟨withSign f eb fb s c, o, false, false⟩)
  | none =>
    (match x with
      | .nan => ⟨fmtNaN f, false, true, false⟩
      | .inf s => let (lo, hi) := intRange f; ⟨wrapInt (fmtWidth f) (if s then lo else hi), true, false, false⟩
      | .fin s m e =>
        let t : Int := (roundAt mode draw m e 0 : Nat)
        let (c, o) := encodeInt f (if s then -t else t)
        ⟨c, o, false, false⟩)

/-! ### Group scales (R264) -/

/-- MAXF of a grouped format as a multiple of 1/2. -/
def maxFTwice (f : Nat) : Nat := if f = 8 then 12 else if f = 9 then 3 else if f = 7 then 14 else 2

/-- The finite magnitude is at most MAXF · 2^(e − 127). -/
def fitsScale (f : Nat) (code : Nat) : Num → Bool
  | .fin _ m e =>
    let q : Int := (code : Int) - 127 - 1
    -- m · 2^e ≤ maxFTwice · 2^q
    if e ≥ q then decide (m <<< (e - q).toNat ≤ maxFTwice f) else decide (m ≤ (maxFTwice f) <<< (q - e).toNat)
  | _ => true

/-- The scale code chosen for a group of source values (R264). -/
def chooseScale (f : Nat) (xs : List Num) : Nat :=
  if xs.all (fun x => match x with
    | .fin _ m _ => m == 0
    | _ => true) then 127
  else ((List.range 255).find? fun e => xs.all (fitsScale f e)).getD 254

/-! ### Exact arithmetic -/

def Num.neg : Num → Num
  | .nan => .nan
  | .inf s => .inf !s
  | .fin s m e => .fin (!s) m e

def Num.isNaN : Num → Bool
  | .nan => true
  | _ => false

def Num.isZero : Num → Bool
  | .fin _ m _ => m == 0
  | _ => false

/-- The exact product. -/
def Num.mul : Num → Num → Num
  | .nan, _ => .nan
  | _, .nan => .nan
  | .inf s, .inf t => .inf (s != t)
  | .inf s, .fin t m _ => if m = 0 then .nan else .inf (s != t)
  | .fin s m _, .inf t => if m = 0 then .nan else .inf (s != t)
  | .fin s m e, .fin t n d => .fin (s != t) (m * n) (e + d)

/-- The exact sum; an exact zero is +0 unless both are −0 (round to nearest even). -/
def Num.add : Num → Num → Num
  | .nan, _ => .nan
  | _, .nan => .nan
  | .inf s, .inf t => if s = t then .inf s else .nan
  | .inf s, .fin _ _ _ => .inf s
  | .fin _ _ _, .inf t => .inf t
  | .fin s m e, .fin t n d =>
    if m = 0 ∧ n = 0 then .fin (s && t) 0 0
    else if m = 0 then .fin t n d
    else if n = 0 then .fin s m e
    else
      let q := min e d
      Num.ofFixed false q ((Num.fin s m e).fixed q + (Num.fin t n d).fixed q)

/-- The quotient, with a sticky bit below at least 60 bits of it. -/
def Num.div : Num → Num → Num
  | .nan, _ => .nan
  | _, .nan => .nan
  | .inf _, .inf _ => .nan
  | .inf s, .fin t _ _ => .inf (s != t)
  | .fin s _ _, .inf t => .fin (s != t) 0 0
  | .fin s m e, .fin t n d =>
    if n = 0 then (if m = 0 then .nan else .inf (s != t))
    else if m = 0 then .fin (s != t) 0 0
    else
      let k := 60 + Nat.log2 n
      let q := (m <<< k) / n
      let r := (m <<< k) % n
      .fin (s != t) (2 * q + (if r = 0 then 0 else 1)) (e - d - k - 1)

/-- The integer square root by bits, from bit `n − 1` down. -/
def isqrtBits : Nat → Nat → Nat → Nat
  | 0, _, acc => acc
  | n + 1, v, acc =>
    let c := acc + 2 ^ n
    isqrtBits n v (if c * c ≤ v then c else acc)

/-- The integer square root. -/
def isqrt (v : Nat) : Nat := isqrtBits (Nat.log2 v / 2 + 1) v 0

/-- 1/√x of a positive finite value, with a sticky bit. -/
def Num.rsqrt : Num → Num
  | .nan => .nan
  | .inf s => if s then .nan else .fin false 0 0
  | .fin s m e =>
    if m = 0 then .inf s
    else if s then .nan
    else
      -- make the exponent even, then 1/√(m·2^e) = √(2^(2k)/m) · 2^(−k − e/2)
      let (m, e) := if e % 2 = 0 then (m, e) else (2 * m, e - 1)
      let k := 64 + Nat.log2 m
      let q := 2 ^ (2 * k) / m
      .fin false (2 * isqrt q + 1) (-(k : Int) - e / 2 - 1)

/-- 2^(2^−i), as a multiple of 2^−64. -/
def exp2Root : Nat → Nat
  | 0 => 2 ^ 65
  | i + 1 => isqrt (exp2Root i * 2 ^ 64)

/-- 2^(f / 2^48) for a fraction of 48 bits, as a multiple of 2^−64. -/
def exp2Frac (f : Nat) : Nat :=
  (List.range 48).foldl (fun acc i => if bit f (47 - i) then acc * exp2Root (i + 1) / 2 ^ 64 else acc) (2 ^ 64)

/-- 2^x. -/
def Num.exp2 : Num → Num
  | .nan => .nan
  | .inf s => if s then .fin false 0 0 else .inf false
  | .fin s m e =>
    if m = 0 then .fin false 1 0
    else if magExp m e > 10 then (if s then .fin false 1 (-1100) else .fin false 1 1100)
    else
      let v : Int := if e ≥ -48 then (m <<< (e + 48).toNat : Nat) else (m >>> (-48 - e).toNat : Nat)
      let w := if s then -v else v
      .fin false (2 * exp2Frac (w % (2 ^ 48 : Nat)).toNat + 1) (w / (2 ^ 48 : Nat) - 65)

/-! ### The vector unit's floats (R272) -/

/-- A value rounded into F32, F16 or B16: nearest even, overflow to an infinity, FTZ; and whether it was flushed. -/
def ieee (f : Nat) (ftz : Bool) (x : Num) : Nat × Bool :=
  match fmtFloat f with
  | some (eb, fb, _) =>
    let r := convertNum f 0 0 ftz x
    if r.sat then
      (match x with
        | .fin s _ _ => (withSign f eb fb s ((2 ^ eb - 1) * 2 ^ fb), false)
        | _ => (r.code, false))
    else (r.code, r.flushed)
  | none => (0, false)


/-- x ≤ y of two values that are not NaN, −0 below +0 (used by minimum and maximum). -/
def Num.le : Num → Num → Bool
  | .inf s, y => s || y == .inf false
  | .fin _ _ _, .inf t => !t
  | .fin s m e, .fin t n d =>
    let q := min e d
    let a := (Num.fin s m e).fixed q
    let b := (Num.fin t n d).fixed q
    decide (a < b) || (a == b && (m != 0 || s || !t))
  | .nan, _ => false
  | .fin _ _ _, .nan => false

/-- x = y as IEEE compares: both zeros are equal. -/
def Num.eq (x y : Num) : Bool :=
  !x.isNaN && !y.isNaN && ((x.isZero && y.isZero) || (x.le y && y.le x))

/-- x < y as IEEE compares. -/
def Num.lt (x y : Num) : Bool := !x.isNaN && !y.isNaN && x.le y && !x.eq y

/-- The minimum; one NaN returns the other operand (R228). -/
def Num.minimum (x y : Num) : Num := if x.isNaN then y else if y.isNaN then x else if x.le y then x else y

/-- The maximum; one NaN returns the other operand (R228). -/
def Num.maximum (x y : Num) : Num := if x.isNaN then y else if y.isNaN then x else if x.le y then y else x

/-- The magnitude of a difference is at most a bound. -/
def Num.near (bound x y : Num) : Bool :=
  match x.add y.neg with
  | .fin _ m e => (Num.fin false m e).le bound
  | _ => false

/-- The F32 magnitude code lies within `bound` units in the last place of an exact magnitude. -/
def withinUlps (bound : Nat) (x : Num) (m : Nat) (e : Int) (code : Nat) : Bool :=
  (Num.fin false bound (gridExp 23 127 m e)).near (decodeNum 1 code) x

/-- An F32 magnitude code moved by units in the last place: it stays finite, and a move that would leave the accuracy is one
shorter. -/
def moveUlps (bound : Nat) (m : Nat) (e : Int) (c : Nat) (o : Int) : Nat :=
  let clip (k : Int) : Nat := (min (max ((c : Int) + k) 0) 0x7F7FFFFF).toNat
  let k : Int := min (max o (-(bound : Int))) bound
  if withinUlps bound (.fin false m e) m e (clip k) then clip k else clip (if k < 0 then k + 1 else k - 1)

/-- One of the five approximate results (R229): a code within `bound` units in the last place of the exact value. A value that
overflows is an infinity (R272), and a result that FTZ governs is flushed (R263). -/
def ieeeWithin (bound : Nat) (op : Byte) (a b : Nat) (ftz : Bool) (x : Num) : Nat × Bool :=
  let (c, fl) := ieee 1 ftz x
  match x with
  | .fin s m e =>
    if fl || m == 0 || bits c 0 31 == 0x7F800000 then (c, fl)
    else
      let mag := moveUlps bound m e (bits c 0 31) (Config.ulpOffset op (BitVec.ofNat 32 a) (BitVec.ofNat 32 b))
      if ftz && isSubnormal 1 mag then (withSign 1 8 23 s 0, true) else (withSign 1 8 23 s mag, false)
  | _ => (c, fl)

/-- A draw of the rounding generator for a key and a counter (R261). -/
def rngDraw (key ctr : Word) : Word :=
  let z := key ^^^ ctr
  let z := z ^^^ (z >>> 16)
  let z := z * 0x7FEB352D
  let z := z ^^^ (z >>> 15)
  let z := z * 0x846CA68B
  z ^^^ (z >>> 16)

end Sys2Proof.Machine
end

