-- ==== Sys2Proof/Machine/Code.lean ====
section
/-! DEFINITION. The memory code: a systematic Reed–Solomon (72,64) code over GF(2^8) (R283). -/
namespace Sys2Proof.Machine

/-- Multiplication by α in GF(2^8) with 0x11D. -/
def gfDouble (a : Nat) : Nat := if a ≥ 128 then (2 * a) ^^^ 0x11D else 2 * a

/-- Multiplication in GF(2^8), over `n` bits of the second factor. -/
def gfMulN : Nat → Nat → Nat → Nat
  | 0, _, _ => 0
  | n + 1, a, b => (if b % 2 = 1 then a else 0) ^^^ gfMulN n (gfDouble a) (b / 2)

/-- Multiplication in GF(2^8). -/
def gfMul (a b : Nat) : Nat := gfMulN 8 a b

/-- A power in GF(2^8), over `n` bits of the exponent. -/
def gfPow : Nat → Nat → Nat → Nat
  | 0, _, _ => 1
  | n + 1, a, e =>
    let h := gfPow n (gfMul a a) (e / 2)
    if e % 2 = 1 then gfMul a h else h

/-- The inverse in GF(2^8): a^254. -/
def gfInv (a : Nat) : Nat := gfPow 8 a 254

/-- α^i. -/
def gfAlpha (i : Nat) : Nat := gfPow 8 2 (i % 255)

/-- A polynomial, highest coefficient first, at a point. -/
def gfEval (cs : List Nat) (x : Nat) : Nat := cs.foldl (fun acc c => gfMul acc x ^^^ c) 0

/-- The generator (x − α^0) … (x − α^7), highest coefficient first. -/
def rsGenerator : List Nat :=
  (List.range 8).foldl (fun g i =>
    List.zipWith (· ^^^ ·) (g ++ [0]) (0 :: g.map (gfMul (gfAlpha i)))) [1]

/-- The remainder register after one data byte. -/
def rsShift (reg : List Nat) (d : Nat) : List Nat :=
  let q := d ^^^ reg.headD 0
  List.zipWith (· ^^^ ·) (reg.drop 1 ++ [0]) ((rsGenerator.drop 1).map (gfMul q))

/-- The check bytes k_0 … k_7 of 64 data bytes. -/
def rsCheck (data : List Byte) : List Byte :=
  (data.foldl (fun r d => rsShift r d.toNat) (List.replicate 8 0)).map (BitVec.ofNat 8)

/-- The syndromes S_0 … S_7 of the 72 bytes of a codeword, c(x) with byte i at x^(71 − i). -/
def rsSyndromes (word : List Nat) : List Nat := (List.range 8).map fun i => gfEval word (gfAlpha i)

/-- The state of the Berlekamp–Massey recursion: locator, its previous value, its degree, the shift and the last
discrepancy. Polynomials have the lowest coefficient first. -/
def bmStep (syn : List Nat) (st : List Nat × List Nat × Nat × Nat × Nat) (n : Nat) : List Nat × List Nat × Nat × Nat × Nat :=
  let (c, b, l, m, d0) := st
  let d := (List.range (l + 1)).foldl (fun acc i => acc ^^^ gfMul (c.getD i 0) (syn.getD (n - i) 0)) 0
  if d = 0 then (c, b, l, m + 1, d0)
  else
    let k := gfMul d (gfInv d0)
    let sh := List.replicate m 0 ++ b.map (gfMul k)
    let c' := (List.range (Nat.max c.length sh.length)).map fun i => c.getD i 0 ^^^ sh.getD i 0
    if 2 * l ≤ n then (c', c, n + 1 - l, 1, d) else (c', b, l, m + 1, d0)

/-- The error locator and its degree. -/
def rsLocator (syn : List Nat) : List Nat × Nat :=
  let (c, _, l, _, _) := (List.range 8).foldl (bmStep syn) ([1], [1], 0, 1, 1)
  (c, l)

/-- A polynomial, lowest coefficient first, at a point. -/
def gfEvalLow (cs : List Nat) (x : Nat) : Nat := gfEval cs.reverse x

/-- The value of the error at exponent `e` (Forney, first root α^0). -/
def rsErrorValue (syn loc : List Nat) (e : Nat) : Nat :=
  let xi := gfInv (gfAlpha e)
  let omega := (List.range 8).map fun i =>
    (List.range (i + 1)).foldl (fun acc j => acc ^^^ gfMul (loc.getD j 0) (syn.getD (i - j) 0)) 0
  let der := (List.range loc.length).map fun i => if i % 2 = 0 then loc.getD (i + 1) 0 else 0
  gfMul (gfAlpha e) (gfMul (gfEvalLow omega xi) (gfInv (gfEvalLow der xi)))

/-- The outcome of decoding 72 bytes: none is uncorrectable, otherwise the corrected bytes and the positions corrected. -/
def rsDecode (data check : List Byte) : Option (List Byte × List Nat) :=
  let word := (data ++ check).map (·.toNat)
  let syn := rsSyndromes word
  if syn.all (· == 0) then some (data ++ check, [])
  else
    let (loc, l) := rsLocator syn
    let at' := (List.range 72).filter fun i => gfEvalLow loc (gfInv (gfAlpha (71 - i))) == 0
    if l > 4 || at'.length != l then none
    else
      let fixed := (List.range 72).map fun i =>
        if at'.contains i then word.getD i 0 ^^^ rsErrorValue syn loc (71 - i) else word.getD i 0
      if (rsSyndromes fixed).all (· == 0) then some (fixed.map (BitVec.ofNat 8), at') else none

end Sys2Proof.Machine
end

