-- ==== Sys2Proof/Machine/Flags.lean ====
section
/-! DEFINITION. Flags and codes: W1C flags with their event counters (R38), the flag registers of cores, rings, contexts,
trace and block faults, and the codes of statuses, stalls, faults, exceptions and aborts. -/
namespace Sys2Proof.Machine

/-! ### Codes -/

/-- Status codes of completion records and waits (R163). -/
def stOk : Nat := 0x00
def stStateReject : Nat := 0x01
def stPredFailed : Nat := 0x02
def stSeqGap : Nat := 0x03
def stPrecision : Nat := 0x04
def stFaulted : Nat := 0x05
def stAbandoned : Nat := 0x06
def stCancelled : Nat := 0x07
def stTimeout : Nat := 0x08
def stOverQuota : Nat := 0x09
def stBlocked : Nat := 0x0A
def stUncorrectable : Nat := 0x0B

/-- Stall reasons (R110). -/
def slNodeFull : Nat := 0x01
def slEdgeFull : Nat := 0x02
def slPageRequest : Nat := 0x03
def slRefWait : Nat := 0x04
def slQuota : Nat := 0x05

/-- Ring fault causes (R110, R436). -/
def fcSeqGap : Nat := 0x41
def fcMalformed : Nat := 0x42
def fcTranslation : Nat := 0x43
def fcExec : Nat := 0x44
def fcHang : Nat := 0x45
def fcRefHold : Nat := 0x46
def fcNodeLost : Nat := 0x50
def fcQueueLost : Nat := 0x51
def fcReissueLimit : Nat := 0x52
def fcUnitLost : Nat := 0x53
def fcMeridianDown : Nat := 0x54
def fcCommandRead : Nat := 0x55

/-- Exception causes (R248). -/
def exIllegal : Nat := 0x01
def exFetch : Nat := 0x02
def exAddress : Nat := 0x03
def exAlign : Nat := 0x04
def exAccess : Nat := 0x05
def exOperand : Nat := 0x06
def exTrap : Nat := 0x07
def exKernel : Nat := 0x08
def exData : Nat := 0x09

/-- Abort codes (R54). -/
def abOk : Word := 0
def abState : Word := 0x0C000007
def abRange : Word := 0x0C000006

/-! ### Opcodes of commands (R93) -/

def opNop : Byte := 0x00
def opLaunch : Byte := 0x01
def opCopy : Byte := 0x02
def opGather : Byte := 0x03
def opUpdate : Byte := 0x04
def opEpoch : Byte := 0x05
def opRoute : Byte := 0x06
def opSignal : Byte := 0x07
def opWait : Byte := 0x08
def opFence : Byte := 0x09
def opMark : Byte := 0x0A
def opHostStep : Byte := 0x0B

/-! ### W1C flags -/

/-- A W1C flag after a write of its bit (R38). -/
def w1c (flag wrote : Bool) : Bool := flag && !wrote

/-! ### ARITH_FLAGS (R226) -/

/-- Sets FLUSHED once when an instruction flushed a value. -/
def Core.setFlushed (k : Core) (b : Bool) : Core :=
  if b then { k with flushed := true, flushedEvents := k.flushedEvents + 1 } else k

/-- Sets NANSEEN once when a VMAXRUN met a NaN. -/
def Core.setNanSeen (k : Core) (b : Bool) : Core :=
  if b then { k with nanseen := true, nanseenEvents := k.nanseenEvents + 1 } else k

/-- Sets ISAT once when an I32 accumulation saturated. -/
def Core.setIsat (k : Core) (b : Bool) : Core :=
  if b then { k with isat := true, isatEvents := k.isatEvents + 1 } else k

/-- ARITH_FLAGS as read. -/
def Core.arithFlags (k : Core) : Word :=
  BitVec.ofNat 32 (b2n k.flushed * 2 ^ 31 + b2n k.nanseen * 2 ^ 30 + b2n k.isat * 2 ^ 29
    + k.flushedEvents.toNat * 2 ^ 16 + k.nanseenEvents.toNat * 2 ^ 8 + k.isatEvents.toNat)

/-- A CRW to ARITH_FLAGS: the three flags are W1C. -/
def Core.clearFlags (k : Core) (v : Word) : Core :=
  { k with
    flushed := w1c k.flushed (v.getLsbD 31)
    nanseen := w1c k.nanseen (v.getLsbD 30)
    isat := w1c k.isat (v.getLsbD 29) }

/-! ### Interrupt flags of a ring (R164) -/

/-- BACKLOG of a ring: at most 256. -/
def Ring.backlogCount (g : Ring) : Nat := g.backlog.length

/-- IRQ_STATUS. -/
def Ring.irqStatus (g : Ring) : Nat :=
  b2n g.irqFault * 2 ^ 63 + b2n g.irqNotify * 2 ^ 62 + g.lastFault.toNat * 2 ^ 48 + g.faultEvents.toNat * 2 ^ 32
    + g.notifyEvents.toNat * 2 ^ 16 + g.backlogCount

/-- IRQ_MASK. -/
def Ring.irqMask (g : Ring) : Nat := b2n g.maskFault * 2 + b2n g.maskNotify

/-! ### TIME_STATUS, TRACE_STATUS, BLOCK_FAULT_STATUS, DBG_STATUS -/

/-- TIME_STATUS (R396). -/
def Clock.status (c : Clock) : Nat := b2n c.lostSync * 2 ^ 31 + c.lostSyncEvents.toNat * 2 ^ 16 + c.state

/-- TRACE_STATUS (R484). -/
def Debug.traceStatus (d : Debug) : Nat :=
  d.traceState * 2 ^ 30 + b2n d.wrapped * 2 ^ 29 + b2n d.loss * 2 ^ 28 + d.lossEvents.toNat * 2 ^ 16

/-- DBG_STATUS (R488). -/
def Debug.status (d : Debug) : Nat :=
  b2n d.dbgBusy * 2 ^ 63 + b2n d.dbgDone * 2 ^ 62 + d.dbgDoneEvents.toNat * 2 ^ 40 + d.dbgResult * 2 ^ 32
    + d.dbgData.toNat

/-- BLOCK_FAULT_STATUS (R441). -/
def Faults.status (f : Faults) : Nat :=
  b2n f.repair * 2 ^ 63 + b2n f.fence * 2 ^ 62 + b2n f.spare * 2 ^ 61 + b2n f.degraded * 2 ^ 60
    + f.repairEvents.toNat * 2 ^ 24 + f.fenceEvents.toNat * 2 ^ 16 + f.spareEvents.toNat * 2 ^ 8
    + f.degradedEvents.toNat

end Sys2Proof.Machine
end

