-- ==== Sys2Proof/Machine/Ops.lean ====
section
/-! DEFINITION. The named operations over the state that every family shares: numbering, access to the parts of the state,
what leaves the block, counters, event rings, the trace stream, block fault flags, the fault log and the repair table. -/
namespace Sys2Proof.Machine

/-! ### Numbering (R16, R17, R36, R46) -/

def halfOfCore (c : Nat) : Nat := c / 8192
def compOfCore (c : Nat) : Nat := c / 256
def standOfCore (c : Nat) : Nat := c / 16
def halfOfComp (i : Nat) : Nat := i / 32
def compOfStand (t : Nat) : Nat := t / 16
def halfOfNode (n : Nat) : Nat := n / 131072
def halfOfSector (k : Nat) : Nat := k / 4

/-- The sector of a compartment: half-local compartment i belongs to sector i mod 4 of its half (R28, R129). -/
def sectorOfComp (i : Nat) : Nat := 4 * halfOfComp i + i % 4

def sectorOfCore (c : Nat) : Nat := sectorOfComp (compOfCore c)

/-- The ring is one of the 8 host rings of a context. -/
def isHostRing (r : Nat) : Bool := decide (r < 8192)

/-- The ring number within its context (host) or its half (device-side). -/
def ringNo (r : Nat) : Nat := if r < 8192 then r % 8 else (r - 8192) % 32

/-- The compartments of a sector. -/
def compsOfSector (k : Nat) : List Nat := (List.range 8).map fun j => 32 * halfOfSector k + k % 4 + 4 * j

/-- The cores of a compartment. -/
def coresOfComp (i : Nat) : List Nat := (List.range 256).map fun j => 256 * i + j

/-- The cores of a stand. -/
def coresOfStand (t : Nat) : List Nat := (List.range 16).map fun j => 16 * t + j

/-- Frequencies of the step codes in MHz (R400). -/
def stepFreq (k : Nat) : Nat := ([1000, 875, 750, 625, 500] : List Nat).getD k 500

/-! ### Parts of the state -/

def State.now (s : State) : Nat := s.clock.now

/-- Fabric time as the 64-bit counter holds it: it never decreases, so it stays at its largest value (R9, R392; DESIGN CHOICE,
log 141). -/
def timeAt (t : Nat) : Nat := min t (2 ^ 64 - 1)

def State.core (s : State) (c : Nat) : Core := Map.at s.cores Core.reset c
def State.setCore (s : State) (c : Nat) (k : Core) : State := { s with cores := Map.put s.cores c k }
def State.updCore (s : State) (c : Nat) (f : Core → Core) : State := s.setCore c (f (s.core c))

def State.ring (s : State) (r : Nat) : Ring := Map.at s.rings Ring.reset r
def State.setRing (s : State) (r : Nat) (g : Ring) : State := { s with rings := Map.put s.rings r g }
def State.updRing (s : State) (r : Nat) (f : Ring → Ring) : State := s.setRing r (f (s.ring r))

def State.node (s : State) (n : Nat) : Option Node := Map.look s.dv.nodes n
def State.setNode (s : State) (n : Nat) (d : Node) : State := { s with dv := { s.dv with nodes := Map.put s.dv.nodes n d } }
def State.delNode (s : State) (n : Nat) : State := { s with dv := { s.dv with nodes := Map.del s.dv.nodes n } }
def State.updNode (s : State) (n : Nat) (f : Node → Node) : State :=
  match s.node n with
  | some d => s.setNode n (f d)
  | none => s

def State.sector (s : State) (k : Nat) : Sector := Map.at s.dv.sectors Sector.reset k
def State.setSector (s : State) (k : Nat) (x : Sector) : State :=
  { s with dv := { s.dv with sectors := Map.put s.dv.sectors k x } }
def State.updSector (s : State) (k : Nat) (f : Sector → Sector) : State := s.setSector k (f (s.sector k))

def State.comp (s : State) (i : Nat) : Compartment := Map.at s.dv.comps Compartment.reset i
def State.setComp (s : State) (i : Nat) (x : Compartment) : State :=
  { s with dv := { s.dv with comps := Map.put s.dv.comps i x } }
def State.updComp (s : State) (i : Nat) (f : Compartment → Compartment) : State := s.setComp i (f (s.comp i))

def State.stand (s : State) (t : Nat) : Stand := Map.at s.stands Stand.reset t

/-- The supply of a step in a compartment, in mV, from fuses (R400). -/
def State.stepVolts (s : State) (i k : Nat) : Nat := (Map.at s.fuses.stepSupply nominalSupply i).getD k 0
def State.setStand (s : State) (t : Nat) (x : Stand) : State := { s with stands := Map.put s.stands t x }
def State.updStand (s : State) (t : Nat) (f : Stand → Stand) : State := s.setStand t (f (s.stand t))

def State.ctx (s : State) (c : Nat) : Option Context := Map.look s.ctxs c
def State.context (s : State) (c : Nat) : Context := (s.ctx c).getD Context.reset
def State.updCtx (s : State) (c : Nat) (f : Context → Context) : State :=
  match s.ctx c with
  | some x => { s with ctxs := Map.put s.ctxs c (f x) }
  | none => s

def State.port (s : State) (p : Nat) : MemPort := Map.at s.mem.ports MemPort.reset p
def State.updPort (s : State) (p : Nat) (f : MemPort → MemPort) : State :=
  { s with mem := { s.mem with ports := Map.put s.mem.ports p (f (s.port p)) } }

def State.xport (s : State) (p : Nat) : XPort := Map.at s.ecl.ports XPort.reset p
def State.updXport (s : State) (p : Nat) (f : XPort → XPort) : State :=
  { s with ecl := { s.ecl with ports := Map.put s.ecl.ports p (f (s.xport p)) } }

def State.layer (s : State) (h l : Nat) : Layer := Map.at s.exp.layers Layer.reset (256 * h + l)
def State.updLayer (s : State) (h l : Nat) (f : Layer → Layer) : State :=
  { s with exp := { s.exp with layers := Map.put s.exp.layers (256 * h + l) (f (s.layer h l)) } }

def State.engine (s : State) (h : Nat) : Engine := Map.at s.exp.engines Engine.reset h
def State.updEngine (s : State) (h : Nat) (f : Engine → Engine) : State :=
  { s with exp := { s.exp with engines := Map.put s.exp.engines h (f (s.engine h)) } }

/-- The home half of a ring (R36, R330). -/
def State.homeHalf (s : State) (r : Nat) : Nat :=
  if isHostRing r then b2n ((s.ring r).mode.getLsbD 0) else (r - 8192) / 32

/-- The home sector of commands of a ring (R121). -/
def State.homeSector (s : State) (r : Nat) : Nat := 4 * s.homeHalf r + ((s.ring r).ctx + ringNo r) % 4

/-- A core is fenced (R422, R425). -/
def State.fenced (s : State) (c : Nat) : Bool :=
  (s.stand (standOfCore c)).fencedMask.getLsbD (c % 16) || (s.stand (standOfCore c)).standFenced
    || (s.comp (compOfCore c)).fenced

/-- A stand under substitution is drained: no core of it holds a grant (R426). -/
def State.standDrained (s : State) (t : Nat) : Bool :=
  (s.stand t).draining && (coresOfStand t).all fun c => (s.core c).grant.isNone

/-- The rings configured for a context, host rings first. -/
def State.ringsOf (s : State) (c : Nat) : List Nat := (s.rings.filter fun p => p.2.ctx = c).map (·.1)

/-- The nodes of a ring. -/
def State.nodesOfRing (s : State) (r : Nat) : List (Nat × Node) := s.dv.nodes.filter fun p => p.2.ring = r

/-- The nodes of a context. -/
def State.nodesOfCtx (s : State) (c : Nat) : List (Nat × Node) := s.dv.nodes.filter fun p => p.2.ctx = c

/-- Bytes of device memory. -/
def State.dev (s : State) (a n : Nat) : List Byte := Cells.bytes s.mem.dev a n

/-- Replaces bytes of device memory, and nothing else. -/
def State.putDev (s : State) (a : Nat) (bs : List Byte) : State :=
  { s with mem := { s.mem with dev := Cells.store s.mem.dev a bs } }

/-- The PASID of a context's host accesses (R89, R501). -/
def State.pasid (s : State) (c : Nat) : Option Nat := some ((s.context c).pasid.toNat % 2 ^ 20)

/-! ### What leaves the block -/

def State.emit (s : State) (o : Output) : State := { s with outputs := s.outputs ++ [o] }

/-! ### Global counters and event rings (R470, R471, R486) -/

/-- Adds to every global counter whose select names the event of the unit or of its whole class. -/
def State.count (s : State) (cls idx ev n : Nat) : State :=
  if s.dbg.gcFreeze then s
  else
    let hit (w : Word) : Bool :=
      bits w.toNat 24 8 == cls && bits w.toNat 0 8 == ev && (bits w.toNat 8 16 == idx || bits w.toNat 8 16 == 0xFFFF)
    { s with dbg := { s.dbg with
        gcValues := List.zipWith (fun w v => if hit w then v + BitVec.ofNat 64 n else v) s.dbg.gcSelect s.dbg.gcValues } }

/-- Adds to the per-core counters of a core that count an event (R464, R465), and to the global ones. -/
def State.coreCount (s : State) (c ev n : Nat) : State :=
  let sel := match (s.comp (compOfCore c)).holder with
    | some h => (s.context h).coreEvents
    | none => []
  (s.updCore c fun k =>
    { k with counters := Vector.ofFn fun i : Fin 8 =>
        if (sel.getD i.val 0).toNat % 256 = ev then k.counters[i] + BitVec.ofNat 64 n else k.counters[i] }).count 1 c ev n

/-- Unit classes of event rings (R471). -/
def unCore : Nat := 0x01
def unSector : Nat := 0x02
def unRingEngine : Nat := 0x03
def unGather : Nat := 0x04
def unMover : Nat := 0x05
def unRouting : Nat := 0x06
def unSemaphore : Nat := 0x07
def unMemoryPort : Nat := 0x08
def unMeridian : Nat := 0x09
def unExchange : Nat := 0x0A
def unControl : Nat := 0x0B
def unHostPort : Nat := 0x0C
def unTrace : Nat := 0x0D

/-- Records an event in a unit's ring of 64 (R486); nothing while the rings are frozen or the unit is a fenced core. -/
def State.event (s : State) (cls idx code arg data : Nat) : State :=
  if s.dbg.eventFreeze || (cls == unCore && s.fenced idx) then s
  else
    let key := 65536 * cls + idx
    let old := Map.at s.dbg.events [] key
    let new := old ++ [Event.mk s.now code arg data]
    { s with dbg := { s.dbg with events := Map.put s.dbg.events key (new.drop (new.length - 64)) } }

/-! ### The Meridian link and the memory ports (R25, R32, R281, R282) -/

/-- Bytes leave a half for the other in a class of the Meridian link: 1 SCHED, 2 SYNC, 3 CTRL, 4 PORT, 5 MEM; their flits are counted
(R32, R471). -/
def State.cross (s : State) (h cls n : Nat) : State := s.count unMeridian h cls (Config.crossingFlits cls n)

/-- What a half sends to the ports of Half 0: Half 1 reaches them through the link, in the PORT class (R32, R35). -/
def State.crossPort (s : State) (h n : Nat) : State := if h = 0 then s else s.cross h 4 n

/-- An MSI-X message of a half (R167, R502). -/
def State.msix (s : State) (h vector : Nat) : State :=
  if vector = 0xFFFF then s else ((s.emit (.msix vector)).count unHostPort 0 0x03 1).crossPort h 8

/-- An order of Half 0 to a half, in the CTRL class (R32). -/
def State.order (s : State) (h : Nat) : State := if h = 0 then s else s.cross 0 3 0

/-- Blocks of 64 bytes that a range touches. -/
def blockCount (a n : Nat) : Nat := if n = 0 then 0 else ceilDiv (a % 64 + n) 64

/-- Consecutive blocks of 64 bytes from an address. -/
def blocksFrom : Nat → Nat → List Byte → List (Nat × List Byte)
  | 0, _, _ => []
  | k + 1, a, l => (a, l.take 64) :: blocksFrom k (a + 64) (l.drop 64)

/-- The aligned 64-byte blocks that bytes cover whole. -/
def wholeBlocks (a : Nat) (bs : List Byte) : List (Nat × List Byte) :=
  let skip := (64 - a % 64) % 64
  blocksFrom ((bs.length - skip) / 64) (a + skip) (bs.drop skip)

/-- A half reads a range of device memory: its blocks are counted at their port, and as cross-half reads where the port lies in the
other half (R25); the address and the data cross the link in the MEM class. -/
def State.portReads (s : State) (h a n : Nat) : State :=
  let p := a / 2 ^ 36
  if 12 ≤ p ∨ n = 0 then s
  else
    let s1 := s.count unMemoryPort p 0x01 (blockCount a n)
    if p / 6 = h then s1
    else ((s1.count unMemoryPort p 0x04 (blockCount a n)).cross h 5 0).cross (1 - h) 5 n

/-- A half writes bytes of device memory. Every block that they cover whole is encoded and leaves for its controller (R282); the rest
are partial writes, of which PARTIAL_WRITE tells. A write to a port of the other half counts as such and crosses in the MEM class,
and so does its acknowledgement (R25, R34). -/
def State.setDev (s : State) (h a : Nat) (bs : List Byte) : State :=
  let p := a / 2 ^ 36
  let ws := wholeBlocks a bs
  let s1 := s.putDev a bs
  let s2 := { s1 with outputs := s1.outputs ++ ws.map fun (x : Nat × List Byte) => Output.blockWrite x.1 x.2 (rsCheck x.2) }
  let s3 := s2.count unMemoryPort p 0x02 ws.length
  if p / 6 = h then s3 else ((s3.count unMemoryPort p 0x05 ws.length).cross h 5 bs.length).cross (1 - h) 5 0

/-- A half writes through the host port under a context's PASID; Half 1 reaches it in the PORT class (R32, R35). -/
def State.hostWrite (s : State) (h c : Nat) (a : BitVec 64) (bs : List Byte) : State :=
  let s1 := (s.emit (.hostWrite (s.pasid c) a bs)).count unHostPort 0 0x02 bs.length
  s1.crossPort h bs.length

/-! ### The trace stream (R473–R484) -/

/-- Tracing is on (R474). -/
def State.tracing (s : State) : Bool := s.dbg.traceEnable && !s.set.debugLock.getLsbD 1

/-- Slots of the trace buffer (R480). -/
def Debug.slots (d : Debug) : Nat := d.bufferSize.toNat / 16

/-- The stream takes no further record: stopped, one slot short of full in STOP_ON_FULL, or past the trigger window. -/
def Debug.streamClosed (d : Debug) : Bool :=
  d.traceState == 3 || (d.traceMode == 1 && d.slots ≤ d.writeIndex + 1)
    || (d.traceMode == 2 && d.traceState == 2 && d.windowLeft == 0)

/-- Sends one record to the sink (R479, R480): the trace port, or the buffer, written in whole blocks of four records. -/
def State.sinkRecord (s : State) (rec : List Byte) : State :=
  let d := s.dbg
  let n := d.writeIndex
  let d1 := { d with
    writeIndex := n + 1
    wrapped := d.wrapped || (d.sink == 1 && decide (d.slots ≤ n))
    windowLeft := if d.traceState = 2 then d.windowLeft - 1 else d.windowLeft
    traceState := if d.traceState = 1 && d.traceMode == 1 && decide (d.slots ≤ n + 2) then 3 else d.traceState }
  if d.sink = 1 then
    let blk := d.traceBlock ++ [rec]
    if blk.length < 4 then { s with dbg := { d1 with traceBlock := blk } }
    else
      ({ s with dbg := { d1 with traceBlock := [] } }).setDev 0
        (d.bufferBase.toNat + 16 * ((n - 3) % d.slots)) blk.flatten
  else ({ s with dbg := d1 }).emit (.traceRecord rec)

/-- Records lost in a half (R473, R482, R484). -/
def State.traceLost (s : State) (h n : Nat) : State :=
  let d := s.dbg
  let d1 := { d with loss := true, lossEvents := d.lossEvents + BitVec.ofNat 8 n, lost := d.lost + BitVec.ofNat 64 n }
  (if h = 0 then { s with dbg := { d1 with lost0 := d.lost0 + n, lossAt0 := if d.lost0 = 0 then s.now else d.lossAt0 } }
    else { s with dbg := { d1 with lost1 := d.lost1 + n, lossAt1 := if d.lost1 = 0 then s.now else d.lossAt1 } }).count
    unTrace h 0x02 n

/-- A LOSS record (R475, R482). -/
def lossRecord (h lost at' : Nat) : List Byte :=
  [0x0F] ++ u8 h ++ u16 0 ++ u32 (min lost 0xFFFFFFFF) ++ u64 at'

/-- Moves the staging FIFOs to the sink while it takes records (R473, R479). -/
def drainTrace : Nat → State → State
  | 0, s => s
  | n + 1, s =>
    if s.dbg.sink = 0 && !s.dbg.traceReady then s
    else
      match s.dbg.fifo with
      | [] => s
      | (h, rec) :: rest =>
        let s1 := { s with dbg := { s.dbg with fifo := rest } }
        if !s.dbg.streamClosed then drainTrace n (s1.sinkRecord rec)
        else if h < 2 then drainTrace n (s1.traceLost h 1)
        else drainTrace n s1

/-- A record of the merge point goes before what the staging FIFOs hold (R476, R481). -/
def State.mergeRecord (s : State) (rec : List Byte) : State :=
  let d := s.dbg
  let first := d.fifo.filter fun p => p.1 = 2
  let rest := d.fifo.filter fun p => p.1 ≠ 2
  drainTrace (d.fifo.length + 1) { s with dbg := { d with fifo := first ++ (2, rec) :: rest } }

/-- A SYNC record (R475). -/
def State.syncRecord (s : State) : State := s.mergeRecord ([0x0A] ++ List.replicate 7 0 ++ u64 s.now)

/-- Accepts or loses a group of records of a half as a whole (R473, R482). -/
def State.trace (s : State) (h : Nat) (recs : List (List Byte)) : State :=
  if !s.tracing then s
  else if s.dbg.streamClosed then s.traceLost h recs.length
  else
    let used := (s.dbg.fifo.filter fun p => p.1 = h).length
    let owed := if h = 0 then s.dbg.lost0 else s.dbg.lost1
    let at' := if h = 0 then s.dbg.lossAt0 else s.dbg.lossAt1
    if used + recs.length > 2047 then s.traceLost h recs.length
    else
      let pre := if owed = 0 then [] else [(h, lossRecord h owed at')]
      let d := { s.dbg with fifo := s.dbg.fifo ++ pre ++ recs.map fun r => (h, r) }
      let d := if h = 0 then { d with lost0 := 0 } else { d with lost1 := 0 }
      let s1 := (({ s with dbg := d }).count unTrace h 0x01 recs.length).crossPort h (16 * recs.length)
      drainTrace s1.dbg.fifo.length s1

/-- Sets EVENT_FREEZE when FREEZE_ON names the cause (R487). -/
def State.freezeOn (s : State) (i : Nat) : State :=
  if s.dbg.freezeOn.getLsbD i then { s with dbg := { s.dbg with eventFreeze := true } } else s

/-- A trigger condition (R481): the first after tracing starts inserts a TRIGGER record and fixes the window. -/
def State.trigger (s : State) (cause ctx detail : Nat) : State :=
  if s.tracing && s.dbg.armed && s.dbg.triggerSelect.getLsbD cause && s.dbg.traceState == 1 then
    let d := { s.dbg with
      armed := false
      triggerIndex := s.dbg.writeIndex + (s.dbg.fifo.filter fun p => p.1 = 2).length
      traceState := 2
      windowLeft := s.dbg.triggerPost + 1 }
    (({ s with dbg := d }).mergeRecord ([0x0E] ++ u8 cause ++ u16 ctx ++ u32 detail ++ u64 s.now)).freezeOn 0
  else s

/-- The CTX field of records: [9:0] context, [12:10] ring (R148). -/
def ctxField (c r : Nat) : Nat := c % 1024 + ringNo r % 8 * 1024

/-- A MARK pair (R475, R477), and its trigger condition. -/
def State.markPair (s : State) (half kind source ctx id src : Nat) (value : Nat) : State :=
  if s.tracing && s.dbg.sampleControl.getLsbD 0 then
    let s1 := s.trace half
      [[0x03] ++ u8 (kind + 4 * source) ++ u16 ctx ++ u32 id ++ u64 s.now,
       [0x04, 0] ++ u16 src ++ u32 0 ++ u64 value]
    if id = s.dbg.triggerMarkId.toNat then s1.trigger 0 ctx id else s1
  else s

/-! ### Block fault flags and the fault log (R441, R442) -/

/-- Sets a block fault flag and sends FAULT_VECTOR unless it is masked. -/
def State.blockFlag (s : State) (b : BlockFlag) : State :=
  let f := s.flt
  let (f1, m) := match b with
    | .repair => ({ f with repair := true, repairEvents := f.repairEvents + 1 }, f.maskBits.getLsbD 3)
    | .fence => ({ f with fence := true, fenceEvents := f.fenceEvents + 1 }, f.maskBits.getLsbD 2)
    | .spare => ({ f with spare := true, spareEvents := f.spareEvents + 1 }, f.maskBits.getLsbD 1)
    | .degraded => ({ f with degraded := true, degradedEvents := f.degradedEvents + 1 }, f.maskBits.getLsbD 0)
  let s1 := { s with flt := f1 }
  if m then s1 else s1.msix 0 s.set.faultVector

/-- The unit whose event ring shows a fault of a class at a location (R419, R471, R486): none for the faults of cores, stands,
compartments, Dvorsor and rings. -/
def unitOfFault (cls location : Nat) : Option (Nat × Nat) :=
  match cls with
  | 0x0A | 0x0B => some (unMemoryPort, location % 16)
  | 0x0C => some (unMeridian, location % 2)
  | 0x0D | 0x0E => some (unExchange, location % 8)
  | 0x0F => some (unControl, location)
  | 0x10 => some (if location % 2 = 0 then (unGather, location / 2) else (unMover, location / 2 / (Config.moreMovers + 1)))
  | _ => none

/-- The events FAULT and, when a spare has taken over, RECOVERED of a unit (R486). -/
def State.faultEvents (s : State) (cls action location : Nat) : State :=
  match unitOfFault cls location with
  | some (u, i) =>
    let s1 := s.event u i 0x02 cls 0
    if action = 4 ∨ action = 5 then s1.event u i 0x03 cls 0 else s1
  | none => s

/-- Writes a fault log record: the latest 256 are kept (R442). The fault is an event of its unit. -/
def State.log (s : State) (cls action location address ring cause seqLo : Nat) : State :=
  let r : LogRecord := ⟨s.now, cls, action, location, address, ring, cause, seqLo⟩
  let l := s.flt.log ++ [r]
  State.faultEvents { s with flt := { s.flt with logNext := s.flt.logNext + 1, log := l.drop (l.length - 256) } } cls action location

/-- The RING field of the log (R442). -/
def State.ringField (s : State) (r : Nat) : Nat :=
  (s.ring r).ctx % 1024 + ringNo r % 8 * 1024 + (if isHostRing r then 0 else 2 ^ 13)

/-- Enters a repair in the table: GENERATION rises and REPAIR is set, or DEGRADED when the table is full (R440). -/
def State.repairAdd (s : State) (kind flags a b : Nat) : State :=
  if s.flt.entries.length ≥ 4092 then s.blockFlag .degraded
  else
    ({ s with flt := { s.flt with
        entries := s.flt.entries ++ [RepairEntry.mk kind flags a b s.now]
        generation := s.flt.generation + 1 } }).blockFlag .repair

end Sys2Proof.Machine
end

