-- ==== Sys2Proof/Machine/Operands.lean ====
section
/-! DEFINITION. Operand forms: the fields of commands (R90–R96), registers, immediates, local and device addresses, target
words and transfer descriptors of core instructions (R187, R215–R217, R222, R232, R233, R239), and grant words (R134). -/
namespace Sys2Proof
open Machine


/-! ### Commands (R90, R95, R96) -/

/-- The command with every byte 0. -/
def Cmd.blank : Cmd := ⟨0, 0, 0, 0, 0, 0, 0, 0, Vector.replicate 6 0, 0, Vector.replicate 16 0⟩

/-- PRIORITY: class 0 (most urgent) to 7. -/
def Cmd.prio (c : Cmd) : Nat := bits c.ctrl.toNat 13 3
/-- ENERGY: class 0 (lightest) to 3. -/
def Cmd.energy (c : Cmd) : Nat := bits c.ctrl.toNat 11 2
/-- NPRED. -/
def Cmd.npred (c : Cmd) : Nat := bits c.ctrl.toNat 8 3
def Cmd.irq (c : Cmd) : Bool := c.flags.getLsbD 7
def Cmd.barrier (c : Cmd) : Bool := c.flags.getLsbD 6
def Cmd.traceFlag (c : Cmd) : Bool := c.flags.getLsbD 5
def Cmd.noSignal (c : Cmd) : Bool := c.flags.getLsbD 4

/-- Parameter slot j. -/
def Cmd.slot (c : Cmd) (j : Nat) : Nat := (c.param.toList.getD j 0).toNat
/-- A 64-bit field at slots j and j + 1, low word first. -/
def Cmd.wide (c : Cmd) (j : Nat) : Nat := c.slot j + 2 ^ 32 * c.slot (j + 1)
/-- The command with parameter slot j replaced. -/
def Cmd.setSlot (c : Cmd) (j : Nat) (v : Word) : Cmd :=
  { c with param := Vector.ofFn fun i : Fin 16 => if i.val = j then v else c.param[i] }

/-- The 128 bytes of a command. -/
def Cmd.bytes (c : Cmd) : List Byte :=
  u64 c.seq.toNat ++ [c.opcode, c.flags] ++ u16 c.ctrl.toNat ++ u16 c.kernelId.toNat ++ u16 c.indirect.toNat
    ++ u64 c.deadline.toNat ++ u64 c.release.toNat ++ (c.pred.toList.map fun w => u32 w.toNat).flatten
    ++ u64 c.overflow.toNat ++ (c.param.toList.map fun w => u32 w.toNat).flatten

/-- The command of 128 bytes. -/
def Cmd.ofBytes (l : List Byte) : Cmd :=
  ⟨BitVec.ofNat 64 (field l 0 8), BitVec.ofNat 8 (field l 8 1), BitVec.ofNat 8 (field l 9 1),
    BitVec.ofNat 16 (field l 10 2), BitVec.ofNat 16 (field l 12 2), BitVec.ofNat 16 (field l 14 2),
    BitVec.ofNat 64 (field l 16 8), BitVec.ofNat 64 (field l 24 8),
    Vector.ofFn fun i : Fin 6 => BitVec.ofNat 32 (field l (32 + 4 * i.val) 4),
    BitVec.ofNat 64 (field l 56 8), Vector.ofFn fun i : Fin 16 => BitVec.ofNat 32 (field l (64 + 4 * i.val) 4)⟩

end Sys2Proof

namespace Sys2Proof.Machine

/-- A block address names host memory (R92). -/
def isHostAddr (a : Nat) : Bool := bit a 63
/-- IOVA of a host block address. -/
def iovaOf (a : Nat) : Nat := bits a 0 57
/-- DEVADDR of a device block address. -/
def devOf (a : Nat) : Nat := bits a 0 40
/-- A block address whose reserved bits read as 0 (R11, R92). -/
def blockAddrOf (v : Nat) : Nat := if isHostAddr v then 2 ^ 63 + iovaOf v else devOf v

/-- A host block address. -/
def hostAddr (iova : Nat) : BitVec 64 := BitVec.ofNat 64 (2 ^ 63 + iova % 2 ^ 57)

/-- A decoded semaphore target: the semaphore, and the device when it is remote (R96, R239). -/
abbrev Target := SemId × Option Nat

/-- TARGET of a command (R96); `none` when a reserved bit is set or the slot is not 0 to 47. -/
def targetOf (t : Nat) : Option Target :=
  let shared := bit t 63
  let remote := bit t 62
  if bits t 34 28 ≠ 0 then none
  else if !remote && bits t 20 14 ≠ 0 then none
  else
    let dev := if remote then some (bits t 20 14) else none
    if shared then
      (if bits t 18 2 ≠ 0 ∨ bits t 0 6 ≠ 0 then none else some (.shared (bits t 6 12), dev))
    else if bits t 0 6 ≥ 48 then none
    else some (.core (bits t 6 14) (bits t 0 6), dev)

/-- A TARGET of an entry, whose reserved bits read as 0 (R11, R96). -/
def targetFields (t : Nat) : Nat :=
  b2n (bit t 63) * 2 ^ 63 + b2n (bit t 62) * 2 ^ 62 + (if bit t 62 then bits t 20 14 * 2 ^ 20 else 0)
    + (if bit t 63 then bits t 6 12 * 64 else bits t 0 20)

/-- TARGET of a semaphore on this device (R96). -/
def targetBits : SemId → Nat
  | .core c k => c % 16384 * 64 + k % 64
  | .shared i => 2 ^ 63 + i % 4096 * 64

/-- A target word of a core instruction (R239); `none` when a reserved bit is set or the slot is not 0 to 47. The Bool is
REMOTE. -/
def targetWord (t : Nat) : Option (SemId × Bool) :=
  if bits t 20 10 ≠ 0 then none
  else if bit t 31 then
    (if bits t 18 2 ≠ 0 ∨ bits t 0 6 ≠ 0 then none else some (.shared (bits t 6 12), bit t 30))
  else if bits t 0 6 ≥ 48 then none
  else some (.core (bits t 6 14) (bits t 0 6), bit t 30)

/-- The target word of a semaphore on this device (R239). -/
def semWord : SemId → Nat
  | .core c k => c % 16384 * 64 + k % 64
  | .shared i => 2 ^ 31 + i % 4096 * 64

/-- The grant word (R134). -/
def grantWord (nodeIndex count kernelId first : Nat) (alt reissue : Bool) : BitVec 64 :=
  BitVec.ofNat 64 (nodeIndex % 2 ^ 17 * 2 ^ 47 + (count - 1) % 4 * 2 ^ 45 + b2n alt * 2 ^ 44 + b2n reissue * 2 ^ 43
    + kernelId % 2 ^ 16 * 2 ^ 24 + first % 2 ^ 24)

/-! ### Registers and immediates of core instructions (R213, R216, R222) -/

/-- A scalar register: s0 reads 0. -/
def Core.s (k : Core) (i : BitVec 5) : Word := if i = 0 then 0 else k.regs.toList.getD i.toNat 0

/-- Writes a scalar register; a write to s0 is discarded. -/
def Core.setS (k : Core) (i : BitVec 5) (v : Word) : Core :=
  if i = 0 then k
  else { k with regs := Vector.ofFn fun j : Fin 32 => if j.val = i.toNat then v else k.regs[j] }

/-- A vector register. -/
def Core.v (k : Core) (i : BitVec 5) : List Word := (k.vregs.toList.getD i.toNat (Vector.replicate 16 0)).toList

/-- Writes a vector register from 16 lanes. -/
def Core.setV (k : Core) (i : BitVec 5) (l : List Word) : Core :=
  { k with vregs := Vector.ofFn fun j : Fin 32 =>
      if j.val = i.toNat then Vector.ofFn fun m : Fin 16 => l.getD m.val 0 else k.vregs[j] }

/-- Operand B of a scalar instruction: RB, or IMM when MOD[3] is 1. -/
def Core.operandB (k : Core) (f : Fields) : Word := if f.mod.getLsbD 3 then f.imm else k.s f.rb

/-- A device address in a register pair (R232). -/
def pairAddr (ra rb : Word) : Nat := ra.toNat + rb.toNat % 256 * 2 ^ 32

/-! ### Local addresses (R187) -/

/-- The range lies in the data memory. -/
def inData (a n : Nat) : Bool := decide (a + n ≤ 0x8000)
/-- The range lies in the stand memory. -/
def inStand (a n : Nat) : Bool := decide (0x100000 ≤ a ∧ a + n ≤ 0x180000)
/-- The range lies in one mapped range. -/
def mapped (a n : Nat) : Bool := inData a n || inStand a n

/-- Reads local bytes of a core. -/
def State.readLocal (s : State) (c a n : Nat) : List Byte :=
  if a < 0x8000 then Cells.bytes (s.core c).dmem a n
  else Cells.bytes (s.stand (standOfCore c)).mem (a - 0x100000) n

/-- Writes local bytes of a core. -/
def State.writeLocal (s : State) (c a : Nat) (bs : List Byte) : State :=
  if a < 0x8000 then s.updCore c fun k => { k with dmem := Cells.store k.dmem a bs }
  else s.updStand (standOfCore c) fun t => { t with mem := Cells.store t.mem (a - 0x100000) bs }

/-! ### Transfer descriptors (R233) -/

/-- The descriptor of 32 bytes. -/
def Descriptor.ofBytes (l : List Byte) : Descriptor where
  rows := field l 0 2
  cols := field l 2 2
  srcStride := field l 4 4
  dstStride := field l 8 4
  srcFmt := field l 12 1
  dstFmt := field l 13 1
  flags := BitVec.ofNat 8 (field l 14 1)
  reserved15 := BitVec.ofNat 8 (field l 15 1)
  srcScale := signed 32 (field l 16 4)
  dstScale := signed 32 (field l 20 4)
  srcSStride := field l 24 2
  dstSStride := field l 26 2
  reserved28 := BitVec.ofNat 32 (field l 28 4)

def Descriptor.transpose (d : Descriptor) : Bool := d.flags.getLsbD 0
/-- Rows of the destination. -/
def Descriptor.dstRows (d : Descriptor) : Nat := if d.transpose then d.cols else d.rows
/-- Elements of a destination row. -/
def Descriptor.dstCols (d : Descriptor) : Nat := if d.transpose then d.rows else d.cols

end Sys2Proof.Machine
end

