-- ==== Sys2Proof/Machine/Graph.lean ====
section
/-! DEFINITION. The task graph (R111–R137): nodes, units, completion and its spread to successors, landings and open sets,
ring faults and their capture (R107–R109, R166), recalls (R423) and the abort of a ring (R531). -/
namespace Sys2Proof.Machine

/-! ### Nodes -/

/-- Predecessor units not yet satisfied (R116). -/
def Node.pendingUnits (d : Node) : Nat := d.units + b2n d.barrier + d.fenceOn.length

def Node.isLaunch (d : Node) : Bool := d.cmd.opcode == opLaunch
def Node.isFence (d : Node) : Bool := d.cmd.opcode == opFence

/-- Accepted and not complete (R113: WAITING to DISPATCHED). -/
def Node.live (d : Node) : Bool := decide (1 ≤ d.state ∧ d.state ≤ 4)

/-- A task has fresh or requeued items to grant (R132). -/
def Node.hasItems (d : Node) : Bool := !d.stopped && (decide (d.nextItem < d.grid) || !d.requeue.isEmpty)

/-- Edge blocks of 16 entries a node's successors fill (R117). -/
def Node.edgeBlocks (d : Node) : Nat := ceilDiv d.succs.length 16

/-- A node right after its allocation. -/
def Node.fresh (ring ctx seq : Nat) (cmd : Cmd) : Node where
  state := 1
  ring := ring
  ctx := ctx
  seq := seq
  cmd := cmd
  asRead := cmd
  units := 0
  barrier := false
  fenceOn := []
  accepted := false
  acceptedAt := 0
  deferred := false
  acceptOrder := 0
  dispatchOrder := 0
  delayList := none
  readyAt := 0
  dispatchedAt := none
  firstDispatch := none
  sector := none
  landing := false
  nextItem := 0
  grid := 0
  requeue := []
  outstanding := 0
  workers := []
  reissues := []
  barred := []
  stopped := false
  succs := []
  result := none
  status := 0
  detail := 0
  endTime := 0
  escalated := 0
  sat := 0
  nans := 0
  precisionFailed := false
  uncorrectable := false
  writeLost := false
  reissuedFlag := false
  stepShape := []
  escalatedFlag := false
  signalState := 0
  signalDropped := false
  bare := false

/-- IDENT of a node (R115). -/
def nodeIdent (n : Nat) (d : Node) : Nat :=
  n % 131072 + halfOfNode n * 2 ^ 17 + ringNo d.ring % 8 * 2 ^ 18 + d.ctx % 1024 * 2 ^ 21

/-- The 24 bytes of a node's state (R115). -/
def State.nodeBytes (s : State) (n : Nat) (d : Node) : List Byte :=
  u32 (nodeIdent n d) ++ u16 d.pendingUnits ++ u8 d.state
    ++ u8 (b2n d.barrier + 2 * b2n d.deferred + 4 * b2n (!d.requeue.isEmpty) + 8 * b2n (s.ring d.ring).aborting)
    ++ u32 d.nextItem ++ u32 d.outstanding ++ u32 d.requeue.length ++ u16 d.workers.length ++ u16 d.succs.length

/-- Nodes of a half that are not FREE (R154). -/
def State.nodesUsed (s : State) (h : Nat) : Nat := (s.dv.nodes.filter fun p => halfOfNode p.1 = h).length

/-- Edge blocks in use in a half (R154). -/
def State.edgeBlocksUsed (s : State) (h : Nat) : Nat :=
  s.dv.nodes.foldl (fun n p => if halfOfNode p.1 = h then n + p.2.edgeBlocks else n) 0

/-- NODES_HELD of a context (R140, R155). -/
def State.nodesHeld (s : State) (c : Nat) : Nat := (s.nodesOfCtx c).length

/-- EDGES_HELD of a context, in whole blocks (R138, R155). -/
def State.edgesHeld (s : State) (c : Nat) : Nat := (s.nodesOfCtx c).foldl (fun n p => n + 16 * p.2.edgeBlocks) 0

/-- The lowest free node index of a half (DESIGN CHOICE, log 12); none when the node memory is full. -/
def State.freeNode (s : State) (h : Nat) : Option Nat :=
  let i := (s.dv.nodes.filter fun p => halfOfNode p.1 = h).foldl
    (fun i p => if p.1 % 131072 = i then i + 1 else i) 0
  if i < 131072 then some (131072 * h + i) else none

/-- The landings in use in a half (R132). -/
def State.landingsOpen (s : State) (h : Nat) : Nat :=
  (s.dv.nodes.filter fun p => halfOfNode p.1 = h && p.2.landing).length

/-- A scheduling record, when TRACE_CONTROL enables its kind (R148, R149). -/
def State.schedRecord (s : State) (kind n : Nat) (d : Node) (sector cnt detail : Nat) : State :=
  if s.set.traceControl.getLsbD (kind - 0x20) then
    s.trace (halfOfNode n)
      [u8 kind ++ u8 (sector % 4 + 8 * d.cmd.prio + 64 * cnt) ++ u16 (ctxField d.ctx d.ring)
        ++ u32 (n % 131072 + halfOfNode n * 2 ^ 17 + detail * 2 ^ 18) ++ u64 s.now]
  else s

/-- The address of a node's command in the parameter store (R112). -/
def State.paramAddr (s : State) (n : Nat) : Nat :=
  (if halfOfNode n = 0 then s.dv.paramBase0 else s.dv.paramBase1) + 128 * (n % 131072)

/-! ### Leaving WAITING (R114, R120, R125) -/

/-- The delay lists a node may enter, in order (R125). -/
def delayOrder (sector p : Nat) : List (Nat × Nat) :=
  let own := (List.range 4).map fun j => (sector, (p / 2 + j) % 4)
  let h := halfOfSector sector
  own ++ ((List.range 4).map fun k => (List.range 4).map fun j => (4 * h + k, (p / 2 + j) % 4)).flatten

/-- Nodes in a delay list. -/
def State.delayCount (s : State) (l : Nat × Nat) : Nat :=
  (s.dv.nodes.filter fun p => p.2.delayList == some l).length

/-- The current tick boundary (R126). -/
def State.tickNow (s : State) : Nat := s.now - s.now % s.set.tickNs

/-- The node enters READY. -/
def State.toReady (s : State) (n : Nat) : State :=
  s.updNode n fun d => { d with state := 3, readyAt := s.now, delayList := none }

/-- The node writes its command to the parameter store and leaves WAITING for DELAYED or READY. -/
def State.leaveWaiting (s : State) (n : Nat) (d : Node) : State :=
  let s1 := s.setDev (halfOfNode n) (s.paramAddr n) d.cmd.bytes
  if d.cmd.release.toNat > s.tickNow then
    let l := ((delayOrder (s.homeSector d.ring) d.cmd.prio).find? fun l => s.delayCount l < 16384).getD (0, 0)
    s1.updNode n fun d => { d with state := 2, delayList := some l }
  else (s1.toReady n).schedRecord 0x20 n d (s.homeSector d.ring) d.cmd.energy 0

/-- A node with pending count zero, accepted, and without an indirect slot leaves WAITING in the same cycle. -/
def State.tryLeave (s : State) (n : Nat) : State :=
  match s.node n with
  | some d =>
    if d.state = 1 ∧ d.accepted ∧ d.pendingUnits = 0 ∧ d.cmd.indirect = 0 then s.leaveWaiting n d else s
  | none => s

/-! ### Completion (R104, R119, R137) -/

/-- A node becomes DONE with a status; a scheduling record of a LAUNCH names its home sector, whichever sectors list it (R148;
DESIGN CHOICE, log 142). Its landing is freed, its trace records and trigger follow. -/
def State.markDone (s : State) (n : Nat) (d : Node) (status detail : Nat) : State :=
  let h := halfOfNode n
  let s1 := s.setNode n { d with
    state := 5
    status := status
    detail := detail
    endTime := s.now
    landing := false
    delayList := none
    requeue := []
    workers := []
    signalState := 0 }
  let s2 := { s1 with
    dv := { s1.dv with
      sectors := Map.each s1.dv.sectors fun _ x => { x with openSet := x.openSet.filter (· ≠ n) }
      comps := Map.each s1.dv.comps fun _ x => { x with engaged := x.engaged.filter (· ≠ n) } }
    mem := { s1.mem with
      gathers := s1.mem.gathers.filter fun g => g.node ≠ n
      partials := s1.mem.partials.filter fun w => w.node ≠ n } }
  let s3 := s2.schedRecord 0x26 n d (s.homeSector d.ring) d.cmd.energy status
  let s4 := if d.cmd.traceFlag && !d.bare then
      s3.markPair h 2 2 (ctxField d.ctx d.ring) (d.seq % 2 ^ 32) status d.seq
    else s3
  if status ≠ stOk then s4.trigger 2 (ctxField d.ctx d.ring) status else s4

/-- One unit of a successor is satisfied by the completion of its predecessor; the node is reported when it fails. -/
def State.satisfyUnit (s : State) (e : Edge) (status : Nat) : State × List Nat :=
  match s.node e.node with
  | some d =>
    if d.state ≠ 1 || d.acceptOrder ≠ e.order then (s, [])
    else if status = stOk || d.isFence then
      ((s.setNode e.node { d with units := d.units - 1 }).tryLeave e.node, [])
    else (s, [e.node])
  | none => (s, [])

/-- A half has a SCHED credit toward the other: fewer than 1,024 notifications are on their way (R138). -/
def State.schedCredit (s : State) (h : Nat) : Bool := decide ((if h = 0 then s.dv.sched1 else s.dv.sched0).length < 1024)

/-- A notification leaves a half in the SCHED class; it counts in CROSS_NOTIFICATIONS (R32, R36, R154). -/
def State.notifyCross (s : State) (h : Nat) (e : Edge) (status : Nat) : State :=
  State.cross (if h = 0 then
    { s with dv := { s.dv with
        sched1 := s.dv.sched1 ++ [(e, status)]
        crossSent0 := s.dv.crossSent0 + 1 } }
  else
    { s with dv := { s.dv with
        sched0 := s.dv.sched0 ++ [(e, status)]
        crossSent1 := s.dv.crossSent1 + 1 } }) h 1 0

/-- The walk of a node's successors: units in the same half, SCHED notifications to the other (R119). A walk that finds no SCHED
credit waits there with what is left of it (R138). -/
def State.walk (s : State) (h status : Nat) : List Edge → State × List Nat
  | [] => (s, [])
  | e :: es =>
    if halfOfNode e.node = h then
      let (t, fs) := s.satisfyUnit e status
      let (u, gs) := t.walk h status es
      (u, fs ++ gs)
    else if s.schedCredit h then (s.notifyCross h e status).walk h status es
    else ({ s with dv := { s.dv with walks := s.dv.walks ++ [⟨h, status, e :: es⟩] } }, [])

/-- The walks that wait for a credit go on, in order, as far as the credits that have come back let them (R138). -/
def State.resumeWalks (s : State) : State × List Nat :=
  s.dv.walks.foldl (fun (p : State × List Nat) w =>
    let (t, fs) := p.1.walk w.half w.status w.edges
    (t, p.2 ++ fs)) ({ s with dv := { s.dv with walks := [] } }, [])

/-- Every accepted command of a ring with a sequence number below `seq` has completed. -/
def State.earlierDone (s : State) (r seq : Nat) : Bool :=
  (s.nodesOfRing r).all fun p => decide (p.2.seq ≥ seq) || !p.2.live

/-- The FENCE units of a node on rings homed in the other half that are satisfied cross as SCHED notifications, each while a credit
is free (R36, R138, R154); such a unit is an ordinary one until its notification arrives. -/
def State.crossUnits (s : State) (n : Nat) : List (Nat × Nat) → State
  | [] => s
  | q :: qs =>
    let h := 1 - halfOfNode n
    match s.node n with
    | some d =>
      if s.homeHalf q.1 = h && s.earlierDone q.1 (q.2 + 1) && s.schedCredit h then
        State.crossUnits ((s.setNode n { d with units := d.units + 1, fenceOn := d.fenceOn.erase q }).notifyCross h
          ⟨n, true, d.acceptOrder⟩ stOk) n qs
      else s.crossUnits n qs
    | none => s

/-- Clears the BARRIER and FENCE units that are now satisfied; the nodes they held leave WAITING (R116). -/
def State.settleUnits (s : State) : State :=
  (s.dv.nodes.filter fun p => p.2.state = 1 && (p.2.barrier || !p.2.fenceOn.isEmpty)).foldl (fun t0 p =>
    let t := t0.crossUnits p.1 p.2.fenceOn
    match t.node p.1 with
    | some d =>
      (t.setNode p.1 { d with
        barrier := d.barrier && !t.earlierDone d.ring d.seq
        fenceOn := d.fenceOn.filter fun q => t.homeHalf q.1 ≠ halfOfNode p.1 || !t.earlierDone q.1 (q.2 + 1) }).tryLeave p.1
    | none => t) s

/-- One node completes; the nodes that fail with it are reported. -/
def State.completeStep (s : State) (n : Nat) (d : Node) (status detail : Nat) : State × List Nat :=
  let s1 := s.markDone n d status detail
  let (s2, fs) := s1.walk (halfOfNode n) status d.succs
  let bar := if status = stOk then [] else
    ((s2.nodesOfRing d.ring).filter fun p =>
      p.2.state = 1 && p.2.barrier && !p.2.isFence && decide (p.2.seq > d.seq)).map (·.1)
  (s2.settleUnits, fs ++ bar)

/-- Completes a list of nodes and every node that fails with them (R104). -/
def completeAll : Nat → List (Nat × Nat × Nat) → State → State
  | 0, _, s => s
  | _, [], s => s
  | f + 1, (n, st, det) :: w, s =>
    match s.node n with
    | some d =>
      if d.live then
        let (s1, fs) := s.completeStep n d st det
        completeAll f (w ++ fs.map fun m => (m, stPredFailed, 0)) s1
      else completeAll f w s
    | none => completeAll f w s

/-- A bound on the completions that one completion can cause. -/
def State.completeFuel (s : State) : Nat :=
  let n := s.dv.nodes.length
  2 + n * n + s.dv.nodes.foldl (fun k p => k + p.2.succs.length) 0

/-- The ABORT of a ring ends when every command it covers has completed (R108, R531). -/
def State.endAborts (s : State) : State :=
  { s with rings := Map.each s.rings fun r g =>
      if g.aborting && (s.nodesOfRing r).all (fun p => !p.2.live) && g.skipping.isNone then
        { g with aborting := false, fault := none, keptFaults := [] }
      else g }

/-- A node completes with a status and the DETAIL of its record. -/
def State.complete (s : State) (n status detail : Nat) : State :=
  (completeAll (s.completeFuel + 1) [(n, status, detail)] s).endAborts

/-- The node holds its ring's pending fault or a kept one. -/
def State.isFaulting (s : State) (n : Nat) (d : Node) : Bool :=
  let g := s.ring d.ring
  (match g.fault with
    | some f => f.node == some n
    | none => false) || g.keptFaults.any fun f => f.node == some n

/-- The status a LAUNCH completes with when its items have ended (R137, R278, R433, R531). -/
def Node.launchStatus (d : Node) : Nat :=
  match d.result with
  | some st => st
  | none => if d.uncorrectable || d.writeLost then stUncorrectable else if d.precisionFailed then stPrecision else stOk

/-- A LAUNCH completes when it has no fresh item, no requeued item and no outstanding item (R137). -/
def State.checkLaunch (s : State) (n : Nat) : State :=
  match s.node n with
  | some d =>
    if d.isLaunch && d.state == 4 && !d.hasItems && d.outstanding == 0 && d.requeue.isEmpty
        && !(s.isFaulting n d && d.result.isNone)
        && !(s.flt.recalls.any fun r => r.node == n) then
      s.complete n d.launchStatus 0
    else s
  | none => s

/-! ### Eligibility and open sets (R122, R132) -/

/-- A context holds a compartment of a sector that is not YIELDING. -/
def State.holdsOpen (s : State) (c k : Nat) : Bool :=
  (compsOfSector k).any fun i => (s.comp i).holder == some c && !(s.comp i).yielding

/-- The second and third conditions of R122. -/
def State.ringAllows (s : State) (n : Nat) (d : Node) : Bool :=
  let g := s.ring d.ring
  !g.aborting &&
    (if d.state = 3 then g.fault.isNone
     else match g.fault with
      | some f => f.node != some n
      | none => true)

/-- A LAUNCH is eligible in a sector of its home half (R122). -/
def State.eligible (s : State) (n : Nat) (d : Node) (k : Nat) : Bool :=
  halfOfSector k == halfOfNode n && s.holdsOpen d.ctx k && s.ringAllows n d

/-- A dispatched task joins the open set of every sector where it is eligible and there is room; it leaves every open set
when it has no item to grant. -/
def State.joinOpenSets (s : State) (n : Nat) : State :=
  match s.node n with
  | some d =>
    if d.isLaunch && d.state == 4 then
      (List.range 4).foldl (fun t j =>
        let k := 4 * halfOfNode n + j
        let x := t.sector k
        if d.hasItems then
          (if x.openSet.contains n || !t.eligible n d k || decide (64 ≤ x.openSet.length) then t
           else t.setSector k { x with openSet := x.openSet ++ [n] })
        else if x.openSet.contains n then t.setSector k { x with openSet := x.openSet.filter (· ≠ n) }
        else t) s
    else s
  | none => s

/-- Every dispatched task of a half joins the open sets that now have room for it. -/
def State.rejoin (s : State) (h : Nat) : State :=
  (s.dv.nodes.filter fun p => halfOfNode p.1 = h && p.2.isLaunch && p.2.state == 4).foldl
    (fun t p => t.joinOpenSets p.1) s

/-! ### Fault interrupts and ring faults (R107, R108, R166, R331) -/

/-- Raises a ring's fault interrupt with a reason (R166). -/
def State.raiseFault (s : State) (r reason : Nat) : State :=
  let g := s.ring r
  let s1 := s.setRing r { g with
    irqFault := true
    lastFault := BitVec.ofNat 8 reason
    faultEvents := g.faultEvents + 1 }
  if g.maskFault then s1 else s1.msix (s.homeHalf r) (bits g.vectors.toNat 16 16)

/-- A remote SIGNAL of a node has no open flow to its target's device (R169, R381). -/
def State.signalCut (s : State) (d : Node) : Bool :=
  match targetOf (d.cmd.wide 0) with
  | some (_, some dev) => !s.ecl.flows.any fun p => p.2.state = 2 && p.2.ctx = d.ctx && p.2.peer = dev
  | _ => false

/-- The items that an ABORT leaves and the other effects of the abort on one node of the ring (R531). `stop` is what
cancels a ROUTE and takes a WAIT out of its wait. -/
def State.abortNode (s : State) (stop : Nat → State → State) (n : Nat) (d : Node) : State :=
  if d.state ≤ 3 then s.complete n stFaulted 0
  else
    let op := d.cmd.opcode
    if op = opLaunch then
      (((s.setNode n { d with stopped := true, requeue := [], result := some stFaulted }).joinOpenSets n).checkLaunch n)
    else if op = opRoute ∨ op = opWait then (stop n s).complete n stFaulted 0
    else if op = opHostStep then
      (s.updRing d.ring fun g => if g.stepSeq = d.seq then { g with stepSeq := 0 } else g).complete n stFaulted 0
    else if op = opEpoch && d.result.isSome then s
    else if op = opSignal && decide (d.signalState ≥ 2) && !s.signalCut d then s
    else if op = opSignal then
      ({ s with ecl := { s.ecl with signals := s.ecl.signals.filter fun m => !(m.node == n && m.kind == 0) } }).complete
        n stFaulted 0
    else s.complete n stFaulted 0

/-- A recall (R423): the grants that hold items of the task end without requeueing them, core by core; the recall ends
when every core has acknowledged. -/
def State.startRecall (s : State) (n : Nat) (retry : Bool) : State :=
  let cs := (s.cores.filter fun p =>
    match p.2.grant with
    | some g => g.node == n
    | none => false).map (·.1)
  let s1 := cs.foldl (fun t c => t.updCore c fun k => { k with recalling := some n }) s
  { s1 with flt := { s1.flt with recalls := s1.flt.recalls ++ [⟨n, cs, retry⟩] } }

/-- The cores that reported a mismatch on an item of the task (R134, R136). -/
def Node.barredFrom (d : Node) (item : Nat) : List Nat := (d.barred.filter fun p => p.1 = item).map (·.2)

/-- What follows a recall that is complete: every item is issued again, or the task completes with FAULTED (R108). -/
def State.finishRecall (s : State) (n : Nat) (retry : Bool) : State :=
  match s.node n with
  | some d =>
    if s.dv.resetting = some d.ctx then s
    else if retry then
      let again := List.range d.nextItem
      ((s.setNode n { d with
        requeue := again.map fun i => ⟨i, false, true, d.barredFrom i⟩
        stopped := false
        outstanding := 0
        sat := 0
        nans := 0
        precisionFailed := false
        reissuedFlag := d.reissuedFlag || !again.isEmpty
        dispatchedAt := some s.now }).joinOpenSets n).checkLaunch n
    else
      (s.setNode n { d with stopped := true, requeue := [], outstanding := 0, result := some stFaulted }).complete n stFaulted d.detail
  | none => s

/-- Ends every recall whose cores have all acknowledged. -/
def State.endRecalls (s : State) : State :=
  (s.flt.recalls.filter fun r => r.cores.isEmpty).foldl (fun t r => t.finishRecall r.node r.retry)
    { s with flt := { s.flt with recalls := s.flt.recalls.filter fun r => !r.cores.isEmpty } }

/-- A faulting command as RESUME_SKIP treats it (R108): a dispatched LAUNCH is recalled, another is stopped by its executor; the
cause is the DETAIL of its record. -/
def State.skipNode (s : State) (stop : Nat → State → State) (n cause : Nat) (d : Node) : State :=
  if !d.live then s
  else if d.isLaunch && d.state == 4 then
    ((s.setNode n { d with stopped := true, requeue := [], detail := cause }).startRecall n false).endRecalls
  else
    let s1 := s.abortNode stop n d
    match s1.node n with
    | some e => if e.state = 5 then s1.setNode n { e with detail := cause } else s1
    | none => s1

/-- The ABORT of a ring (R108, R531): the accepted commands not yet dispatched complete with FAULTED, all by the state they had
when the ABORT was served; then those with an executor are treated by their state, and the faulting command as RESUME_SKIP treats
it. -/
def State.abortRing (s : State) (stop : Nat → State → State) (r : Nat) : State :=
  let cause := ((s.ring r).fault.map (·.cause)).getD 0
  let faulting := (s.ring r).fault.bind (·.node)
  let s1 := s.updRing r fun g => { g with aborting := true, keptFaults := [] }
  let early := (s1.nodesOfRing r).filter fun p => decide (1 ≤ p.2.state ∧ p.2.state ≤ 3)
  let s2 := completeAll (s1.completeFuel + early.length)
    (early.map fun p => (p.1, stFaulted, if faulting == some p.1 then cause else 0)) s1
  let s3 := (s2.nodesOfRing r).foldl (fun t p =>
    if faulting == some p.1 then t
    else match t.node p.1 with
      | some d => if d.live then t.abortNode stop p.1 d else t
      | none => t) s2
  let s4 := match faulting with
    | some n =>
      (match s3.node n with
        | some d => s3.skipNode stop n cause d
        | none => s3)
    | none => s3
  s4.endAborts

/-- Causes of commands that were never accepted (R108). -/
def unacceptedCause (c : Nat) : Bool :=
  c == fcSeqGap || c == fcMalformed || c == fcCommandRead || c == fcRefHold || c == fcTranslation

/-- The ring enters FAULTED: FAULT_CAPTURE is written, then the state shows it, and the fault interrupt is raised. A freeze of
the event rings that this sets off leaves its event unrecorded (R487). A device-side ring is counted and aborted by firmware
(R331). -/
def State.enterFault (s : State) (r : Nat) (f : RingFault) : State :=
  let s1 := s.updRing r fun g => { g with fault := some f, capture := some f }
  let s2 := s1.log 0x11 6 0 0 (s.ringField r) f.cause (f.seq % 2 ^ 32)
  let shown (t : State) : State := t.event unRingEngine (s.homeHalf r) 0x02 f.cause (s.ringField r)
  if isHostRing r then
    shown (((s2.raiseFault r stFaulted).trigger 1 (ctxField (s.ring r).ctx r) f.cause).freezeOn 1)
  else
    ((shown s2).updRing r fun g =>
      { g with
        faultsHandled := g.faultsHandled + 1
        skipping := if f.node.isNone && unacceptedCause f.cause then some f.cause else none
        held := if f.node.isNone && unacceptedCause f.cause then none else g.held
        reread := false }).abortRing (fun _ t => t) r

/-- A fault of a ring; a second one while it is FAULTED is kept, in order (R107). -/
def State.ringFault (s : State) (r : Nat) (f : RingFault) : State :=
  if (s.ring r).enabled then
    (if (s.ring r).fault.isSome then s.updRing r fun g => { g with keptFaults := g.keptFaults ++ [f] }
     else s.enterFault r f)
  else s

/-- The fault of a node's ring (R108, R109). -/
def State.nodeFault (s : State) (n cause : Nat) (address : BitVec 64) (cores : List (Nat × Nat × Nat)) : State :=
  match s.node n with
  | some d =>
    s.ringFault d.ring ⟨cause, d.seq, s.now, address, some n, s.nodeBytes n d, some d.asRead, cores.take 16⟩
  | none => s

/-! ### Requeueing items (R136, R424) -/

/-- Returns an item of a task to its requeue list, at the tail, with REISSUE set (R277, R422) and barred from every core that
reported a mismatch on it; `barred` holds the core that does so now. The item's count of re-issues rises; the requeue that
would take it past REISSUE_LIMIT faults the ring instead. -/
def State.requeueItem (s : State) (n item : Nat) (alt : Bool) (barred : List Nat) : State :=
  match s.node n with
  | some d =>
    let d1 := { d with outstanding := d.outstanding - 1, barred := d.barred ++ barred.map fun c => (item, c) }
    if d.stopped || (s.ring d.ring).aborting then s.setNode n d1
    else
      let cnt := Map.at d.reissues 0 item
      if decide (cnt ≥ s.set.reissueLimit) then (s.setNode n d1).nodeFault n fcReissueLimit 0 []
      else
        (s.setNode n { d1 with
          reissues := Map.put d.reissues item (cnt + 1)
          reissuedFlag := true
          requeue := d.requeue ++ [⟨item, alt, true, d1.barredFrom item⟩] }).joinOpenSets n
  | none => s

end Sys2Proof.Machine
end

