-- ==== Sys2Proof/Machine/Sems.lean ====
section
/-! DEFINITION. The semaphore fabric (R347–R370): semaphore words, arrival checks, the phases of one cycle, release order. -/
namespace Sys2Proof.Machine

/-! ### Semaphore words (R348) -/

def semValue (w : Word) : Nat := w.toNat % 2 ^ 24
def semMono (w : Word) : Bool := w.getLsbD 31
def semOverflow (w : Word) : Bool := w.getLsbD 30
def semUnderflow (w : Word) : Bool := w.getLsbD 29

/-- A semaphore word from its fields. -/
def mkSem (mono ovf under : Bool) (value : Nat) : Word :=
  BitVec.ofNat 32 (b2n mono * 2 ^ 31 + b2n ovf * 2 ^ 30 + b2n under * 2 ^ 29 + value % 2 ^ 24)

/-- The shared semaphore of an index. -/
def State.shared (s : State) (i : Nat) : SharedSem := Map.at s.fab.shared SharedSem.reset i

/-- The word of a semaphore. -/
def State.sem (s : State) : SemId → Word
  | .core c k => Map.at (s.core c).sems 0 k
  | .shared i => (s.shared i).word

/-- Writes the word of a semaphore. -/
def State.setSem (s : State) (id : SemId) (w : Word) : State :=
  match id with
  | .core c k => s.updCore c fun x => { x with sems := Map.put x.sems k w }
  | .shared i => { s with fab := { s.fab with shared := Map.put s.fab.shared i { s.shared i with word := w } } }

/-- The half a semaphore is homed in (R347). -/
def semHalf : SemId → Nat
  | .core c _ => halfOfCore c
  | .shared i => i / 2048

/-- A shared semaphore is bound to a context: as its owner or a guest (R366). -/
def State.boundTo (s : State) (i c : Nat) : Bool :=
  let x := s.shared i
  x.bound && (x.owner.toNat % 1024 == c || x.guests.any fun g => g.getLsbD 15 && g.toNat % 1024 == c)

/-- The context is bound as a guest. -/
def State.guestOf (s : State) (i c : Nat) : Bool :=
  let x := s.shared i
  x.bound && x.guests.any fun g => g.getLsbD 15 && g.toNat % 1024 == c

/-- The context holds the core's compartment (R243, R363). -/
def State.holdsCore (s : State) (ctx c : Nat) : Bool := (s.comp (compOfCore c)).holder == some ctx

/-- VALUE gives the amount: at least n in counting mode, reached n in monotonic mode (R350, R354). -/
def semFits (w : Word) (n : Nat) : Bool :=
  if semMono w then decide ((semValue w + 2 ^ 24 - n % 2 ^ 24) % 2 ^ 24 < 2 ^ 23) else decide (n ≤ semValue w)

/-- SIGNAL +n on a word: the new word, and whether it set OVERFLOW (R349, R350). -/
def semAdd (w : Word) (n : Nat) : Word × Bool :=
  if semMono w then (mkSem true (semOverflow w) (semUnderflow w) (semValue w + n), false)
  else if semValue w + n > 16777215 then (mkSem false true (semUnderflow w) 16777215, true)
  else (mkSem false (semOverflow w) (semUnderflow w) (semValue w + n), false)

/-- SIGNAL +n on a semaphore. -/
def State.semSignal (s : State) (id : SemId) (n : Nat) : State :=
  let (w, o) := semAdd (s.sem id) n
  let s1 := s.setSem id w
  let s2 := if o then { s1 with fab := { s1.fab with overflows := s1.fab.overflows + 1 } } else s1
  s2.count unSemaphore (semHalf id) 0x01 1

/-! ### Waiters (R353–R355, R357–R359) -/

/-- A release leaves for its core; one from the other half crosses in the SYNC class (R32). -/
def State.sendRelease (s : State) (r : Release) : State :=
  let t := { s with fab := { s.fab with releases := s.fab.releases ++ [r] } }
  if semHalf r.sem = halfOfCore r.core then t else t.cross (semHalf r.sem) 2 0

/-- A waiter leaves the queue with a status; `returns` is what a flushed release gives back (R358). -/
def State.releaseWaiter (s : State) (w : Waiter) (status returns : Nat) : State :=
  let s1 := { s with fab := { s.fab with waiters := s.fab.waiters.filter (· ≠ w) } }
  let s2 := s1.count unSemaphore (semHalf w.sem) 0x03 1
  match w.core with
  | some c =>
    s2.sendRelease ⟨c, w.queue, w.instr, BitVec.ofNat 32 status, w.sem, w.ctx, w.resetCount, returns⟩
  | none =>
    match w.node with
    | some n =>
      let s3 := s2.updNode n fun d => { d with result := some status }
      if semHalf w.sem = halfOfNode n then s3 else s3.cross (semHalf w.sem) 2 0
    | none => s2

/-- Every WAITGE waiter whose condition holds is released (R355). -/
def State.serveWaitge (s : State) (id : SemId) : State :=
  (s.fab.waiters.filter fun w => w.sem = id && !w.take && semFits (s.sem id) w.amount).foldl
    (fun t w => t.releaseWaiter w stOk 0) s

/-- TAKE waiters are served in queue order until the first whose request does not fit (R354). -/
def serveTakeN : Nat → State → SemId → State
  | 0, s, _ => s
  | k + 1, s, id =>
    match s.fab.waiters.find? fun w => w.sem = id && w.take with
    | some w =>
      let v := s.sem id
      if semFits v w.amount then
        let s1 := if semMono v then s
          else s.setSem id (mkSem false (semOverflow v) (semUnderflow v) (semValue v - w.amount))
        serveTakeN k (s1.releaseWaiter w stOk (if semMono v then 0 else w.amount)) id
      else s
    | none => s

def State.serveTake (s : State) (id : SemId) : State := serveTakeN s.fab.waiters.length s id

/-- A TAKE released without its amount sets UNDERFLOW (R351). -/
def State.setUnderflow (s : State) (id : SemId) : State :=
  let v := s.sem id
  s.setSem id (mkSem (semMono v) (semOverflow v) true (semValue v))

/-- A waiter is released with ABANDONED or TIMEOUT: nothing is consumed, a TAKE sets UNDERFLOW, and the waiters behind it
are served (R351, R354). -/
def State.dropWaiter (s : State) (w : Waiter) (status : Nat) : State :=
  let s1 := s.releaseWaiter w status 0
  let s2 := if w.take then s1.setUnderflow w.sem else s1
  s2.serveTake w.sem

/-! ### Arrival (R352, R363–R367) -/

/-- An operation leaves its issuer for the semaphore; one aimed at the other half crosses in the SYNC class (R32). -/
def State.semSend (s : State) (m : SemMsg) : State :=
  let h := match m.source with
    | .core c => halfOfCore c
    | .command r => s.homeHalf r
    | .remote _ => semHalf m.sem
  let t := { s with fab := { s.fab with msgs := s.fab.msgs ++ [m] } }
  if h = semHalf m.sem then t else t.cross h 2 0

/-- How an arriving operation is taken: 0 applied, 1 stale (R363, R364, R367), 2 the target core is fenced (R365). A remote signal
has passed the checks of R370. -/
def State.arrival (s : State) (m : SemMsg) : Nat :=
  let live := match s.ctx m.ctx with
    | some x => x.resetCount % 8 == m.resetCount
    | none => false
  if m.kind = 3 then 0
  else
    match m.sem with
    | .core c _ => if s.fenced c then 2 else if live && s.holdsCore m.ctx c then 0 else 1
    | .shared i => if live && s.boundTo i m.ctx then 0 else 1

/-- A discarded operation is answered, so that no issuer waits for ever: a wait on a per-core semaphore with ABANDONED, a command
on an unbound shared one with OK (R363, R365, R367). -/
def State.answerDiscarded (s : State) (m : SemMsg) : State :=
  let answer (v : Word) : State := match m.source with
    | .core c => s.sendRelease ⟨c, m.queue, m.instr, v, m.sem, m.ctx, m.resetCount, 0⟩
    | _ => s
  match m.node with
  | some n =>
    let st := match m.op, m.sem with
      | .take _, .core _ _ => stAbandoned
      | .waitge _, .core _ _ => stAbandoned
      | _, _ => stOk
    s.updNode n fun d => if m.kind = 0 then { d with result := some st } else { d with signalState := 2 }
  | none =>
    match m.op with
    | .read => answer 0
    | .take _ => answer (BitVec.ofNat 32 stAbandoned)
    | .waitge _ => answer (BitVec.ofNat 32 stAbandoned)
    | _ => s

/-- A completion signal is dropped (R168). SIGNALS_DROPPED is the context's own running count, from 0 at its creation, whatever the
Tally's base (DESIGN CHOICE, log 145). -/
def State.dropCompletion (s : State) (n : Nat) : State :=
  match s.node n with
  | some d =>
    (s.setNode n { d with signalState := 2, signalDropped := true }).updCtx d.ctx fun x =>
      { x with signalsDropped := x.signalsDropped + 1 }
  | none => s

/-- Discards an arriving operation that is stale or meets a fenced core; a completion signal whose target is no longer bound is
dropped instead (R168, R367). -/
def State.discard (s : State) (m : SemMsg) (why : Nat) : State :=
  let s1 := if why = 2 then { s with fab := { s.fab with fencedOps := s.fab.fencedOps + 1 } }
    else { s with fab := { s.fab with stale := s.fab.stale + 1 } }
  match m.node with
  | some n => if m.kind = 1 then s.dropCompletion n else s1.answerDiscarded m
  | none => s1.answerDiscarded m

/-- For each listed source its oldest operation in a list; a source listed again arrives with its next one too. -/
def takeArriving : List SemMsg → List SemSource → List SemMsg
  | _, [] => []
  | ms, x :: xs =>
    match ms.find? fun m => m.source = x with
    | some m => m :: takeArriving (ms.erase m) xs
    | none => takeArriving ms xs

/-- The operations to one semaphore that arrive in one cycle, each source's in the order in which it issued them (R352, R353). -/
def State.arriving (s : State) (id : SemId) (srcs : List SemSource) : List SemMsg :=
  takeArriving (s.fab.msgs.filter fun m => m.sem = id) srcs

/-- Order of SIGNALs in one cycle: cores by id, then commands and remote signals (R352). -/
def sourceKey : SemSource → Nat
  | .core c => c
  | _ => 16384

/-- Insertion by a key, stable. -/
def insertBy {α : Type} (key : α → Nat) (x : α) : List α → List α
  | [] => [x]
  | y :: ys => if key x < key y then x :: y :: ys else y :: insertBy key x ys

/-- A stable sort by a key. -/
def sortBy {α : Type} (key : α → Nat) (l : List α) : List α := l.foldl (fun acc x => insertBy key x acc) []

/-- Order of waiters that arrive in one cycle: core waits by core and queue, then WAIT commands by context, ring and SEQ
(R353). -/
def State.waitKey (s : State) (m : SemMsg) : Nat :=
  match m.source with
  | .core c => 4 * c + m.queue
  | _ =>
    match m.node with
    | some n =>
      (match s.node n with
        | some d => 65536 + (d.ctx * 64 + ringNo d.ring) * 2 ^ 64 + d.seq
        | none => 65536)
    | none => 65536

/-- A signal has been added: its issuer learns it (R168, R175, R359). -/
def State.signalApplied (s : State) (m : SemMsg) : State :=
  match m.node with
  | some n => s.updNode n fun d => if m.kind = 0 then { d with result := some stOk } else { d with signalState := 2 }
  | none => s

/-- Operations on a core's semaphores are held while its stand, drained, is under substitution (R426). -/
def State.semHeld (s : State) : SemId → Bool
  | .core c _ => s.standDrained (standOfCore c)
  | .shared _ => false

/-- The operations that arrive at a semaphore in one cycle are applied in the order of R352. -/
def State.semApply (s : State) (id : SemId) (ms : List SemMsg) : State :=
  let good := ms.filter fun m => s.arrival m = 0
  let s1 := (ms.filter fun m => s.arrival m ≠ 0).foldl (fun t m => t.discard m (s.arrival m)) s
  -- 1: INIT
  let s2 := good.foldl (fun t m => match m.op with
    | .init v mono => t.setSem id (mkSem mono false false v)
    | _ => t) s1
  -- 2: every SIGNAL
  let s3 := (sortBy (fun (m : SemMsg) => sourceKey m.source) good).foldl (fun t m => match m.op with
    | .signal n => (t.semSignal id n).signalApplied m
    | _ => t) s2
  -- OVERFLOW is set once in the cycle (R372)
  let s3 := { s3 with fab := { s3.fab with overflows := if s3.fab.overflows = s2.fab.overflows then s3.fab.overflows else s2.fab.overflows + 1 } }
  -- 3 and 4: the waiters already queued
  let s4 := (s3.serveWaitge id).serveTake id
  -- 5: the new waits
  let s5 := (sortBy s.waitKey good).foldl (fun t m =>
    let w (n : Nat) (tk : Bool) : Waiter :=
      ⟨id, (match m.source with
        | .core c => some c
        | _ => none), m.queue, m.instr, m.node, m.ctx, m.resetCount, m.watchdog, n, tk⟩
    match m.op with
    | .take n => ({ t with fab := { t.fab with waiters := t.fab.waiters ++ [w n true] } }).count unSemaphore (semHalf id) 0x02 1
    | .waitge n => ({ t with fab := { t.fab with waiters := t.fab.waiters ++ [w n false] } }).count unSemaphore (semHalf id) 0x02 1
    | _ => t) s4
  let s6 := (s5.serveWaitge id).serveTake id
  -- 6: READ
  good.foldl (fun t m => match m.op, m.source with
    | .read, .core c => t.sendRelease ⟨c, m.queue, m.instr, t.sem id, id, m.ctx, m.resetCount, 0⟩
    | _, _ => t) s6

/-- Waiters leave their queues without being served; then the waiters behind them are served, against the value as it stands
(R354). -/
def State.leaveWaits (s : State) (leaves : Waiter → Bool) : State :=
  let s1 := { s with fab := { s.fab with waiters := s.fab.waiters.filter fun w => !leaves w } }
  ((s.fab.waiters.filter leaves).map (·.sem)).eraseDups.foldl State.serveTake s1

/-- A SIGNAL or WAIT command leaves the fabric: its operation on the way is withdrawn and its wait ends (R354, R531). -/
def State.leaveWait (s : State) (n : Nat) : State :=
  State.leaveWaits { s with fab := { s.fab with msgs := s.fab.msgs.filter fun m => m.node ≠ some n } } fun w => w.node == some n

/-- The core's waits are flushed: waiters leave their queues and the waiters behind them are served; operations of its waits
still on their way are dropped (R244, R354, R358). -/
def State.flushWaits (s : State) (c : Nat) : State :=
  let s1 := { s with fab := { s.fab with msgs := s.fab.msgs.filter fun (m : SemMsg) => !(m.source == SemSource.core c && (match m.op with
      | .take _ => true
      | .waitge _ => true
      | .read => true
      | _ => false)) } }
  s1.leaveWaits fun w => w.core == some c

/-- The reset of an owner context acts on each shared semaphore it owns (R368). -/
def State.ownerReset (s : State) (c : Nat) : State :=
  (s.fab.shared.filter fun p => p.2.bound && p.2.owner.toNat % 1024 == c).foldl (fun t p =>
    let id := SemId.shared p.1
    let own := t.fab.waiters.filter fun w => w.sem = id && w.ctx = c
    let t1 := { t with fab := { t.fab with waiters := t.fab.waiters.filter fun w => !own.contains w } }
    let t2 := (t1.fab.waiters.filter fun w => w.sem = id).foldl (fun u w =>
      let u1 := u.releaseWaiter w stAbandoned 0
      let u2 := if w.take then u1.setUnderflow id else u1
      { u2 with fab := { u2.fab with abandoned := u2.fab.abandoned + 1 } }) t1
    let v := t2.sem id
    t2.setSem id (mkSem (semMono v) false (semUnderflow v) 0)) s

/-- The waiters of a context on shared semaphores are discarded; the waiters behind them are served. -/
def State.discardWaiters (s : State) (c : Nat) : State :=
  s.leaveWaits fun w => w.ctx == c

/-- The WAIT commands of a context are discarded (step 3 of R527); the waiters behind them are served (R354). -/
def State.discardWaits (s : State) (c : Nat) : State :=
  s.leaveWaits fun w => w.ctx == c && w.node.isSome

/-- Step 4 of R527, once: when no core is left to acknowledge the recall of step 3. -/
def State.resetFabricStep (s : State) : State :=
  match s.dv.resetting with
  | some c =>
    if s.dv.resetFabric && !(s.flt.recalls.any fun r => (match s.node r.node with
        | some d => d.ctx == c
        | none => false) && !r.cores.isEmpty) then
      let t := (s.ownerReset c).discardWaiters c
      { t with dv := { t.dv with resetFabric := false } }
    else s
  | none => s

end Sys2Proof.Machine
end

