-- ==== Sys2Proof/Machine/Flows.lean ====
section
/-! DEFINITION. Eclahild's shared operations (R376–R391): packets, sending, acknowledgement, closing of flows, remote
signals and their order (R169, R389). -/
namespace Sys2Proof.Machine

def typeData : Byte := 0x01
def typeAck : Byte := 0x02
def typeNak : Byte := 0x03
def typeOpen : Byte := 0x04
def typeOpenAck : Byte := 0x05
def typeClose : Byte := 0x06
def typeClosed : Byte := 0x07
def typeTime : Byte := 0x08

/-- The flow of a number: CLOSED where none was ever opened. -/
def Flow.reset : Flow where
  ctx := 0
  peer := 0
  peerCtx := 0
  planes := 0
  state := 0
  reason := 0
  remote := 0x3FFF
  peerInc := 0
  retransmits := 0
  messages := 0
  nextPsn := 1
  unacked := []
  unsent := []
  lastPlane := 7
  expected := 1
  rxBuffer := []
  rxMessage := []
  inbox := []
  ackOwed := 0
  ackSince := 0
  gapSince := none
  openSentAt := 0

def State.flow (s : State) (f : Nat) : Flow := Map.at s.ecl.flows Flow.reset f
def State.setFlow (s : State) (f : Nat) (x : Flow) : State := { s with ecl := { s.ecl with flows := Map.put s.ecl.flows f x } }
def State.updFlow (s : State) (f : Nat) (g : Flow → Flow) : State := s.setFlow f (g (s.flow f))

def State.peer (s : State) (d : Nat) : Peer := Map.at s.ecl.peers Peer.reset d
def State.updPeer (s : State) (d : Nat) (g : Peer → Peer) : State :=
  { s with ecl := { s.ecl with peers := Map.put s.ecl.peers d (g (s.peer d)) } }

/-- The open flow of a context to a device. -/
def State.openFlow (s : State) (c d : Nat) : Option Nat :=
  (s.ecl.flows.find? fun p => p.2.state = 2 && p.2.ctx = c && p.2.peer = d).map (·.1)

/-- State of an exchange port (R378): 0 DISABLED, 1 DOWN, 2 UP, 3 FAILED. -/
def XPort.state (x : XPort) : Nat := if x.failed then 3 else if !x.enable then 0 else if x.linkUp then 2 else 1

/-- The UP planes a flow may use. -/
def State.upPlanes (s : State) (planes : Byte) : List Nat :=
  (List.range 8).filter fun p => planes.getLsbD p && (s.xport p).state = 2

/-- The next plane in turn after the last one used. -/
def nextPlane (ps : List Nat) (last : Nat) : Option Nat :=
  match ps.find? fun p => p > last with
  | some p => some p
  | none => ps.head?

/-! ### Packets (R383) -/

/-- The bytes of a packet up to the end of its padding. -/
def packetBytes (type : Byte) (p : Packet) : List Byte :=
  [p.version, type, p.flags, p.reserved3] ++ u16 p.length.toNat ++ u16 p.srcDevice.toNat ++ u16 p.dstDevice.toNat
    ++ u16 p.srcFlow.toNat ++ u16 p.dstFlow.toNat ++ u16 p.reserved14.toNat ++ u32 p.psn.toNat ++ u32 p.ackPsn.toNat
    ++ u32 p.incarnation.toNat ++ u32 p.peerIncarnation.toNat ++ p.segment
    ++ List.replicate ((4 - p.segment.length % 4) % 4) 0

/-- The packet's CRC. -/
def packetCrc (type : Byte) (p : Packet) : Word := crc32c (packetBytes type p)

/-- A packet of this device to another. -/
def State.makePacket (s : State) (type : Byte) (dst srcFlow dstFlow psn ackPsn : Nat) (peerInc : Word) (last : Bool)
    (seg : List Byte) : Packet :=
  let p : Packet :=
    { header := []
      version := 1
      flags := if last then 1 else 0
      reserved3 := 0
      length := BitVec.ofNat 16 seg.length
      srcDevice := BitVec.ofNat 16 s.set.deviceId
      dstDevice := BitVec.ofNat 16 dst
      srcFlow := BitVec.ofNat 16 srcFlow
      dstFlow := BitVec.ofNat 16 dstFlow
      reserved14 := 0
      psn := BitVec.ofNat 32 psn
      ackPsn := BitVec.ofNat 32 ackPsn
      incarnation := s.ecl.incarnation
      peerIncarnation := peerInc
      segment := seg
      crc := 0
      trailer := [] }
  { p with crc := packetCrc type p }

/-- The MAC address of a port of a device (R377). -/
def State.macAddress (s : State) (device port : Nat) : List Byte :=
  slice s.set.macPrefix 0 3 ++ u8 (device / 64) ++ u8 (device % 64 * 4) ++ u8 port

/-- The header of an untagged Ethernet II frame: the two addresses, then the EtherType, high byte first (R376, R377). -/
def State.frameHeader (s : State) (dst src port : Nat) : List Byte :=
  s.macAddress dst port ++ s.macAddress src port ++ u8 (s.set.etherType / 256) ++ u8 s.set.etherType

/-- The bytes of a packet's frame, without the frame check sequence that the MAC computes (R376, R383). -/
def frameBytes (type : Byte) (p : Packet) : List Byte := p.header ++ packetBytes type p ++ u32 p.crc.toNat ++ p.trailer

/-- A packet of this device in its frame on a port: a packet shorter than 46 bytes has zeros after its CRC (R383). -/
def State.framed (s : State) (port : Nat) (type : Byte) (p : Packet) : Packet :=
  { p with
    header := s.frameHeader p.dstDevice.toNat s.set.deviceId port
    trailer := List.replicate (46 - ((packetBytes type p).length + 4)) 0 }

/-- A packet leaves on a port. -/
def State.sendPacket (s : State) (port : Nat) (type : Byte) (p : Packet) : State :=
  ((s.emit (.packet port type.toNat (s.framed port type p))).updXport port fun x => { x with tx := x.tx + 1 }).count unExchange port 0x01
    (36 + p.segment.length + (4 - p.segment.length % 4) % 4)

/-- A packet of a flow. -/
def State.flowPacket (s : State) (f : Nat) (type : Byte) (psn : Nat) (last : Bool) (seg : List Byte) : Packet :=
  let x := s.flow f
  s.makePacket type x.peer f x.remote psn x.expected x.peerInc last seg

/-- A flow packet leaves on the next UP plane in turn; nothing leaves when no plane is UP. -/
def State.sendOnFlow (s : State) (f : Nat) (type : Byte) (psn : Nat) (last : Bool) (seg : List Byte) : State × Option Nat :=
  let x := s.flow f
  match nextPlane (s.upPlanes x.planes) x.lastPlane with
  | some p => ((s.sendPacket p type (s.flowPacket f type psn last seg)).updFlow f fun y => { y with lastPlane := p }, some p)
  | none => (s, none)

/-- Sends the unsent segments of an open flow while at most 256 packets are unacknowledged (R385). -/
def pumpFlow : Nat → State → Nat → State
  | 0, s, _ => s
  | n + 1, s, f =>
    let x := s.flow f
    match x.unsent with
    | [] => s
    | (last, seg) :: rest =>
      if x.state ≠ 2 ∨ x.unacked.length ≥ 256 then s
      else
        let (s1, p) := s.sendOnFlow f typeData x.nextPsn last seg
        pumpFlow n (s1.updFlow f fun y => { y with
          unsent := rest
          nextPsn := (x.nextPsn + 1) % 2 ^ 32
          ackOwed := 0
          unacked := y.unacked ++ [⟨x.nextPsn, last, seg, p.getD 0, s.now, s.now, 0⟩] }) f

/-- The segments of a message (R384). -/
def segments (msg : List Byte) : List (Bool × List Byte) :=
  let ps := pieces 8192 (msg.length / 8192 + 1) msg
  ps.zipIdx.map fun p => (decide (p.2 + 1 = ps.length), p.1)

/-- Sends a message on an open flow. -/
def State.sendMessage (s : State) (f : Nat) (msg : List Byte) : State :=
  let sg := segments msg
  pumpFlow sg.length (s.updFlow f fun x => { x with unsent := x.unsent ++ sg }) f

/-- The incarnation drawn at bring-up, never zero (R382). -/
def State.draw (s : State) : State × BitVec 128 :=
  ({ s with boot := { s.boot with randomDraws := s.boot.randomDraws + 1 } }, Config.freeRandom s.boot.randomDraws)

/-! ### Remote signals (R169, R381, R389) -/

/-- A SIGNAL message. -/
def signalMessage (kind ring amount seq : Nat) (target : BitVec 64) : List Byte :=
  [0x10] ++ u8 kind ++ u8 ring ++ u8 0 ++ u32 amount ++ u64 seq ++ u64 target.toNat

/-- A SIGNAL_ACK message. -/
def signalAckMessage (flags ring : Byte) (result : Nat) (seq : BitVec 64) : List Byte :=
  [0x11, flags, ring] ++ u8 result ++ u32 0 ++ u64 seq.toNat

/-- A remote signal has every earlier one of its ring and kind behind it. -/
def firstOfOrder (l : List RemoteSignal) (m : RemoteSignal) : Bool :=
  (l.find? fun x => x.ring = m.ring && x.kind = m.kind) == some m

/-- A flow takes a remote signal: any flow to its device at first, then only one to the same peer context (R381). -/
def State.carries (s : State) (f : Nat) (m : RemoteSignal) : Bool :=
  match m.peerCtx with
  | some p => (s.flow f).peerCtx == p
  | none => true

/-- Sends each waiting remote signal that is first of its ring and kind and whose flow is open; a completion signal without
an open flow is dropped. -/
def State.pumpSignals (s : State) : State :=
  s.ecl.signals.foldl (fun t m =>
    if m.sent || !firstOfOrder t.ecl.signals m then t
    else
      let c := (t.ring m.ring).ctx
      match t.openFlow c m.device with
      | some f =>
        if !t.carries f m then t
        else
          let t1 := t.sendMessage f (signalMessage m.kind (ringNo m.ring % 8) m.amount m.seq m.target)
          let t2 := { t1 with ecl := { t1.ecl with
            signals := t1.ecl.signals.map fun x => if x = m then { x with sent := true, peerCtx := some (t.flow f).peerCtx } else x } }
          if m.kind = 0 then t2.updNode m.node fun d => { d with signalState := 2 } else t2
      | none =>
        if m.kind = 1 then
          ({ t with ecl := { t.ecl with signals := t.ecl.signals.filter (· ≠ m) } }).dropCompletion m.node
        else t) s

/-- A remote signal of kind 0 or 1 joins its ring's order. -/
def State.queueSignal (s : State) (m : RemoteSignal) : State :=
  ({ s with ecl := { s.ecl with signals := s.ecl.signals ++ [m] } }).pumpSignals

/-- What the close of a flow does to the remote signals waiting for acknowledgement on it (R381, R531). -/
def State.signalsOfClosed (s : State) (c dev : Nat) : State :=
  let mine (m : RemoteSignal) : Bool := m.sent && m.device == dev && (s.ring m.ring).ctx == c
  let dropped := s.ecl.signals.filter fun m => mine m && m.kind == 1
  let ended := s.ecl.signals.filter fun m => mine m && m.kind == 0 && (s.ring m.ring).aborting
  let s1 := { s with ecl := { s.ecl with
    signals := (s.ecl.signals.filter fun m => !dropped.contains m && !ended.contains m).map fun m =>
      if mine m then { m with sent := false } else m } }
  let s2 := dropped.foldl (fun t m => t.dropCompletion m.node) s1
  (ended.foldl (fun t m => t.complete m.node stFaulted 0) s2).pumpSignals

/-- Closes a flow (R381): what is unsent or unacknowledged is discarded; CLOSE is sent for the reasons that send it. Of the messages
already passed on (R385, R387), a SIGNAL is still applied, a SIGNAL_ACK is discarded (R388), and routing messages have no flow left to
act on (R322, R332; log 146). -/
def State.closeFlowOnly (s : State) (f reason : Nat) (send : Bool) : State :=
  let x := s.flow f
  if x.state = 0 then s
  else
    let s1 := if send then (s.sendOnFlow f typeClose 0 false []).1 else s
    let s2 := s1.updFlow f fun y => { y with
      state := 0
      reason := reason
      unacked := []
      unsent := []
      rxBuffer := []
      rxMessage := []
      inbox := y.inbox.filter fun m => m.head? == some 0x10
      ackOwed := 0
      gapSince := none }
    let others := s2.ecl.flows.any fun p => p.2.state ≠ 0 && p.2.peer = x.peer
    let s3 := if others then s2 else { s2 with ecl := { s2.ecl with peers := Map.del s2.ecl.peers x.peer } }
    s3.signalsOfClosed x.ctx x.peer

/-- A kernel signal to another device leaves on the context's open flow (R169, R243). -/
def State.kernelSignal (s : State) (f ring seq amount : Nat) (id : SemId) (dev : Nat) : State :=
  s.sendMessage f (signalMessage 2 (ringNo ring % 8) amount seq
    (BitVec.ofNat 64 (targetBits id + 2 ^ 62 + dev % 2 ^ 14 * 2 ^ 20)))

end Sys2Proof.Machine
end

