-- ==== Sys2Proof/Machine/CoreUnits.lean ====
section
/-! DEFINITION. What the units of a core compute: the scalar ALU (R222), the vector unit (R207, R208, R228, R229), rounding
streams and event counts of items (R261, R273–R275), and the conversions of the memory unit (R231, R259–R266). -/
namespace Sys2Proof.Machine

/-! ### Items of the grant (R261, R275) -/

/-- The current item: s1 when it names an item of the grant, otherwise FIRST. -/
def Core.currentItem (k : Core) : Nat :=
  match k.grant with
  | some g => let i := (k.s 1).toNat; if g.first ≤ i ∧ i < g.first + g.count then i else g.first
  | none => 0

/-- The stream and counts of an item. -/
def Core.item (k : Core) (i : Nat) : ItemState := (k.items.find? fun x => x.item = i).getD ⟨i, 0, 0, 0, 0⟩

/-- Replaces the stream and counts of an item. -/
def Core.updItem (k : Core) (i : Nat) (f : ItemState → ItemState) : Core :=
  { k with items := k.items.map fun x => if x.item = i then f x else x }

/-- Saturation and NaN events join the counts of an item; each count stops at 0xFFFF (R275). -/
def Core.addEvents (k : Core) (i sat nan : Nat) : Core :=
  k.updItem i fun x => { x with sat := min (x.sat + sat) 0xFFFF, nans := min (x.nans + nan) 0xFFFF }

/-- Takes `n` draws from an item's stream (R261). -/
def Core.takeDraws (k : Core) (i n : Nat) : Core := k.updItem i fun x => { x with ctr := x.ctr + BitVec.ofNat 32 n }

/-- The `j`-th draw of a stream from a key and a counter. -/
def drawAt (key ctr : Word) (j : Nat) : Nat := (rngDraw key (ctr + BitVec.ofNat 32 j)).toNat

/-- The stream of an item right after the start of a grant (R261). -/
def freshItem (seed : Word) (i : Nat) : ItemState := ⟨i, seed ^^^ (BitVec.ofNat 32 i * 0x9E3779B9), 0, 0, 0⟩

/-! ### The scalar ALU (R222) -/

/-- RA op B. -/
def aluResult (op : Byte) (a b : Word) : Word :=
  if op = 0x01 then a + b
  else if op = 0x02 then a - b
  else if op = 0x03 then a &&& b
  else if op = 0x04 then a ||| b
  else if op = 0x05 then a ^^^ b
  else if op = 0x06 then a <<< (b.toNat % 32)
  else if op = 0x07 then a >>> (b.toNat % 32)
  else if op = 0x08 then a.sshiftRight (b.toNat % 32)
  else if op = 0x09 then a * b
  else if op = 0x0A then BitVec.ofNat 32 (a.toNat * b.toNat / 2 ^ 32)
  else if op = 0x0B then (if a.slt b then a else b)
  else if op = 0x0C then (if a.slt b then b else a)
  else if op = 0x0D then (if a.slt b then 1 else 0)
  else (if a < b then 1 else 0)

/-- A branch is taken (R223). -/
def branchTaken (op : Byte) (a b : Word) : Bool :=
  if op = 0x10 then a == b
  else if op = 0x11 then a != b
  else if op = 0x12 then a.slt b
  else if op = 0x13 then !a.slt b
  else if op = 0x14 then decide (a < b)
  else decide (b ≤ a)

/-! ### The vector unit (R228) -/

/-- Elements of a lane for a lane type: their count and their width. -/
def laneShape (t : Nat) : Nat × Nat := if t = 2 ∨ t = 3 then (2, 16) else if t = 4 then (4, 8) else (1, 32)

/-- The float format of a lane type: 0 for the integer types. -/
def laneFmt (t : Nat) : Nat := if t = 0 then 1 else if t = 2 then 2 else if t = 3 then 3 else 0

/-- The elements of 16 lanes, lower elements in lower bits. -/
def elemsOf (t : Nat) (l : List Word) : List Nat :=
  let (n, w) := laneShape t
  (l.map fun x => (List.range n).map fun j => bits x.toNat (w * j) w).flatten

/-- 16 lanes of elements. -/
def lanesOf (t : Nat) (es : List Nat) : List Word :=
  let (n, w) := laneShape t
  (List.range 16).map fun i =>
    BitVec.ofNat 32 ((List.range n).foldr (fun j acc => acc * 2 ^ w + es.getD (n * i + j) 0 % 2 ^ w) 0)

/-- All elements of a list of results, and whether any was flushed. -/
def gatherFlush (l : List (Nat × Bool)) : List Nat × Bool := (l.map (·.1), l.any (·.2))

/-- A float operation on elements under FTZ: operands are flushed on reading, the result on writing (R263, R272). -/
def floatOp (f : Nat) (ftz : Bool) (op : List Num → Num) (args : List Nat) : Nat × Bool :=
  let rs := args.map (readNum f ftz)
  let (c, fl) := ieee f ftz (op (rs.map (·.1)))
  (c, fl || rs.any (·.2))

/-- The i-th of a list of values. -/
def arg (l : List Num) (i : Nat) : Num := l.getD i .nan

/-- One element of VADD, VSUB, VMUL, VFMA, VMIN, VMAX (R228). -/
def arithElem (op : Byte) (t : Nat) (ftz : Bool) (a b c : Nat) : Nat × Bool :=
  let w := (laneShape t).2
  let f := laneFmt t
  if f = 0 then
    let sa := signed w a
    let sb := signed w b
    (if op = 0x20 then (a + b) % 2 ^ w
     else if op = 0x21 then (a + (2 ^ w - b)) % 2 ^ w
     else if op = 0x22 then a * b % 2 ^ w
     else if op = 0x23 then (a * b + c) % 2 ^ w
     else if op = 0x24 then (if sa ≤ sb then a else b)
     else (if sa ≤ sb then b else a), false)
  else if op = 0x20 then floatOp f ftz (fun l => (arg l 0).add (arg l 1)) [a, b]
  else if op = 0x21 then floatOp f ftz (fun l => (arg l 0).add (arg l 1).neg) [a, b]
  else if op = 0x22 then floatOp f ftz (fun l => (arg l 0).mul (arg l 1)) [a, b]
  else if op = 0x23 then floatOp f ftz (fun l => ((arg l 0).mul (arg l 1)).add (arg l 2)) [a, b, c]
  else if op = 0x24 then floatOp f ftz (fun l => (arg l 0).minimum (arg l 1)) [a, b]
  else floatOp f ftz (fun l => (arg l 0).maximum (arg l 1)) [a, b]

/-- A condition of VCMP (R228). -/
def cmpHolds (cond : Nat) (lt eq unordered : Bool) : Bool :=
  if cond = 0 then eq && !unordered
  else if cond = 1 then !eq || unordered
  else if unordered then false
  else if cond = 2 then lt
  else if cond = 3 then lt || eq
  else if cond = 4 then !lt && !eq
  else !lt

/-- One element of VCMP. -/
def cmpElem (t cond : Nat) (ftz : Bool) (a b : Nat) : Nat × Bool :=
  let w := (laneShape t).2
  let f := laneFmt t
  if f = 0 then
    (if cmpHolds cond (decide (signed w a < signed w b)) (a == b) false then 2 ^ w - 1 else 0, false)
  else
    let (x, fx) := readNum f ftz a
    let (y, fy) := readNum f ftz b
    (if cmpHolds cond (x.lt y) (x.eq y) (x.isNaN || y.isNaN) then 2 ^ w - 1 else 0, fx || fy)

/-- Sums of neighbours, pairwise, until one is left (R228). -/
def pairSums (f : Nat) (ftz : Bool) : Nat → List Nat → Bool → Nat × Bool
  | 0, l, fl => (l.headD 0, fl)
  | n + 1, l, fl =>
    let rec go : List Nat → List (Nat × Bool)
      | a :: b :: r => floatOp f ftz (fun x => (arg x 0).add (arg x 1)) [a, b] :: go r
      | _ => []
    let (es, g) := gatherFlush (go l)
    pairSums f ftz n es (fl || g)

/-- VRED: sum, maximum or minimum of the 16 lanes. -/
def reduceLanes (t kind : Nat) (ftz : Bool) (l : List Nat) : Nat × Bool :=
  if t = 0 then
    if kind = 0 then pairSums 1 ftz 4 l false
    else
      l.tail.foldl (fun (p : Nat × Bool) x =>
        let (c, g) := floatOp 1 ftz (fun a => if kind = 1 then (arg a 0).maximum (arg a 1) else (arg a 0).minimum (arg a 1)) [p.1, x]
        (c, p.2 || g)) (l.headD 0, false)
  else if kind = 0 then (l.foldl (· + ·) 0 % 2 ^ 32, false)
  else
    (l.tail.foldl (fun a x =>
      if kind = 1 then (if signed 32 a ≤ signed 32 x then x else a) else (if signed 32 a ≤ signed 32 x then a else x))
      (l.headD 0), false)

/-- One lane of VEXP2, VRCP, VRSQRT (R228, R229). -/
def unaryElem (op : Byte) (ftz : Bool) (a : Nat) : Nat × Bool :=
  let (x, fx) := readNum 1 ftz a
  let (c, fl) :=
    if op = 0x2F then ieeeWithin 2 op a 0 ftz x.exp2
    else if op = 0x30 then ieeeWithin 1 op a 0 ftz ((Num.fin false 1 0).div x)
    else ieeeWithin 1 op a 0 ftz x.rsqrt
  (c, fx || fl)

/-- One lane of VMAXRUN: a NaN in `a` counts as −∞ (R208). The Bools are NANSEEN and FLUSHED. -/
def maxRunElem (ftz : Bool) (m a : Nat) : Nat × Bool × Bool :=
  let (x, fx) := readNum 1 ftz a
  let (y, fy) := readNum 1 ftz m
  let (c, fl) := ieee 1 ftz (y.maximum (if x.isNaN then .inf true else x))
  (c, x.isNaN, fx || fy || fl)

/-- One lane of VEXPSUB (R208): 0 when a is −∞, 1 when a = b is finite, 0 below 2^−126, and that without a flag. -/
def expSubElem (ftz : Bool) (a b : Nat) : Nat × Bool :=
  let (x, fx) := readNum 1 ftz a
  let (y, fy) := readNum 1 ftz b
  let fin (z : Num) : Bool := match z with
    | .fin _ _ _ => true
    | _ => false
  if x == .inf true then (0, fx || fy)
  else if fin x && x.eq y then (0x3F800000, fx || fy)
  else
    let v := (x.add y.neg).exp2
    let tiny := match v with
      | .fin _ m e => m == 0 || decide (magExp m e < -126)
      | _ => false
    if tiny then (0, fx || fy)
    else
      let (c, fl) := ieeeWithin 2 0x33 a b ftz v
      if bits c 23 8 = 0 then (0, fx || fy) else (c, fx || fy || fl)

/-- One lane of VDIVSAFE (R208): 0 when the divisor is ±0. -/
def divSafeElem (ftz : Bool) (a b : Nat) : Nat × Bool :=
  let (x, fx) := readNum 1 ftz a
  let (y, fy) := readNum 1 ftz b
  if y.isZero then (0, fx || fy)
  else
    let (c, fl) := ieeeWithin 1 0x35 a b ftz (x.div y)
    (c, fx || fy || fl)

/-! ### Conversions (R259–R266, R274) -/

/-- The outcome of converting elements: codes, scales, counted events, FLUSHED. -/
abbrev Converted := List Nat × List Nat × Nat × Nat × Bool

/-- Counts units of 16 elements in which an event occurred. -/
def countUnits (l : List Bool) : Nat := ((pieces' 16 l.length l).filter fun u => u.any id).length
where
  /-- The list in pieces of `n`. -/
  pieces' (n : Nat) : Nat → List Bool → List (List Bool)
    | 0, _ => []
    | k + 1, l => if l.isEmpty then [] else l.take n :: pieces' n k (l.drop n)

/-- Converts a row of values into a destination format: for a grouped format each 16 values get a scale (R264). `draw j` is
the draw of element j. -/
def convertRow (f mode : Nat) (ftz : Bool) (draw : Nat → Nat) (xs : List Num) : List Conv × List Nat :=
  if fmtGrouped f then
    let n := ceilDiv xs.length 16
    let es := (List.range n).map fun g => chooseScale f ((xs.drop (16 * g)).take 16)
    (xs.zipIdx.map fun p => convertNum f mode (draw p.2) ftz (p.1.scale (127 - (es.getD (p.2 / 16) 127 : Int))), es)
  else (xs.zipIdx.map fun p => convertNum f mode (draw p.2) ftz p.1, [])

/-- The lane formats a VLD or VST accepts with a memory format (R265). -/
def pairAllowed (t f : Nat) : Bool :=
  f == 0 ||
    (if t = 0 ∨ t = 2 ∨ t = 3 then decide (1 ≤ f ∧ f ≤ 10)
     else if t = 1 then f == 6 || f == 7 || f == 10 || f == 11
     else f == 6 || f == 7 || f == 10)

/-- The pair uses scales through RB: every grouped format, but for the unscaled I4 and T2 of I32 and I8 lanes (R231). -/
def usesScales (t f : Nat) : Bool := fmtGrouped f && !((t == 1 || t == 4) && (f == 7 || f == 10))

/-- Elements that a vector load or store moves for a lane type. -/
def laneElems (t : Nat) : Nat := 16 * (laneShape t).1

/-- Bytes of memory that a vector load or store accesses (R231). -/
def vectorBytes (t f : Nat) : Nat := if f = 0 then 64 else fmtBytes f (laneElems t)

/-- The integer an element code means in an unscaled integer move (R265): a T2 NaN is 0 with a NaN event. -/
def intElem (f code : Nat) : Int × Bool :=
  if f = 11 then ((code % 256 : Nat), false)
  else
    match decodeNum f code with
    | .fin s m _ => (if s then -(m : Int) else m, false)
    | _ => (0, true)

/-- The lanes a VLD gives from memory bytes and scale bytes. -/
def loadLanes (t f mode : Nat) (ftz : Bool) (draw : Nat → Nat) (mem scales : List Byte) : List Word × Nat × Nat × Bool :=
  if f = 0 then (((List.range 16).map fun i => BitVec.ofNat 32 (field mem (4 * i) 4)), 0, 0, false)
  else
    let n := laneElems t
    let codes := unpack f n mem
    let lf := laneFmt t
    if lf = 0 then
      let w := (laneShape t).2
      let rs := codes.map (intElem f)
      (lanesOf t (rs.map fun p => wrapInt w p.1), 0, countUnits (rs.map (·.2)), false)
    else if f = lf then (lanesOf t codes, 0, 0, false)
    else
      let rs := codes.map (readNum f ftz)
      let xs := (rs.map (·.1)).zipIdx.map fun p =>
        if usesScales t f then p.1.withScale ((scales.getD (p.2 / 16) 0).toNat) else p.1
      let (cs, _) := convertRow lf mode ftz draw xs
      (lanesOf t (cs.map (·.code)), countUnits (cs.map (·.sat)), countUnits (cs.map (·.nan)),
        rs.any (·.2) || cs.any (·.flushed))

/-- The memory bytes and scale bytes a VST gives from lanes. -/
def storeLanes (t f mode : Nat) (ftz : Bool) (draw : Nat → Nat) (lanes : List Word) : List Byte × List Byte × Nat × Nat × Bool :=
  if f = 0 then ((lanes.map fun w => u32 w.toNat).flatten, [], 0, 0, false)
  else
    let codes := elemsOf t lanes
    let lf := laneFmt t
    if lf = 0 then
      let w := (laneShape t).2
      let rs := codes.map fun c =>
        let v := signed w c
        if f = 11 then
          (let u : Int := if v < 0 then 0 else if v > 255 then 255 else v
           (u.toNat, u != v))
        else encodeInt f v
      (pack f (rs.map (·.1)), [], countUnits (rs.map (·.2)), 0, false)
    else if f = lf then (pack f codes, [], 0, 0, false)
    else
      let rs := codes.map (readNum lf ftz)
      let (cs, es) := convertRow f mode ftz draw (rs.map (·.1))
      (pack f (cs.map (·.code)), es.map (BitVec.ofNat 8), countUnits (cs.map (·.sat)), countUnits (cs.map (·.nan)),
        rs.any (·.2) || cs.any (·.flushed))

/-- A load or store draws one number per destination element under stochastic rounding, unless it copies (R259, R261): raw
bytes, or a lane type and a memory format that are the same. -/
def vectorDraws (t f mode : Nat) : Nat :=
  if mode = 2 && f != 0 && f != (if t = 4 then 6 else laneFmt t) then laneElems t else 0

/-! ### Transfers (R233, R234, R259, R274) -/

/-- The pair of formats a transfer accepts (R266). -/
def transferPair (a b : Nat) : Bool :=
  (a == 0 && b == 0) || (a == 11 && b == 11) || (decide (1 ≤ a ∧ a ≤ 10) && decide (1 ≤ b ∧ b ≤ 10))

/-- A transfer copies bits: equal formats and no transposition, or no formats at all (R259). -/
def Descriptor.copies (d : Descriptor) : Bool :=
  d.srcFmt == 0 || d.srcFmt == 11 || (d.srcFmt == d.dstFmt && !d.transpose)

/-- Draws of a transfer (R261). -/
def Descriptor.draws (d : Descriptor) (mode : Nat) : Nat :=
  if mode = 2 && !d.copies then d.dstRows * d.dstCols else 0

/-- Bytes from the first to the last byte of one side. -/
def spanBytes (rows stride rowBytes : Nat) : Nat := (rows - 1) * stride + rowBytes

def Descriptor.srcSpan (d : Descriptor) : Nat := spanBytes d.rows d.srcStride (fmtBytes d.srcFmt d.cols)
def Descriptor.dstSpan (d : Descriptor) : Nat := spanBytes d.dstRows d.dstStride (fmtBytes d.dstFmt d.dstCols)
def Descriptor.srcScaleSpan (d : Descriptor) : Nat := spanBytes d.rows d.srcSStride (ceilDiv d.cols 16)

/-- The rows of the destination's scale plane and the bytes of each: a transposing transfer groups 16 rows of a column, which are
the groups of an MLOAD image (R200, R258; DEDUCED, log 136). -/
def Descriptor.dstPlane (d : Descriptor) : Nat × Nat :=
  if d.transpose then (ceilDiv d.dstRows 16, d.dstCols) else (d.dstRows, ceilDiv d.dstCols 16)

def Descriptor.dstScaleSpan (d : Descriptor) : Nat := spanBytes d.dstPlane.1 d.dstSStride d.dstPlane.2

/-- The address of a scale plane. -/
def planeAt (base : Nat) (off : Int) : Nat := ((base : Int) + off).toNat

/-- What a transfer writes: for each destination row its address and bytes, then each scale row's; and the counted events
and FLUSHED. `rd` reads source bytes. -/
def transferWrites (d : Descriptor) (rd : Nat → Nat → List Byte) (src dst mode : Nat) (ftz : Bool) (draw : Nat → Nat) :
    List (Nat × List Byte) × Nat × Nat × Bool :=
  let rows := (List.range d.rows).map fun r => unpack d.srcFmt d.cols (rd (src + r * d.srcStride) (fmtBytes d.srcFmt d.cols))
  let scales := if fmtGrouped d.srcFmt then
      (List.range d.rows).map fun r => rd (planeAt src d.srcScale + r * d.srcSStride) (ceilDiv d.cols 16)
    else []
  let at' (r c : Nat) : Nat × Nat := if d.transpose then (c, r) else (r, c)
  let code (r c : Nat) : Nat := let (i, j) := at' r c; (rows.getD i []).getD j 0
  if d.copies then
    ((List.range d.dstRows).map (fun r =>
        (dst + r * d.dstStride, pack d.dstFmt ((List.range d.dstCols).map (code r))))
      ++ (scales.zipIdx.map fun p => (planeAt dst d.dstScale + p.2 * d.dstSStride, p.1)), 0, 0, false)
  else
    let value (r c : Nat) : Num × Bool :=
      let (i, j) := at' r c
      let (x, fl) := readNum d.srcFmt ftz (code r c)
      (if fmtGrouped d.srcFmt then x.withScale (((scales.getD i []).getD (j / 16) 0).toNat) else x, fl)
    let byColumn := d.transpose && fmtGrouped d.dstFmt
    let conv := if byColumn then
        (List.range d.dstCols).map fun c =>
          convertRow d.dstFmt mode ftz (fun r => draw (r * d.dstCols + c)) ((List.range d.dstRows).map fun r => (value r c).1)
      else
        (List.range d.dstRows).map fun r =>
          convertRow d.dstFmt mode ftz (fun c => draw (r * d.dstCols + c)) ((List.range d.dstCols).map fun c => (value r c).1)
    let blank : Conv := ⟨0, false, false, false⟩
    let rowsOut := if byColumn then
        (List.range d.dstRows).map fun r => conv.map fun p => p.1.getD r blank
      else conv.map (·.1)
    let scalesOut := if byColumn then
        (List.range d.dstPlane.1).map fun g => conv.map fun p => p.2.getD g 127
      else conv.map (·.2)
    let flat := rowsOut.flatten
    let flIn := (List.range d.dstRows).any fun r => (List.range d.dstCols).any fun c => (value r c).2
    let units (sel : Conv → Bool) : Nat :=
      if fmtGrouped d.dstFmt || !fmtGrouped d.srcFmt then
        (if fmtGrouped d.dstFmt then (conv.map fun p => countUnits (p.1.map sel)).foldl (· + ·) 0
         else countUnits (flat.map sel))
      else
        -- the groups of the source side
        ((List.range d.rows).map fun i => countUnits ((List.range d.cols).map fun j =>
          let (r, c) := if d.transpose then (j, i) else (i, j)
          match (flat.drop (r * d.dstCols + c)).head? with
          | some v => sel v
          | none => false)).foldl (· + ·) 0
    ((rowsOut.zipIdx.map fun p => (dst + p.2 * d.dstStride, pack d.dstFmt (p.1.map (·.code))))
      ++ (if fmtGrouped d.dstFmt then
          scalesOut.zipIdx.map fun p => (planeAt dst d.dstScale + p.2 * d.dstSStride, p.1.map (BitVec.ofNat 8))
        else []),
      units (·.sat), units (·.nan), flIn || flat.any (·.flushed))

end Sys2Proof.Machine
end

