-- ==== Sys2Proof/Machine/CoreOps.lean ====
section
/-! DEFINITION. The core between grants and at a stop (R185, R192, R193, R206, R219, R246–R250, R277, R287, R422): register
dependences, stall states, regions, flushes, exceptions, mismatches, the end of a grant, and the removal of a core by a
fence. -/
namespace Sys2Proof.Machine

/-! ### Opcodes beside those of the tables: TDIGEST, which shares its family's numbering -/

def opTdigest : Byte := 0x47

/-- The instruction converts formats or draws, so it names an item through s1 (R261, R275). -/
def usesItem (op : Byte) : Bool :=
  op == 0x42 || op == 0x43 || op == 0x44 || op == 0x45 || op == 0x46 || op == 0x50 || op == 0x52

/-- A scalar register in the numbering of the scoreboard; s0 is never tracked. -/
def sReg (r : BitVec 5) : List Nat := if r = 0 then [] else [r.toNat]

/-- A vector register in the numbering of the scoreboard. -/
def vReg (r : BitVec 5) : List Nat := [32 + r.toNat]

/-- ARITH_MODE and the rounding generator in the numbering of the scoreboard (R221). -/
def modeReg : Nat := 64
def rngReg : Nat := 65

/-- What an instruction reads, registers and control state (R215–R243). -/
def instrReads (op : Byte) (f : Fields) : List Nat :=
  let n := op.toNat
  (if 0x01 ≤ n ∧ n ≤ 0x0E then sReg f.ra ++ sReg f.rb
   else if 0x10 ≤ n ∧ n ≤ 0x15 then sReg f.ra ++ sReg f.rb
   else if n = 0x17 then sReg f.ra
   else if n = 0x18 then (if f.imm = 3 then [modeReg] else [])
   else if n = 0x19 then sReg f.ra
   else if n = 0x23 ∨ n = 0x2A then vReg f.ra ++ vReg f.rb ++ vReg f.rc
   else if n = 0x2B then sReg f.ra
   else if n = 0x2C ∨ (0x2E ≤ n ∧ n ≤ 0x31) then vReg f.ra
   else if n = 0x32 then vReg f.rd ++ vReg f.ra
   else if n = 0x34 then vReg f.rd ++ vReg f.ra ++ vReg f.rb
   else if 0x20 ≤ n ∧ n ≤ 0x35 then vReg f.ra ++ vReg f.rb
   else if n = 0x40 then sReg f.ra
   else if n = 0x41 then sReg f.ra ++ sReg f.rb
   else if n = 0x42 then sReg f.ra ++ sReg f.rb
   else if n = 0x43 then vReg f.rd ++ sReg f.ra ++ sReg f.rb
   else if n = 0x44 ∨ n = 0x45 then sReg f.rd ++ sReg f.ra ++ sReg f.rb ++ sReg f.rc
   else if n = 0x46 then sReg f.rd ++ sReg f.ra ++ sReg f.rc
   else if n = 0x47 ∨ n = 0x50 then sReg f.ra ++ sReg f.rb
   else if n = 0x52 then sReg f.rd ++ sReg f.ra ++ sReg f.rb ++ sReg f.rc
   else if n = 0x63 then sReg f.ra ++ sReg f.rb ++ sReg f.rc
   else if n = 0x64 ∨ n = 0x65 ∨ n = 0x67 ∨ n = 0x68 then sReg f.ra ++ sReg f.rb
   else if n = 0x66 then sReg f.ra
   else [])
    ++ (if usesItem op || (op == 0x19 && f.imm == 7) then [1] else [])
    ++ (if usesItem op || (0x20 ≤ n ∧ n ≤ 0x35) then [modeReg] else [])
    ++ (if usesItem op then [rngReg] else [])

/-- What an instruction writes. -/
def instrWrites (op : Byte) (f : Fields) : List Nat :=
  let n := op.toNat
  if 0x01 ≤ n ∧ n ≤ 0x0E ∨ n = 0x16 ∨ n = 0x17 ∨ n = 0x18 ∨ n = 0x1A ∨ n = 0x2C ∨ n = 0x40 ∨ n = 0x64 ∨ n = 0x65 ∨ n = 0x66 then
    sReg f.rd
  else if n = 0x19 then (if f.imm = 3 then [modeReg] else if f.imm = 7 then [rngReg] else [])
  else if 0x20 ≤ n ∧ n ≤ 0x35 ∨ n = 0x42 then vReg f.rd
  else []

/-- Two register lists meet. -/
def meets (a b : List Nat) : Bool := a.any fun x => b.contains x

/-- A register dependence holds the instruction back: an older one has still to write a source, or to read or write the
destination (R219). A started instruction has read its registers. -/
def Core.depends (k : Core) (i : QInstr) : Bool :=
  k.inflight.any fun j => decide (j.id < i.id) &&
    (meets (instrWrites j.op j.f) (instrReads i.op i.f ++ instrWrites i.op i.f)
      || (!j.started && meets (instrReads j.op j.f) (instrWrites i.op i.f)))

/-- The instruction still occupies its queue: a started MLOAD or MSTREAM has left it (R238). -/
def QInstr.queued (i : QInstr) : Bool := !(i.started && (i.op == 0x50 || i.op == 0x52))

/-- The instruction at the head of a queue. -/
def Core.headOf (k : Core) (q : Nat) : Option QInstr := k.inflight.find? fun i => i.queue == q && i.queued

/-- Instructions in a queue. -/
def Core.queueLen (k : Core) (q : Nat) : Nat := (k.inflight.filter fun i => i.queue == q && i.queued).length

/-- An older write has still to complete or to be acknowledged (R241). -/
def Core.fenceHeld (k : Core) (i : QInstr) : Bool :=
  (k.inflight.any fun j => decide (j.id < i.id) &&
    (j.op == 0x41 || j.op == 0x43 || j.op == 0x45 || j.op == 0x46 || j.op == 0x52))
    || k.slots.any fun p => decide (p.2.instr < i.id) && (p.2.op == 0x45 || p.2.op == 0x46)

/-- A transfer with a tag of the mask is outstanding (R235). -/
def Core.tagHeld (k : Core) (mask : Nat) : Bool := k.slots.any fun p => bit mask p.2.tag

/-- Why the instruction at a queue head cannot start (R247); 0 when it can. -/
def Core.waitReason (k : Core) (i : QInstr) : Nat :=
  if i.started then 0x02
  else if k.depends i then 0x01
  else if i.op = 0x60 then (if i.waitsFor.any fun w => k.inflight.any fun j => j.id = w then 0x03 else 0)
  else if i.op = 0x61 then (if k.fenceHeld i then 0x04 else 0)
  else if i.op = 0x62 then (if k.tagHeld (bits i.f.imm.toNat 0 8) then 0x05 else 0)
  else if (i.op = 0x44 ∨ i.op = 0x45 ∨ i.op = 0x46) ∧ k.slots.length ≥ 16 then 0x06
  else if (i.op = 0x50 ∨ i.op = 0x51) ∧ k.loaderBusy then 0x07
  else if i.op = 0x52 ∧ !k.lastRows.isEmpty then 0x08
  else 0

/-- The drain of GETWORK and ENDWORK: queues empty, every write acknowledged, every check resolved (R185). -/
def Core.drained (k : Core) (now : Nat) : Bool :=
  k.inflight.isEmpty && k.slots.isEmpty && !k.loaderBusy && k.lastRows.isEmpty && decide (k.onesUntil ≤ now)

/-! ### Stall states (R246, R247) -/

/-- FRONT of the stall state. -/
def Core.frontCode (k : Core) : Nat :=
  match k.front with
  | .decoding => 0
  | .held i =>
    if i.op = 0x70 ∨ i.op = 0x71 then 3
    else if (0x10 ≤ i.op.toNat ∧ i.op.toNat ≤ 0x17) then 2 else 1
  | .draining => 3
  | .waitingGrant => 4
  | .kernelLoad => 5
  | .paramRead => 6

/-- The oldest stalled instruction. A transfer that waits for a PENDING region counts as a busy memory unit (DEDUCED, log 16). -/
def Core.oldestStalled (k : Core) : Option (QInstr × Nat) :=
  let hs := (List.range 4).filterMap fun q => (k.headOf q).map fun i => (i, k.waitReason i)
  hs.foldl (fun best p =>
    match best with
    | some (b, _) => if p.1.id < b.id then some p else best
    | none => some p) none

/-- The stall state and the PC reported with it. -/
def Core.stallState (k : Core) : Nat × Nat :=
  match k.oldestStalled with
  | some (i, r) => (k.frontCode * 4096 + i.queue * 1024 + (if r ≠ 0 then r else if k.slots.length ≥ 16 then 0x06 else 0x0A), i.pc)
  | none => (k.frontCode * 4096, k.pc % 2 ^ 32)

/-! ### Gating (R186, R409) -/

/-- A TAKE or WAITGE that waits on its semaphore holds the queue. -/
def Core.waitsOnSem (k : Core) (q : Nat) : Bool :=
  match k.headOf q with
  | some i => i.started && (i.op == 0x64 || i.op == 0x65)
  | none => false

/-- A core is clock-gated: its front end waits for a grant (GETWORK), or is stalled while a semaphore wait holds every queue that
is not empty (R186). -/
def Core.clockGated (k : Core) : Bool :=
  match k.front with
  | .waitingGrant => true
  | .held _ =>
    let qs := (List.range 4).filter fun q => decide (0 < k.queueLen q)
    !qs.isEmpty && qs.all k.waitsOnSem
  | _ => false

/-- The gating states of a physical core (R409). -/
inductive Gating where
  | run
  | clockGated
  | retain
  | off
  deriving DecidableEq, Repr

/-- The gating state of a logical core: OFF while it is fenced, RETAIN with its compartment until that is awake. -/
def State.gatingOf (s : State) (c : Nat) : Gating :=
  if s.fenced c then .off
  else if (s.comp (compOfCore c)).gating ≠ 0 then .retain
  else if (s.core c).clockGated then .clockGated
  else .run

/-! ### Regions (R287, R288) -/

/-- The device range is host aperture. -/
def inAperture (a : Nat) : Bool := decide (a / 2 ^ 36 = 14 ∨ a / 2 ^ 36 = 15)

/-- The regions of a context that are VALID, hold a whole range and permit the access. -/
def State.regionsFor (s : State) (ctx a n : Nat) (write : Bool) : List Region :=
  (Map.at s.mem.regions [] ctx).filter fun r =>
    r.flags.getLsbD 0 && decide (r.base ≤ a ∧ a + n ≤ r.base + r.size) && (if write then r.flags.getLsbD 2 else r.flags.getLsbD 1)

/-- The region an access goes through: the first READY one of those that permit it (R287). -/
def State.regionOf (s : State) (ctx a n : Nat) (write : Bool) : Option Region :=
  (s.regionsFor ctx a n write).find? fun r => r.state = 1

/-- The region check: 0 passes, 1 waits for a PENDING region, 2 fails. -/
def State.regionCheck (s : State) (ctx a n : Nat) (write : Bool) : Nat :=
  if (s.regionOf ctx a n write).isSome then 0
  else if (s.regionsFor ctx a n write).any fun r => r.state = 2 then 1 else 2

/-- A read of host bytes that the surroundings did not give has used the current number of free values. -/
def State.nextFree (s : State) : State := { s with freeCtr := s.freeCtr + 1 }

/-! ### Flush, dispatch loop and the end of a grant -/

/-- Step 2 of R249: all four queues are flushed; transfers and writes already issued run to their end. -/
def State.flushCore (s : State) (c : Nat) : State :=
  (s.updCore c fun k => { k with inflight := [] }).flushWaits c

/-- A core asks its sector for work (R133). -/
def State.askWork (s : State) (c n : Nat) : State :=
  (s.updCore c fun k => { k with front := .waitingGrant, askCount := n }).updSector (sectorOfCore c) fun x =>
    { x with waiting := x.waiting.filter (fun w => w.core ≠ c) ++ [⟨c, n⟩] }

/-- Items the dispatch loop asks for: GRANT_N of the resident kernel, or 1. -/
def Core.loopItems (k : Core) : Nat :=
  match k.kernel with
  | some x => x.grantN
  | none => 1

/-- Step 1 of R192: the loop's GETWORK issues once the core has drained (R185); ENTRY is then the next PC to be decoded. -/
def State.dispatchLoop (s : State) (c : Nat) : State :=
  let k := s.core c
  let s1 := s.updCore c fun k => { k with
    dispatchLoop := true
    front := .draining
    pc := match k.kernel with
      | some x => x.entry
      | none => k.pc }
  if k.drained s.now then s1.askWork c k.loopItems else s1

/-- The task of a core's grant. -/
def State.grantNode (s : State) (c : Nat) : Option (Nat × Node) :=
  match (s.core c).grant with
  | some g => (s.node g.node).map fun d => (g.node, d)
  | none => none

/-- The grant ends: GRANT_END is recorded and the core holds nothing. -/
def State.dropGrant (s : State) (c why pc : Nat) : State :=
  (s.event unCore c 0x02 why pc).updCore c fun k =>
    { k with
      prevNode := match k.grant with
        | some g => some g.node
        | none => k.prevNode
      grant := none
      items := [] }

/-- Items of the grant, first to last. -/
def Grant.items (g : Grant) : List Nat := (List.range g.count).map fun j => g.first + j

/-- The items of a grant leave the outstanding count without a result. -/
def State.dropItems (s : State) (n count : Nat) : State :=
  s.updNode n fun d => { d with outstanding := d.outstanding - count }

/-- One item of a grant that ends under R135 (R277). -/
def State.endItem (s : State) (n : Nat) (alt : Bool) (x : ItemState) : State :=
  match s.node n with
  | some d =>
    let fb := d.cmd.slot 11
    let cnt := min (x.sat + x.nans) 0xFFFF
    if d.stopped || (s.ring d.ring).aborting then s.dropItems n 1
    else if cnt ≤ bits fb 0 16 then
      s.setNode n { d with
        outstanding := d.outstanding - 1
        sat := min (d.sat + x.sat) 0xFFFF
        nans := min (d.nans + x.nans) 0xFFFF }
    else if !alt && bits fb 16 8 != 0 then
      (s.updNode n fun d => { d with escalated := d.escalated + 1 }).requeueItem n x.item true []
    else
      s.setNode n { d with
        outstanding := d.outstanding - 1
        sat := min (d.sat + x.sat) 0xFFFF
        nans := min (d.nans + x.nans) 0xFFFF
        precisionFailed := true }
  | none => s

/-- A grant ends under R135: each item is decided in ascending order. -/
def State.endGrant (s : State) (c why pc : Nat) : State :=
  match (s.core c).grant with
  | some g =>
    let k := s.core c
    let s1 := (Grant.items g).foldl (fun t i => t.endItem g.node g.alt (k.item i)) s
    (s1.dropGrant c why pc).checkLaunch g.node
  | none => s

/-- The items of a grant are requeued with REISSUE set and ALT as granted (R204, R422). `barred` holds the core that may not
receive them again. -/
def State.requeueGrant (s : State) (c why pc : Nat) (barred : List Nat) : State :=
  match (s.core c).grant with
  | some g =>
    let s1 := (Grant.items g).foldl (fun t i => t.requeueItem g.node i g.alt barred) s
    (s1.dropGrant c why pc).checkLaunch g.node
  | none => s

/-! ### Exceptions (R248–R250) -/

/-- The entries of CORES: the excepting core first, then the other cores that hold a grant of the task (R109). -/
def State.coreEntries (s : State) (n c stall pc : Nat) : List (Nat × Nat × Nat) :=
  (c + 0x8000, stall, pc) :: ((s.cores.filter fun p => p.1 != c && (match p.2.grant with
    | some g => g.node == n
    | none => false)).map fun p => (p.1 + 0x8000, p.2.stallState.1, p.2.stallState.2))

/-- Every core that holds a grant of a task, with its stall state (R109). -/
def State.holdersEntries (s : State) (n : Nat) : List (Nat × Nat × Nat) :=
  (s.cores.filter fun p => match p.2.grant with
    | some g => g.node == n
    | none => false).map fun p => (p.1 + 0x8000, p.2.stallState.1, p.2.stallState.2)

/-- A core handles an exception. -/
def State.exception (s : State) (c cause queue pc : Nat) (address : BitVec 64) : State :=
  match (s.core c).grant with
  | some g =>
    let stall := 0x8000 + queue % 4 * 1024 + cause
    let s1 := (s.flushCore c).updCore c fun k => { k with
      exc := BitVec.ofNat 8 cause
      excPc := pc
      excQueue := queue
      excAddress := address }
    let s2 := s1.event unCore c 0x07 stall pc
    let s3 :=
      if cause = exData then
        (s2.updNode g.node fun d => { d with uncorrectable := true, stopped := true, requeue := [] }).joinOpenSets g.node
      else s2.nodeFault g.node fcExec address (s2.coreEntries g.node c stall pc)
    let s4 := ((s3.dropItems g.node g.count).dropGrant c 2 pc).dispatchLoop c
    s4.checkLaunch g.node
  | none => s

/-! ### Checksum mismatches (R204, R206) -/

/-- The report of a mismatch to the half controller: the core, the fabric time and the mode. -/
def State.reportMismatch (s : State) (c mode : Nat) : State :=
  { s with flt := { s.flt with mismatchQueue := s.flt.mismatchQueue ++ [(c, s.now, mode)] } }

/-- The format, which is the mode, of the operand that a check is of: the shadow set for a load check. -/
def Core.checkedMode (k : Core) (check : SliceCheck) : Nat :=
  match (if check = .load then k.shadow else k.stationary) with
  | some w => w.format
  | none => 0

/-- A failed check: the queues are flushed, the items of the grant are requeued with REISSUE, and the report is sent. On a core
whose fence took effect in the same cycle the report alone is left (R206). -/
def State.mismatch (s : State) (c : Nat) (check : SliceCheck) : State :=
  let k := s.core c
  let s0 := s.reportMismatch c (k.checkedMode check)
  if s.fenced c then s0
  else
    let s1 := (s0.coreCount c 0x0D 1).flushCore c
    if k.grant.isSome then (s1.requeueGrant c 3 k.pc [c]).dispatchLoop c else s1

/-! ### The recall of a task from a core, and the fence of a core (R422, R423) -/

/-- A recalled core flushes and returns to step 1 of R192; its items are not requeued. -/
def State.recallCore (s : State) (c : Nat) : State :=
  match (s.core c).grant with
  | some g =>
    ((((s.flushCore c).dropItems g.node g.count).dropGrant c 5 (s.core c).pc).dispatchLoop c).updCore c fun k =>
      { k with recalling := none }
  | none => s.updCore c fun k => { k with recalling := none }

/-- A flushed release gives its amount back to its semaphore (R358): an operation like any other, so it is discarded when it is
stale or meets a fenced core (R363–R365). -/
def State.giveBack (s : State) (r : Release) : State :=
  if r.returns = 0 then s
  else
    let m : SemMsg := ⟨r.sem, .core r.core, r.queue, r.instr, none, 2, r.ctx, r.resetCount, 0, .signal r.returns⟩
    let why := s.arrival m
    if why = 0 then
      let t := ((s.semSignal r.sem r.returns).serveWaitge r.sem).serveTake r.sem
      { t with fab := { t.fab with returns := t.fab.returns + 1 } }
    else s.discard m why

/-- The releases on their way to a core are returned to their semaphores (R358). -/
def State.returnReleases (s : State) (c : Nat) : State :=
  (s.fab.releases.filter fun r => r.core = c).foldl State.giveBack
    { s with fab := { s.fab with releases := s.fab.releases.filter fun r => r.core ≠ c } }

/-- A core has answered or been lost to every recall that waits for it; a context reset that waited for the last goes on (R527). -/
def State.recallAnswered (s : State) (c : Nat) : State :=
  (State.endRecalls { s with flt := { s.flt with
    recalls := s.flt.recalls.map fun (r : Recall) => { r with cores := r.cores.filter (· ≠ c) } } }).resetFabricStep

/-- What a fence does at the core (R422): queues flushed, held items requeued with REISSUE, releases returned, no request
for work left, no recall owed. Transfers and streams already issued run to their end (R249 step 2). The fence itself is marked by
the caller. -/
def State.removeCore (s : State) (c : Nat) : State :=
  let recalled := match (s.core c).recalling with
    | some _ => true
    | none => false
  let leave (t : State) (m : Option Nat) : State := match m with
    | some n => t.updNode n fun d => { d with workers := d.workers.filter (· ≠ c) }
    | none => t
  let s0 := leave (leave s (s.core c).prevNode) ((s.core c).grant.map (·.node))
  let s1 := (s0.flushCore c).returnReleases c
  let s2 := if recalled then
      match (s1.core c).grant with
      | some g => (s1.dropItems g.node g.count).dropGrant c 4 (s1.core c).pc
      | none => s1
    else s1.requeueGrant c 4 (s1.core c).pc []
  let s3 := s2.updSector (sectorOfCore c) fun x => { x with waiting := x.waiting.filter fun w => w.core ≠ c }
  let s4 := s3.updCore c fun k => { k with front := .draining, recalling := none, probing := false }
  s4.recallAnswered c

end Sys2Proof.Machine
end

