-- ==== Sys2Proof/Machine/Access.lean ====
section
/-! DEFINITION. Accesses of cores and executors to device memory: reads and writes through regions, partial writes, and blocks that
could not be read (R281–R288). -/
namespace Sys2Proof.Machine

/-! ### Reads and writes through regions (R287, R288) -/

/-- Reads device memory or a pinned host region; `host` holds the host bytes that the surroundings gave, and a byte they did
not give is a free value (DESIGN CHOICE, log 13). -/
def State.readDevice (s : State) (ctx : Nat) (host : List Byte) (base a n : Nat) : List Byte :=
  if inAperture a then
    let iova := match s.regionOf ctx a n false with
      | some r => r.iova + (a - r.base)
      | none => a
    (List.range n).map fun j => (host[a + j - base]?).getD (Config.hostByte s.freeCtr (iova + j))
  else s.dev a n

/-! ### Partial writes (R282, R285, R296) -/

/-- The ends of a write that do not cover their block whole. -/
def partialPieces (a : Nat) (bs : List Byte) : List (Nat × List Byte) :=
  let n := bs.length
  let hd := if a % 64 = 0 ∧ 64 ≤ n then 0 else min n (64 - a % 64)
  let tl := (n - hd) % 64
  (if hd = 0 then [] else [(a, bs.take hd)]) ++ (if tl = 0 then [] else [(a + (n - tl), bs.drop (n - tl))])

/-- A command of a node writes bytes of device memory; what it writes in part is remembered until the command completes
(DESIGN CHOICE, log 150). -/
def State.store (s : State) (h : Nat) (node : Option Nat) (a : Nat) (bs : List Byte) (bit : Option (Nat × Nat × Bool)) : State :=
  match node with
  | some n =>
    let ws := (partialPieces a bs).map fun p => PartialWrite.mk n p.1 (s.dev p.1 p.2.length) p.2 bit
    State.setDev { s with mem := { s.mem with partials := s.mem.partials ++ ws } } h a bs
  | none => s.setDev h a bs

/-- Writes device memory, or host memory through a pinned host region. -/
def State.writeDevice (s : State) (h : Nat) (node : Option Nat) (ctx a : Nat) (bs : List Byte) : State :=
  if inAperture a then
    match s.regionOf ctx a bs.length true with
    | some r => s.hostWrite h ctx (BitVec.ofNat 64 (r.iova + (a - r.base))) bs
    | none => s
  else s.store h node a bs none

/-- Sets or clears bit `i` of a byte of device memory. -/
def State.putBit (s : State) (a i : Nat) (b : Bool) : State :=
  let v := leNat (s.dev a 1)
  s.putDev a (u8 (if b then v ||| 2 ^ i else v - (v &&& 2 ^ i)))

/-- A partial write is not made: the bytes it still shows are as they were, and a selector bit that waits for them is not set. -/
def State.undoWrite (s : State) (w : PartialWrite) : State :=
  let s1 := s.putDev w.addr ((s.dev w.addr w.new.length).zipIdx.map fun p =>
    if p.1 = w.new.getD p.2 0 then w.old.getD p.2 0 else p.1)
  match w.bit with
  | some (a, i, b) => s1.putBit a i b
  | none => s1

/-- The oldest partial write of a node's command at an address ends: with `made` false it is undone. -/
def State.endPartial (s : State) (n a : Nat) (made : Bool) : State :=
  match s.mem.partials.find? fun w => w.node = n && w.addr = a with
  | some w =>
    let s1 := if made then s else s.undoWrite w
    { s1 with mem := { s1.mem with partials := s1.mem.partials.erase w } }
  | none => s

/-! ### Invalidations that wait (R306) -/

/-- The accesses that an invalidation waits for have ended: it is answered (R306). -/
def State.settleInvs (s : State) : State :=
  let left := s.mem.invWaiting.map fun (w : InvWait) => { w with
    fills := w.fills.filter fun f => ((Map.look s.mem.tables f.1).map fun t => t.fills.contains f.2).getD false
    slots := w.slots.filter fun x => (s.core x.1).slots.any fun p => p.2.instr = x.2 }
  let ended (w : InvWait) : Bool := w.fills.isEmpty && w.slots.isEmpty
  (left.filter ended).foldl (fun t w => t.emit (.invCpl w.itag))
    { s with mem := { s.mem with invWaiting := left.filter fun w => !ended w } }

/-! ### Blocks that could not be read (R285) -/

/-- The half that a consumer reads from. -/
def consumerHalf (s : State) (port : Nat) : Consumer → Nat
  | .core c => halfOfCore c
  | .unit n => halfOfNode n
  | .shape n => halfOfNode n
  | .ringEngine r => s.homeHalf r
  | .partialWrite _ => port / 6
  | .scrubber => port / 6

/-- The ring on whose behalf a consumer reads. -/
def consumerRing (s : State) : Consumer → Option Nat
  | .core c => (s.grantNode c).map fun p => p.2.ring
  | .unit n => (s.node n).map (·.ring)
  | .shape n => (s.node n).map (·.ring)
  | .partialWrite n => (s.node n).map (·.ring)
  | .ringEngine r => some r
  | .scrubber => none

/-- ACTION of the log record of an uncorrectable read. -/
def consumerAction : Consumer → Nat
  | .ringEngine _ => 6
  | .scrubber => 0
  | _ => 7

/-- A block that could not be read is counted and logged. -/
def State.blockLost (s : State) (port a : Nat) (w : Consumer) : State :=
  let s1 := s.updPort port fun p => { p with uncorrectable := p.uncorrectable + 1 }
  let r := match consumerRing s w with
    | some r => s.ringField r
    | none => 0
  s1.log 0x0A (consumerAction w) port a r 0 0

/-- The device range at a block address; none in host memory. -/
def portRange (a n : Nat) : List (Nat × Nat) := if isHostAddr a then [] else [(devOf a, n)]

/-- The numbers of the 64-byte blocks of ranges that lie on a port. -/
def blocksOf (rs : List (Nat × Nat)) : List Nat :=
  (rs.filter fun r => decide (r.1 / 2 ^ 36 < 12)).flatMap fun r => (List.range (blockCount r.1 r.2)).map (r.1 / 64 + ·)

/-- The blocks of ranges that a read meets as uncorrectable (DESIGN CHOICE, log 17): where the command says so (`said`), one of them
at least; where RDATA said it before (`before`), any; otherwise none. -/
def State.lostIn (s : State) (said before : Bool) (rs : List (Nat × Nat)) : List Nat :=
  let bs := blocksOf rs
  if said then
    ((bs.zipIdx.filter fun p => Config.lostBlock s.freeCtr p.1 || p.2 == Config.lostIndex s.freeCtr % bs.length).map (·.1)).eraseDups
  else if before then bs.filter fun b => Config.lostBlock s.freeCtr b
  else []

/-- A range meets a lost block. -/
def lostAt (lost : List Nat) (a n : Nat) : Bool := lost.any fun b => decide (64 * b < a + n ∧ a < 64 * b + 64)

/-- Every lost block of a consumer is counted at its port and logged. -/
def State.logLost (s : State) (w : Consumer) (lost : List Nat) : State :=
  lost.foldl (fun t b => t.blockLost (64 * b / 2 ^ 36) (64 * b) w) s

/-- A consumer reads ranges in one go, with an uncorrectable block among them when the command says so: counted, and logged. -/
def State.readsFor (s : State) (h : Nat) (w : Consumer) (said : Bool) (rs : List (Nat × Nat)) : State :=
  (rs.foldl (fun t r => t.portReads h r.1 r.2) s).logLost w (s.lostIn said false rs)

end Sys2Proof.Machine
end

