-- ==== Sys2Proof/Machine/Repairs.lean ====
section
/-! DEFINITION. Fencing, spare cores and row repair (R18, R421–R427, R440–R442, R529). -/
namespace Sys2Proof.Machine

/-- The physical position of logical core i of a stand (R18). -/
def Stand.position (t : Stand) (i : Nat) : Nat := if i < t.sparePos then i else i + 1

/-- One core is fenced: it is emptied, then it stops being addressable (R31, R422). -/
def State.fenceOne (s : State) (c : Nat) : State :=
  let s1 := s.removeCore c
  (s1.updStand (standOfCore c) fun t => { t with fencedMask := t.fencedMask ||| (1 <<< (c % 16) : BitVec 16) })

/-- A sector's grant issue is frozen while a fence takes effect in it (R436, R486). -/
def State.freeze (s : State) (i : Nat) : State := s.event unSector (sectorOfComp i) 0x01 i 0

/-- Adds to CORES_FENCED (R443). -/
def State.countFence (s : State) (n : Nat) : State :=
  { s with flt := { s.flt with coresFenced := s.flt.coresFenced + BitVec.ofNat 64 n } }

/-- A fence of a single core (R422) with the spare of its stand where one is unused (R426). `cls` is the fault class and
`action` the ACTION of its log record when no spare is used; `flags` is 1 for the system manager's order. -/
def State.fenceCore (s : State) (c cls flags : Nat) : State :=
  let t := standOfCore c
  let x := s.stand t
  if s.fenced c then s
  else
    let spare := x.spareState == 0 && x.substituting.isNone
    let pos := (t, x.position (c % 16))
    let s := { s with boot := { s.boot with findings := s.boot.findings.filter (· ≠ pos) ++ [pos] } }
    let s1 :=
      if spare then
        ((s.updStand t fun y => { y with spareState := 2, draining := true, substituting := some c }).repairAdd 1 flags t
          (x.position (c % 16)))
      else (s.repairAdd 2 flags c 0).blockFlag .spare
    let s2 := if spare then { s1 with flt := { s1.flt with sparesUsed := s1.flt.sparesUsed + 1 } } else s1
    let s3 := (((s2.fenceOne c).countFence 1).blockFlag .fence).freeze (compOfCore c)
    let r := match s.grantNode c with
      | some (_, d) => s.ringField d.ring
      | none => 0
    (s3.log cls (if spare && cls == 0x02 then 2 else 1) c 0 r 0 0).order (if flags = 1 then halfOfCore c else 0)

/-- A substitution of a stand ends without migration: the spare stays committed (R426). -/
def Stand.endSubstitution (t : Stand) : Stand :=
  match t.substituting with
  | some c => { t with sparePos := t.position (c % 16), spareState := 1, draining := false, substituting := none }
  | none => t

/-- Every core of a stand that is not fenced yet is fenced; how many is counted. -/
def State.fenceAll (s : State) (t : Nat) : State :=
  (coresOfStand t).foldl (fun u c => if u.fenced c then u else (u.fenceOne c).countFence 1) s

/-- A fence of a whole stand (R425). -/
def State.fenceStand (s : State) (t cls flags : Nat) : State :=
  if (s.stand t).standFenced then s
  else
    let s1 := s.updStand t Stand.endSubstitution
    let s2 := (s1.fenceAll t).updStand t fun x => { x with standFenced := true, fencedMask := 0xFFFF }
    (((s2.repairAdd 3 flags t 0).blockFlag .fence).freeze (compOfStand t)).log cls 1 t 0 0 0 0

/-- A fence of a whole compartment (R425). -/
def State.fenceComp (s : State) (i cls flags : Nat) : State :=
  if (s.comp i).fenced then s
  else
    let s1 := (List.range 16).foldl (fun u j =>
      let t := 16 * i + j
      ((u.updStand t Stand.endSubstitution).fenceAll t).updStand t fun x => { x with fencedMask := 0xFFFF }) s
    let s2 := s1.updComp i fun x => { x with fenced := true }
    (((s2.repairAdd 4 flags i 0).blockFlag .fence).freeze i).log cls 1 i 0 0 0 0

/-- Steps 3 to 5 of R426: the cores above the failed position migrate, which leaves every logical core its state, the new
map takes effect, and the fenced id restarts as after block reset. -/
def State.endDrain (s : State) (t : Nat) : State :=
  match (s.stand t).substituting with
  | some c =>
    let s1 := s.updStand t fun x =>
      { x.endSubstitution with fencedMask := x.fencedMask &&& ~~~(1 <<< (c % 16) : BitVec 16) }
    ((s1.setCore c Core.reset).settleInvs).dispatchLoop c
  | none => s

/-- UNFENCE of a core (R440): refused, unless its self-test passes; then it is reset and returns to service, and its entry
leaves the repair table. -/
def State.unfence (s : State) (c : Nat) (passes : Bool) : Option State :=
  let t := standOfCore c
  let x := s.stand t
  if !s.fenced c || x.draining || x.standFenced || (s.comp (compOfCore c)).fenced || !passes then none
  else
    let s1 := s.updStand t fun y => { y with fencedMask := y.fencedMask &&& ~~~(1 <<< (c % 16) : BitVec 16) }
    let keep := s1.flt.entries.filter fun (e : RepairEntry) => !(e.kind == 2 && e.a == c)
    let s2 := { s1 with boot := { s1.boot with findings := s1.boot.findings.filter (· ≠ (t, x.position (c % 16))) } }
    let s3 := ((s2.setCore c Core.reset).settleInvs).dispatchLoop c
    some (if keep.length = s.flt.entries.length then s3
      else ({ s3 with flt := { s3.flt with
        entries := keep
        generation := s3.flt.generation + 1 } }).blockFlag .repair)

/-! ### Rows of on-chip memories (R421, R427); the numbers of arrays are the model's (DEDUCED, log 14) -/

/-- The array of a core's data memory. -/
def arrayData (c : Nat) : Nat := c
/-- The array of a core's instruction memory. -/
def arrayInstr (c : Nat) : Nat := 16384 + c
/-- The array of a stand memory bank. -/
def arrayBank (t bank : Nat) : Nat := 32768 + 16 * t + bank
/-- The array of a half's node, edge and landing memories. -/
def arrayNode (h : Nat) : Nat := 49152 + h
/-- The array of a half's queue words. -/
def arrayQueue (h : Nat) : Nat := 49154 + h
/-- The array of a half's store of shared semaphores. -/
def arrayShared (h : Nat) : Nat := 49156 + h
/-- The array of a core's semaphore memory. -/
def arraySem (c : Nat) : Nat := 65536 + c

/-- The array is the queue words of a half. -/
def isQueue (a : Nat) : Bool := decide (49154 ≤ a ∧ a < 49156)

/-- The array lies in a core, whose id it is modulo 16,384. -/
def inCore (a : Nat) : Bool := decide (a < 32768 ∨ 65536 ≤ a)

/-- Spare rows of an array; the spec gives none to semaphore memories and queues (R427). -/
def arraySpares (a : Nat) : Nat :=
  if a < 16384 then 8 else if a < 32768 then 2 else if a < 49152 then 16 else if a < 49154 then 64 else 0

/-- The class of an array in the fault log: 3 core and semaphore memory, 4 stand memory, 8 Dvorsor memory, 9 queues (R419). -/
def arrayClass (a : Nat) : Nat :=
  if a < 32768 then 0x03 else if a < 49152 then 0x04 else if a < 49154 then 0x08 else if a < 49156 then 0x09 else 0x03

/-- Repairs a row with a spare, or refuses and logs it; a core whose memory goes on failing without a spare is fenced
(R422, R427). -/
def State.repairRow (s : State) (a row : Nat) : State :=
  let used := Map.at s.flt.sparesRows 0 a
  let s1 := { s with flt := { s.flt with
    sparesRows := Map.put s.flt.sparesRows a (used + 1)
    rowErrors := s.flt.rowErrors.filter fun p => !(p.1 == a && p.2.1 == row) } }
  if used < arraySpares a then
    (({ s1 with flt := { s1.flt with rowsRepaired := s1.flt.rowsRepaired + 1 } }).repairAdd 5 0 a
      (row % 65536 + 65536 * (used % 256))).log (arrayClass a) 3 a row 0 0 0
  else
    let s2 := (s1.blockFlag .spare).log (arrayClass a) 8 a row 0 0 0
    if used > arraySpares a && inCore a then s2.fenceCore (a % 16384) 0x03 0 else s2

/-- A corrected error of a row: counted in MEMORY_CE or, of a queue word, in QUEUE_CE (R443), and repaired at CE_ROW_LIMIT errors
within CE_WINDOW (R421). -/
def State.correctedRow (s : State) (a row : Nat) : State :=
  let keep := s.set.ceWindow * 1000000000
  let old := (s.flt.rowErrors.find? fun p => p.1 == a && p.2.1 == row).map (·.2.2)
  let times := ((old.getD []).filter fun t => decide (s.now - t < keep)) ++ [s.now]
  let s1 := { s with flt := { s.flt with
    memoryCe := if isQueue a then s.flt.memoryCe else s.flt.memoryCe + 1
    queueCe := if isQueue a then s.flt.queueCe + 1 else s.flt.queueCe
    rowErrors := (s.flt.rowErrors.filter fun p => !(p.1 == a && p.2.1 == row)) ++ [(a, row, times)] } }
  let s2 :=
    if inCore a then s1.updStand (a % 16384 / 16) fun x =>
      { x with memoryCe := x.memoryCe.zipIdx.map fun p => if p.2 = a % 16 then min (p.1 + 1) 255 else p.1 }
    else if a < 49152 then s1.updStand ((a - 32768) / 16) fun x => { x with standCe := (x.standCe + 1) % 2 ^ 32 }
    else s1
  if times.length ≥ s.set.ceRowLimit then s2.repairRow a row else s2

/-- The array that holds a local address of a core. -/
def localArray (c a : Nat) : Nat :=
  if a < 0x8000 then arrayData c else arrayBank (standOfCore c) (bits a 6 4)

/-- The bytes of a row: 16 of data memory (R183), 64 of a stand memory bank (R189). -/
def localRow (a : Nat) : Nat × Nat := if a < 0x8000 then (a / 16 * 16, 16) else (a / 64 * 64, 64)

/-- The number of a row within its array. -/
def rowNumber (a : Nat) : Nat := if a < 0x8000 then a / 16 else (a - 0x100000) / 1024

/-- A row that became uncorrectable is mapped out and its spare starts as zero (R427). -/
def State.lostRow (s : State) (c a : Nat) : State :=
  let (base, n) := localRow a
  (s.writeLocal c base (List.replicate n 0)).repairRow (localArray c a) (rowNumber a)

end Sys2Proof.Machine
end

