-- ==== Sys2Proof/Machine/Slice.lean ====
section
/-! DEFINITION. The matrix slice (R195–R203, R267–R271, R273, R274) and tensor digests (R478). -/
namespace Sys2Proof.Machine

/-- K, N and elements of a group along K, for a slice format; none for another format (R195, R251). -/
def sliceMode (f : Nat) : Option (Nat × Nat × Nat) :=
  if f = 10 then some (32, 32, 16)
  else if 7 ≤ f ∧ f ≤ 9 then some (16, 32, 16)
  else if 4 ≤ f ∧ f ≤ 6 then some (8, 16, 8)
  else if f = 2 ∨ f = 3 then some (4, 8, 4)
  else none

/-- The product fraction width q of a float format (R203). -/
def sliceQ (f : Nat) : Int :=
  if f = 8 ∨ f = 9 then 2 else if f = 5 then 4 else if f = 4 then 6 else if f = 3 then 14 else 20

/-- A format whose group sums are exact integers (R267). -/
def sliceInteger (f : Nat) : Bool := f == 6 || f == 7 || f == 10

/-- Element bytes and scale bytes of an MLOAD (R237). -/
def sliceBytes (f : Nat) : Nat × Nat :=
  match sliceMode f with
  | some (k, n, g) => (fmtBytes f (k * n), if fmtGrouped f then k / g * n else 0)
  | none => (0, 0)

/-- An element code after the flush of a subnormal (R263, R271). -/
def flushCode (f : Nat) (ftz : Bool) (c : Nat) : Nat :=
  if ftz && isSubnormal f c then (if fmtSignedZero f then c / 2 ^ (fmtWidth f - 1) * 2 ^ (fmtWidth f - 1) else 0) else c

/-- The sum of values, exact. -/
def sumNums (l : List Num) : Num := l.foldl Num.add (.fin false 0 0)

/-- Element k, n of an operand. -/
def Operand.elem (w : Operand) (cols k n : Nat) : Num := decodeNum w.format (w.elems.getD (k * cols + n) 0)

/-- A value held as F32: the exact value rounded once to nearest even (DESIGN CHOICE, log 137). -/
def Num.toF32 (x : Num) : Num := decodeNum 1 (ieee 1 false x).1

/-- The operand an MLOAD reads, with its checksum values per group (R196, R201, R271); then whether an element was flushed,
and the number of K-groups with a NaN element or a scale of code 255. The checksum values are exact, and F32 in B16. -/
def loadOperand (f : Nat) (ftz : Bool) (bytes scales : List Byte) : Operand × Bool × Nat :=
  match sliceMode f with
  | some (kk, nn, g) =>
    let raw := unpack f (kk * nn) bytes
    let codes := raw.map (flushCode f ftz)
    let base : Operand := ⟨f, codes, scales, [], []⟩
    let groups := kk / g
    let held (x : Num) : Num := if f = 3 then x.toF32 else x
    let c := ((List.range groups).map fun j => (List.range g).map fun i =>
      held (sumNums ((List.range nn).map fun n => base.elem nn (j * g + i) n))).flatten
    let d := ((List.range groups).map fun j => (List.range nn).map fun n =>
      held (sumNums ((List.range g).map fun i => base.elem nn (j * g + i) n))).flatten
    let nanGroup (j : Nat) : Bool :=
      (List.range g).any (fun i => (List.range nn).any fun n => (base.elem nn (j * g + i) n).isNaN)
        || (fmtGrouped f && (List.range nn).any fun n => scales.getD (j * nn + n) 0 == 255)
    ({ base with colSums := c, rowSums := d }, ftz && raw.any (isSubnormal f), ((List.range groups).filter nanGroup).length)
  | none => (⟨f, [], [], [], []⟩, false, 0)

/-- The largest exponent ⌊log2⌋ among finite nonzero products. -/
def productExp (ps : List Num) : Option Int :=
  ps.foldl (fun best p =>
    match p with
    | .fin _ m e =>
      if m = 0 then best
      else
        let x := magExp m e
        (match best with
          | some b => some (if b < x then x else b)
          | none => some x)
    | _ => best) none

/-- A product truncated toward zero to a multiple of 2^q. -/
def truncNum (q : Int) : Num → Num
  | .fin s m e => if q ≤ e then .fin s m e else .fin s (m >>> (q - e).toNat) q
  | x => x

/-- The group sum S of R267 and R268; `bad` when a scale of the group is code 255. -/
def groupSum (f : Nat) (bad : Bool) (ps : List Num) : Num :=
  if bad || ps.any (·.isNaN) then .nan
  else
    let pos := ps.any (· == .inf false)
    let neg := ps.any (· == .inf true)
    if pos && neg then .nan
    else if pos then .inf false
    else if neg then .inf true
    else
      let ts := if sliceInteger f then ps
        else match productExp ps with
          | some e => ps.map (truncNum (e - sliceQ f - 3))
          | none => ps
      let t := sumNums ts
      if t.isZero then .fin false 0 0 else t

/-- One group enters an F32 accumulator element (R263, R269): the code, saturation, flush. -/
def accumF32 (ftz : Bool) (a : Nat) (s : Num) (scale : Int) : Nat × Bool × Bool :=
  let (x, flIn) := readNum 1 ftz a
  let v := x.add (s.scale scale)
  let (c, fl) := ieee 1 ftz v
  let fin (z : Num) : Bool := match z with
    | .fin _ _ _ => true
    | _ => false
  (c, fin v && decide (bits c 0 31 = 0x7F800000), flIn || fl)

/-- One group enters an I32 accumulator element (R270); a NaN group sum leaves a free value (DESIGN CHOICE, log 15). -/
def accumI32 (free : Word) (a : Nat) (s : Num) : Nat × Bool :=
  if s.isNaN then (free.toNat, false) else
  let v := signed 32 a + s.fixed 0
  if v < -(2 ^ 31 : Int) then (0x80000000, true)
  else if v > (2 ^ 31 : Int) - 1 then (0x7FFFFFFF, true)
  else (wrapInt 32 v, false)

/-- One streamed row through an operand: from the accumulator row's old codes to its new ones; then, over the groups of the
row, how many saturated and how many met a NaN, whether an I32 element saturated, and whether a result was flushed. -/
def streamRow (w : Operand) (free : Nat → Word) (unscaled ftz : Bool) (kk nn g : Nat) (x : List Num) (xs : List Nat) (acc : List Nat) :
    List Nat × Nat × Nat × Bool × Bool :=
  (List.range (kk / g)).foldl (fun (st : List Nat × Nat × Nat × Bool × Bool) j =>
    let sx := xs.getD j 127
    let nanIn := (List.range g).any (fun i => (x.getD (j * g + i) .nan).isNaN) || (fmtGrouped w.format && sx == 255)
    let outs := (List.range nn).map fun n =>
      let ps := (List.range g).map fun i => (x.getD (j * g + i) .nan).mul (w.elem nn (j * g + i) n)
      let sw := (w.scales.getD (j * nn + n) 127).toNat
      let a := st.1.getD n 0
      if sliceInteger w.format && (unscaled || !fmtGrouped w.format) then
        let (c, o) := accumI32 (free n) a (groupSum w.format (fmtGrouped w.format && (sx == 255 || sw == 255)) ps)
        (c, o, o, false)
      else
        let s := groupSum w.format (fmtGrouped w.format && (sx == 255 || sw == 255)) ps
        let sc : Int := if fmtGrouped w.format then (sx : Int) + sw - 254 else 0
        let (c, o, fl) := accumF32 ftz a s sc
        (c, o, false, fl)
    (outs.map (·.1), st.2.1 + b2n (outs.any fun o => o.2.1), st.2.2.1 + b2n nanIn,
      st.2.2.2.1 || outs.any (fun o => o.2.2.1), st.2.2.2.2 || outs.any fun o => o.2.2.2)) (acc, 0, 0, false, false)

/-! ### The checks of the slice (R201–R203) -/

/-- The value is finite. -/
def Num.isFin : Num → Bool
  | .fin _ _ _ => true
  | _ => false

/-- T of R203, of the products of each column of a group of `kg` products per column. -/
def checkWindow (f kg : Nat) (columns : List (List Num)) : Num :=
  sumNums (columns.map fun ps => match productExp ps with
    | some e => .fin false kg (e - sliceQ f - 3)
    | none => .fin false 0 0)

/-- What B16 adds to T: 2^(H − 21), H the exponent of the larger magnitude. -/
def checkSlack (f : Nat) (s z : Num) : Num :=
  match (if f = 3 then productExp [s, z] else none) with
  | some h => .fin false 1 (h - 21)
  | none => .fin false 0 0

/-- Two values of a check agree: exactly in the integer modes (R202), within T in the float modes (R203). A NaN fails only beside
a finite value, and infinities agree when they have the same sign. -/
def checkAgrees (f : Nat) (window s z : Num) : Bool :=
  if s.isNaN || z.isNaN then !(s.isFin || z.isFin)
  else if s.isFin && z.isFin then
    (if sliceInteger f then s.eq z else (window.add (checkSlack f s z)).near s z)
  else s == z

/-- The products of column `n` of group `j` with streamed values. -/
def Operand.products (w : Operand) (nn g j n : Nat) (x : List Num) : List Num :=
  (List.range g).map fun i => (x.getD (j * g + i) .nan).mul (w.elem nn (j * g + i) n)

/-- The row check: in every group, S agrees with Z. It runs on unscaled values. -/
def Operand.rowCheck (w : Operand) (kk nn g : Nat) (x : List Num) : Bool :=
  (List.range (kk / g)).all fun j =>
    let columns := (List.range nn).map fun n => w.products nn g j n x
    let s := sumNums (columns.map (groupSum w.format false))
    let z := sumNums ((List.range g).map fun i => (x.getD (j * g + i) .nan).mul (w.colSums.getD (j * g + i) .nan))
    checkAgrees w.format (checkWindow w.format g columns) s z

/-- The ones row. -/
def onesRow (kk : Nat) : List Num := List.replicate kk (.fin false 1 0)

/-- The pass check: the output of the ones row for each column of each group agrees with d. -/
def Operand.passCheck (w : Operand) : Bool :=
  match sliceMode w.format with
  | some (kk, nn, g) => (List.range (kk / g)).all fun j =>
    let columns := (List.range nn).map fun n => w.products nn g j n (onesRow kk)
    let t := checkWindow w.format g columns
    columns.zipIdx.all fun p => checkAgrees w.format t (groupSum w.format false p.1) (w.rowSums.getD (j * nn + p.2) .nan)
  | none => true

/-- The load check: in every group the sum of d agrees with the sum of c (its window that of the ones row; DEDUCED, log 138). -/
def Operand.loadCheck (w : Operand) : Bool :=
  match sliceMode w.format with
  | some (kk, nn, g) => (List.range (kk / g)).all fun j =>
    let t := checkWindow w.format g ((List.range nn).map fun n => w.products nn g j n (onesRow kk))
    checkAgrees w.format t (sumNums ((w.rowSums.drop (j * nn)).take nn)) (sumNums ((w.colSums.drop (j * g)).take g))
  | none => true

/-! ### Tensor digests (R478) -/

/-- A value rounded to binary64, nearest even. -/
def roundF64 : Num → Num
  | .fin s m e =>
    if m = 0 then .fin s 0 0
    else
      let q := gridExp 52 1023 m e
      .fin s (roundAt 0 0 m e q) q
  | x => x

/-- The binary64 code of a value on its grid. -/
def codeF64 : Num → Nat
  | .fin s m e =>
    (if s then 2 ^ 63 else 0) + (if m = 0 then 0 else
      let q := gridExp 52 1023 m e
      (encodeMag 1 11 52 1023 (roundAt 0 0 m e q) q).1)
  | .inf s => (if s then 2 ^ 63 else 0) + 0x7FF0000000000000
  | .nan => 0x7FF8000000000000

/-- The four records of a digest of raw bytes. -/
def digestRecords (core ctx f id now : Nat) (bytes : List Byte) : List (List Byte) :=
  let n := if f = 0 then bytes.length else bytes.length * 8 / fmtWidth f
  let vals := if f = 0 then [] else (unpack f n bytes).map (decodeNum f)
  let fins := vals.filter fun v => match v with
    | .fin _ _ _ => true
    | _ => false
  let sum := if f = 0 then .nan else fins.foldl (fun a v => roundF64 (a.add v)) (.fin false 0 0)
  let range (op : Num → Num → Num) : Nat := match fins with
    | v :: vs => (convertNum 1 0 0 false (vs.foldl op v)).code
    | [] => 0x7FC00000
  [[0x05] ++ u8 f ++ u16 core ++ u32 (id % 2 ^ 24) ++ u64 now,
   [0x06, 0] ++ u16 ctx ++ u32 (vals.length - fins.length) ++ u64 (crc64 bytes).toNat,
   [0x07, 0, 0, 0] ++ u32 n ++ u64 (codeF64 sum),
   [0x08, 0, 0, 0, 0, 0, 0, 0] ++ u32 (range Num.minimum) ++ u32 (range Num.maximum)]

end Sys2Proof.Machine
end

