-- ==== Sys2Proof/Machine/CoreStart.lean ====
section
/-! DEFINITION. What an instruction does when it starts at the head of its queue (R221–R244). -/
namespace Sys2Proof.Machine

/-- The outcome of a start: an exception (with the state it leaves, its cause and address), a wait (`none`), or the state
after it and whether the instruction is complete. -/
abbrev Started := Except (State × Nat × BitVec 64) (Option (State × Bool))

def trapAt (s : State) (cause : Nat) : Started := .error (s, cause, 0)
def finished (s : State) : Started := .ok (some (s, true))
def running (s : State) : Started := .ok (some (s, false))
def waits : Started := .ok none

/-- The context of a core's grant. -/
def State.grantCtx (s : State) (c : Nat) : Nat :=
  match s.grantNode c with
  | some (_, d) => d.ctx
  | none => 0

/-- The ring of a core's grant. -/
def State.grantRing (s : State) (c : Nat) : Nat :=
  match s.grantNode c with
  | some (_, d) => d.ring
  | none => 0

/-- Records the flags and events of an instruction: FLUSHED once, and the escalation events of its current item. -/
def State.noteEvents (s : State) (c item sat nan : Nat) (flushed : Bool) : State :=
  let s1 := s.updCore c fun k => (k.addEvents item sat nan).setFlushed flushed
  let s2 := if sat + nan = 0 then s1 else s1.coreCount c 0x0A (sat + nan)
  if flushed then s2.coreCount c 0x0B 1 else s2

/-! ### Scalar and control (R222, R224–R227) -/

/-- The value CRR reads, with the core after the read. -/
def State.controlRead (s : State) (c idx : Nat) : State × Word :=
  let k := s.core c
  if idx = 0 then (s, BitVec.ofNat 32 c)
  else if idx = 1 then (s, BitVec.ofNat 32 s.set.deviceId)
  else if idx = 2 then (s, BitVec.ofNat 32 (ctxField (s.grantCtx c) (s.grantRing c)))
  else if idx = 3 then (s, BitVec.ofNat 32 (b2n k.ftz * 4 + k.round))
  else if idx = 4 then (s, k.arithFlags)
  else if idx = 5 then
    (s.updCore c fun x => { x with timeHi := BitVec.ofNat 32 (s.now / 2 ^ 32) }, BitVec.ofNat 32 s.now)
  else if idx = 6 then (s, k.timeHi)
  else (s, 0)

/-- Instructions of the SCALAR queue. -/
def State.startScalar (s : State) (c : Nat) (i : QInstr) : Started :=
  let k := s.core c
  let f := i.f
  if i.op = 0x18 then
    let (s1, v) := s.controlRead c (bits f.imm.toNat 0 12)
    finished (s1.updCore c fun x => x.setS f.rd v)
  else if i.op = 0x19 then
    let v := k.s f.ra
    let idx := bits f.imm.toNat 0 12
    if idx = 3 then
      (if bits v.toNat 0 2 = 3 then trapAt s exOperand
       else finished (s.updCore c fun x => { x with ftz := v.getLsbD 2, round := bits v.toNat 0 2 }))
    else if idx = 4 then finished (s.updCore c fun x => x.clearFlags v)
    else if idx = 7 then
      finished (s.updCore c fun x => x.updItem x.currentItem fun it => { it with key := v, ctr := 0 })
    else finished s
  else if i.op = 0x1A then
    let j := bits f.imm.toNat 0 3
    if f.imm.getLsbD 3 then finished (s.updCore c fun x => x.setS f.rd (x.counterLatch.toList.getD j 0))
    else
      let v := k.counters.toList.getD j 0
      finished (s.updCore c fun x =>
        { x.setS f.rd (BitVec.ofNat 32 v.toNat) with
          counterLatch := Vector.ofFn fun m : Fin 8 =>
            if m.val = j then BitVec.ofNat 32 (v.toNat / 2 ^ 32) else x.counterLatch[m] })
  else finished (s.updCore c fun x => x.setS f.rd (aluResult i.op (x.s f.ra) (x.operandB f)))

/-! ### Vector (R208, R228) -/

/-- The 16 lanes an elementwise instruction gives, with NANSEEN and FLUSHED. -/
def Core.vectorLanes (k : Core) (op : Byte) (f : Fields) : List Word × Bool × Bool :=
  let t := bits f.mod.toNat 0 3
  let a := k.v f.ra
  let b := k.v f.rb
  let rc := k.v f.rc
  let d := k.v f.rd
  let ea := elemsOf t a
  let eb := elemsOf t b
  let perElem (g : Nat → Nat × Bool) : List Word × Bool × Bool :=
    let (cs, fl) := gatherFlush ((List.range (laneElems t)).map g)
    (lanesOf t cs, false, fl)
  let nat (l : List Word) (j : Nat) : Nat := (l.getD j 0).toNat
  if 0x20 ≤ op.toNat ∧ op.toNat ≤ 0x25 then
    let ec := elemsOf t rc
    perElem fun j => arithElem op t k.ftz (ea.getD j 0) (eb.getD j 0) (ec.getD j 0)
  else if op = 0x26 then (List.zipWith (· &&& ·) a b, false, false)
  else if op = 0x27 then (List.zipWith (· ||| ·) a b, false, false)
  else if op = 0x28 then (List.zipWith (· ^^^ ·) a b, false, false)
  else if op = 0x29 then perElem fun j => cmpElem t (bits f.imm.toNat 0 3) k.ftz (ea.getD j 0) (eb.getD j 0)
  else if op = 0x2A then
    ((List.range 16).map fun j => (rc.getD j 0 &&& a.getD j 0) ||| (~~~(rc.getD j 0) &&& b.getD j 0), false, false)
  else if op = 0x2B then (List.replicate 16 (k.s f.ra + f.imm), false, false)
  else if op = 0x2D then ((List.range 16).map fun j => a.getD (nat b j % 16) 0, false, false)
  else if op = 0x2E then
    let (v, fl) := reduceLanes t (bits f.imm.toNat 0 2) k.ftz (a.map (·.toNat))
    (List.replicate 16 (BitVec.ofNat 32 v), false, fl)
  else if op = 0x2F ∨ op = 0x30 ∨ op = 0x31 then perElem fun j => unaryElem op k.ftz (nat a j)
  else if op = 0x32 then
    let rs := (List.range 16).map fun j => maxRunElem k.ftz (nat d j) (nat a j)
    (rs.map fun r => BitVec.ofNat 32 r.1, rs.any (fun r => r.2.1), rs.any fun r => r.2.2)
  else if op = 0x33 then perElem fun j => expSubElem k.ftz (nat a j) (nat b j)
  else if op = 0x34 then perElem fun j => arithElem 0x23 0 k.ftz (nat d j) (nat a j) (nat b j)
  else perElem fun j => divSafeElem k.ftz (nat a j) (nat b j)

/-- Instructions of the VECTOR queue. -/
def State.startVector (s : State) (c : Nat) (i : QInstr) : Started :=
  let k := s.core c
  if i.op = 0x2C then
    finished (s.updCore c fun x => x.setS i.f.rd ((k.v i.f.ra).getD (bits i.f.imm.toNat 0 4) 0))
  else
    let (l, nan, fl) := k.vectorLanes i.op i.f
    let s1 := s.updCore c fun x => ((x.setV i.f.rd l).setNanSeen nan).setFlushed fl
    finished (if fl then s1.coreCount c 0x0B 1 else s1)

/-! ### Local loads and stores (R230, R231) -/

/-- A read of local memory under its code: an uncorrectable row raises DATA, a corrected one is counted (R421, R433). -/
def State.codedAccess (s : State) (c a : Nat) (e : Ecc) (go : State → Started) : Started :=
  match e with
  | .clean => go s
  | .corrected row => go (s.correctedRow (localArray c a) row)
  | .uncorrectable => .error (s.lostRow c a, exData, 0)

/-- LDS, STS, VLD and VST. Of several causes the lowest is reported (R248); a reserved format code accesses no more than the
address itself. -/
def State.startLocal (s : State) (c : Nat) (i : QInstr) : Started :=
  let k := s.core c
  let f := i.f
  if i.op = 0x40 ∨ i.op = 0x41 then
    let a := (k.s f.ra + f.imm).toNat
    let n := 2 ^ bits f.mod.toNat 0 2
    if !mapped a n then trapAt s exAddress
    else if a % n ≠ 0 then trapAt s exAlign
    else s.codedAccess c a i.ecc fun s =>
      if i.op = 0x40 then
        let v := leNat (s.readLocal c a n)
        let w := if f.mod.getLsbD 2 then wrapInt 32 (signed (8 * n) v) else v
        finished (s.updCore c fun x => x.setS f.rd (BitVec.ofNat 32 w))
      else finished (s.writeLocal c a (leBytes n (k.s f.rb).toNat))
  else
    let t := bits f.mod.toNat 0 3
    let fmt := bits f.imm.toNat 16 8
    let a := wrapInt 32 ((k.s f.ra).toNat + signed 16 f.imm.toNat)
    let n := if fmt ≤ 11 then vectorBytes t fmt else 1
    let sc := (k.s f.rb).toNat
    let ns := laneElems t / 16
    if !mapped a n || (usesScales t fmt && !mapped sc ns) then trapAt s exAddress
    else if a % min n 64 ≠ 0 then trapAt s exAlign
    else if !pairAllowed t fmt then trapAt s exOperand
    else s.codedAccess c a i.ecc fun s =>
      let it := k.currentItem
      let st := k.item it
      let draw := drawAt st.key st.ctr
      let s0 := s.updCore c fun x => x.takeDraws it (vectorDraws t fmt k.round)
      if i.op = 0x42 then
        let scales := if usesScales t fmt then s.readLocal c sc ns else []
        let (l, sat, nan, fl) := loadLanes t fmt k.round k.ftz draw (s.readLocal c a n) scales
        finished ((s0.updCore c fun x => x.setV f.rd l).noteEvents c it sat nan fl)
      else
        let (bs, es, sat, nan, fl) := storeLanes t fmt k.round k.ftz draw (k.v f.rd)
        let s1 := s0.writeLocal c a bs
        let s2 := if usesScales t fmt then s1.writeLocal c sc es else s1
        finished (s2.noteEvents c it sat nan fl)

/-! ### Transfers (R232–R236) -/

/-- The lines of 128 bytes that writes touch: each is a command of its own at a memory port, with its acknowledgement (R503).
Writes of host memory are posted and have none (R498). -/
def linesOf (ws : List (Nat × Nat)) : List Nat :=
  (ws.flatMap fun p => (List.range (if p.2 = 0 then 0 else (p.1 + p.2 - 1) / 128 + 1 - p.1 / 128)).map (p.1 / 128 + ·)).eraseDups

/-- The device ranges an XLD reads: its rows and its scale rows. -/
def Descriptor.srcRanges (d : Descriptor) (src : Nat) : List (Nat × Nat) :=
  ((List.range d.rows).map fun r => (src + r * d.srcStride, fmtBytes d.srcFmt d.cols))
    ++ (if fmtGrouped d.srcFmt then
        (List.range d.rows).map fun r => (planeAt src d.srcScale + r * d.srcSStride, ceilDiv d.cols 16)
      else [])

/-- The lines an XST writes: its rows and its scale rows. -/
def Descriptor.dstLines (d : Descriptor) (dst : Nat) : List Nat :=
  linesOf (((List.range d.dstRows).map fun r => (dst + r * d.dstStride, fmtBytes d.dstFmt d.dstCols))
    ++ (if fmtGrouped d.dstFmt then
        (List.range d.dstPlane.1).map fun r => (planeAt dst d.dstScale + r * d.dstSStride, d.dstPlane.2)
      else []))

/-- A field of a descriptor is out of range, a reserved bit is set, or the pair of formats is not allowed (R233, R234). -/
def Descriptor.bad (d : Descriptor) : Bool :=
  d.rows == 0 || d.cols == 0 || decide (4096 < d.cols) || d.flags.toNat / 8 != 0 || d.reserved15 != 0 || d.reserved28 != 0
    || !transferPair d.srcFmt d.dstFmt
    || (d.transpose && (decide (32 < d.rows) || decide (32 < d.cols)))
    || (fmtGrouped d.dstFmt && d.dstCols % 16 != 0)

/-- ROUND of the descriptor, with ARITH_MODE for 3. -/
def Descriptor.mode (d : Descriptor) (k : Core) : Nat :=
  let r := bits d.flags.toNat 1 2
  if r = 3 then k.round else r

/-- Every row of a side starts aligned to its element width (R234). -/
def rowAligned (f base stride rows : Nat) : Bool :=
  let w := max 1 (fmtWidth f / 8)
  base % w == 0 && (decide (rows ≤ 1) || stride % w == 0)

/-- A plane of scales at a signed offset is a range of a predicate; a negative address is none. -/
def planeOk (base : Nat) (off : Int) (n : Nat) (ok : Nat → Nat → Bool) : Bool :=
  decide (0 ≤ (base : Int) + off) && ok (planeAt base off) n

/-- The ranges of one side: its elements, and its scales when the format is grouped. A side without rows, without elements or
with a reserved format code has none. -/
def Descriptor.srcOk (d : Descriptor) (base : Nat) (ok : Nat → Nat → Bool) : Bool :=
  d.rows == 0 || d.cols == 0 || decide (11 < d.srcFmt) ||
  ok base d.srcSpan && (!fmtGrouped d.srcFmt || planeOk base d.srcScale d.srcScaleSpan ok)

def Descriptor.dstOk (d : Descriptor) (base : Nat) (ok : Nat → Nat → Bool) : Bool :=
  d.rows == 0 || d.cols == 0 || decide (11 < d.dstFmt) ||
  ok base d.dstSpan && (!fmtGrouped d.dstFmt || planeOk base d.dstScale d.dstScaleSpan ok)

/-- The first transfer slot that is free. -/
def Core.freeSlot (k : Core) : Nat := ((List.range 16).find? fun j => (Map.look k.slots j).isNone).getD 16

/-- Reads bytes of the side of a transfer that lies at the device (`dev`) or in local memory. -/
def State.readSide (s : State) (c ctx : Nat) (dev : Bool) (host : List Byte) (base a n : Nat) : List Byte :=
  if dev then s.readDevice ctx host base a n else s.readLocal c a n

/-- Writes bytes of a side of a transfer. -/
def State.writeSide (s : State) (c ctx : Nat) (dev : Bool) (a : Nat) (bs : List Byte) : State :=
  if dev then s.writeDevice (halfOfCore c) ((s.core c).grant.map (·.node)) ctx a bs else s.writeLocal c a bs

/-- An instruction of the grant the core now holds. -/
def State.ofGrant (s : State) (c instr : Nat) : Bool :=
  match (s.core c).grant with
  | some g => decide (g.firstInstr ≤ instr)
  | none => false

/-- Moves the data of a transfer: rows and scale planes are converted and written, and the events go to its item. -/
def State.moveTransfer (s : State) (c : Nat) (x : TransferSlot) (host : List Byte) : State :=
  let srcDev := x.op == 0x44
  let (ws, sat, nan, fl) := transferWrites x.desc (fun a n => s.readSide c x.ctx srcDev host x.src a n) x.src x.dst x.round x.ftz
    (drawAt x.key x.ctr)
  let s1 := ws.foldl (fun t p => t.writeSide c x.ctx (x.op == 0x45) p.1 p.2) (if srcDev && inAperture x.src then s.nextFree else s)
  if s.ofGrant c x.instr then s1.noteEvents c x.item sat nan fl else s1

/-- XLD, XST and XMV at issue: the descriptor is read, the ranges, the regions and the descriptor are checked, the lowest cause
being reported (R248), and a slot is taken. -/
def State.startTransfer (s : State) (c : Nat) (i : QInstr) : Started :=
  let k := s.core c
  let f := i.f
  let da := (k.s f.rd).toNat
  if !mapped da 32 then trapAt s exAddress
  else if !inData da 32 || da % 8 ≠ 0 then trapAt s exAlign
  else s.codedAccess c da i.ecc fun s =>
    let d := Descriptor.ofBytes (s.readLocal c da 32)
    let dev := pairAddr (k.s f.ra) (k.s f.rb)
    let loc := (k.s f.rc).toNat
    let src := if i.op = 0x44 then dev else if i.op = 0x45 then loc else (k.s f.ra).toNat
    let dst := if i.op = 0x45 then dev else loc
    let localOk := (i.op == 0x44 || d.srcOk src mapped) && (i.op == 0x45 || d.dstOk dst mapped)
    let check (a n : Nat) : Nat := s.regionCheck (s.grantCtx c) a n (i.op == 0x45)
    let okBelow (lim : Nat) (a n : Nat) : Bool := decide (check a n ≤ lim)
    let side (lim : Nat) : Bool :=
      if i.op = 0x44 then d.srcOk src (okBelow lim) else if i.op = 0x45 then d.dstOk dst (okBelow lim) else true
    if !localOk then trapAt s exAddress
    else if !rowAligned d.srcFmt src d.srcStride d.rows || !rowAligned d.dstFmt dst d.dstStride d.dstRows then
      trapAt s exAlign
    else if !side 1 then .error (s, exAccess, BitVec.ofNat 64 dev)
    else if d.bad then trapAt s exOperand
    else if !side 0 then waits
    else
      let it := k.currentItem
      let st := k.item it
      let mode := d.mode k
      let x : TransferSlot := ⟨bits f.mod.toNat 0 3, i.op, dev, src, dst, d, mode, k.ftz, it, st.key, st.ctr,
        if i.op = 0x45 && !inAperture dst then (d.dstLines dst).length else 0, i.id, i.pc, s.grantCtx c⟩
      let s1 := s.updCore c fun y => { (y.takeDraws it (d.draws mode)) with slots := Map.put y.slots k.freeSlot x }
      let s2 := s1.coreCount c 0x09 (d.rows * fmtBytes d.srcFmt d.cols)
      finished (if i.op = 0x45 then s2.moveTransfer c x [] else s2)

/-- Digests are emitted (R236, R474, R485). -/
def State.digestsOn (s : State) : Bool := s.tracing && s.dbg.sampleControl.getLsbD 1

/-- TDIGEST at issue: with digests off it reads nothing and completes. -/
def State.startDigest (s : State) (c : Nat) (i : QInstr) : Started :=
  if !s.digestsOn then finished s
  else
    let k := s.core c
    let a := (k.s i.f.ra).toNat
    let n := (k.s i.f.rb).toNat
    let fmt := bits i.f.imm.toNat 0 8
    if k.slots.length ≥ 16 then waits
    else if !mapped a n then trapAt s exAddress
    else if n = 0 ∨ 524288 < n ∨ 11 < fmt ∨ (fmt ≠ 0 ∧ n * 8 % fmtWidth fmt ≠ 0) then trapAt s exOperand
    else
      let d : Descriptor :=
        { (Descriptor.ofBytes []) with srcFmt := fmt, reserved28 := BitVec.ofNat 32 (bits i.f.imm.toNat 8 24) }
      let x : TransferSlot := ⟨8, opTdigest, 0, a, n, d, 0, false, k.currentItem, 0, 0, 0, i.id, i.pc, s.grantCtx c⟩
      finished (s.updCore c fun y => { y with slots := Map.put y.slots k.freeSlot x })

/-! ### The matrix slice (R196–R199, R237, R238) -/

/-- MLOAD: the shadow loader starts. -/
def State.startLoad (s : State) (c : Nat) (i : QInstr) : Started :=
  let k := s.core c
  let f := bits i.f.imm.toNat 0 8
  let a := (k.s i.f.ra).toNat
  let sa := (k.s i.f.rb).toNat
  let (eb, sb) := sliceBytes f
  if !mapped a (max 1 eb) || (sb != 0 && !mapped sa sb) then trapAt s exAddress
  else if a % 64 ≠ 0 then trapAt s exAlign
  else if eb = 0 then trapAt s exOperand
  else s.codedAccess c a i.ecc fun s =>
    let (w, fl, nans) := loadOperand f k.ftz (s.readLocal c a eb) (if sb = 0 then [] else s.readLocal c sa sb)
    running ((s.updCore c fun x => { x with shadow := some w, loaderBusy := true }).noteEvents c k.currentItem 0 nans fl)

/-- Fabric time of a number of cycles of a core's island, rounded up (R400). -/
def State.cycles (s : State) (c n : Nat) : Nat := ceilDiv (n * 1000) (stepFreq (s.stand (standOfCore c)).step)

/-- MSWAP: the shadow set becomes the stationary operand, and the ones row streams through it; its check resolves within 8 cycles
(R204). The shadow set keeps what it holds (DESIGN CHOICE, log 139). -/
def State.startSwap (s : State) (c : Nat) : Started :=
  match (s.core c).shadow with
  | some w =>
    let s1 := s.updCore c fun x => { x with stationary := some w, onesUntil := s.now + s.cycles c 8 }
    finished (if w.passCheck then s1 else s1.mismatch c .pass)
  | none => trapAt s exOperand

/-- The rows of an MSTREAM, in order: each is accumulated and written, except the last, which MSTREAM_DONE writes. -/
def streamRows (w : Operand) (free : Nat → Nat → Word) (unscaled add ftz : Bool) (kk nn g accStride acc last : Nat) :
    List (Nat × List Num × List Nat) → State → Nat → Nat → Nat → Bool → Bool →
      State × Nat × Nat × Bool × Bool × List Byte
  | [], s, _, sat, nan, ov, fl => (s, sat, nan, ov, fl, [])
  | (r, x, xs) :: rest, s, c, sat, nan, ov, fl =>
    let addr := acc + r * accStride
    let old := if add then (List.range nn).map fun j => field (s.readLocal c (addr + 4 * j) 4) 0 4
      else List.replicate nn 0
    let (new, sa, na, o, f) := streamRow w (free r) unscaled ftz kk nn g x xs old
    let bs := (new.map fun v => u32 v).flatten
    if r = last then (s, sat + sa, nan + na, ov || o, fl || f, bs)
    else streamRows w free unscaled add ftz kk nn g accStride acc last rest (s.writeLocal c addr bs) c (sat + sa) (nan + na)
      (ov || o) (fl || f)

/-- MSTREAM (R238). Without a stationary operand only the causes that need no mode are met beside OPERAND (R248). -/
def State.startStream (s : State) (c : Nat) (i : QInstr) : Started :=
  let k := s.core c
  let f := i.f
  let h := bits f.imm.toNat 0 16
  let add := f.imm.getLsbD 16
  let unscaled := f.imm.getLsbD 17
  let ss := bits f.imm.toNat 20 8
  let a := (k.s f.ra).toNat
  let stride := bits (k.s f.rb).toNat 0 16
  let accStride := bits (k.s f.rb).toNat 16 16
  let acc := (k.s f.rc).toNat
  let unloaded : Started :=
    if !inData acc 4 || !mapped a (spanBytes h stride 8) then trapAt s exAddress
    else if stride % 8 ≠ 0 ∨ accStride % 4 ≠ 0 then trapAt s exAlign
    else trapAt s exOperand
  match k.stationary with
  | none => unloaded
  | some w =>
    match sliceMode w.format with
    | none => unloaded
    | some (kk, nn, g) =>
      let grouped := fmtGrouped w.format
      let sa := (k.s f.rd).toNat
      let sn := if w.format = 10 then 2 else 1
      if !grouped && f.rd != 0 then trapAt s exIllegal
      else if !inData acc (spanBytes h accStride (4 * nn)) || !mapped a (spanBytes h stride 8)
          || (grouped && !mapped sa (spanBytes h ss sn)) then trapAt s exAddress
      else if stride % 8 ≠ 0 ∨ accStride % 4 ≠ 0 then trapAt s exAlign
      else if h = 0 ∨ (unscaled ∧ w.format ≠ 7 ∧ w.format ≠ 10) then trapAt s exOperand
      else s.codedAccess c a i.ecc fun s =>
        let rows := (List.range h).map fun r =>
          let raw := unpack w.format kk (s.readLocal c (a + r * stride) 8)
          let xs := if grouped then (s.readLocal c (sa + r * ss) sn).map (·.toNat) else []
          (r, raw, xs)
        let flushed := k.ftz && rows.any fun p => p.2.1.any (isSubnormal w.format)
        let vals := rows.map fun p => (p.1, p.2.1.map fun e => decodeNum w.format (flushCode w.format k.ftz e), p.2.2)
        let (s1, sat, nan, ov, fl, bs) := streamRows w (Config.nanSum s.freeCtr) unscaled add k.ftz kk nn g accStride acc (h - 1)
          vals s c 0 0 false flushed
        let padded := if w.format = 10 then h + h % 2 else h
        let s2 := (s1.updCore c fun x =>
          { (x.setIsat ov) with lastRows := x.lastRows ++ [(i.id, acc + (h - 1) * accStride, bs)] }).noteEvents c k.currentItem
            sat nan fl
        let s3 := ((s2.coreCount c 0x07 (kk * nn * padded)).coreCount c 0x08 h).nextFree
        running (if vals.all fun p => w.rowCheck kk nn g p.2.1 then s3 else s3.mismatch c .row)

/-! ### Synchronisation and marking (R239–R244, R477) -/

/-- The target of a TAKE, WAITGE or SEMINIT is accepted (R243). -/
def State.ownTarget (s : State) (c : Nat) : SemId × Bool → Bool
  | (.core t _, false) => t == c
  | (.shared x, false) => s.boundTo x (s.grantCtx c)
  | (_, true) => false

/-- The target of a SIGNAL or SEMRD on this device is accepted (R243). -/
def State.heldTarget (s : State) (c : Nat) : SemId → Bool
  | .core t _ => s.holdsCore (s.grantCtx c) t
  | .shared x => s.boundTo x (s.grantCtx c)

/-- Sends an operation of a core's queue to a semaphore. -/
def State.coreOp (s : State) (c : Nat) (i : QInstr) (id : SemId) (op : SemOp) : State :=
  (s.semSend ⟨id, .core c, i.queue, i.id, none, 2, s.grantCtx c, (s.context (s.grantCtx c)).resetCount % 8,
    s.set.waitWatchdog, op⟩).coreCount c
    0x0C 1

/-- An amount of SIGNAL, TAKE or WAITGE (R243). -/
def amountOk (n : Nat) : Bool := decide (1 ≤ n ∧ n ≤ 16777215)

/-- SIGNAL, TAKE, WAITGE, SEMRD and SEMINIT. -/
def State.startSem (s : State) (c : Nat) (i : QInstr) : Started :=
  let k := s.core c
  let f := i.f
  let word := k.s f.ra
  let n := (k.s f.rb).toNat
  match targetWord word.toNat with
  | none => trapAt s exOperand
  | some (id, remote) =>
    if i.op = 0x63 then
      let dev := bits (k.s f.rc).toNat 0 14
      if !amountOk n then trapAt s exOperand
      else if remote then
        match s.openFlow (s.grantCtx c) dev, s.grantNode c with
        | some fl, some (_, d) => finished ((s.kernelSignal fl d.ring d.seq n id dev).coreCount c 0x0C 1)
        | _, _ => trapAt s exOperand
      else if s.heldTarget c id then finished (s.coreOp c i id (.signal n)) else trapAt s exOperand
    else if i.op = 0x66 then
      if !remote && s.heldTarget c id then running (s.coreOp c i id .read) else trapAt s exOperand
    else if !s.ownTarget c (id, remote) then trapAt s exOperand
    else if i.op = 0x67 then finished (s.coreOp c i id (.init (n % 2 ^ 24) (f.mod.getLsbD 0)))
    else if !amountOk n then trapAt s exOperand
    else
      running ((s.coreOp c i id (if i.op = 0x64 then .take n else .waitge n)).event unCore c 0x04 i.queue word.toNat)

/-- MARK: the pair is handed to the trace path at the head of its queue. -/
def State.startMark (s : State) (c : Nat) (i : QInstr) : Started :=
  let k := s.core c
  finished (s.markPair (halfOfCore c) (bits i.f.mod.toNat 2 2) 0 (ctxField (s.grantCtx c) (s.grantRing c)) i.f.imm.toNat c
    ((k.s i.f.ra).toNat + 2 ^ 32 * (k.s i.f.rb).toNat))

/-- Starts the instruction at the head of a queue, which nothing holds back. -/
def State.startInstr (s : State) (c : Nat) (i : QInstr) : Started :=
  let n := i.op.toNat
  if n ≤ 0x1F then s.startScalar c i
  else if n ≤ 0x35 then s.startVector c i
  else if n ≤ 0x43 then s.startLocal c i
  else if n ≤ 0x46 then s.startTransfer c i
  else if n = 0x47 then s.startDigest c i
  else if n = 0x50 then s.startLoad c i
  else if n = 0x51 then s.startSwap c
  else if n = 0x52 then s.startStream c i
  else if n ≤ 0x62 then finished s
  else if n ≤ 0x67 then s.startSem c i
  else s.startMark c i

end Sys2Proof.Machine
end

