-- ==== Sys2Proof/Machine/CoreIssue.lean ====
section
/-! DEFINITION. Decode, the front end and the queues of a core (R184, R185, R214–R221, R223, R240, R242), and the start of
a grant (R191–R193, R466). -/
namespace Sys2Proof.Machine

/-! ### Encodings (R215, R216, R222–R239) -/

/-- Only the listed fields may be nonzero: which registers, and the masks of MOD and IMM. -/
def onlyFields (f : Fields) (rd ra rb rc : Bool) (modMask : BitVec 4) (immMask : Word) : Bool :=
  (rd || f.rd == 0) && (ra || f.ra == 0) && (rb || f.rb == 0) && (rc || f.rc == 0)
    && (f.mod &&& ~~~modMask) == 0 && (f.imm &&& ~~~immMask) == 0

/-- The fields of an instruction are legal: unlisted ones are 0 and no listed one holds a reserved value. -/
def fieldsOk (op : Byte) (f : Fields) : Bool :=
  let n := op.toNat
  let lane := bits f.mod.toNat 0 3
  if n = 0x00 then onlyFields f false false false false 0 0
  else if n ≤ 0x0E then onlyFields f true true true false 8 0xFFFFFFFF && (!f.mod.getLsbD 3 || f.rb == 0)
  else if n ≤ 0x0F then false
  else if n ≤ 0x15 then onlyFields f false true true false 0 0xFFFFFFFF && f.imm.toNat % 8 == 0
  else if n = 0x16 then onlyFields f true false false false 0 0xFFFFFFFF && f.imm.toNat % 8 == 0
  else if n = 0x17 then onlyFields f true true false false 0 0xFFFFFFFF
  else if n = 0x18 then onlyFields f true false false false 0 0xFFF && decide (f.imm.toNat ≤ 7)
  else if n = 0x19 then onlyFields f false true false false 0 0xFFF && decide (f.imm.toNat ≤ 7)
  else if n = 0x1A then onlyFields f true false false false 0 0xF
  else if n = 0x1B then onlyFields f false false false false 0 0
  else if n < 0x20 then false
  else if n = 0x23 then onlyFields f true true true true 7 0 && decide (lane ≤ 4)
  else if n ≤ 0x25 then onlyFields f true true true false 7 0 && decide (lane ≤ 4)
  else if n ≤ 0x28 then onlyFields f true true true false 0 0
  else if n = 0x29 then onlyFields f true true true false 7 7 && decide (lane ≤ 4) && decide (f.imm.toNat ≤ 5)
  else if n = 0x2A then onlyFields f true true true true 0 0
  else if n = 0x2B then onlyFields f true true false false 0 0xFFFFFFFF
  else if n = 0x2C then onlyFields f true true false false 0 0xF
  else if n = 0x2D then onlyFields f true true true false 0 0
  else if n = 0x2E then onlyFields f true true false false 1 3 && decide (f.imm.toNat ≤ 2)
  else if n ≤ 0x32 then onlyFields f true true false false 0 0
  else if n ≤ 0x35 then onlyFields f true true true false 0 0
  else if n < 0x40 then false
  else if n = 0x40 then onlyFields f true true false false 7 0xFFFFFFFF && bits f.mod.toNat 0 2 != 3
  else if n = 0x41 then onlyFields f false true true false 3 0xFFFFFFFF && bits f.mod.toNat 0 2 != 3
  else if n ≤ 0x43 then
    onlyFields f true true true false 7 0x00FFFFFF && decide (lane ≤ 4) && (usesScales lane (bits f.imm.toNat 16 8) || f.rb == 0)
  else if n ≤ 0x45 then onlyFields f true true true true 7 0
  else if n = 0x46 then onlyFields f true true false true 7 0
  else if n = 0x47 then onlyFields f false true true false 0 0xFFFFFFFF
  else if n < 0x50 then false
  else if n = 0x50 then
    onlyFields f false true true false 0 0xFF && ((sliceBytes f.imm.toNat).1 == 0 || fmtGrouped f.imm.toNat || f.rb == 0)
  else if n = 0x51 then onlyFields f false false false false 0 0
  else if n = 0x52 then onlyFields f true true true true 0 0x0FF3FFFF
  else if n < 0x60 then false
  else if n = 0x60 then
    onlyFields f false false false false 0 0xFF && bits f.imm.toNat 0 4 != 0 && bits f.imm.toNat 4 4 != 0
  else if n = 0x61 then onlyFields f false false false false 0 0
  else if n = 0x62 then onlyFields f false false false false 3 0xFF && f.imm != 0
  else if n = 0x63 then onlyFields f false true true true 0 0
  else if n ≤ 0x65 then onlyFields f true true true false 3 0
  else if n = 0x66 then onlyFields f true true false false 0 0
  else if n = 0x67 then onlyFields f false true true false 1 0
  else if n = 0x68 then onlyFields f false true true false 0xF 0xFFFFFFFF && bits f.mod.toNat 2 2 != 3
  else if n = 0x70 then onlyFields f false false false false 0 7 && decide (f.imm.toNat ≤ 4)
  else if n = 0x71 then onlyFields f false false false false 0 0
  else false

/-- The queue an instruction goes to (R217, R218). -/
def queueOf (op : Byte) (f : Fields) : Nat :=
  let n := op.toNat
  if n = 0x62 ∨ n = 0x64 ∨ n = 0x65 ∨ n = 0x68 then bits f.mod.toNat 0 2
  else if n < 0x20 then 0
  else if n < 0x40 then 1
  else if n < 0x50 then 3
  else if n < 0x60 then 2
  else if n = 0x60 ∨ n = 0x70 ∨ n = 0x71 then 0
  else 3

/-! ### The queues (R184, R219, R220) -/

/-- The heads of the queues, oldest first. -/
def Core.heads (k : Core) : List QInstr :=
  sortBy (fun (i : QInstr) => i.id) ((List.range 4).filterMap fun q => k.headOf q)

/-- An instruction completes and leaves the core. -/
def Core.complete (k : Core) (id : Nat) : Core := { k with inflight := k.inflight.filter fun i => i.id ≠ id }

/-- Starts the oldest queue head that can start; an exception ends the grant. -/
def tryStart (s : State) (c : Nat) : List QInstr → Option State
  | [] => none
  | i :: rest =>
    if i.started || (s.core c).waitReason i != 0 then tryStart s c rest
    else
      match s.startInstr c i with
      | .ok none => tryStart s c rest
      | .ok (some (s1, true)) => some (s1.updCore c fun k => k.complete i.id)
      | .ok (some (s1, false)) =>
        some (s1.updCore c fun k =>
          { k with inflight := k.inflight.map fun j => if j.id = i.id then { j with started := true } else j })
      | .error (s1, cause, a) => some (s1.exception c cause i.queue i.pc a)

/-- Places instructions at the tails of their queues and lets decode go on. -/
def Core.enqueue (k : Core) (is : List QInstr) : Core :=
  { k with inflight := k.inflight ++ is, front := .decoding, nextId := k.nextId + is.length }

/-- The instructions that QBAR tokens of a source mask wait for (R240). -/
def Core.barred (k : Core) (mask : Nat) : List Nat := (k.inflight.filter fun i => bit mask i.queue).map (·.id)

/-- A branch, JAL or JALR executes in the front end (R223). -/
def State.branch (s : State) (c : Nat) (i : QInstr) : State :=
  let k := s.core c
  let f := i.f
  let s1 := s.updCore c fun x => { x with front := .decoding }
  let go (target : Nat) : State := s1.updCore c fun x => { x with pc := target }
  let rel := (i.pc + f.imm.toNat) % 2 ^ 32
  let link := BitVec.ofNat 32 (i.pc + 8)
  if i.op = 0x16 then (go rel).updCore c fun x => x.setS f.rd link
  else if i.op = 0x17 then
    let t := (k.s f.ra + f.imm).toNat
    if t % 8 ≠ 0 then s1.exception c exFetch 0 t 0
    else (go t).updCore c fun x => x.setS f.rd link
  else if branchTaken i.op (k.s f.ra) (k.s f.rb) then go rel
  else s1

/-- The instruction held in the front end goes on, when it can. -/
def State.settleFront (s : State) (c : Nat) : Option State :=
  let k := s.core c
  match k.front with
  | .held i =>
    let n := i.op.toNat
    if n = 0x00 then some (s.updCore c fun x => { x with front := .decoding })
    else if n = 0x1B then some (s.exception c exTrap 0 i.pc 0)
    else if 0x10 ≤ n ∧ n ≤ 0x17 then (if k.depends i then none else some (s.branch c i))
    else if n = 0x60 then
      let dst := (List.range 4).filter fun q => bit (bits i.f.imm.toNat 4 4) q
      if dst.any fun q => decide (8 ≤ k.queueLen q) then none
      else
        let w := k.barred (bits i.f.imm.toNat 0 4)
        some (s.updCore c fun x => x.enqueue (dst.zipIdx.map fun p => { i with id := x.nextId + p.2, queue := p.1, waitsFor := w }))
    else if n = 0x70 then
      if k.drained s.now then
        let g := bits i.f.imm.toNat 0 3
        let ask := if g = 0 then k.loopItems else g
        some ((s.endGrant c 0 i.pc).updCore c (fun x => { x with resume := i.pc + 8, dispatchLoop := false }) |>.askWork c ask)
      else none
    else if n = 0x71 then (if k.drained s.now then some ((s.endGrant c 1 i.pc).dispatchLoop c) else none)
    else if 8 ≤ k.queueLen i.queue then none
    else some (s.updCore c fun x => x.enqueue [i])
  | .draining => if k.drained s.now && !s.fenced c then some (s.askWork c k.loopItems) else none
  | _ => none

/-- The core runs until nothing more can start without an event from outside. -/
def advance : Nat → State → Nat → State
  | 0, s, _ => s
  | n + 1, s, c =>
    match tryStart s c (s.core c).heads with
    | some s1 => advance n s1 c
    | none =>
      match s.settleFront c with
      | some s1 => advance n s1 c
      | none => s

/-- Every instruction in the core starts at most once and leaves the front end at most once. -/
def State.run (s : State) (c : Nat) : State := advance (2 * (s.core c).inflight.length + 12) s c

/-- The core decodes one instruction at its PC (R214, R218). A core that holds no grant, whose front end is held, or that is
fenced decodes nothing. -/
def State.issue (s : State) (c : Nat) (op : Byte) (f : Fields) (ecc : Ecc) : State :=
  let k := s.core c
  match k.grant, k.kernel, k.front with
  | some _, some kn, .decoding =>
    if s.fenced c then s
    else if k.pc % 8 ≠ 0 ∨ kn.imageLen < k.pc + 8 then s.exception c exFetch 0 k.pc 0
    else
      let s1 := s.coreCount c 0x02 1
      if !fieldsOk op f then s1.exception c exIllegal (queueOf op f) k.pc 0
      else
        let i : QInstr := ⟨k.nextId, op, f, queueOf op f, k.pc, ecc, false, []⟩
        (s1.updCore c fun x => { x with front := .held i, pc := k.pc + 8 }).run c
  | _, _, _ => s

/-! ### Instruction words (R215, R216, R421, R433) -/

/-- OP of an instruction word: bits [63:56] (R215). -/
def opOf (w : BitVec 64) : Byte := w.extractLsb' 56 8

/-- The fields of an instruction word below OP (R215). -/
def fieldsOf (w : BitVec 64) : Fields where
  rd := w.extractLsb' 51 5
  ra := w.extractLsb' 46 5
  rb := w.extractLsb' 41 5
  rc := w.extractLsb' 36 5
  mod := w.extractLsb' 32 4
  imm := w.extractLsb' 0 32

/-- The core reads the word at its PC: it holds a grant, its front end decodes, and the PC lies in the image (R214). -/
def State.fetches (s : State) (c : Nat) : Bool :=
  let k := s.core c
  match k.grant, k.kernel, k.front with
  | some _, some kn, .decoding => !s.fenced c && k.pc % 8 == 0 && decide (k.pc + 8 ≤ kn.imageLen)
  | _, _, _ => false

/-- The row of 16 bytes of instruction memory at a core's PC has become uncorrectable: DATA is raised, and the row is mapped out and
its spare starts as zero (R427, R433; DESIGN CHOICE, log 14). -/
def State.lostWord (s : State) (c : Nat) : State :=
  let pc := (s.core c).pc
  let s1 := s.exception c exData 0 pc 0
  (s1.updCore c fun k => { k with
    imem := k.imem.take (pc / 16 * 16) ++ List.replicate 16 0 ++ k.imem.drop (pc / 16 * 16 + 16) }).repairRow (arrayInstr c) (pc / 16)

/-- The core decodes a whole instruction word read from instruction memory under its code (R215, R216, R421). -/
def State.issueWord (s : State) (c : Nat) (w : BitVec 64) (fetch : Ecc) : State :=
  match fetch with
  | .clean => s.issue c (opOf w) (fieldsOf w) .clean
  | .corrected row =>
    if s.fetches c then (s.correctedRow (arrayInstr c) row).issue c (opOf w) (fieldsOf w) .clean else s
  | .uncorrectable => if s.fetches c then s.lostWord c else s

/-! ### The start of a grant (R191–R193) -/

/-- Step 5 of R192. -/
def State.startGrant (s : State) (c : Nat) : State :=
  s.updCore c fun k =>
    match k.grant, k.kernel with
    | some g, some kn =>
      let k1 := { k with
        ftz := kn.mode.getLsbD 2
        round := bits kn.mode.toNat 0 2
        flushed := false
        nanseen := false
        isat := false
        items := (Grant.items g).map (freshItem kn.seed)
        grant := some { g with firstInstr := k.nextId }
        front := .decoding
        pc := if k.dispatchLoop then kn.entry else k.resume }
      (((k1.setS 1 (BitVec.ofNat 32 g.first)).setS 2 (BitVec.ofNat 32 g.count)).setS 3
        (BitVec.ofNat 32 (b2n g.alt + 2 * b2n g.reissue))).setS 4
          (BitVec.ofNat 32 (g.node % 131072 + 131072 * halfOfNode g.node))
    | _, _ => k

/-- Step 4 of R192 follows when the grant names another node than the last one; otherwise step 5. -/
def State.afterKernel (s : State) (c : Nat) : State :=
  let k := s.core c
  match k.grant with
  | some g => if k.prevNode = some g.node then s.startGrant c else s.updCore c fun x => { x with front := .paramRead }
  | none => s

/-- The 8 counters of a core set to 0 where a predicate holds (R466). -/
def Core.resetCounters (k : Core) (p : Nat → Bool) : Core :=
  { k with counters := Vector.ofFn fun i : Fin 8 => if p i.val then 0 else k.counters[i] }

/-- The core waits for a kernel load; its ENTRY is the next PC to be decoded (R246). -/
def Core.awaitKernel (k : Core) (entry : Nat) : Core := { k with front := .kernelLoad, pc := entry }

/-- A kernel table entry breaks R191. -/
def kernelBad (e : List Byte) : Bool :=
  let image := field e 0 8
  let len := field e 8 2
  let entry := field e 10 2
  let grantN := field e 12 1
  let mode := field e 13 1
  let dlen := field e 14 2
  let data := field e 16 8
  image % 64 != 0 || decide (2 ^ 40 ≤ image) || len % 8 != 0 || decide (len < 8) || decide (8192 < len)
    || entry % 8 != 0 || decide (len ≤ entry) || decide (grantN < 1) || decide (4 < grantN)
    || mode % 4 == 3 || decide (8 ≤ mode) || dlen % 64 != 0 || decide (32640 < dlen)
    || (dlen != 0 && (data % 64 != 0 || decide (2 ^ 40 ≤ data))) || field e 28 4 != 0

/-- The core after a kernel load (R191, R213). -/
def Core.loadKernel (k : Core) (ctx id : Nat) (e image data : List Byte) : Core :=
  { k with
    kernel := some ⟨ctx, id, field e 8 2, field e 10 2, field e 12 1, BitVec.ofNat 8 (field e 13 1), BitVec.ofNat 32 (field e 24 4)⟩
    imem := image
    dmem := Cells.store k.dmem 0 data
    regs := Vector.replicate 32 0
    vregs := Vector.replicate 32 (Vector.replicate 16 0)
    flushed := false
    nanseen := false
    isat := false
    flushedEvents := 0
    nanseenEvents := 0
    isatEvents := 0
    stationary := none
    shadow := none
    pc := field e 10 2
    dispatchLoop := true }

end Sys2Proof.Machine
end

