-- ==== Sys2Proof/Machine/CoreEvents.lean ====
section
/-! DEFINITION. What reaches a core from outside: grant words, kernel loads, parameter reads, the ends of transfers, loads
and streams, acknowledgements, releases, watchdogs and checksum mismatches (R191–R205, R232–R238, R357–R360). -/
namespace Sys2Proof.Machine

/-! ### Grants (R191–R193, R465, R466) -/

/-- The address of an entry of a context's kernel table (R191). -/
def State.kernelEntry (s : State) (ctx id : Nat) : Nat := (s.context ctx).kernelTable.toNat % 2 ^ 40 + 32 * id

/-- GRANT_WORD: the word reaches the waiting core, which wakes; it loads the kernel if another is resident, reads the
parameters if the task changed, and otherwise starts (R192). -/
def State.grantArrives (s : State) (c : Nat) : State :=
  let k := s.core c
  match k.grant, k.front with
  | some g, .waitingGrant =>
    let d := (s.node g.node).getD (Node.fresh 0 0 0 Cmd.blank)
    let w := grantWord g.node g.count g.kernelId g.first g.alt g.reissue
    let s1 := s.event unCore c 0x01 (g.first % 65536) (w.toNat / 2 ^ 32)
    let s2 := (s1.coreCount c 0x03 1).coreCount c 0x04 g.count
    let s3 := if k.counterReset then
        s2.updCore c fun x => { x.resetCounters (fun _ => true) with counterReset := false }
      else s2
    match k.kernel with
    | some kn =>
      if kn.ctx = d.ctx ∧ kn.id = g.kernelId then s3.afterKernel c
      else s3.updCore c (·.awaitKernel (field (s.dev (s.kernelEntry d.ctx g.kernelId) 32) 10 2))
    | none => s3.updCore c (·.awaitKernel (field (s.dev (s.kernelEntry d.ctx g.kernelId) 32) 10 2))
  | _, _ => s

/-- KERNEL_LOAD: the entry is checked, the image and the data image are copied, or the load ends with KERNEL or DATA and no
kernel resident (R191). -/
def State.kernelArrives (s : State) (c : Nat) (uncorrectable : Bool) : State :=
  let k := s.core c
  match k.grant, k.front with
  | some g, .kernelLoad =>
    let ea := s.kernelEntry (s.grantCtx c) g.kernelId
    let e := s.dev ea 32
    let none' := s.updCore c fun y => { y with kernel := none }
    if uncorrectable then none'.exception c exData 0 0xFFFFFFFF 0
    else if kernelBad e then none'.exception c exKernel 0 0xFFFFFFFF (BitVec.ofNat 64 ea)
    else
      let image := s.dev (field e 0 8) (field e 8 2)
      let data := if field e 14 2 = 0 then [] else s.dev (field e 16 8) (field e 14 2)
      let s1 := s.updCore c fun y => y.loadKernel (s.grantCtx c) g.kernelId e image data
      let s2 := (s1.event unCore c 0x03 g.kernelId (s.grantCtx c)).coreCount c 0x05 1
      s2.afterKernel c
  | _, _ => s

/-- The counters with RESET_ON_TASK start again at step 4 of R192 (R466). -/
def State.taskReset (s : State) (c : Nat) : State :=
  let ev := (s.context (s.grantCtx c)).coreEvents
  s.updCore c fun k => k.resetCounters fun i => (ev.getD i 0).getLsbD 15

/-- PARAMETER_READ: the task's command reaches the parameter block and the grant starts, or the read ends with DATA (R192,
R193). -/
def State.parametersArrive (s : State) (c : Nat) (uncorrectable : Bool) : State :=
  let k := s.core c
  match k.grant, k.front with
  | some g, .paramRead =>
    if uncorrectable then
      (s.exception c exData 0 0xFFFFFFFF 0).updCore c fun x => { x with prevNode := none }
    else
      let bs := s.dev (s.paramAddr g.node) 128
      ((s.taskReset c).updCore c fun x => { x with dmem := Cells.store x.dmem 0x7F80 bs }).startGrant c
  | _, _ => s

/-- The device ranges that a kernel load reads: the entry, the image and the data image (R191). -/
def State.kernelReads (s : State) (c : Nat) : List (Nat × Nat) :=
  match (s.core c).grant, (s.core c).front with
  | some g, .kernelLoad =>
    let ea := s.kernelEntry (s.grantCtx c) g.kernelId
    let e := s.dev ea 32
    (ea, 32) :: if kernelBad e then [] else [(field e 0 8, field e 8 2), (field e 16 8, field e 14 2)]
  | _, _ => []

/-- The device range that a parameter read takes (R192). -/
def State.paramReads (s : State) (c : Nat) : List (Nat × Nat) :=
  match (s.core c).grant, (s.core c).front with
  | some g, .paramRead => [(s.paramAddr g.node, 128)]
  | _, _ => []

/-- The device ranges that an XLD whose movement ends has read (R232). -/
def State.slotReads (s : State) (c slot : Nat) : List (Nat × Nat) :=
  match Map.look (s.core c).slots slot with
  | some x => if x.op = 0x44 ∧ x.acks = 0 then x.desc.srcRanges x.src else []
  | none => []

/-- GRANT_WORD (R192). -/
def execGrantWord (core : Nat) (s : State) : Host.Outcome State Fault Refusal := .next (s.grantArrives core)

/-- KERNEL_LOAD (R191). -/
def execKernelLoad (core : Nat) (uncorrectable : Bool) (s : State) : Host.Outcome State Fault Refusal :=
  .next ((s.readsFor (halfOfCore core) (.core core) uncorrectable (s.kernelReads core)).kernelArrives core uncorrectable)

/-- PARAMETER_READ (R192). -/
def execParameterRead (core : Nat) (uncorrectable : Bool) (s : State) : Host.Outcome State Fault Refusal :=
  .next ((s.readsFor (halfOfCore core) (.core core) uncorrectable (s.paramReads core)).parametersArrive core uncorrectable)

/-! ### Transfers, loads and streams (R196, R220, R232, R235, R504) -/

/-- The four records of a digest whose range has been read (R236, R478). -/
def State.emitDigest (s : State) (c : Nat) (x : TransferSlot) : State :=
  if s.digestsOn then
    s.trace (halfOfCore c) (digestRecords c (ctxField x.ctx (s.grantRing c)) x.desc.srcFmt x.desc.reserved28.toNat s.now
      (s.readLocal c x.src x.dst))
  else s

/-- A transfer's data movement ends and its slot frees. An XST is done when every write is acknowledged (R232). -/
def State.transferEnds (s : State) (c slot : Nat) (uncorrectable : Bool) (host : List Byte) : State :=
  match Map.look (s.core c).slots slot with
  | some x =>
    if x.acks ≠ 0 then s
    else
      let free (t : State) : State := (t.updCore c fun k => { k with slots := Map.del k.slots slot }).settleInvs
      if uncorrectable then
        (if s.ofGrant c x.instr then ((free s).exception c exData 3 x.pc 0).run c else (free s).run c)
      else if x.op = opTdigest then (free (s.emitDigest c x)).run c
      else if x.op = 0x45 then (free s).run c
      else (free (s.moveTransfer c x host)).run c
  | none => s

/-- TRANSFER_DONE (R235). -/
def execTransferDone (core slot : Nat) (uncorrectable : Bool) (hostData : List Byte) (s : State) :
    Host.Outcome State Fault Refusal :=
  .next ((s.readsFor (halfOfCore core) (.core core) uncorrectable (s.slotReads core slot)).transferEnds core slot uncorrectable hostData)

/-- The 16 cycles of the loader end, which completes the MLOAD, and the load check is made (R196, R201). -/
def State.loaderEnds (s : State) (c : Nat) : State :=
  if (s.core c).loaderBusy then
    let s1 := s.updCore c fun k => { k with
      loaderBusy := false
      inflight := k.inflight.filter fun i => !(i.op == 0x50 && i.started) }
    let ok := match (s.core c).shadow with
      | some w => w.loadCheck
      | none => true
    (if ok then s1 else s1.mismatch c .load).run c
  else s

/-- LOADER_DONE (R196). -/
def execLoaderDone (core : Nat) (s : State) : Host.Outcome State Fault Refusal := .next (s.loaderEnds core)

/-- MSTREAM_DONE: the last output row is written, which completes the oldest MSTREAM (R198, R220). -/
def execMstreamDone (core : Nat) (s : State) : Host.Outcome State Fault Refusal :=
  .next (match (s.core core).lastRows with
  | (id, a, bs) :: rest =>
    ((s.writeLocal core a bs).updCore core fun k => { k.complete id with lastRows := rest }).run core
  | [] => s)

/-- A line of the transfer in a slot is acknowledged. -/
def ackLine (slots : Map TransferSlot) (slot : Nat) : Map TransferSlot :=
  Map.each slots fun j x => if j = slot then { x with acks := x.acks - 1 } else x

/-- WACK: the acknowledgement of one line of a transfer of the core arrives (R34, R503, R504). -/
def execWack (slot : SlotRef) (s : State) : Host.Outcome State Fault Refusal :=
  .next ((s.updCore slot.core fun k => { k with slots := ackLine k.slots slot.slot }).run slot.core)

/-! ### Mismatches (R204, R205) -/

/-- CHECKSUM_MISMATCH: a check of the slice fails (R204, R206). -/
def execChecksumMismatch (failed : FailedCheck) (s : State) : Host.Outcome State Fault Refusal :=
  .next ((s.mismatch failed.core failed.check).run failed.core)

/-- MISMATCH_REPORT: the half controller counts the report and fences a core with 3 of them within 1,000,000,000 ns (R205,
R442–R444). -/
def State.takeReport (s : State) (half : Nat) : State :=
  match s.flt.mismatchQueue.find? fun p => halfOfCore p.1 = half with
  | some (c, t, m) =>
    let rs := ((s.core c).reports.filter fun r => decide (t - r < 1000000000)) ++ [t]
    let s1 := { s with flt := { s.flt with
      mismatchQueue := s.flt.mismatchQueue.erase (c, t, m)
      mismatches := s.flt.mismatches + 1 } }
    let s2 := (s1.updStand (standOfCore c) fun x =>
      { x with mismatches := x.mismatches.zipIdx.map fun p => if p.2 = c % 16 then min (p.1 + 1) 255 else p.1 }).updCore c
        fun k => { k with reports := rs }
    if rs.length ≥ 3 then (s2.fenceCore c 0x01 0).updCore c fun k => { k with reports := [] } else s2
  | none => s

/-- MISMATCH_REPORT (R205). -/
def execMismatchReport (half : Nat) (s : State) : Host.Outcome State Fault Refusal := .next (s.takeReport half)

/-! ### Releases and watchdogs (R244, R357–R360) -/

/-- SEMAPHORE_RELEASE: the release writes RD and the wait ends, or it is returned if the wait was flushed. -/
def State.releaseArrives (s : State) (c q : Nat) : State :=
  match s.fab.releases.find? fun r => r.core = c && r.queue = q with
  | some r =>
    let s1 := { s with fab := { s.fab with releases := s.fab.releases.erase r } }
    match (s.core c).inflight.find? fun i => i.id = r.instr && i.started with
    | some i =>
      let s2 := (s1.updCore c fun k => (k.setS i.f.rd r.value).complete i.id)
      let s3 := if i.op = 0x66 then s2
        else s2.event unCore c 0x05 (q + 256 * (r.value.toNat % 256)) (semWord r.sem)
      s3.run c
    | none => s1.giveBack r
  | none => s

/-- SEMAPHORE_RELEASE (R357). -/
def execSemaphoreRelease (core queue : Nat) (s : State) : Host.Outcome State Fault Refusal :=
  .next (s.releaseArrives core queue)

/-- The timers of a half are suspended while it is drained or draining for a halted hart (R489). -/
def State.timersHeld (s : State) (half : Nat) : Bool := (if half = 0 then s.dbg.suspended0 else s.dbg.suspended1).isSome

/-- WAIT_WATCHDOG_FIRE: the wait of a queue is released with TIMEOUT and consumes nothing (R360). A wait keeps the setting with which
it started (R373), and none when that was 0. -/
def State.watchdogFires (s : State) (c q : Nat) : State :=
  if s.timersHeld (halfOfCore c) then s
  else
    match s.fab.waiters.find? fun w => w.core = some c && w.queue = q && w.watchdog ≠ 0 with
    | some w =>
      let s1 := s.dropWaiter w stTimeout
      let s2 := { s1 with fab := { s1.fab with watchdogFires := s1.fab.watchdogFires + 1 } }
      (s2.trigger 3 (ctxField (s.grantCtx c) (s.grantRing c)) c).event unCore c 0x06 q (semWord w.sem)
    | none => s

/-- WAIT_WATCHDOG_FIRE (R360). -/
def execWaitWatchdogFire (core queue : Nat) (s : State) : Host.Outcome State Fault Refusal :=
  .next (s.watchdogFires core queue)

end Sys2Proof.Machine
end

