-- ==== Sys2Proof/Machine/Semaphores.lean ====
section
/-! DEFINITION. The semaphore fabric's rows: a cycle, the TIMEOUT of a WAIT command, bindings, and remote signals with their
acknowledgements (R347–R375, R389, R390). -/
namespace Sys2Proof.Machine

/-! ### Answers of the Catalogue (R54) -/

/-- A value of the wrong length. -/
def abLength : Word := 0x0C000005

/-- A write of an entry answers an abort code, 0 for success; a refused write changes nothing. -/
def State.answered (s : State) (r : Except Word State) : State :=
  match r with
  | .ok t => { t with cat := { t.cat with answer := abOk } }
  | .error e => { s with cat := { s.cat with answer := e } }

/-- The hart that holds the Catalogue root: control core 0 of half 0, then its spare, then the others (DEDUCED, log 21). -/
def State.rootHart (s : State) : Nat :=
  (([0, 4, 1, 2, 3] : List Nat).find? fun k => !s.flt.controlFailed.contains k).getD 0

/-- The root's hart is halted, so requests wait. -/
def State.rootHalted (s : State) : Bool := s.dbg.halted.contains s.rootHart

/-- The Catalogue is not ready (R54, R74). -/
def abNotReady : Word := 0x0C00000D

/-- The root serves a row that writes an entry, in order of arrival (R43): before READY it answers that the Catalogue is not ready
(R54), and while the root's hart is halted the row waits with every other request (R489). -/
def State.rootServes (s : State) (i : Instr) (go : State) : State :=
  if !s.boot.ready then { s with cat := { s.cat with answer := abNotReady } }
  else if s.rootHalted then { s with cat := { s.cat with waiting := s.cat.waiting ++ [.row i] } }
  else go

/-- A row whose write answers with success or an abort code. -/
def State.rootRow (s : State) (i : Instr) (r : Except Word State) : State := s.rootServes i (s.answered r)

/-- A check that ends a write with an abort code. -/
def refuse (bad : Bool) (code : Word) : Except Word Unit := if bad then .error code else .ok ()

/-! ### The TIMEOUT of a WAIT (R359) -/

/-- The TIMEOUT of a WAIT command expires: TIMEOUT 0 never does (R359, R489). -/
def State.waitExpires (s : State) (n : Nat) : State :=
  match s.node n, s.fab.waiters.find? fun w => w.node = some n with
  | some d, some w => if d.cmd.slot 4 = 0 || s.timersHeld (halfOfNode n) then s else s.dropWaiter w stTimeout
  | _, _ => s

/-- WAIT_TIMEOUT (R359). -/
def execWaitTimeout (node : Nat) (s : State) : Host.Outcome State Fault Refusal := .next (s.waitExpires node)

/-! ### Bindings (R366, R367, R374) -/

/-- The contexts a binding record names. -/
def bindNames (r : List Byte) : List Nat :=
  field r 2 2 % 1024 :: ([field r 4 2, field r 6 2, field r 8 2].filter (bit · 15)).map (· % 1024)

/-- A write of BIND. -/
def State.bindOp (s : State) (r : List Byte) : Except Word State := do
  refuse (r.length ≠ 12) abLength
  refuse (bits (field r 0 2) 12 4 ≠ 0 || bits (field r 2 2) 10 6 ≠ 0 ||
    ([field r 4 2, field r 6 2, field r 8 2].any fun g => bits g 10 5 ≠ 0) || bits (field r 10 2) 1 15 ≠ 0 ||
    decide ((bindNames r).eraseDups.length ≠ (bindNames r).length)) abRange
  refuse ((s.shared (field r 0 2)).bound || (bindNames r).any fun c => (s.ctx c).isNone) abState
  let x : SharedSem :=
    ⟨mkSem (bit (field r 10 2) 0) false false 0, true, BitVec.ofNat 16 (field r 2 2),
      [BitVec.ofNat 16 (field r 4 2), BitVec.ofNat 16 (field r 6 2), BitVec.ofNat 16 (field r 8 2)]⟩
  .ok { s with fab := { s.fab with shared := Map.put s.fab.shared (field r 0 2) x } }

/-- A SIGNAL or WAIT command that holds an executor entry names a local shared semaphore. -/
def Node.namesShared (d : Node) (i : Nat) : Bool :=
  d.state == 4 && (d.cmd.opcode == opSignal || d.cmd.opcode == opWait)
    && targetOf (d.cmd.wide 0) == some (SemId.shared i, none)

/-- A write of UNBIND. -/
def State.unbindOp (s : State) (v : Nat) : Except Word State := do
  refuse (decide (v ≥ 4096)) abRange
  refuse (!(s.shared v).bound || (s.fab.waiters.any fun w => w.sem = SemId.shared v)
    || s.dv.nodes.any fun p => p.2.namesShared v) abState
  .ok { s with fab := { s.fab with shared := Map.put s.fab.shared v ({ s.shared v with bound := false }) } }

/-- BIND (R366). -/
def execBind (record : List Byte) (s : State) : Host.Outcome State Fault Refusal := .next (s.rootRow (.bind record) (s.bindOp record))

/-- UNBIND (R367). -/
def execUnbind (value : BitVec 16) (s : State) : Host.Outcome State Fault Refusal :=
  .next (s.rootRow (.unbind value) (s.unbindOp value.toNat))

/-! ### Remote signals (R169, R370, R389, R390) -/

/-- The 24 bytes of a SIGNAL message. -/
def signalBytes (m : SignalMsg) : List Byte :=
  [0x10, m.flags, m.ring, m.result] ++ u32 m.amount.toNat ++ u64 m.seq.toNat ++ u64 m.target.toNat

/-- The 16 bytes of a SIGNAL_ACK message. -/
def ackBytes (m : SignalMsg) : List Byte :=
  [0x11, m.flags, m.ring, m.result] ++ u32 m.amount.toNat ++ u64 m.seq.toNat

/-- A message is the next that its flow delivers: messages are delivered once each, in order (R387). -/
def State.delivers (s : State) (f : Nat) (bytes : List Byte) : Bool := (s.flow f).inbox.head? == some bytes

/-- The message at the head of a flow's inbox is taken by its consumer. -/
def State.takeMessage (s : State) (f : Nat) : State := s.updFlow f fun x => { x with inbox := x.inbox.drop 1 }

/-- A message that breaks its layout is discarded and counted at the lowest plane of its flow. -/
def State.badMessage (s : State) (f : Nat) : State :=
  let p := ((List.range 8).find? fun p => (s.flow f).planes.getLsbD p).getD 0
  s.updXport p fun x => { x with badPackets := x.badPackets + 1 }

/-- The mark set of a flow (R390). -/
def State.flowMarks (s : State) (f : Nat) : List Nat :=
  let x := s.flow f
  ((s.ecl.marks.find? fun k => k.ctx = x.ctx && k.peer = x.peer && k.peerCtx = x.peerCtx).map (·.marks)).getD []

/-- Raises a mark of a flow's mark set. -/
def State.raiseMark (s : State) (f i seq : Nat) : State :=
  let x := s.flow f
  { s with ecl := { s.ecl with marks := s.ecl.marks.map fun k =>
      if k.ctx = x.ctx && k.peer = x.peer && k.peerCtx = x.peerCtx then { k with marks := k.marks.set i seq } else k } }

/-- The second check of R370: the target is bound to the flow's context, or lies in a compartment it holds and not in a
fenced core. A semaphore of a context under reset takes none (R530). -/
def State.remoteAllowed (s : State) (c : Nat) : SemId → Bool
  | .shared i => s.boundTo i c && s.dv.resetting != some ((s.shared i).owner.toNat % 1024)
  | .core k _ => s.holdsCore c k && !s.fenced k && s.dv.resetting != some c

/-- A SIGNAL message breaks its layout (R389). -/
def signalBad (m : SignalMsg) : Bool :=
  m.flags == 3 || decide (4 ≤ m.flags.toNat) || decide (8 ≤ m.ring.toNat) || m.result != 0 || m.amount == 0
    || decide (2 ^ 24 ≤ m.amount.toNat)

/-- The acknowledgement of a SIGNAL message leaves on its flow, while that is OPEN. -/
def State.ackSignal (s : State) (f : Nat) (m : SignalMsg) (result : Nat) : State :=
  if (s.flow f).state = 2 then s.sendMessage f (signalAckMessage m.flags m.ring result m.seq) else s

/-- The checks of R370: a signal that passes raises its mark and will be applied; another is acknowledged without being applied, and
counted. -/
def State.admitSignal (s : State) (f : Nat) (m : SignalMsg) (id : SemId) : State × Bool :=
  let i := 2 * m.ring.toNat + m.flags.toNat
  if m.flags ≠ 2 ∧ m.seq.toNat ≤ (s.flowMarks f).getD i 0 then
    (State.ackSignal { s with fab := { s.fab with remoteDuplicates := s.fab.remoteDuplicates + 1 } } f m 1, false)
  else if !s.remoteAllowed (s.flow f).ctx id then
    (State.ackSignal { s with fab := { s.fab with remoteRefused := s.fab.remoteRefused + 1 } } f m 2, false)
  else (if m.flags = 2 then s else s.raiseMark f i m.seq.toNat, true)

/-- The operation of a remote signal at its semaphore. -/
def State.remoteOp (s : State) (f : Nat) (m : SignalMsg) (id : SemId) : SemMsg :=
  ⟨id, .remote f, 0, 0, none, 3, (s.flow f).ctx, (s.context (s.flow f).ctx).resetCount % 8, 0, .signal m.amount.toNat⟩

/-- A remote signal has been added: its acknowledgement leaves, and its peer counts it (R370, R391). -/
def State.signalDone (s : State) (f : Nat) (m : SignalMsg) : State :=
  let t := if (s.flow f).state = 2 then s.updPeer (s.flow f).peer fun p => { p with signalsApplied := p.signalsApplied + 1 } else s
  t.ackSignal f m 0

/-- A SIGNAL message on a flow (R370), applied in a cycle in which nothing else arrives at its semaphore. -/
def State.remoteSignal (s : State) (f : Nat) (m : SignalMsg) : State :=
  if !s.delivers f (signalBytes m) then s
  else
    let s1 := s.takeMessage f
    match targetOf m.target.toNat with
    | some (id, _) =>
      if signalBad m then s1.badMessage f
      else if s.semHeld id then s
      else
        match s1.admitSignal f m id with
        | (s2, true) => (s2.semApply id [s2.remoteOp f m id]).signalDone f m
        | (s2, false) => s2
    | none => s1.badMessage f

/-- REMOTE_SIGNAL (R370). -/
def execRemoteSignal (flow : Nat) (m : SignalMsg) (s : State) : Host.Outcome State Fault Refusal :=
  .next (s.remoteSignal flow m)

/-! ### A cycle (R352) -/

/-- The SIGNAL message that a flow delivers next. -/
def State.nextSignal (s : State) (f : Nat) : Option SignalMsg :=
  match (s.flow f).inbox.head? with
  | some b =>
    let m : SignalMsg := ⟨BitVec.ofNat 8 (field b 1 1), BitVec.ofNat 8 (field b 2 1), BitVec.ofNat 8 (field b 3 1),
      BitVec.ofNat 32 (field b 4 4), BitVec.ofNat 64 (field b 8 8), BitVec.ofNat 64 (field b 16 8)⟩
    if signalBytes m = b ∧ !signalBad m then some m else none
  | none => none

/-- A flow's next message joins a cycle of a semaphore where it is a SIGNAL to it that passes its checks. -/
def State.joinCycle (id : SemId) (p : State × List (Nat × SignalMsg)) (f : Nat) : State × List (Nat × SignalMsg) :=
  match p.1.nextSignal f with
  | some m =>
    if (targetOf m.target.toNat).map (·.1) = some id then
      match (p.1.takeMessage f).admitSignal f m id with
      | (t, true) => (t, p.2 ++ [(f, m)])
      | (t, false) => (t, p.2)
    else p
  | none => p

/-- The flow of a remote source. -/
def remoteFlow : SemSource → Option Nat
  | .remote f => some f
  | _ => none

/-- One cycle of a semaphore: the listed sources' operations arrive, remote signals among them, and are applied together (R352). -/
def State.semCycle (s : State) (id : SemId) (srcs : List SemSource) : State :=
  if s.semHeld id then s
  else
    let ms := s.arriving id srcs
    let s0 := { s with fab := { s.fab with msgs := s.fab.msgs.filter fun m => !ms.contains m } }
    let (s1, rs) := (srcs.filterMap remoteFlow).eraseDups.foldl (State.joinCycle id) (s0, [])
    rs.foldl (fun t r => t.signalDone r.1 r.2) (s1.semApply id (ms ++ rs.map fun r => s1.remoteOp r.1 r.2 id))

/-- The array and row of a semaphore's word (R347). -/
def semRow (id : SemId) : Nat × Nat :=
  match id with
  | .core c k => (arraySem c, k)
  | .shared i => (arrayShared (i / 2048), i % 2048)

/-- A semaphore's word has become uncorrectable: it starts again as zero, its row is mapped out where a spare is left, and its core
raises DATA (R427, R433; DESIGN CHOICE, log 14). -/
def State.lostSem (s : State) (id : SemId) : State :=
  let s1 := match id with
    | .core c _ => s.exception c exData 0 (s.core c).pc 0
    | .shared _ => s
  (s1.setSem id 0).repairRow (semRow id).1 (semRow id).2

/-- SEMAPHORE_CYCLE (R352), under the code of the semaphore's memory (R421, R433). -/
def execSemaphoreCycle (sem : SemAccess) (arriving : List SemSource) (s : State) : Host.Outcome State Fault Refusal :=
  let id := sem.sem
  .next (match sem.ecc with
  | .clean => s.semCycle id arriving
  | .corrected _ => (s.correctedRow (semRow id).1 (semRow id).2).semCycle id arriving
  | .uncorrectable => (s.lostSem id).semCycle id arriving)

/-! ### Acknowledgements (R168, R370, R388, R389) -/

/-- A remote signal of this device has been acknowledged: a SIGNAL command completes with OK, a completion signal lets its
record retire (R168, R370). -/
def State.signalAnswered (s : State) (g : RemoteSignal) : State :=
  let s1 := { s with ecl := { s.ecl with signals := s.ecl.signals.filter (· ≠ g) } }
  (if g.kind = 0 then s1.updNode g.node fun d => { d with result := some stOk }
   else s1.updNode g.node fun d => { d with signalState := 2 }).pumpSignals

/-- A SIGNAL_ACK message on a flow (R388, R389). -/
def State.signalAck (s : State) (f : Nat) (m : SignalMsg) : State :=
  let x := s.flow f
  if x.state ≠ 2 ∨ !s.delivers f (ackBytes m) then s
  else
    let s1 := s.takeMessage f
    let kind := bits m.flags.toNat 0 2
    if kind = 3 ∨ 4 ≤ m.flags.toNat ∨ m.amount ≠ 0 then s1.badMessage f
    else
      match s1.ecl.signals.find? fun g => g.sent && g.kind = kind && ringNo g.ring % 8 = m.ring.toNat
          && g.seq = m.seq.toNat && g.device = x.peer && (s1.ring g.ring).ctx = x.ctx with
      | some g => s1.signalAnswered g
      | none => s1

/-- SIGNAL_ACK (R389). -/
def execSignalAck (flow : Nat) (m : SignalMsg) (s : State) : Host.Outcome State Fault Refusal :=
  .next (s.signalAck flow m)

end Sys2Proof.Machine
end

