-- ==== Sys2Proof/Machine/ExpertOps.lean ====
section
/-! DEFINITION. Expert routing: layers, the selection and capacity of a step, deliveries, answers, completion and cancellation
of ROUTEs, receive pools, expert LAUNCHes and the cold cache (R310–R338). -/
namespace Sys2Proof.Machine

/-! ### Layer descriptors (R312) -/

def Layer.owner (l : Layer) : Nat := field l.bytes 0 2 % 1024
def Layer.valid (l : Layer) : Bool := bit (field l.bytes 2 1) 0
def Layer.biasLoop (l : Layer) : Bool := bit (field l.bytes 2 1) 1
def Layer.shapeOutEn (l : Layer) : Bool := bit (field l.bytes 2 1) 2
def Layer.scoreFmt (l : Layer) : Nat := field l.bytes 3 1
def Layer.nexp (l : Layer) : Nat := field l.bytes 4 4
def Layer.minK (l : Layer) : Nat := field l.bytes 8 1
def Layer.maxK (l : Layer) : Nat := field l.bytes 9 1
def Layer.tokenBytes (l : Layer) : Nat := field l.bytes 10 2
def Layer.resultBytes (l : Layer) : Nat := field l.bytes 12 2
def Layer.shapeOut (l : Layer) : Nat := field l.bytes 14 2
def Layer.capacity (l : Layer) : Nat := field l.bytes 16 4
def Layer.threshold (l : Layer) : Num := decodeNum 1 (field l.bytes 20 4)
def Layer.placement (l : Layer) : Nat := field l.bytes 24 8
def Layer.bias (l : Layer) : Nat := field l.bytes 32 8
def Layer.counts (l : Layer) : Nat := field l.bytes 40 8
def Layer.biasPeriod (l : Layer) : Nat := field l.bytes 48 2
def Layer.biasWindows (l : Layer) : Nat := field l.bytes 50 1
def Layer.imbalance (l : Layer) : Num := decodeNum 1 (field l.bytes 52 4)
def Layer.biasStep (l : Layer) : Num := decodeNum 1 (field l.bytes 56 4)
def Layer.stepTimeout (l : Layer) : Nat := field l.bytes 60 4

/-- The layer is configured for a context (R311). -/
def Layer.configured (l : Layer) (c : Nat) : Bool := l.valid && l.owner == c

/-! ### Messages (R319, R321) -/

/-- The 16 bytes at the head of a routing message. -/
def hdrBytes (kind : Nat) (h : RouteHdr) : List Byte :=
  u8 kind ++ u8 h.originHalf ++ u8 h.destHalf ++ u8 h.hb ++ u16 h.generation ++ u16 0 ++ u64 h.deadline

/-- A DELIVERY message. -/
def deliveryBytes (h : RouteHdr) (tb rb : Nat) (es : List (Nat × Nat)) : List Byte :=
  hdrBytes 1 h ++ u16 tb ++ u16 rb ++ u32 es.length ++ (es.map fun e => u16 e.1 ++ u16 0 ++ u32 e.2).flatten

/-- A TOKENS message. -/
def tokensBytes (h : RouteHdr) (es : List TokenEntry) : List Byte :=
  hdrBytes 2 h ++ u32 es.length ++ u32 0
    ++ (es.map fun e => u64 e.tag.toNat ++ u16 e.loc ++ List.replicate 6 0 ++ e.row).flatten

/-- An ANSWERS message. -/
def answersBytes (h : RouteHdr) (es : List AnswerEntry) : List Byte :=
  hdrBytes 3 h ++ u32 es.length ++ u32 0
    ++ (es.map fun e => u64 e.tag.toNat ++ u8 e.status ++ List.replicate 7 0 ++ (if e.status = 0 then e.row else [])).flatten

/-- A token tag (R319). -/
def tokenTag (origin generation slot rank : Nat) : BitVec 64 :=
  BitVec.ofNat 64 (origin % 2 ^ 14 * 2 ^ 50 + generation % 2 ^ 12 * 2 ^ 38 + slot % 2 ^ 20 * 2 ^ 18 + rank % 16 * 2 ^ 14)

/-- A routing message goes to a half of a device: on a flow, or within the block (R322). -/
def State.sendRouting (s : State) (flow : Option Nat) (half ctx : Nat) (bytes : List Byte) : State :=
  match flow with
  | some f => s.sendMessage f bytes
  | none => { s with exp := { s.exp with localMsgs := s.exp.localMsgs ++ [LocalMessage.mk half ctx bytes] } }

/-- Pieces of a list of at most `n` elements. -/
def chunks {α : Type} (n : Nat) : Nat → List α → List (List α)
  | 0, _ => []
  | k + 1, l => if l.isEmpty then [] else l.take n :: chunks n k (l.drop n)

/-! ### Selection and capacity (R315, R316) -/

/-- Places an expert in descending order of score, ties by index, keeping the best `m`. -/
def insertPick (m : Nat) (l : List (Num × Nat)) (x : Num × Nat) : List (Num × Nat) :=
  (l.takeWhile (fun y => !y.1.lt x.1) ++ x :: l.dropWhile (fun y => !y.1.lt x.1)).take m

/-- A score as read, converted to F32: an F32 score is copied bit for bit (R259, R317). -/
def scoreF32 (fmt code : Nat) : Nat := if fmt = 1 then code else (ieee 1 false (decodeNum fmt code)).1

/-- The biased score: one rounding, a NaN becomes −∞; and whether it was a NaN. -/
def biasedScore (fmt code biasCode : Nat) : Num × Bool :=
  let v := decodeNum 1 (ieee 1 false ((decodeNum fmt code).add (decodeNum 1 biasCode))).1
  if v.isNaN then (.inf true, true) else (v, false)

/-- One token's selection: its route and how many scores were NaN. A layer with fewer experts than MIN_K selects all of them
(DESIGN CHOICE, log 82). -/
def selectToken (l : Layer) (codes biases : List Nat) : TokenRoute × Nat :=
  let scored := List.zipWith (biasedScore l.scoreFmt) codes biases
  let nans := (scored.filter (·.2)).length
  let best := scored.zipIdx.foldl (fun acc p => insertPick l.maxK acc (p.1.1, p.2)) []
  let above := (scored.filter fun p => !p.1.lt l.threshold).length
  let k := min (min (max above l.minK) l.maxK) best.length
  let picks := (best.take k).map (·.2)
  (⟨k, nans != 0, picks, picks.map fun e => BitVec.ofNat 32 (scoreF32 l.scoreFmt (codes.getD e 0)), 0, 0, 0, 0⟩, nans)

/-- A mask with a bit set. -/
def setBit (m r : Nat) : Nat := m ||| 1 <<< r

/-- Capacity over one token, in ascending rank: the demand and use of every expert go on. -/
def capToken (cap : Nat) (used demand : Map Nat) (t : TokenRoute) : Map Nat × Map Nat × TokenRoute :=
  t.picks.zipIdx.foldl (fun (p : Map Nat × Map Nat × TokenRoute) e =>
    let (u, d, x) := p
    let d1 := Map.put d e.1 (Map.at d 0 e.1 + 1)
    let c := Map.at u 0 e.1
    if c < cap then (Map.put u e.1 (c + 1), d1, x)
    else (u, d1, { x with capDropped := setBit x.capDropped e.2, dropped := setBit x.dropped e.2 })) (used, demand, t)

/-- Capacity over the step, in ascending slot order. -/
def capStep (cap : Nat) (ts : List TokenRoute) : Map Nat × List TokenRoute :=
  let (_, d, out) := ts.foldl (fun (p : Map Nat × Map Nat × List TokenRoute) t =>
    let (u, d, x) := capToken cap p.1 p.2.1 t
    (u, d, p.2.2 ++ [x])) ([], [], [])
  (d, out)

/-- Ranks of a token that a mask holds. -/
def TokenRoute.ranksIn (t : TokenRoute) (m : Nat) : Nat := ((List.range t.k).filter (bit m)).length

/-- Every assignment of the token was dropped. -/
def TokenRoute.skipped (t : TokenRoute) (m : Nat) : Bool := t.ranksIn m == t.k

/-- The rank is kept and neither answered nor missing. -/
def TokenRoute.owes (t : TokenRoute) (r : Nat) : Bool :=
  decide (r < t.k) && !bit t.dropped r && !bit t.missing r && !bit t.answered r

/-- The route record (R317). -/
def TokenRoute.bytes (t : TokenRoute) : List Byte :=
  u8 t.k ++ u8 (b2n (t.skipped t.dropped) + 2 * b2n t.nan) ++ u8 t.dropped ++ u8 t.missing ++ u32 0
    ++ slice (t.picks.map u16).flatten 0 16 ++ List.replicate 8 0 ++ slice (t.scores.map fun w => u32 w.toNat).flatten 0 32

/-! ### Deliveries (R321, R322, R325) -/

/-- The flow to a device for a context: none is this device itself; the outer none is a device without an open flow. -/
def State.routeFlow (s : State) (c dev : Nat) : Option (Option Nat) :=
  if dev = s.set.deviceId then some none else (s.openFlow c dev).map some

/-- The deliveries of a half-batch, in ascending order of device and half. They are the send lists that the engine builds in its
workspace (R314, R322); the workspace's bytes, whose layout the spec does not give and which nothing can read, are not modelled (DESIGN
CHOICE, log 147). -/
def halfDeliveries (hb first : Nat) (place : Nat → Nat) (ts : List TokenRoute) : List RouteDelivery :=
  let es := (ts.zipIdx.map fun p => (List.range p.1.k).filterMap fun r =>
    if bit p.1.dropped r then none
    else
      let w := place (p.1.picks.getD r 0)
      some (2 * bits w 16 14 + bits w 30 1, first + p.2, r, bits w 0 16)).flatten
  let keys := sortBy (fun k : Nat => k) (es.map (·.1)).eraseDups
  keys.map fun k => ⟨k / 2, k % 2, none, hb, false, (es.filter fun e => e.1 = k).map (·.2)⟩

/-- The header of a route's messages to a destination. -/
def Route.hdr (x : Route) (destHalf hb deadline : Nat) : RouteHdr := ⟨x.half, destHalf, hb, x.generation, deadline⟩

/-- Sends one delivery and its tokens. -/
def State.sendDelivery (s : State) (x : Route) (y : RouteDelivery) (flow : Option Nat) : State :=
  match s.node x.node with
  | some d =>
    let l := s.layer x.half x.layer
    let h := x.hdr y.half y.hb d.cmd.deadline.toNat
    let locs := sortBy (fun k : Nat => k) (y.entries.map (·.2.2)).eraseDups
    let s0 := y.entries.foldl (fun t e => t.portReads x.half (d.cmd.wide 6 + e.1 * l.tokenBytes) l.tokenBytes) s
    let s1 := s0.sendRouting flow y.half x.ctx (deliveryBytes h l.tokenBytes l.resultBytes
      (locs.map fun k => (k, (y.entries.filter fun e => e.2.2 = k).length)))
    let toks := y.entries.map fun e => (TokenEntry.mk (tokenTag s.set.deviceId x.generation e.1 e.2.1) e.2.2
      (s.readDevice x.ctx [] 0 (d.cmd.wide 6 + e.1 * l.tokenBytes) l.tokenBytes))
    ((chunks (65512 / (16 + l.tokenBytes)) toks.length toks).foldl
      (fun t c => t.sendRouting flow y.half x.ctx (tokensBytes h c)) s1).count unRouting x.half 0x02 1
  | none => s

/-- A delivery still owes answers. -/
def Route.owes (x : Route) (y : RouteDelivery) : Bool :=
  y.entries.any fun e => ((x.tokens[e.1]?).map fun t => t.owes e.2.1).getD false

/-- Deliveries of an engine that are outstanding (R322). -/
def State.deliveriesOut (s : State) (h : Nat) : Nat :=
  s.exp.routes.foldl (fun n x => if x.half = h then n + (x.deliveries.filter fun y => y.sent && x.owes y).length else n) 0

/-- Replaces a route of the engine. -/
def State.setRoute (s : State) (x : Route) : State :=
  { s with exp := { s.exp with routes := s.exp.routes.map fun y => if y.node = x.node then x else y } }

/-- Sends the deliveries of one route in order while they may leave. -/
def pumpRoute : Nat → State → Nat → State
  | 0, s, _ => s
  | k + 1, s, n =>
    match s.exp.routes.find? fun x => x.node = n with
    | some x =>
      (match x.deliveries.find? fun y => !y.sent with
      | some y =>
        if 256 ≤ s.deliveriesOut x.half then s
        else
          match s.routeFlow x.ctx y.device with
          | some f =>
            let s1 := s.sendDelivery x y f
            pumpRoute k (s1.setRoute { x with deliveries := x.deliveries.map fun z =>
              if z = y then { z with sent := true, flow := f } else z }) n
          | none => s
      | none => s)
    | none => s

/-- Sends what the routes of a half may send. -/
def State.pumpRoutes (s : State) (h : Nat) : State :=
  (s.exp.routes.filter fun x => x.half = h).foldl (fun t x => pumpRoute x.deliveries.length t x.node) s

/-! ### Completion and cancellation (R324, R332) -/

/-- Assignments of a step. -/
def Route.assignments (x : Route) : Nat := x.tokens.foldl (fun n t => n + t.k) 0

/-- Writes the records that changed, COUNTS and the shape words (R317, R318, R324). -/
def State.writeRoute (s : State) (x : Route) : State :=
  match s.node x.node with
  | some d =>
    let l := s.layer x.half x.layer
    let res := d.cmd.wide 8
    let s1 := x.tokens.zipIdx.foldl (fun t p =>
      if p.1.missing ≠ 0 ∨ p.1.dropped ≠ p.1.capDropped then t.writeDevice x.half (some x.node) x.ctx (res + 64 * p.2) p.1.bytes else t) s
    let s2 := s1.setDev x.half l.counts ((List.range l.nexp).map fun e => u32 (Map.at x.demand 0 e)).flatten
    if l.shapeOutEn then
      let dropped := x.tokens.foldl (fun n t => n + t.ranksIn t.capDropped) 0
      let skipped := (x.tokens.filter fun t => t.skipped t.capDropped).length
      s2.setDev x.half ((s2.context x.ctx).shapeBase.toNat + l.shapeOut)
        (u32 (x.assignments - dropped) ++ u32 dropped ++ u32 skipped ++ u32 (x.demand.foldl (fun m p => max m p.2) 0))
    else s2
  | none => s

/-- A step that wrote COUNTS joins the window of its layer; the window ends after BIAS_PERIOD steps (R337). -/
def Layer.addStep (l : Layer) (demand : Map Nat) : Layer :=
  if !l.biasLoop then l
  else
    let w := demand.foldl (fun m p => Map.put m p.1 (Map.at m 0 p.1 + p.2)) l.window
    if l.windowSteps + 1 ≥ l.biasPeriod then { l with window := [], windowSteps := 0, ended := l.ended ++ [w] }
    else { l with window := w, windowSteps := l.windowSteps + 1 }

/-- The route leaves the engine with its status; what it owed is written (R324). -/
def State.endRoute (s : State) (x : Route) (cancelled : Bool) : State :=
  let bad := ((s.node x.node).map fun d => d.uncorrectable || d.writeLost).getD false
  let st := if bad then stUncorrectable else if cancelled || x.tokens.any (fun t => t.missing ≠ 0) then stCancelled else stOk
  let s1 := s.writeRoute x
  let s2 := s1.updLayer x.half x.layer fun l =>
    ({ l with steps := l.steps + 1, cancelled := if st = stCancelled then l.cancelled + 1 else l.cancelled }).addStep x.demand
  let s3 := { s2 with exp := { s2.exp with routes := s2.exp.routes.filter fun y => y.node ≠ x.node } }
  (s3.updNode x.node fun d => { d with result := some st }).pumpRoutes x.half

/-- The route completes when every kept assignment is answered or missing. -/
def State.checkRoute (s : State) (x : Route) : State :=
  if x.deliveries.any fun y => x.owes y then s else s.endRoute x false

/-- Every rank still unanswered becomes missing. -/
def TokenRoute.loseAll (t : TokenRoute) : TokenRoute :=
  { t with missing := (List.range t.k).foldl (fun m r => if t.owes r then setBit m r else m) t.missing }

/-- Ranks of a route that still owe an answer. -/
def Route.owed (x : Route) : Nat :=
  x.tokens.foldl (fun n t => n + ((List.range t.k).filter t.owes).length) 0

/-- The destinations that received a delivery of the route and whose flow is still open. -/
def State.reached (s : State) (x : Route) : List Destination :=
  ((x.deliveries.filter fun y => y.sent && (match y.flow with
    | some f => (s.flow f).state == 2
    | none => true)).map fun y => (⟨y.device, y.half, y.flow⟩ : Destination)).eraseDups

/-- CANCELs are sent and the generation is quarantined until each is acknowledged (R332). -/
def State.sendCancels (s : State) (x : Route) (deadline : Nat) : State :=
  let ds := s.reached x
  let s1 := ds.foldl (fun t d => t.sendRouting d.flow d.half x.ctx (hdrBytes 4 (x.hdr d.half 0 deadline))) s
  if ds.isEmpty then s1
  else { s1 with exp := { s1.exp with quarantines := s1.exp.quarantines ++ [Quarantine.mk x.half x.generation ds] } }

/-- Cancels the ROUTE of a node: in the engine, or waiting in its executor entry. -/
def State.cancelRoute (s : State) (n : Nat) : State :=
  match s.exp.routes.find? fun x => x.node = n with
  | some x =>
    let dl := ((s.node n).map fun d => d.cmd.deadline.toNat).getD 0
    let y := { x with tokens := x.tokens.map TokenRoute.loseAll }
    ((s.updLayer x.half x.layer fun l => { l with missingRanks := l.missingRanks + BitVec.ofNat 64 x.owed }).sendCancels
      x dl).endRoute y true
  | none =>
    match s.node n with
    | some d =>
      if d.state = 4 ∧ d.cmd.opcode = opRoute ∧ d.result.isNone ∧ !d.stopped then
        (s.setNode n { d with result := some stCancelled }).updLayer (halfOfNode n) (d.cmd.slot 0 % 256) fun l =>
          { l with steps := l.steps + 1, cancelled := l.cancelled + 1 }
      else s
    | none => s

/-- A reset of a context cancels its ROUTEs, which write nothing further (R334). -/
def State.dropRoutes (s : State) (c : Nat) : State :=
  (s.exp.routes.filter fun x => x.ctx = c).foldl (fun t x =>
    let dl := ((t.node x.node).map fun d => d.cmd.deadline.toNat).getD 0
    let u := t.sendCancels x dl
    { u with exp := { u.exp with routes := u.exp.routes.filter fun y => y.node ≠ x.node } }) s

/-- A destination owes nothing more for a quarantined generation. -/
def State.releaseQuarantine (s : State) (p : Quarantine → Destination → Bool) : State :=
  { s with exp := { s.exp with quarantines :=
      (s.exp.quarantines.map fun q => { q with owed := q.owed.filter fun d => !p q d }).filter fun q => !q.owed.isEmpty } }

/-! ### The expert half (R326–R329, R333) -/

/-- Room for commands of firmware in a device-side ring: the slots that are not in use (R83). -/
def Ring.roomFor (g : Ring) (n : Nat) : Bool := decide (g.tail + n ≤ g.completedThrough + 2 ^ g.sizeLog2 + 1)

/-- Firmware writes one command into the buffer of a device-side ring and moves its tail. -/
def State.pushCommand (s : State) (r : Nat) (c : Cmd) : State :=
  let g := s.ring r
  (s.setDev (s.homeHalf r) ((g.buffers.headD 0).toNat + 128 * (g.tail % 2 ^ g.sizeLog2)) c.bytes).updRing r fun x => { x with tail := x.tail + 1 }

/-- The entry of a local expert (R326). -/
def State.expertEntry (s : State) (h i : Nat) : List Byte := s.dev ((s.engine h).expertTable + 64 * i) 64

/-- The device-side ring of a local expert. -/
def entryRing (h : Nat) (e : List Byte) : Nat := 8192 + 32 * h + field e 1 1 % 32

/-- A portion is refused for its expert (R326). -/
def State.portionRefused (s : State) (h ctx loc tb rb : Nat) : Bool :=
  let e := s.expertEntry h loc
  decide ((s.engine h).expertCount ≤ loc)
    || decide (4 ≤ field e 0 1) || decide (32 ≤ field e 1 1) || !allZero (slice e 36 28)
    || !bit (field e 0 1) 0 || field e 4 2 != tb || field e 6 2 != rb
    || (s.ring (entryRing h e)).ctx != ctx || !(s.ring (entryRing h e)).enabled

/-- The bytes a portion takes (R327). -/
def portionSize (count tb rb : Nat) : Nat := ceilDiv (count * (tb + 8 + rb)) 64 * 64

/-- The first fit of a size in the receive pool of a half: among the starts of the pool and the ends of its portions. -/
def State.poolFit (s : State) (h size : Nat) : Option Nat :=
  let e := s.engine h
  let ps := s.exp.portions.filter fun p => p.half = h && p.size != 0
  let starts := sortBy (fun a : Nat => a) (e.poolBase :: ps.map fun p => p.base + p.size)
  starts.find? fun a => decide (a + size ≤ e.poolBase + e.poolSize)
    && ps.all fun p => decide (a + size ≤ p.base ∨ p.base + p.size ≤ a)

/-- Places the portions of a delivery one by one; none when one finds no room. -/
def placePortions : List Portion → State → Option State
  | [], s => some s
  | p :: ps, s =>
    if p.refused ≠ 0 then placePortions ps { s with exp := { s.exp with portions := s.exp.portions ++ [p] } }
    else
      match s.poolFit p.half p.size with
      | some a => placePortions ps { s with exp := { s.exp with portions := s.exp.portions ++ [{ p with base := a }] } }
      | none => none

/-- The portions of a delivery, before they are placed; `why` is SKIPPED for a delivery larger than the pool. -/
def State.newPortions (s : State) (w : WaitingDelivery) (why : Nat) : List Portion :=
  w.entries.map fun e =>
    let rf := if why ≠ 0 then why else if s.portionRefused w.half w.ctx e.1 w.tokenBytes w.resultBytes then 2 else 0
    { half := w.half
      ctx := w.ctx
      flow := w.flow
      origin := w.origin
      originHalf := w.hdr.originHalf
      generation := w.hdr.generation
      hb := w.hdr.hb
      deadline := w.hdr.deadline
      loc := e.1
      count := e.2
      tokenBytes := w.tokenBytes
      resultBytes := w.resultBytes
      base := 0
      size := if rf = 0 then portionSize e.2 w.tokenBytes w.resultBytes else 0
      tags := []
      launch := none
      coldSlot := none
      cancelled := false
      refused := rf }

/-- A delivery is allocated, refused when it is larger than the pool, or none when it finds too little room (R327). -/
def State.allocate (s : State) (w : WaitingDelivery) : Option State :=
  let size := w.entries.foldl (fun n e => n + portionSize e.2 w.tokenBytes w.resultBytes) 0
  if size > (s.engine w.half).poolSize then
    let s1 := s.updEngine w.half fun e => { e with poolRefused := e.poolRefused + 1 }
    placePortions (s.newPortions w 1) s1
  else placePortions (s.newPortions w 0) s

/-- Two deliveries came on one flow, or both within the block for one half (R322, R327). -/
def WaitingDelivery.sameFlow (w v : WaitingDelivery) : Bool := v.flow == w.flow && (w.flow.isSome || v.half == w.half)

/-- A delivery waits for room. -/
def State.waitDelivery (s : State) (w : WaitingDelivery) : State :=
  { s with exp := { s.exp with waiting := s.exp.waiting ++ [w] } }

/-- The waiting deliveries of a half are tried in order; one behind another of its flow waits with it, whichever half that is for
(R327). -/
def State.allocateWaiting (s : State) (h : Nat) : State :=
  (s.exp.waiting.filter fun w => w.half = h).foldl (fun t w =>
    if (t.exp.waiting.find? (w.sameFlow)) == some w then
      match t.allocate w with
      | some u => { u with exp := { u.exp with waiting := u.exp.waiting.erase w } }
      | none => t
    else t) s

/-- Removes a portion. -/
def State.freePortion (s : State) (p : Portion) : State := { s with exp := { s.exp with portions := s.exp.portions.erase p } }

/-- Replaces a portion. -/
def State.setPortion (s : State) (p q : Portion) : State :=
  { s with exp := { s.exp with portions := s.exp.portions.map fun x => if x = p then q else x } }

/-- The header of a portion's messages. -/
def Portion.hdr (p : Portion) : RouteHdr := ⟨p.originHalf, p.half, p.hb, p.generation, p.deadline⟩

/-- Sends the answers of a portion. -/
def State.sendAnswers (s : State) (p : Portion) (es : List AnswerEntry) : State :=
  (chunks (65512 / (16 + p.resultBytes)) es.length es).foldl
    (fun t c => t.sendRouting p.flow p.originHalf p.ctx (answersBytes p.hdr c)) s

/-- Every token of the portion is answered with a status and the portion is freed; one that has not received all its tokens
answers when it has. -/
def State.failPortion (s : State) (p : Portion) (status : Nat) : State :=
  if p.tags.length < p.count then s.setPortion p { p with refused := status, size := 0, base := 0, launch := none, coldSlot := none }
  else (s.sendAnswers p (p.tags.map fun t => ⟨t, status, []⟩)).freePortion p

/-- The portion's LAUNCH has completed OK: each token's result row is sent under its tag (R328). -/
def State.answerPortion (s : State) (p : Portion) : State :=
  let es := (List.range p.count).map fun i =>
    (AnswerEntry.mk (BitVec.ofNat 64 (leNat (s.dev (p.base + p.count * p.tokenBytes + 8 * i) 8))) 0
      (s.dev (p.base + p.count * (p.tokenBytes + 8) + i * p.resultBytes) p.resultBytes))
  ((s.portReads p.half (p.base + p.count * p.tokenBytes) (p.count * (8 + p.resultBytes))).sendAnswers p es).freePortion p

/-- A cold slot is held: its COPY is pending, or a LAUNCH that uses it has not completed (R329). -/
def State.coldHeld (s : State) (x : ColdSlot) : Bool :=
  x.copyPending || s.exp.portions.any fun p => p.half = x.half && p.coldSlot == some x.index && p.launch.isSome

/-- The slot that a cold expert takes: a slot never used, else the least recently used one that is not held. -/
def State.coldFree (s : State) (h : Nat) : Option Nat :=
  let xs := s.exp.coldSlots.filter fun x => x.half = h
  match (List.range (s.engine h).coldSlots).find? fun i => !(xs.any fun x => x.index = i) with
  | some i => some i
  | none => ((sortBy (fun x : ColdSlot => x.lastUse) (xs.filter fun x => !s.coldHeld x)).head?).map (·.index)

/-- The LAUNCH of a portion: its expert's template with the fields of R328 replaced. -/
def State.expertLaunch (s : State) (p : Portion) (e : List Byte) (seq weights : Nat) (pred : Option Nat) : Cmd :=
  let t := Cmd.ofBytes (s.dev (field e 8 8) 128)
  let rows := p.base
  let res := p.base + p.count * (p.tokenBytes + 8)
  let w (v : Nat) : Word := BitVec.ofNat 32 v
  let ctrl := (t.ctrl &&& 0xF8FF) ||| (if pred.isSome then 0x0100 else 0)
  let c := { t with
    seq := BitVec.ofNat 64 seq
    ctrl := ctrl
    deadline := if t.deadline = 0 then BitVec.ofNat 64 p.deadline else t.deadline
    pred := Vector.ofFn fun i : Fin 6 => if i.val = 0 then w (pred.getD 0 % 2 ^ 29) else 0 }
  (((((((((c.setSlot 10 (w (ceilDiv p.count (field e 2 2)))).setSlot 0 (w p.count)).setSlot 1 (w rows)).setSlot 2
    (w (rows / 2 ^ 32))).setSlot 3 (w res)).setSlot 4 (w (res / 2 ^ 32))).setSlot 5
      (w (p.generation % 4096 + 4096 * p.hb))).setSlot 6 (w weights)).setSlot 7 (w (weights / 2 ^ 32)))

/-- The COPY that brings a cold expert's weights (R329). -/
def coldCopy (e : List Byte) (seq dst : Nat) : Cmd :=
  let w (v : Nat) : Word := BitVec.ofNat 32 v
  let src := field e 24 8
  let n := field e 32 4
  { ((((((Cmd.blank.setSlot 0 (w src)).setSlot 1 (w (src / 2 ^ 32))).setSlot 2 (w dst)).setSlot 3 (w (dst / 2 ^ 32))).setSlot 4
      (w n)).setSlot 5 0) with
    seq := BitVec.ofNat 64 seq
    opcode := opCopy }

/-- Firmware writes the LAUNCH of a portion that holds all its tokens, after a COPY where a cold expert has no slot; nothing
while the ring has no room or every cold slot is held (R328, R329). -/
def State.tryLaunch (s : State) (p : Portion) : State :=
  if p.tags.length < p.count || p.launch.isSome || p.refused != 0 || p.cancelled then s
  else
    let e := s.expertEntry p.half p.loc
    let r := entryRing p.half e
    let g := s.ring r
    let eng := s.engine p.half
    if !g.enabled then s
    else if !bit (field e 0 1) 1 then
      if g.roomFor 1 then
        (s.pushCommand r (s.expertLaunch p e g.tail (field e 16 8) none)).setPortion p { p with launch := some (r, g.tail) }
      else s
    else
      match s.exp.coldSlots.find? fun x => x.half = p.half && x.loc = p.loc with
      | some x =>
        if g.roomFor 1 then
          let wt := eng.coldBase + x.index * eng.coldSlotBytes
          let s1 := (s.pushCommand r (s.expertLaunch p e g.tail wt (if x.copyPending then some x.copySeq else none))).setPortion p
            { p with launch := some (r, g.tail), coldSlot := some x.index }
          { s1 with exp := { s1.exp with coldSlots := s1.exp.coldSlots.map fun y => if y = x then { y with lastUse := s.now } else y } }
        else s
      | none =>
        if field e 32 4 > eng.coldSlotBytes then s.failPortion p 2
        else if !g.roomFor 2 then s
        else
          match s.coldFree p.half with
          | some i =>
            let wt := eng.coldBase + i * eng.coldSlotBytes
            let s1 := s.pushCommand r (coldCopy e g.tail wt)
            let s2 := (s1.pushCommand r (s1.expertLaunch p e (g.tail + 1) wt (some g.tail))).setPortion p
              { p with launch := some (r, g.tail + 1), coldSlot := some i }
            let s3 := { s2 with exp := { s2.exp with coldSlots :=
              (s2.exp.coldSlots.filter fun (y : ColdSlot) => !(y.half = p.half && y.index = i)) ++ [ColdSlot.mk p.half i p.loc r g.tail true s.now] } }
            s3.updEngine p.half fun n => { n with coldFetches := n.coldFetches + 1 }
          | none => s

/-- Firmware writes every LAUNCH of a half that can be written. -/
def State.launchPortions (s : State) (h : Nat) : State :=
  (s.exp.portions.filter fun p => p.half = h).foldl (fun t p => t.tryLaunch p) s

/-- The COPY of a cold slot has completed: with another status than OK it frees the slot (R329). -/
def State.coldCopyDone (s : State) (r seq status : Nat) : State :=
  { s with exp := { s.exp with coldSlots :=
      (s.exp.coldSlots.filter fun x => !(x.ring == r && x.copySeq == seq && x.copyPending && status != stOk)).map fun x =>
        if x.ring = r ∧ x.copySeq = seq then { x with copyPending := false } else x } }

/-- Firmware reads the record of a device-side ring's command: the portion of an expert LAUNCH is answered and freed (R328,
R333), a cold COPY's slot follows its status. -/
def State.expertRetired (s : State) (r seq status : Nat) : State :=
  let s1 := s.coldCopyDone r seq status
  let s2 := match s1.exp.portions.find? fun p => p.launch == some (r, seq) with
    | some p =>
      let t := { s1 with exp := { s1.exp with coldSlots := s1.exp.coldSlots.map fun (x : ColdSlot) =>
        if x.half = p.half ∧ p.coldSlot = some x.index then { x with lastUse := s1.now } else x } }
      if p.cancelled then t.freePortion p
      else if status = stOk then t.answerPortion p
      else t.failPortion p 2
    | none => s1
  s2.launchPortions ((r - 8192) / 32)

/-- A CANCEL acts on the portions it names, and on the deliveries still waiting for room (R333). -/
def State.cancelPortions (s : State) (hit : Portion → Bool) (hitW : WaitingDelivery → Bool) : State :=
  { s with exp := { s.exp with
      portions := (s.exp.portions.filter fun p => !(hit p && p.launch.isNone)).map fun p =>
        if hit p then { p with cancelled := true } else p
      waiting := s.exp.waiting.filter fun w => !hitW w } }

/-- A reset of a context answers the open portions of its device-side rings FAILED (R334), and frees those of cancelled deliveries,
whose LAUNCHes will not complete. -/
def State.failPortions (s : State) (c : Nat) : State :=
  (s.exp.portions.filter fun p => p.ctx = c && p.refused = 0).foldl
    (fun t p => if p.cancelled then t.freePortion p else t.failPortion p 2) s

/-! ### The close of a flow (R322, R332, R381) -/

/-- What a closed flow does to routing work. -/
def State.expertsFlowClosed (s : State) (f : Nat) : State :=
  let s1 := s.cancelPortions (fun p => p.flow == some f) (fun w => w.flow == some f)
  let lost := s1.exp.routes.filter fun x => x.deliveries.any fun y => y.sent && y.flow == some f && x.owes y
  let s2 := lost.foldl (fun t x => t.cancelRoute x.node) s1
  s2.releaseQuarantine fun _ d => d.flow == some f

/-- Closes a flow (R381). -/
def State.closeFlow (s : State) (f reason : Nat) (send : Bool) : State :=
  if (s.flow f).state = 0 then s else (s.closeFlowOnly f reason send).expertsFlowClosed f

end Sys2Proof.Machine
end

