-- ==== Sys2Proof/Machine/Experts.lean ====
section
/-! DEFINITION. The rows of expert routing: ROUTE at its engine, routing messages, cancellation, layer entries and the bias
loop (R310–R345); and the checks every executor makes (R108, R287). -/
namespace Sys2Proof.Machine

/-! ### What every executor checks -/

/-- The command of a node that its executor may work on now: dispatched, without a result, not the faulting command of its ring
(R108, R122), and not stopped by a reset of its context (R300, R334, R527). -/
def State.atExecutor (s : State) (n : Nat) (op : Byte) : Option Node :=
  match s.node n with
  | some d => if d.state = 4 ∧ d.cmd.opcode = op ∧ d.result.isNone ∧ !s.isFaulting n d ∧ !d.stopped then some d else none
  | none => none

/-- The region check of a command's device ranges (R287): 0 all pass, 1 a range waits, 2 a range fails, with its start. An
empty range is not checked. -/
def State.checkRanges (s : State) (c : Nat) (l : List (Nat × Nat × Bool)) : Nat × Nat :=
  let l := l.filter fun r => r.2.1 ≠ 0
  match l.find? fun r => s.regionCheck c r.1 r.2.1 r.2.2 = 2 with
  | some r => (2, r.1)
  | none => (if l.any fun r => s.regionCheck c r.1 r.2.1 r.2.2 = 1 then 1 else 0, 0)

/-- The bytes of the stack on a port (R22, R495). -/
def State.portCapacity (s : State) (p : Nat) : Nat :=
  let g := s.straps.memCap.getD p 0
  if g ≤ 64 then g * 2 ^ 30 else 0

/-- A device range lies on ports 0 to 11, within one port and below its CAPACITY (R280). -/
def State.onPort (s : State) (a n : Nat) : Bool :=
  decide (a / 2 ^ 36 < 12) && decide (a % 2 ^ 36 + n ≤ s.portCapacity (a / 2 ^ 36))

/-! ### ROUTE (R310, R315–R322, R325) -/

/-- The ROUTEs of an engine, each from its dispatch until it completes (R310). -/
def State.routesOf (s : State) (h : Nat) : List (Nat × Node) :=
  s.dv.nodes.filter fun p => halfOfNode p.1 = h && p.2.state = 4 && p.2.cmd.opcode = opRoute && p.2.result.isNone
    && !p.2.stopped

/-- A ROUTE dispatched earlier at the same engine has not begun its selection: selection runs in dispatch order (R310). A ROUTE whose
ring is FAULTED on it holds up nothing (DEDUCED, log 148). -/
def State.routeBehind (s : State) (n : Nat) (d : Node) : Bool :=
  (s.routesOf (halfOfNode n)).any fun p => decide (p.2.dispatchOrder < d.dispatchOrder) && !s.isFaulting p.1 p.2
    && !(s.exp.routes.any fun x => x.node = p.1)

/-- The generation of a ROUTE is in the engine or quarantined, so the ROUTE waits (R320). -/
def State.generationBusy (s : State) (h g : Nat) : Bool :=
  (s.exp.routes.any fun x => x.half = h && x.generation = g)
    || s.exp.quarantines.any fun q => q.half = h && q.generation = g

/-- The selection of a step: its tokens' routes and the scores that were NaN. -/
def State.selectStep (s : State) (c : Nat) (l : Layer) (scores tokens : Nat) : List TokenRoute × Nat :=
  let w := fmtWidth l.scoreFmt / 8
  let biases := unpack 1 l.nexp (s.dev l.bias (4 * l.nexp))
  let sel := (List.range tokens).map fun t =>
    selectToken l (unpack l.scoreFmt l.nexp (s.readDevice c [] 0 (scores + t * l.nexp * w) (l.nexp * w))) biases
  (sel.map (·.1), sel.foldl (fun n p => n + p.2) 0)

/-- The ROUTE of a node takes its turn: selection, capacity, route records, then its deliveries. -/
def State.beginRoute (s : State) (n : Nat) (d : Node) : State :=
  let h := halfOfNode n
  let ln := d.cmd.slot 0 % 256
  let l := s.layer h ln
  let tn := d.cmd.slot 1
  let (sel, nans) := s.selectStep d.ctx l (d.cmd.wide 4) tn
  let (demand, ts) := capStep l.capacity sel
  let na := ceilDiv tn 2
  let place (e : Nat) : Nat := leNat (s.dev (l.placement + 4 * e) 4)
  let x : Route := ⟨n, d.ctx, h, ln, d.cmd.slot 2 % 4096, ts,
    halfDeliveries 0 0 place (ts.take na) ++ halfDeliveries 1 na place (ts.drop na), demand⟩
  let s0 := ((s.portReads h (d.cmd.wide 4) (tn * l.nexp * (fmtWidth l.scoreFmt / 8))).portReads h l.bias (4 * l.nexp)).portReads h
    l.placement (4 * l.nexp)
  let s1 := ts.zipIdx.foldl (fun t p => t.writeDevice h (some n) d.ctx (d.cmd.wide 8 + 64 * p.2) p.1.bytes) s0
  let s2 := s1.updLayer h ln fun y => { y with
    tokens := y.tokens + BitVec.ofNat 64 tn
    assignments := y.assignments + BitVec.ofNat 64 x.assignments
    dropped := y.dropped + BitVec.ofNat 64 (ts.foldl (fun k t => k + t.ranksIn t.dropped) 0)
    skipped := y.skipped + BitVec.ofNat 64 (ts.filter fun t => t.skipped t.dropped).length
    nanScores := y.nanScores + BitVec.ofNat 64 nans }
  let s3 := (s2.count unRouting h 0x01 tn).nextFree
  ({ s3 with exp := { s3.exp with routes := s3.exp.routes ++ [x] } }).pumpRoutes h

/-- ROUTE at its engine: it waits for its generation, the bias lock or a region; a range that fails faults its ring; an
uncorrectable read ends it before it selects (R285, R287, R320, R338). -/
def State.routeStep (s : State) (n : Nat) (uncorrectable : Bool) : State :=
  match s.atExecutor n opRoute with
  | some d =>
    let h := halfOfNode n
    let l := s.layer h (d.cmd.slot 0 % 256)
    let tn := d.cmd.slot 1
    if s.exp.routes.any (fun x => x.node = n) || s.routeBehind n d || s.generationBusy h (d.cmd.slot 2 % 4096) || l.locked then s
    else
      let (r, a) := s.checkRanges d.ctx
        [(d.cmd.wide 4, tn * l.nexp * (fmtWidth l.scoreFmt / 8), false), (d.cmd.wide 6, tn * l.tokenBytes, false),
          (d.cmd.wide 8, 64 * tn + tn * l.maxK * l.resultBytes, true)]
      if r = 2 then s.nodeFault n fcTranslation (BitVec.ofNat 64 a) (s.holdersEntries n)
      else if r = 1 then s
      else if uncorrectable || d.uncorrectable then
        let scores := (d.cmd.wide 4, tn * l.nexp * (fmtWidth l.scoreFmt / 8))
        ((s.readsFor h (.unit n) uncorrectable [scores]).setNode n { d with result := some stUncorrectable }).updLayer h (d.cmd.slot 0 % 256) fun y => { y with steps := y.steps + 1 }
      else s.beginRoute n d
  | none => s

/-- ROUTE_COMMAND (R315). -/
def execRouteCommand (node : Nat) (uncorrectable : Bool) (s : State) : Host.Outcome State Fault Refusal :=
  .next (s.routeStep node uncorrectable)

/-! ### Routing messages (R321, R323, R327, R332, R333) -/

/-- A routing message is taken by its consumer: the next that an open flow delivers, or one within the block. The answer has the
context of the flow and the device it came from. -/
def State.takeRouting (s : State) (flow : Option Nat) (half : Nat) (bytes : List Byte) : Option (State × Nat × Nat) :=
  match flow with
  | some f =>
    if (s.flow f).state = 2 ∧ s.delivers f bytes then some (s.takeMessage f, (s.flow f).ctx, (s.flow f).peer) else none
  | none =>
    match s.exp.localMsgs.find? fun m => m.half = half && m.bytes = bytes with
    | some m => some ({ s with exp := { s.exp with localMsgs := s.exp.localMsgs.erase m } }, m.ctx, s.set.deviceId)
    | none => none

/-- A DELIVERY message: its portions are allocated, or it waits behind one of its flow or for room. -/
def State.deliver (s : State) (flow : Option Nat) (h : RouteHdr) (tb rb : Nat) (es : List (Nat × Nat)) : State :=
  match s.takeRouting flow h.destHalf (deliveryBytes h tb rb es) with
  | some (s1, c, dev) =>
    let w : WaitingDelivery := { ctx := c, flow := flow, half := h.destHalf, origin := dev, hdr := h, tokenBytes := tb, resultBytes := rb, entries := es }
    if s1.exp.waiting.any w.sameFlow then s1.waitDelivery w
    else
      match s1.allocate w with
      | some s2 => s2
      | none => s1.waitDelivery w
  | none => s

/-- DELIVERY (R327). -/
def execDelivery (flow : Option Nat) (h : RouteHdr) (tokenBytes resultBytes : Nat) (entries : List (Nat × Nat)) (s : State) :
    Host.Outcome State Fault Refusal := .next (s.deliver flow h tokenBytes resultBytes entries)

/-- DELIVERY_ALLOCATE (R327). -/
def execDeliveryAllocate (half : Nat) (s : State) : Host.Outcome State Fault Refusal := .next (s.allocateWaiting half)

/-- One token row goes into its portion; a full portion is answered when it was refused, and otherwise launched. -/
def State.takeToken (s : State) (flow : Option Nat) (h : RouteHdr) (e : TokenEntry) : State :=
  match s.exp.portions.find? fun p => p.half = h.destHalf && p.flow = flow && p.originHalf = h.originHalf
      && p.generation = h.generation && p.hb = h.hb && p.loc = e.loc && !p.cancelled && decide (p.tags.length < p.count) with
  | some p =>
    let i := p.tags.length
    let q := { p with tags := p.tags ++ [e.tag] }
    if p.refused ≠ 0 then
      (if i + 1 = p.count then (s.setPortion p q).failPortion q p.refused else s.setPortion p q)
    else
      let s1 := ((s.setDev p.half (p.base + i * p.tokenBytes) (slice e.row 0 p.tokenBytes)).setDev p.half
        (p.base + p.count * p.tokenBytes + 8 * i) (u64 e.tag.toNat)).setPortion p q
      if i + 1 = p.count then s1.tryLaunch q else s1
  | none => s

/-- A TOKENS message; it stays behind a delivery that waits for room. -/
def State.takeTokens (s : State) (flow : Option Nat) (h : RouteHdr) (es : List TokenEntry) : State :=
  if s.exp.waiting.any fun w => w.flow = flow && (flow.isSome || w.half = h.destHalf) then s
  else
    match s.takeRouting flow h.destHalf (tokensBytes h es) with
    | some (s1, _, _) => es.foldl (fun t e => t.takeToken flow h e) s1
    | none => s

/-- TOKENS (R327). -/
def execTokens (flow : Option Nat) (h : RouteHdr) (entries : List TokenEntry) (s : State) : Host.Outcome State Fault Refusal :=
  .next (s.takeTokens flow h entries)

/-- An answer that no ROUTE waits for. -/
def State.lateAnswer (s : State) (h : Nat) : State := s.updEngine h fun e => { e with lateAnswers := e.lateAnswers + 1 }

/-- One answer is written by its tag, dropped, marked missing, or discarded as late (R323). -/
def State.takeAnswer (s : State) (h : Nat) (e : AnswerEntry) : State :=
  let slot := bits e.tag.toNat 18 20
  let rank := bits e.tag.toNat 14 4
  match s.exp.routes.find? fun x => x.half = h && x.generation = bits e.tag.toNat 38 12 with
  | some x =>
    (match x.tokens[slot]?, s.node x.node with
    | some t, some d =>
      if !t.owes rank then s.lateAnswer h
      else
        let l := s.layer h x.layer
        let go (u : State) (t' : TokenRoute) : State :=
          let y := { x with tokens := x.tokens.set slot t' }
          let v := (u.setRoute y).pumpRoutes h
          match v.exp.routes.find? fun z => z.node = x.node with
          | some z => v.checkRoute z
          | none => v
        if e.status = 0 then
          go ((s.writeDevice h (some x.node) x.ctx (d.cmd.wide 8 + 64 * x.tokens.length + (slot * l.maxK + rank) * l.resultBytes)
            (slice e.row 0 l.resultBytes)).count unRouting h 0x03 1) { t with answered := setBit t.answered rank }
        else if e.status = 1 then
          let t' := { t with dropped := setBit t.dropped rank }
          go (s.updLayer h x.layer fun y => { y with
            dropped := y.dropped + 1
            skipped := if t'.skipped t'.dropped then y.skipped + 1 else y.skipped }) t'
        else
          go (s.updLayer h x.layer fun y => { y with failedAnswers := y.failedAnswers + 1, missingRanks := y.missingRanks + 1 })
            { t with missing := setBit t.missing rank }
    | _, _ => s.lateAnswer h)
  | none => s.lateAnswer h

/-- An ANSWERS message. -/
def State.takeAnswers (s : State) (flow : Option Nat) (h : RouteHdr) (es : List AnswerEntry) : State :=
  match s.takeRouting flow h.originHalf (answersBytes h es) with
  | some (s1, _, _) => es.foldl (fun t e => t.takeAnswer h.originHalf e) s1
  | none => s

/-- ANSWERS (R323). -/
def execAnswers (flow : Option Nat) (h : RouteHdr) (entries : List AnswerEntry) (s : State) : Host.Outcome State Fault Refusal :=
  .next (s.takeAnswers flow h entries)

/-- A CANCEL message: portions are dropped or left without answers, and it is acknowledged at once (R333). -/
def State.takeCancel (s : State) (flow : Option Nat) (h : RouteHdr) : State :=
  match s.takeRouting flow h.destHalf (hdrBytes 4 h) with
  | some (s1, c, _) =>
    (s1.cancelPortions
      (fun p => p.half == h.destHalf && p.flow == flow && p.originHalf == h.originHalf && p.generation == h.generation)
      (fun w => w.half == h.destHalf && w.flow == flow && w.hdr.originHalf == h.originHalf && w.hdr.generation == h.generation)).sendRouting
        flow h.originHalf c (hdrBytes 5 h)
  | none => s

/-- CANCEL (R333). -/
def execCancel (flow : Option Nat) (h : RouteHdr) (s : State) : Host.Outcome State Fault Refusal := .next (s.takeCancel flow h)

/-- A CANCEL_ACK message: its destination owes nothing more for the quarantined generation (R332). -/
def State.takeCancelAck (s : State) (flow : Option Nat) (h : RouteHdr) : State :=
  match s.takeRouting flow h.originHalf (hdrBytes 5 h) with
  | some (s1, _, dev) => s1.releaseQuarantine fun q d =>
      q.half == h.originHalf && q.generation == h.generation && d.device == dev && d.half == h.destHalf && d.flow == flow
  | none => s

/-- CANCEL_ACK (R332). -/
def execCancelAck (flow : Option Nat) (h : RouteHdr) (s : State) : Host.Outcome State Fault Refusal :=
  .next (s.takeCancelAck flow h)

/-! ### Cancellation (R332, R344) -/

/-- STEP_TIMEOUT of a layer passes after a ROUTE's dispatch; 0 never does. -/
def State.stepExpires (s : State) (n : Nat) : State :=
  match s.node n with
  | some d =>
    if d.state = 4 ∧ d.cmd.opcode = opRoute ∧ d.result.isNone ∧ !d.stopped ∧ (s.layer (halfOfNode n) (d.cmd.slot 0 % 256)).stepTimeout ≠ 0
        ∧ !s.timersHeld (halfOfNode n) then s.cancelRoute n
    else s
  | none => s

/-- STEP_TIMEOUT_EXPIRY (R332). -/
def execStepTimeoutExpiry (node : Nat) (s : State) : Host.Outcome State Fault Refusal := .next (s.stepExpires node)

/-- The dispatched ROUTEs of a layer that have no result: those in the engine and those waiting in the executor queue. -/
def State.layerRoutes (s : State) (h l : Nat) : List (Nat × Node) :=
  (s.routesOf h).filter fun p => p.2.cmd.slot 0 % 256 = l

/-- A write of CANCEL of a layer. -/
def State.layerCancelOp (s : State) (h l v : Nat) : Except Word State := do
  refuse (decide (4096 ≤ v)) abRange
  let rs := (s.layerRoutes h l).filter fun p => p.2.cmd.slot 2 % 4096 = v
  match (rs.find? fun p => s.exp.routes.any fun x => x.node = p.1).orElse fun _ => rs.head? with
  | some p => .ok (s.cancelRoute p.1)
  | none => .error abState

/-- LAYER_CANCEL (R332, R344). -/
def execLayerCancel (half layer : Nat) (value : BitVec 16) (s : State) : Host.Outcome State Fault Refusal :=
  .next (s.rootRow (.layerCancel half layer value) (s.layerCancelOp half layer value.toNat))

/-! ### Descriptors (R312, R344) -/

/-- A value is finite. -/
def Num.finite : Num → Bool
  | .fin _ _ _ => true
  | _ => false

/-- A field of a descriptor is out of range, or a reserved one is nonzero (R312). -/
def State.layerBad (s : State) (b : List Byte) : Bool :=
  let l : Layer := { Layer.reset with bytes := b }
  let onPort (a : Nat) : Bool := s.onPort a (4 * l.nexp)
  let rows (v : Nat) : Bool := v % 16 == 0 && decide (16 ≤ v ∧ v ≤ 4096)
  bits (field b 0 2) 10 6 != 0 || decide (8 ≤ field b 2 1) || decide (l.scoreFmt < 1 ∨ 3 < l.scoreFmt)
    || decide (l.nexp < 1 ∨ 65536 < l.nexp) || decide (l.minK < 1 ∨ 8 < l.minK) || decide (l.maxK < l.minK ∨ 8 < l.maxK)
    || !rows l.tokenBytes || !rows l.resultBytes
    || l.shapeOut % 4 != 0 || (match s.ctx l.owner with
      | some x => decide (x.shapeSize < l.shapeOut + 16)
      | none => false)
    || decide (l.capacity < 1 ∨ 1048576 < l.capacity) || !l.threshold.finite
    || !onPort l.placement || !onPort l.bias || !onPort l.counts
    || decide (l.biasPeriod < 1 ∨ 4096 < l.biasPeriod) || decide (l.biasWindows < 1 ∨ 16 < l.biasWindows)
    || field b 51 1 != 0
    || !l.imbalance.finite || !(Num.fin false 1 0).lt l.imbalance
    || !l.biasStep.finite || !(Num.fin false 0 0).lt l.biasStep
    || (l.stepTimeout != 0 && decide (l.stepTimeout < 10 ∨ 10000000 < l.stepTimeout))

/-- A write of DESCRIPTOR: the layer's counters start again, and clearing BIAS_LOOP resets the streak. -/
def State.descriptorOp (s : State) (h l : Nat) (b : List Byte) : Except Word State := do
  refuse (b.length ≠ 64) abLength
  refuse (s.layerBad b) abRange
  refuse ((s.ctx (field b 0 2 % 1024)).isNone || !(s.layerRoutes h l).isEmpty) abState
  let k := (s.layer h l).streak
  .ok (s.updLayer h l fun _ => { Layer.reset with bytes := b, streak := if bit (field b 2 1) 1 then k else 0 })

/-- DESCRIPTOR_WRITE (R344). -/
def execDescriptorWrite (half layer : Nat) (bytes : List Byte) (s : State) : Host.Outcome State Fault Refusal :=
  .next (s.rootRow (.descriptorWrite half layer bytes) (s.descriptorOp half layer bytes))

/-! ### The bias loop (R337, R338) -/

/-- The bias of an expert after an update: one step toward the mean demand. -/
def biasAfter (l : Layer) (sum win code : Nat) : Nat :=
  let delta : Num := if win * l.nexp > sum then l.biasStep.neg else if win * l.nexp < sum then l.biasStep else .fin false 0 0
  (ieee 1 false ((decodeNum 1 code).add delta)).1

/-- Firmware handles the end of a window of a layer. -/
def State.windowEnds (s : State) (h ln : Nat) : State :=
  let l := s.layer h ln
  match l.ended with
  | [] => s
  | w :: rest =>
    if !l.biasLoop then s.updLayer h ln fun y => { y with ended := rest }
    else
      let sum := w.foldl (fun n p => n + p.2) 0
      let peak := w.foldl (fun n p => max n p.2) 0
      let uneven := sum != 0 && (l.imbalance.mul (.fin false sum 0)).lt (.fin false (peak * l.nexp) 0)
      let streak := if uneven then l.streak + 1 else 0
      let act := decide (l.biasWindows ≤ streak)
      let s1 := s.updLayer h ln fun y => { y with
        ended := rest
        streak := streak
        imbalanced := if uneven then y.imbalanced + 1 else y.imbalanced
        biasUpdates := if act then y.biasUpdates + 1 else y.biasUpdates }
      if act then
        (s1.portReads h l.bias (4 * l.nexp)).setDev h l.bias ((List.range l.nexp).map fun e =>
          u32 (biasAfter l sum (Map.at w 0 e) (leNat (s.dev (l.bias + 4 * e) 4)))).flatten
      else s1

/-- BIAS_WINDOW_END (R337). -/
def execBiasWindowEnd (half layer : Nat) (s : State) : Host.Outcome State Fault Refusal := .next (s.windowEnds half layer)

end Sys2Proof.Machine
end

