-- ==== Sys2Proof/Machine/Eclahild.lean ====
section
/-! DEFINITION. Eclahild's rows: opening and closing of flows, packets, acknowledgement, retransmission, and the state of the
exchange ports (R376–R391, R429, R507). -/
namespace Sys2Proof.Machine

/-! ### Flow records (R379, R390, R391) -/

/-- The peers of the pod: device id [13:6] is the device's own (R391). -/
def State.inPod (s : State) (d : Nat) : Bool := d / 64 == s.set.deviceId / 64

/-- The 8-byte body of OPEN and OPEN_ACK. -/
def openBody (x : Flow) : List Byte := u16 x.ctx ++ u16 x.peerCtx ++ [x.planes] ++ [0, 0, 0]

/-- An OPEN leaves on each UP plane of the flow (R380). -/
def State.sendOpens (s : State) (f : Nat) : State :=
  let x := s.flow f
  (s.upPlanes x.planes).foldl (fun t p =>
    t.sendPacket p typeOpen (t.makePacket typeOpen x.peer f 0x3FFF 0 x.expected 0 false (openBody x))) s

/-- A device becomes a peer with its first flow (R50, R391). -/
def State.addPeer (s : State) (d : Nat) : State :=
  if s.ecl.flows.any fun p => p.2.state ≠ 0 && p.2.peer = d then s
  else
    let s1 := s.updPeer d fun _ => Peer.reset
    if s.inPod d then
      { s1 with cat := { s1.cat with peerGen := Map.put s1.cat.peerGen (d % 64) (Map.at s1.cat.peerGen 0 (d % 64) + 1) } }
    else s1

/-- A mark set for the key of a flow exists. -/
def State.hasMarks (s : State) (c p pc : Nat) : Bool :=
  s.ecl.marks.any fun k => k.ctx = c && k.peer = p && k.peerCtx = pc

/-- A write of FLOW_OPEN (R379). -/
def State.flowOpenOp (s : State) (r : List Byte) : Except Word State := do
  refuse (r.length ≠ 16) abLength
  let f := field r 0 2
  let c := field r 2 2
  let p := field r 4 2
  let pc := field r 6 2
  let pl := field r 8 1
  refuse (decide (16382 < f) || decide (1024 ≤ c) || decide (16384 ≤ p) || decide (1024 ≤ pc) || pl == 0
    || !allZero (slice r 9 7)) abRange
  refuse ((s.flow f).state != 0 || (s.ctx c).isNone || p == s.set.deviceId
    || (s.ecl.flows.any fun q => q.2.state ≠ 0 && q.2.ctx = c && q.2.peer = p)
    || !((List.range 8).any fun i => bit pl i && (s.xport i).enable)
    || (!s.hasMarks c p pc && decide (16384 ≤ s.ecl.marks.length))) abState
  let s1 := s.addPeer p
  let s2 := if s.hasMarks c p pc then s1
    else { s1 with ecl := { s1.ecl with marks := s1.ecl.marks ++ [MarkSet.mk c p pc (List.replicate 16 0)] } }
  let y := s.flow f
  let x : Flow := { Flow.reset with
    ctx := c
    peer := p
    peerCtx := pc
    planes := BitVec.ofNat 8 pl
    state := 1
    openSentAt := s.now
    inbox := if y.ctx = c ∧ y.peer = p ∧ y.peerCtx = pc then y.inbox else [] }
  .ok ((s2.setFlow f x).sendOpens f)

/-- FLOW_OPEN (R379, R380). -/
def execFlowOpen (record : List Byte) (s : State) : Host.Outcome State Fault Refusal := .next (s.rootRow (.flowOpen record) (s.flowOpenOp record))

/-- A write of FLOW_CLOSE (R381, R397). -/
def State.flowCloseOp (s : State) (f : Nat) : Except Word State := do
  refuse (decide (16382 < f)) abRange
  refuse ((s.flow f).state == 0) abState
  .ok (s.closeFlow f 1 true)

/-- FLOW_CLOSE (R381). -/
def execFlowClose (value : BitVec 16) (s : State) : Host.Outcome State Fault Refusal :=
  .next (s.rootRow (.flowClose value) (s.flowCloseOp value.toNat))

/-- A write of MARK_RELEASE (R390, R397). -/
def State.markReleaseOp (s : State) (r : List Byte) : Except Word State := do
  refuse (r.length ≠ 6) abLength
  let c := field r 0 2
  let p := field r 2 2
  let pc := field r 4 2
  refuse (decide (1024 ≤ c) || decide (16384 ≤ p) || decide (1024 ≤ pc)) abRange
  refuse (!s.hasMarks c p pc || s.ecl.flows.any fun q => q.2.state ≠ 0 && q.2.ctx = c && q.2.peer = p && q.2.peerCtx = pc) abState
  .ok { s with ecl := { s.ecl with marks := s.ecl.marks.filter fun k => !(k.ctx = c && k.peer = p && k.peerCtx = pc) } }

/-- MARK_RELEASE (R390). -/
def execMarkRelease (record : List Byte) (s : State) : Host.Outcome State Fault Refusal :=
  .next (s.rootRow (.markRelease record) (s.markReleaseOp record))

/-- OPEN_RETRY_TIMER: an OPENING flow sends OPEN again (R380). -/
def execOpenRetryTimer (flow : Nat) (s : State) : Host.Outcome State Fault Refusal :=
  .next (if (s.flow flow).state = 1 then (s.updFlow flow fun x => { x with openSentAt := s.now }).sendOpens flow else s)

/-! ### Reception (R382, R383) -/

/-- A reserved field of a packet is nonzero, or its LENGTH is not what its type allows. -/
def packetBad (type : Byte) (p : Packet) : Bool :=
  p.flags.toNat / 2 != 0 || p.reserved3 != 0 || p.reserved14 != 0
    || decide (16384 ≤ p.srcDevice.toNat) || decide (8192 < p.length.toNat) || p.length.toNat != p.segment.length
    || (type != typeData && type != typeOpen && type != typeOpenAck && type != typeTime && p.length != 0)
    || ((type == typeOpen || type == typeOpenAck) && (p.segment.length != 8 || !allZero (slice p.segment 5 3)
        || decide (1024 ≤ field p.segment 0 2) || decide (1024 ≤ field p.segment 2 2)))
    || (type == typeTime && (p.segment.length != 32 || !allZero (slice p.segment 1 7)))

/-- A frame carries a packet of Eclahild: its EtherType is that of 0xA000.01 (R383). -/
def State.ours (s : State) (p : Packet) : Bool := slice p.header 12 2 == u8 (s.set.etherType / 256) ++ u8 s.set.etherType

/-- A packet arrives at a port that is UP: it is counted and accepted, or counted and discarded. What follows its CRC is ignored, and
a frame with another EtherType is not taken. -/
def State.receive (s : State) (port : Nat) (type : Byte) (p : Packet) : State × Bool :=
  if (s.xport port).state ≠ 2 ∨ !s.ours p then (s, false)
  else if p.crc ≠ packetCrc type p then (s.updXport port fun x => { x with crcErrors := x.crcErrors + 1 }, false)
  else if p.version ≠ 1 ∨ p.dstDevice.toNat ≠ s.set.deviceId ∨ packetBad type p then
    (s.updXport port fun x => { x with badPackets := x.badPackets + 1 }, false)
  else
    ((s.updXport port fun x => { x with rx := x.rx + 1 }).count unExchange port 0x02
      (36 + p.segment.length + (4 - p.segment.length % 4) % 4), true)

/-- The OPEN flow that a packet of its peer names. -/
def State.namedFlow (s : State) (p : Packet) : Option Nat :=
  let f := p.dstFlow.toNat
  if (s.flow f).state = 2 ∧ (s.flow f).peer = p.srcDevice.toNat then some f else none

/-- A CLOSED answer to a packet whose flow is not open here (R382). -/
def State.answerClosed (s : State) (port : Nat) (p : Packet) : State :=
  s.sendPacket port typeClosed (s.makePacket typeClosed p.srcDevice.toNat 0x3FFF p.srcFlow.toNat 0 0 0 false [])

/-- The flow a DATA, ACK or NAK acts on: answered with CLOSED, closed for a restarted peer, or given (R381, R382). -/
def State.flowOfPacket (s : State) (port : Nat) (p : Packet) : State × Option Nat :=
  if p.peerIncarnation ≠ 0 ∧ p.peerIncarnation ≠ s.ecl.incarnation then (s.answerClosed port p, none)
  else
    match s.namedFlow p with
    | some f => if p.incarnation ≠ (s.flow f).peerInc then (s.closeFlow f 4 false, none) else (s, some f)
    | none => (s.answerClosed port p, none)

/-- PSN a is below b, modulo 2^32. -/
def psnBelow (a b : Nat) : Bool := let d := (b + 2 ^ 32 - a % 2 ^ 32) % 2 ^ 32; decide (0 < d ∧ d ≤ 2 ^ 31)

/-- The packets below an ACK_PSN are freed, and the flow sends on (R386). -/
def State.takeAck (s : State) (f ack : Nat) : State :=
  let x := s.flow f
  let done := x.unacked.filter fun t => psnBelow t.psn ack
  match done.getLast? with
  | some t =>
    let s1 := (s.updFlow f fun y => { y with unacked := y.unacked.filter fun u => !psnBelow u.psn ack }).updPeer x.peer fun q =>
      { q with rtt := (s.now - t.sentAt) % 2 ^ 32 }
    pumpFlow x.unsent.length s1 f
  | none => s

/-! ### DATA (R384, R385) -/

/-- A whole message reaches its consumer; a KIND without one is discarded and counted. -/
def State.messageIn (s : State) (port f : Nat) (m : List Byte) : State :=
  let k := (m.headD 0).toNat
  if (1 ≤ k ∧ k ≤ 5) ∨ k = 0x10 ∨ k = 0x11 then
    s.updFlow f fun x => { x with inbox := x.inbox ++ [m], messages := x.messages + 1 }
  else s.updXport port fun x => { x with badPackets := x.badPackets + 1 }

/-- An ACK leaves when 16 packets have been passed on since the last one, or since a packet that carried the value (R385). -/
def State.ackSixteen (s : State) (f : Nat) : State :=
  if 16 ≤ (s.flow f).ackOwed then ((s.sendOnFlow f typeAck 0 false []).1).updFlow f fun x => { x with ackOwed := 0 } else s

/-- Buffered packets are passed on in PSN order. -/
def passOn : Nat → State → Nat → Nat → State
  | 0, s, _, _ => s
  | n + 1, s, port, f =>
    let x := s.flow f
    match Map.look x.rxBuffer x.expected with
    | some (last, seg) =>
      let s1 := s.updFlow f fun y => { y with
        rxBuffer := Map.del y.rxBuffer x.expected
        expected := (x.expected + 1) % 2 ^ 32
        rxMessage := if last then [] else x.rxMessage ++ seg
        ackOwed := y.ackOwed + 1
        ackSince := if y.ackOwed = 0 then s.now else y.ackSince }
      passOn n ((if last then s1.messageIn port f (x.rxMessage ++ seg) else s1).ackSixteen f) port f
    | none => s

/-- The gap of the receiver is noted (R385). -/
def State.afterPass (s : State) (f : Nat) : State :=
  s.updFlow f fun x => { x with gapSince := if x.rxBuffer.isEmpty then none else some (x.gapSince.getD s.now) }

/-- DATA arrives on an open flow. -/
def State.dataIn (s : State) (port f : Nat) (p : Packet) : State :=
  let s0 := s.takeAck f p.ackPsn.toNat
  let x := s0.flow f
  let ahead := (p.psn.toNat + 2 ^ 32 - x.expected) % 2 ^ 32
  if ahead < 256 then
    let buffer (b : Map (Bool × List Byte)) : Map (Bool × List Byte) :=
      if (Map.look b p.psn.toNat).isSome then b else Map.put b p.psn.toNat (p.flags.getLsbD 0, p.segment)
    let s1 := s0.updFlow f fun y => { y with rxBuffer := buffer y.rxBuffer }
    (passOn 257 s1 port f).afterPass f
  else if psnBelow p.psn.toNat x.expected then
    (s0.updFlow f fun y => { y with ackOwed := y.ackOwed + 1, ackSince := if y.ackOwed = 0 then s.now else y.ackSince }).ackSixteen f
  else s0

/-- DATA (R385). -/
def execData (port : Nat) (p : Packet) (s : State) : Host.Outcome State Fault Refusal :=
  .next (match s.receive port typeData p with
  | (s1, true) => (match s1.flowOfPacket port p with
    | (s2, some f) => s2.dataIn port f p
    | (s2, none) => s2)
  | (s1, false) => s1)

/-- ACK (R386). -/
def execAck (port : Nat) (p : Packet) (s : State) : Host.Outcome State Fault Refusal :=
  .next (match s.receive port typeAck p with
  | (s1, true) => (match s1.flowOfPacket port p with
    | (s2, some f) => s2.takeAck f p.ackPsn.toNat
    | (s2, none) => s2)
  | (s1, false) => s1)

/-- A packet is sent again, on the next UP plane after that of its last attempt; at MAX_RETRIES the flow closes LOST (R386). -/
def State.resend (s : State) (f : Nat) (t : TxPacket) : State :=
  let x := s.flow f
  let plane := nextPlane (s.upPlanes x.planes) t.plane
  let s1 := match plane with
    | some q =>
      (((s.sendPacket q typeData (s.flowPacket f typeData t.psn t.last t.segment)).updFlow f fun y => { y with
        retransmits := y.retransmits + 1
        ackOwed := 0 }).updPeer x.peer fun z => { z with retransmits := z.retransmits + 1 }).count unExchange q 0x03 1
    | none => s
  let s2 := s1.updFlow f fun y => { y with unacked := y.unacked.map fun u =>
    if u.psn = t.psn then { u with plane := plane.getD u.plane, sentAt := s.now, retries := u.retries + 1 } else u }
  if t.retries + 1 ≥ s.set.maxRetries then s2.closeFlow f 5 true else s2

/-- NAK: the packet it names is sent again, unless that was done less than 2 µs ago (R386, R388). -/
def State.nakIn (s : State) (f : Nat) (p : Packet) : State :=
  let s1 := s.takeAck f p.ackPsn.toNat
  match (s1.flow f).unacked.find? fun t => t.psn = p.psn.toNat with
  | some t => if t.retries ≠ 0 ∧ s1.now - t.sentAt < 2000 then s1 else s1.resend f t
  | none => s1

/-- NAK (R386). -/
def execNak (port : Nat) (p : Packet) (s : State) : Host.Outcome State Fault Refusal :=
  .next (match s.receive port typeNak p with
  | (s1, true) => (match s1.flowOfPacket port p with
    | (s2, some f) => s2.nakIn f p
    | (s2, none) => s2)
  | (s1, false) => s1)

/-! ### Opening and closing (R380–R382) -/

/-- The flow that an OPEN or OPEN_ACK matches. -/
def State.matchOpen (s : State) (p : Packet) : Option Nat :=
  (s.ecl.flows.find? fun q => q.2.state ≠ 0 && q.2.peer = p.srcDevice.toNat && q.2.peerCtx = field p.segment 0 2
    && q.2.ctx = field p.segment 2 2).map (·.1)

/-- A match: the peer's flow number and incarnation are recorded, and the flow is OPEN. -/
def State.enterOpen (s : State) (f : Nat) (p : Packet) : State :=
  let x := s.flow f
  let s1 := (s.updFlow f fun y =>
    { y with state := 2, remote := p.srcFlow.toNat, peerInc := p.incarnation }).updPeer x.peer fun z =>
      { z with incarnation := p.incarnation }
  if x.state = 1 then ((s1.pumpSignals).pumpRoutes 0).pumpRoutes 1 else s1

/-- OPEN (R380). -/
def State.openIn (s : State) (port : Nat) (p : Packet) : State :=
  match s.matchOpen p with
  | some f =>
    if (s.flow f).state = 2 ∧ (s.flow f).peerInc ≠ p.incarnation then s.closeFlow f 4 false
    else
      let s1 := s.enterOpen f p
      let x := s1.flow f
      s1.sendPacket port typeOpenAck (s1.makePacket typeOpenAck x.peer f x.remote 0 x.expected x.peerInc false (openBody x))
  | none => { s with ecl := { s.ecl with unmatchedOpens := s.ecl.unmatchedOpens + 1 } }

/-- OPEN_PACKET (R380). -/
def execOpenPacket (port : Nat) (p : Packet) (s : State) : Host.Outcome State Fault Refusal :=
  .next (match s.receive port typeOpen p with
  | (s1, true) => s1.openIn port p
  | (s1, false) => s1)

/-- OPEN_ACK (R380): one that matches opens the flow; another is ignored. -/
def execOpenAck (port : Nat) (p : Packet) (s : State) : Host.Outcome State Fault Refusal :=
  .next (match s.receive port typeOpenAck p with
  | (s1, true) => (match s1.matchOpen p with
    | some f => if (s1.flow f).state = 2 ∧ (s1.flow f).peerInc ≠ p.incarnation then s1.closeFlow f 4 false else s1.enterOpen f p
    | none => s1)
  | (s1, false) => s1)

/-- A CLOSE or CLOSED closes the OPEN flow it names; one that names none is discarded. -/
def State.closeIn (s : State) (p : Packet) (reason : Nat) : State :=
  match s.namedFlow p with
  | some f => s.closeFlow f (if p.incarnation ≠ (s.flow f).peerInc then 4 else reason) false
  | none => s

/-- CLOSE_PACKET (R381, R382). -/
def execClosePacket (port : Nat) (p : Packet) (s : State) : Host.Outcome State Fault Refusal :=
  .next (match s.receive port typeClose p with
  | (s1, true) => s1.closeIn p 2
  | (s1, false) => s1)

/-- CLOSED (R381, R382). -/
def execClosed (port : Nat) (p : Packet) (s : State) : Host.Outcome State Fault Refusal :=
  .next (match s.receive port typeClosed p with
  | (s1, true) => s1.closeIn p 3
  | (s1, false) => s1)

/-! ### Timers of a flow (R385, R386) -/

/-- ACK_TIMER: 1 µs after the first packet not yet acknowledged. -/
def execAckTimer (flow : Nat) (s : State) : Host.Outcome State Fault Refusal :=
  .next (if (s.flow flow).state = 2 ∧ (s.flow flow).ackOwed ≠ 0 then
    ((s.sendOnFlow flow typeAck 0 false []).1).updFlow flow fun x => { x with ackOwed := 0 }
  else s)

/-- NAK_TIMER: a gap has persisted for 2 µs. -/
def execNakTimer (flow : Nat) (s : State) : Host.Outcome State Fault Refusal :=
  .next (if (s.flow flow).state = 2 ∧ (s.flow flow).gapSince.isSome then
    ((s.sendOnFlow flow typeNak (s.flow flow).expected false []).1).updFlow flow fun x => { x with gapSince := some s.now }
  else s)

/-- RTO_EXPIRY: the oldest unacknowledged packet is sent again. -/
def execRtoExpiry (flow : Nat) (s : State) : Host.Outcome State Fault Refusal :=
  .next (match (s.flow flow).unacked with
  | t :: _ => if (s.flow flow).state = 2 then s.resend flow t else s
  | [] => s)

/-! ### Exchange ports (R378, R398, R429, R507) -/

/-- A change of a port's state is an event of the port (R486). -/
def State.portChanged (s t : State) (port : Nat) : State :=
  if (s.xport port).state = (t.xport port).state then t else t.event unExchange port 0x01 (t.xport port).state 0

/-- The port is removed by a fault (R378, R429). -/
def State.failPort (s : State) (port : Nat) : State :=
  if (s.xport port).failed then s
  else
    let s1 := s.updXport port fun x => { x with failed := true }
    s.portChanged (((s1.repairAdd 8 0 port 0).blockFlag .degraded).log 0x0E 0 port 0 0 0 0) port

/-- A lane of a port fails its test: the spare of its direction replaces the first, a second fails the port (R429). -/
def State.laneFails (s : State) (port dir lane : Nat) : State :=
  let x := s.xport port
  let l := if dir = 0 then x.lanesFailed0 else x.lanesFailed1
  if x.failed || l.contains lane then s
  else if l.isEmpty then
    let a := port + 8 * dir + 16 * lane
    let s1 := s.updXport port fun y =>
      if dir = 0 then { y with lanesFailed0 := [lane] } else { y with lanesFailed1 := [lane] }
    let s2 := { s1 with flt := { s1.flt with lanesSpared := s1.flt.lanesSpared + 1 } }
    (s2.repairAdd 7 0 a 0).log 0x0D 4 a 0 0 0 0
  else s.failPort port

/-- MAC_LINK_CHANGE (R378). -/
def execMacLinkChange (port : Nat) (up : Bool) (s : State) : Host.Outcome State Fault Refusal :=
  .next (s.portChanged (s.updXport port fun x => { x with linkUp := up }) port)

/-- MAC_FAULT (R429, R507). -/
def execMacFault (port : Nat) (s : State) : Host.Outcome State Fault Refusal := .next (s.failPort port)

/-- MAC_LANE_FAIL (R507). -/
def execMacLaneFail (port dir lane : Nat) (s : State) : Host.Outcome State Fault Refusal := .next (s.laneFails port dir lane)

/-- EXCHANGE_LANE_TEST: the lanes that fail the training pattern (R429, R507). -/
def execExchangeLaneTest (port : Nat) (failed : List (Nat × Nat)) (s : State) : Host.Outcome State Fault Refusal :=
  .next (failed.foldl (fun t l => t.laneFails port l.1 l.2) s)

/-- LANE_WORD_UNCORRECTABLE: a word of a lane cannot be corrected, so the lane fails its test (R507). -/
def execLaneWordUncorrectable (port dir lane : Nat) (s : State) : Host.Outcome State Fault Refusal :=
  .next (if (s.xport port).enable then s.laneFails port dir lane else s)

end Sys2Proof.Machine
end

