-- ==== Sys2Proof/Machine/FabricTime.lean ====
section
/-! DEFINITION. Fabric time: the exchanges with a time master, the 1588 input and the time states (R392–R396, R511). -/
namespace Sys2Proof.Machine

/-- The 32-byte TIME body. -/
def timeBody (op ta number : Nat) : List Byte := u8 op ++ List.replicate 7 0 ++ u64 ta ++ u64 0 ++ u64 number

/-- A TIME packet leaves on a port. -/
def State.sendTime (s : State) (port dst op ta number : Nat) : State :=
  s.sendPacket port typeTime (s.makePacket typeTime dst 0x3FFF 0x3FFF 0 0 0 false (timeBody op ta number))

/-- The timestamp of a frame that leaves now, and of one that arrives now (R393). -/
def State.txStamp (s : State) (port : Nat) : Int := (s.now : Int) + (s.xport port).txDelay
def State.rxStamp (s : State) (port : Nat) : Int := (s.now : Int) - (s.xport port).rxDelay

/-- A timestamp as the 64-bit field carries it. -/
def stampField (t : Int) : Nat := wrapInt 64 t

/-- The time master of the device: none when it runs free or follows the 1588 input (R393). -/
def State.timeMaster (s : State) : Option Nat :=
  if s.clock.source < 16384 ∧ s.clock.source ≠ s.set.deviceId then some s.clock.source else none

def State.updClock (s : State) (f : Clock → Clock) : State := { s with clock := f s.clock }

/-- The state LOCKED is left: LOST_SYNC is set (R394, R396). -/
def Clock.leaveLocked (c : Clock) (st : Nat) : Clock :=
  if c.state = 2 then { c with state := st, lostSync := true, lostSyncEvents := c.lostSyncEvents + 1, good := 0 }
  else { c with state := st, good := 0 }

/-- An accepted offset is applied: a step forward while ACQUIRING, else it is slewed out; and the state follows (R394). -/
def Clock.accept (c : Clock) (offset : Int) : Clock :=
  let c0 := if c.state = 3 then { c with state := 1, stepped := false, good := 0 } else c
  let c1 := { c0 with offset := offset, missed := 0 }
  let c2 :=
    if c1.state = 1 ∧ offset > 1000 ∧ !c1.stepped then
      { c1 with now := timeAt (c1.now + offset.toNat), steps := c1.steps + 1, stepped := true, slew := 0 }
    else { c1 with slew := offset }
  let near := decide (-10 ≤ offset ∧ offset ≤ 10)
  let c3 := { c2 with good := if near then c2.good + 1 else 0 }
  if c3.state = 1 ∧ c3.good ≥ 8 then { c3 with state := 2 }
  else if c3.state = 2 ∧ (offset > 1000 ∨ offset < -1000) then c3.leaveLocked 3
  else c3

/-- An interval of an exchange, or an edge, passes: `missed` counts those since the last accepted one, and at `limit` LOCKED is
left for HOLDOVER (R394). -/
def Clock.miss (c : Clock) (limit : Nat) : Clock :=
  let c1 := { c with missed := c.missed + 1 }
  if c1.state = 2 ∧ c1.missed ≥ limit then c1.leaveLocked 3 else c1

/-- A write of TIME_SOURCE: a change enters ACQUIRING, whatever the new value (R396; log 98). -/
def State.setTimeSource (s : State) (v : Nat) : State :=
  if v = s.clock.source then s
  else s.updClock fun c =>
    { c.leaveLocked 1 with source := v, stepped := false, missed := 0, delays := [], exchange := none, lastPps := none }

/-! ### Exchanges (R393) -/

/-- TIME packets are checked like any other; the operation must be that of the row. -/
def State.timeIn (s : State) (port : Nat) (p : Packet) (op : Nat) : State × Bool :=
  match s.receive port typeTime p with
  | (s1, true) => (s1, field p.segment 0 1 == op)
  | (s1, false) => (s1, false)

/-- SYNC_REQ: any device answers with SYNC and its time of transmission. -/
def execSyncReq (port : Nat) (p : Packet) (s : State) : Host.Outcome State Fault Refusal :=
  .next (match s.timeIn port p 4 with
  | (s1, true) => s1.sendTime port p.srcDevice.toNat 1 (stampField (s1.txStamp port)) (field p.segment 24 8)
  | (s1, false) => s1)

/-- SYNC of the exchange in progress: t1 and t2 are recorded and DELAY_REQ leaves at t3. -/
def State.syncIn (s : State) (port : Nat) (p : Packet) : State :=
  match s.clock.exchange, s.timeMaster with
  | some x, some m =>
    if x.number = field p.segment 24 8 ∧ x.step = 1 ∧ m = p.srcDevice.toNat then
      let x1 : TimeExchange := { x with
        t1 := field p.segment 8 8
        t2 := s.rxStamp port
        t3 := s.txStamp port
        port := port
        step := 2 }
      (s.updClock fun c => { c with exchange := some x1 }).sendTime port m 2 0 x.number
    else s
  | _, _ => s

/-- SYNC (R393). -/
def execSync (port : Nat) (p : Packet) (s : State) : Host.Outcome State Fault Refusal :=
  .next (match s.timeIn port p 1 with
  | (s1, true) => s1.syncIn port p
  | (s1, false) => s1)

/-- DELAY_REQ: any device answers with DELAY_RESP and its time of receipt. -/
def execDelayReq (port : Nat) (p : Packet) (s : State) : Host.Outcome State Fault Refusal :=
  .next (match s.timeIn port p 2 with
  | (s1, true) => s1.sendTime port p.srcDevice.toNat 3 (stampField (s1.rxStamp port)) (field p.segment 24 8)
  | (s1, false) => s1)

/-- DELAY_RESP completes the exchange: it is accepted unless its path delay is more than 50 ns above the smallest of the last
16 exchanges (R394). -/
def State.delayRespIn (s : State) (p : Packet) : State :=
  match s.clock.exchange, s.timeMaster with
  | some x, some m =>
    if x.number = field p.segment 24 8 ∧ x.step = 2 ∧ m = p.srcDevice.toNat then
      let t4 : Int := field p.segment 8 8
      let offset := ((x.t1 - x.t2) + (t4 - x.t3)) / 2
      let path := (((x.t2 - x.t1) + (t4 - x.t3)) / 2).toNat
      let ok := s.clock.delays.all fun d => decide (path ≤ d + 50 ∨ (s.clock.delays.any fun e => decide (e < d)))
      s.updClock fun c =>
        let c1 := { c with exchange := none, delays := (path :: c.delays).take 16 }
        if ok then ({ c1 with pathDelay := path % 2 ^ 32 }).accept offset else c1
    else s
  | _, _ => s

/-- DELAY_RESP (R393, R394). -/
def execDelayResp (port : Nat) (p : Packet) (s : State) : Host.Outcome State Fault Refusal :=
  .next (match s.timeIn port p 3 with
  | (s1, true) => s1.delayRespIn p
  | (s1, false) => s1)

/-- SYNC_INTERVAL_TIMER: an exchange not completed is discarded, and the next one opens on the lowest UP plane (R393). The
interval that holds the last accepted exchange is not one of the eight without. -/
def State.syncInterval (s : State) : State :=
  match s.timeMaster with
  | some m =>
    let s1 := s.updClock fun c => c.miss 9
    match (List.range 8).find? fun p => (s1.xport p).state = 2 with
    | some p =>
      let n := s1.clock.nextExchange
      (s1.updClock fun c => { c with exchange := some ⟨n, p, 0, 0, 0, 1⟩, nextExchange := n + 1 }).sendTime p m 4 0 n
    | none => s1.updClock fun c => { c with exchange := none }
  | none => s

/-- SYNC_INTERVAL_TIMER (R393). -/
def execSyncIntervalTimer (s : State) : Host.Outcome State Fault Refusal := .next s.syncInterval

/-! ### The 1588 input (R393, R511) -/

/-- The interval test of an edge against the previous accepted one, at time `at'` with time of day `tod`. -/
def ppsPasses (last : Option (Nat × Nat)) (at' tod : Nat) : Bool :=
  match last with
  | none => true
  | some (t0, d0) =>
    if at' - t0 > 16000000000 then true
    else (List.range 16).any fun j =>
      let k := j + 1
      decide (k * 1000000000 ≤ at' - t0 + k * 1000000 ∧ at' - t0 ≤ k * 1000000000 + k * 1000000) && tod == d0 + k * 1000000000

/-- PPS_EDGE: an accepted edge gives the offset of the supplied time; another is a lost exchange. -/
def State.ppsEdge (s : State) (tod : Nat) (valid : Bool) : State :=
  if s.clock.source ≠ 0xFFFE then s
  else if valid && ppsPasses s.clock.lastPps s.now tod then
    s.updClock fun c =>
      let c1 := c.accept ((tod : Int) - (c.now : Int))
      { c1 with lastPps := some (c1.now, tod) }
  else s.updClock fun c => c.miss 8

/-- PPS_EDGE (R511). -/
def execPpsEdge (tod : BitVec 64) (todValid : Bool) (s : State) : Host.Outcome State Fault Refusal :=
  .next (s.ppsEdge tod.toNat todValid)

end Sys2Proof.Machine
end

