-- ==== Sys2Proof/Machine/Translate.lean ====
section
/-! DEFINITION. Translation of host addresses, page faults, the Tally, COMPLETION_BLOCKED and the backlog (R162, R172–R182,
R305–R309, R501). -/
namespace Sys2Proof.Machine

/-! ### Cached translations (R305, R306) -/

/-- A translation covers an address. -/
def Translation.covers (t : Translation) (pasid : Option Nat) (a : Nat) : Bool :=
  t.pasid == pasid && decide (t.iova ≤ a ∧ a < t.iova + 2 ^ t.pageLog2)

/-- A usable translation of an address. -/
def State.xlatFor (s : State) (pasid : Option Nat) (a : Nat) (write : Bool) : Option Translation :=
  s.mem.xlat.find? fun t => t.covers pasid a && (if write then t.write else t.read)

/-- The first 4 KiB page of a range without a usable translation, over `n` pages at most. -/
def State.missingPage (s : State) (pasid : Option Nat) (write : Bool) : Nat → Nat → Nat → Option Nat
  | 0, _, _ => none
  | n + 1, a, stop =>
    if stop ≤ a then none
    else
      match s.xlatFor pasid a write with
      | some t => s.missingPage pasid write n (t.iova + 2 ^ t.pageLog2) stop
      | none => some (a / 4096 * 4096)

/-- The requester waits for the page: a translation request, or a fault record, names it. -/
def State.awaits (s : State) (ctx page purpose who : Nat) (write : Bool) : Bool :=
  ((s.mem.requests ++ s.mem.xltWaiting).any fun q =>
      q.purpose = purpose && q.who = who && q.iova = page && q.write = write && q.ctx = ctx)
    || (s.mem.records.any fun p => p.2.page = page && p.2.ctx = ctx && p.2.requesters.any fun q => q.purpose = purpose && q.who = who)
    || s.mem.pageWaiters.any fun q => q.purpose = purpose && q.who = who && q.iova = page && q.ctx = ctx

/-- The next free tag of a translation request: none when 512 are outstanding (R501). -/
def State.freeTag (s : State) : Option Nat :=
  ((List.range 512).map fun j => (s.mem.nextTag + j) % 512).find? fun t => !s.mem.requests.any fun q => q.tag = t

/-- The half that a requester works in (R35). -/
def State.xltHalf (s : State) (q : XltRequest) : Nat :=
  if q.purpose = 0 ∨ q.purpose = 4 then s.homeHalf q.who else if q.purpose = 5 then halfOfNode q.who else 0

/-- A request leaves with a free tag. -/
def State.sendXlt (s : State) (t : Nat) (q : XltRequest) : State :=
  (({ s with mem := { s.mem with
      requests := s.mem.requests ++ [{ q with tag := t }]
      nextTag := (t + 1) % 512 } }).emit (.xltReq t q.pasid q.iova q.write)).crossPort (s.xltHalf q) 8

/-- A tag has come back: the oldest request that waits for one leaves. -/
def State.sendWaiting (s : State) : State :=
  match s.mem.xltWaiting, s.freeTag with
  | q :: rest, some t => State.sendXlt { s with mem := { s.mem with xltWaiting := rest } } t q
  | _, _ => s

/-- An XLT_REQ leaves, unless the requester already waits for that page; with every tag outstanding it waits for one. -/
def State.requestXlt (s : State) (pasid : Option Nat) (ctx page : Nat) (write : Bool) (purpose who target : Nat) : State :=
  if s.awaits ctx page purpose who write then s
  else
    let q : XltRequest := ⟨0, pasid, ctx, page, write, purpose, who, target⟩
    match s.freeTag with
    | some t => s.sendXlt t q
    | none => { s with mem := { s.mem with xltWaiting := s.mem.xltWaiting ++ [q] } }

/-- A host range of a context is translated; otherwise the request for its first missing page has left. -/
def State.translated (s : State) (ctx a n : Nat) (write : Bool) (purpose who : Nat) : Option State :=
  match s.missingPage (s.pasid ctx) write (n / 4096 + 2) a (a + n) with
  | some p => some (s.requestXlt (s.pasid ctx) ctx p write purpose who a)
  | none => none

/-! ### States of a ring (R105, R107) -/

/-- The conditions of COMPLETION_BLOCKED hold: an access failed, or the backlog it left is not yet handed over (R182). -/
def State.ringBlocked (s : State) (r : Nat) : Bool :=
  (s.ring r).blocked || !(s.ring r).backlog.isEmpty || (isHostRing r && (s.context (s.ring r).ctx).tallyBlocked.isSome)

/-- A command of the ring waits at its executor for a page: the ring is STALLED with PAGE_REQUEST (R89, R307, R309). -/
def State.pageStalled (s : State) (r : Nat) : Bool :=
  let mine (p n : Nat) : Bool := p == 5 && (match s.node n with
    | some d => d.ring == r
    | none => false)
  (s.mem.records.any fun p => p.2.requesters.any fun q => mine q.purpose q.who)
    || s.mem.pageWaiters.any fun q => mine q.purpose q.who

/-- The code that RING_STATE shows. -/
def State.ringState (s : State) (r : Nat) : Nat :=
  let g := s.ring r
  if !g.enabled then 0
  else if g.fault.isSome then 4
  else if s.ringBlocked r then 5
  else if g.draining then 6
  else if g.stall ≠ 0 || s.pageStalled r then 3
  else if g.fetch = g.tail then 1
  else 2

/-- The CAUSE that RING_STATUS shows. -/
def State.ringCause (s : State) (r : Nat) : Nat :=
  match s.ringState r with
  | 3 => if (s.ring r).stall ≠ 0 then (s.ring r).stall else slPageRequest
  | 4 => ((s.ring r).fault.map (·.cause)).getD 0
  | _ => 0

/-- The ring is STALLED with a cause; its place among the stalled rings is that of its first stall. -/
def State.stallRing (s : State) (r cause : Nat) : State :=
  let g := s.ring r
  if g.stall = cause then s
  else
    let s1 := s.event unRingEngine (s.homeHalf r) 0x01 cause (s.ringField r)
    let s2 := s1.updRing r fun x => { x with stall := cause, stallOrder := if g.stall = 0 then s1.dv.nextOrder else x.stallOrder }
    if g.stall = 0 then { s2 with dv := { s2.dv with nextOrder := s2.dv.nextOrder + 1 } } else s2

/-- The stall reason ends. -/
def State.endStall (s : State) (r : Nat) : State :=
  if (s.ring r).stall = 0 then s
  else
    (s.event unRingEngine (s.homeHalf r) 0x03 (s.ring r).stall (s.ringField r)).updRing r fun g => { g with stall := 0 }

/-- The ring enters COMPLETION_BLOCKED, or stays there; BLOCKED_AT is the latest address (R181). -/
def State.blockRing (s : State) (r addr : Nat) : State :=
  let was := s.ringBlocked r
  let s1 := s.updRing r fun g => { g with blockedAt := hostAddr addr }
  if was then s1
  else
    (s1.event unRingEngine (s.homeHalf r) 0x04 0 (s.ringField r)).raiseFault r stBlocked

/-- A failed access to the Tally blocks every enabled ring of the context. -/
def State.blockTally (s : State) (c addr : Nat) (hostError : Bool) : State :=
  let rs := (s.ringsOf c).filter fun r => isHostRing r && (s.ring r).enabled
  let s1 := rs.foldl (fun t r => t.blockRing r addr) s
  s1.updCtx c fun x => { x with tallyBlocked := some (hostAddr addr), tallyHostError := hostError }

/-! ### Fault records (R307–R309) -/

/-- What a requester shows when it joins a fault record: its ring stalls, or is blocked. -/
def State.joined (s : State) (q : XltRequest) : State :=
  if q.purpose = 0 then s.stallRing q.who slPageRequest
  else if q.purpose = 2 then s.blockTally q.who q.target false
  else if q.purpose = 4 then (s.blockRing q.who q.target).updRing q.who fun g => { g with blocked := true }
  else if q.purpose = 5 then
    match s.node q.who with
    | some d =>
      if s.pageStalled d.ring || (s.ring d.ring).stall ≠ 0 then s
      else s.event unRingEngine (s.homeHalf d.ring) 0x01 slPageRequest (s.ringField d.ring)
    | none => s
  else s

/-- A requester joins the fault record of its page, or the record is created and sends one page request; with 256 records in
use it waits. -/
def State.joinRecord (s0 : State) (q : XltRequest) : State :=
  let s := s0.joined q
  match s.mem.records.find? fun p => p.2.ctx = q.ctx && p.2.page = q.iova with
  | some (k, x) =>
    { s with mem := { s.mem with records := Map.put s.mem.records k { x with
        requesters := x.requesters ++ [Requester.mk q.purpose q.who q.target q.write]
        count := x.count + 1 } } }
  | none =>
    match (List.range 256).find? fun k => (Map.look s.mem.records k).isNone with
    | some k =>
      let x : FaultRecord := ⟨q.iova, q.pasid, q.ctx, q.write, false, 1, [⟨q.purpose, q.who, q.target, q.write⟩], 1, s.now⟩
      (({ s with mem := { s.mem with
          records := Map.put s.mem.records k x
          pageRequests := s.mem.pageRequests + 1 } }).emit (.pageReq k q.pasid q.iova q.write)).count unHostPort 0 0x04 1
    | none => { s with mem := { s.mem with pageWaiters := s.mem.pageWaiters ++ [q] } }

/-- Records are free again: the requesters that waited for one join, in order. -/
def State.admitWaiters (s : State) : State :=
  s.mem.pageWaiters.foldl (fun t q =>
    if t.mem.records.length < 256 then
      ({ t with mem := { t.mem with pageWaiters := t.mem.pageWaiters.erase q } }).joinRecord q
    else t) s

/-- A requester leaves every record and request it waits on; a record without requesters stays until its response (R527), and
an outstanding translation request is answered to nobody. -/
def State.leaveRecords (s : State) (p : Nat → Nat → Nat → Bool) : State :=
  { s with mem := { s.mem with
      requests := s.mem.requests.map fun q => if p q.ctx q.purpose q.who then { q with purpose := 6 } else q
      pageWaiters := s.mem.pageWaiters.filter fun q => !p q.ctx q.purpose q.who
      xltWaiting := s.mem.xltWaiting.filter fun q => !p q.ctx q.purpose q.who
      records := Map.each s.mem.records fun _ x =>
        { x with requesters := x.requesters.filter fun q => !p x.ctx q.purpose q.who } } }

/-! ### The Tally (R170–R175) -/

/-- I/O virtual address of a Tally offset. -/
def State.tallyAddr (s : State) (c off : Nat) : Nat := iovaOf (s.context c).tallyBase.toNat + off

/-- The Tally's pages at an offset can be written; otherwise a request for the translation has left. -/
def State.tallyOpen (s : State) (c off n : Nat) : Option State :=
  if (s.context c).tallyBlocked.isSome then some s else s.translated c (s.tallyAddr c off) n true 2 c

/-- One Tally write, counted by the ring engine of a half. -/
def State.tallyWrite (s : State) (c half off : Nat) (bs : List Byte) : State :=
  (s.hostWrite half c (BitVec.ofNat 64 (s.tallyAddr c off)) bs).count unRingEngine half 0x04 1

/-- Offset of a ring's Tally entry. -/
def entryOff (r : Nat) : Nat := 0x40 + 32 * (r % 8)

/-- Writes what a ring still owes its Tally entry: the fields of ENABLE, and SIGNALS_DROPPED when it changed (R168, R172). -/
def State.tallyEntry (s : State) (r : Nat) : State :=
  let g := s.ring r
  let h := s.homeHalf r
  let x := s.context g.ctx
  let s1 := if g.entryOwed then
      ((s.tallyWrite g.ctx h (entryOff r) (u64 (g.nextSeq - 1) ++ u64 (g.nextSeq - 1) ++ u64 g.nextSeq))).updRing r
        fun y => { y with entryOwed := false }
    else s
  if x.signalsDropped ≠ x.droppedShown then
    (s1.tallyWrite g.ctx h 0x18 (u64 x.signalsDropped)).updCtx g.ctx fun y => { y with droppedShown := y.signalsDropped }
  else s1

/-- A commit entry (R173). -/
def commitBytes (seq table ring type epoch time : Nat) : List Byte :=
  u64 seq ++ u16 table ++ u8 ring ++ u8 type ++ u32 epoch ++ u64 time

/-- Journals a commit entry: none while EPOCH_CONSUMED holds it back or the Tally cannot be written; the entry's body, its
ESEQ and EPOCH_NEXT are written in that order (R173, R174). The answer's Bool is true when the entry is written. -/
def State.journal (s : State) (c half seq table ring type epoch : Nat) : State × Bool :=
  let x := s.context c
  let e := x.epochNext
  let off := 0x1000 + 32 * (e % 512)
  if x.epochConsumed + 512 ≤ e then (s, false)
  else
    match s.tallyOpen c (off + 8) 24, s.tallyOpen c 0x08 8 with
    | none, none =>
      let s1 := s.tallyWrite c half (off + 8) (commitBytes seq table ring type epoch s.now)
      let s2 := s1.tallyWrite c half off (u64 e)
      ((s2.tallyWrite c half 0x08 (u64 (e + 1))).updCtx c fun y => { y with epochNext := e + 1 }, true)
    | some t, _ => (t, false)
    | none, some t => (t, false)

/-! ### Completion records (R160–R162, R181, R182) -/

/-- The 32 bytes of a completion record. -/
def Record.bytes (x : Record) : List Byte :=
  u64 x.seq ++ u8 x.status ++ [x.flags] ++ u16 x.detail.toNat ++ u32 x.escalated ++ u64 x.endTime ++ u32 x.run
    ++ u16 x.saturations ++ u16 x.nans

/-- The address of a ring's record of a sequence number, within the host or device address space. -/
def Ring.recordAddr (g : Ring) (seq : Nat) : Nat :=
  (if isHostAddr g.complBase.toNat then iovaOf g.complBase.toNat else devOf g.complBase.toNat)
    + 32 * (seq % 2 ^ g.complSizeLog2)

/-- A record is handed to the host port; none when its page has no translation, with the request that has left. -/
def State.handRecord (s : State) (r : Nat) (x : Record) : Except State State :=
  let g := s.ring r
  match s.translated g.ctx (g.recordAddr x.seq) 32 true 4 r with
  | some t => .error t
  | none =>
    .ok ((s.hostWrite (s.homeHalf r) g.ctx (BitVec.ofNat 64 (g.recordAddr x.seq)) x.bytes).updRing r fun y => { y with handedThrough := x.seq })

/-- Hands over the backlog, oldest first, until a page has no translation. -/
def drainBacklog : Nat → State → Nat → State
  | 0, s, _ => s
  | n + 1, s, r =>
    match (s.ring r).backlog with
    | [] => s.updRing r fun g => { g with blocked := false }
    | x :: rest =>
      match s.handRecord r x with
      | .ok t => drainBacklog n (t.updRing r fun g => { g with backlog := rest }) r
      | .error t => t

/-- Retries the access that blocked a ring, and hands over its backlog. -/
def State.unblock (s : State) (r : Nat) : State := drainBacklog ((s.ring r).backlog.length + 1) s r

end Sys2Proof.Machine
end

