-- ==== Sys2Proof/Machine/RingOps.lean ====
section
/-! DEFINITION. The ring engine: the form of commands, predecessor references, and the steps of acceptance (R77–R104, R116–R118,
R138–R143, R159). -/
namespace Sys2Proof.Machine

/-! ### The form of a command (R94–R96, R251, R266, R276, R291) -/

/-- A block address has no reserved bit set (R92). -/
def blockAddrOk (a : Nat) : Bool := if isHostAddr a then bits a 57 6 == 0 else bits a 40 23 == 0

/-- Slots that R95 lists for an opcode. -/
def listedSlots (op : Byte) : List Nat :=
  if op = opLaunch then List.range 15
  else if op = opCopy then List.range 7
  else if op = opGather then List.range 6
  else if op = opUpdate then List.range 6
  else if op = opEpoch then [0]
  else if op = opRoute then [0, 1, 2, 4, 5, 6, 7, 8, 9]
  else if op = opSignal then [0, 1, 2]
  else if op = opWait then [0, 1, 2, 3, 4]
  else if op = opFence then [0]
  else if op = opMark then [0, 1, 2, 3]
  else if op = opHostStep then [0, 2, 3]
  else []

/-- Slots that may be indirect. -/
def indirectSlots (c : Cmd) : List Nat :=
  let op := c.opcode
  if op = opLaunch then List.range 11
  else if op = opCopy then (if isHostAddr (c.wide 0) || isHostAddr (c.wide 2) then [] else [4, 5])
  else if op = opGather then [1]
  else if op = opUpdate then (if isHostAddr (c.wide 2) || isHostAddr (c.wide 4) then [] else [1])
  else if op = opRoute then [1]
  else if op = opSignal || op = opWait then [2]
  else if op = opMark then [2, 3]
  else []

/-- 64-bit fields that may be indirect, by their low slot. -/
def indirectPairs (op : Byte) : List Nat := if op = opCopy then [4] else if op = opMark then [2] else []

/-- Slot j is indirect. -/
def indirectAt (c : Cmd) (j : Nat) : Bool := c.indirect.getLsbD j

/-- A COPY's format codes: both raw, or each from 0x01 to 0x06. -/
def copyFormats (a b : Nat) : Bool := (a == 0 && b == 0) || (decide (1 ≤ a ∧ a ≤ 6) && decide (1 ≤ b ∧ b ≤ 6))

/-- Bytes of one element of a COPY format: 1 for raw bytes. -/
def copyWidth (f : Nat) : Nat := if f = 0 then 1 else fmtWidth f / 8

/-- A field that may be indirect holds an allowed value: checked here when direct, at the substitution when indirect. -/
def variableOk (c : Cmd) : Bool :=
  let op := c.opcode
  if op = opLaunch then decide (c.slot 10 ≤ 16777216)
  else if op = opCopy then decide (c.wide 4 ≤ 2 ^ 40) && c.wide 4 % copyWidth (bits (c.slot 6) 0 8) == 0
  else if op = opGather then decide (c.slot 1 ≤ 1048576)
  else if op = opUpdate || op = opRoute then decide (1 ≤ c.slot 1 ∧ c.slot 1 ≤ 1048576)
  else if op = opSignal || op = opWait then decide (1 ≤ c.slot 2 ∧ c.slot 2 ≤ 16777215)
  else true

/-- The fields that are always direct hold allowed values. -/
def fixedOk (c : Cmd) : Bool :=
  let op := c.opcode
  let dev (j : Nat) : Bool := decide (c.wide j < 2 ^ 40)
  if op = opLaunch then
    decide (bits (c.slot 11) 16 8 ≤ 0x0A) && bits (c.slot 11) 24 8 == 0 && dev 12 && decide (c.slot 14 < 2 ^ 16)
  else if op = opCopy then
    blockAddrOk (c.wide 0) && blockAddrOk (c.wide 2) && copyFormats (bits (c.slot 6) 0 8) (bits (c.slot 6) 8 8)
      && bits (c.slot 6) 16 2 != 3 && bits (c.slot 6) 18 14 == 0
  else if op = opGather then
    decide (c.slot 0 < 2 ^ 14) && dev 2 && decide (c.slot 4 < 2 ^ 29)
      && bits (c.slot 5) 2 6 == 0 && bits (c.slot 5) 16 16 == 0 && decide (1 ≤ bits (c.slot 5) 8 8 ∧ bits (c.slot 5) 8 8 ≤ 5)
  else if op = opUpdate then decide (c.slot 0 < 2 ^ 14) && blockAddrOk (c.wide 2) && blockAddrOk (c.wide 4)
  else if op = opEpoch then decide (c.slot 0 < 2 ^ 14)
  else if op = opRoute then decide (c.slot 0 < 2 ^ 8) && decide (c.slot 2 < 2 ^ 12) && dev 4 && dev 6 && dev 8
  else if op = opSignal then (targetOf (c.wide 0)).isSome
  else if op = opWait then
    (match targetOf (c.wide 0) with
      | some (.shared _, none) => true
      | _ => false) && decide (c.slot 3 ≤ 1)
  else if op = opFence then decide (c.slot 0 ≤ 3)
  else if op = opMark then decide (c.slot 1 ≤ 2)
  else true

/-- The offset e of a reference, and the sequence number it names (R98). -/
def refOffset (a : Nat) (ref : Word) : Int :=
  (((bits ref.toNat 0 29 + 2 ^ 29 - a % 2 ^ 29 + (2 ^ 28 - 1)) % 2 ^ 29 : Nat) : Int) - ((2 ^ 28 - 1 : Nat) : Int)

/-- The ring a reference of a ring's command names. -/
def State.refRing (s : State) (r : Nat) (ref : Word) : Nat :=
  if isHostRing r then 8 * (s.ring r).ctx + bits ref.toNat 29 3 else r

/-- A reference is allowed in a command: not to itself or forward in its own ring, and with RING 0 in a device-side ring. -/
def State.refOk (s : State) (r seq : Nat) (ref : Word) : Bool :=
  if s.refRing r ref = r then
    (isHostRing r || bits ref.toNat 29 3 == 0) && decide (refOffset (seq - 1) ref ≤ 0)
  else true

/-- A command has the form R94 asks for, but for its overflow chain. NPRED 7 and a nonzero KERNEL_ID outside LAUNCH count as
malformed (DESIGN CHOICE, log 143). -/
def State.formOk (s : State) (r : Nat) (c : Cmd) : Bool :=
  let op := c.opcode
  let ind := (List.range 16).filter (indirectAt c)
  decide (op.toNat ≤ 0x0B)
    && (isHostRing r || ((op == opNop || op == opLaunch || op == opCopy || op == opSignal || op == opFence || op == opMark)
          && (op != opFence || c.slot 0 == 0)))
    && bits c.flags.toNat 0 4 == 0 && bits c.ctrl.toNat 0 8 == 0 && decide (c.npred ≤ 6)
    && ((List.range 6).all fun j => decide (j < c.npred) || c.pred.toList.getD j 0 == 0)
    && (op == opLaunch || c.kernelId == 0)
    && ((List.range 16).all fun j => (listedSlots op).contains j || c.slot j == 0)
    && (ind.all fun j => (indirectSlots c).contains j
          && decide (c.slot j < (s.context (s.ring r).ctx).shapeSize) && c.slot j % 4 == 0)
    && ((indirectPairs op).all fun j => indirectAt c j == indirectAt c (j + 1))
    && fixedOk c && (!ind.isEmpty && op != opLaunch || (op == opLaunch && indirectAt c 10) || variableOk c)
    && blockAddrOk c.overflow.toNat && c.overflow.toNat % 64 == 0
    && ((c.pred.toList.take c.npred).all fun w => s.refOk r c.seq.toNat w)

/-! ### Overflow chains (R100) -/

/-- A block of 256 bytes in device memory. -/
def overflowOf (b : List Byte) : OverflowBlock :=
  ⟨BitVec.ofNat 32 (field b 0 4), BitVec.ofNat 32 (field b 4 4), BitVec.ofNat 64 (field b 8 8),
    (List.range 60).map fun j => BitVec.ofNat 32 (field b (16 + 4 * j) 4)⟩

/-- One block is as R100 says. -/
def blockOk (b : OverflowBlock) : Bool :=
  decide (1 ≤ b.count.toNat ∧ b.count.toNat ≤ 60) && b.reserved == 0 && (b.refs.drop b.count.toNat).all (· == 0)
    && blockAddrOk b.next.toNat && b.next.toNat % 64 == 0

/-- The outcome of reading a chain: the references of well-formed blocks, a broken chain, a host block whose translation is
missing (with the request that has left), or too few blocks supplied. -/
inductive ChainRead where
  | refs (l : List Word)
  | broken
  | wait (s : State)
  | short

/-- Reads a chain from its block address: device blocks from device memory, host blocks as the surroundings bring them. -/
def readChain (s : State) (ctx r : Nat) : Nat → Nat → List OverflowBlock → List Word → ChainRead
  | 0, a, _, acc => if a = 0 then .refs acc else .broken
  | n + 1, a, bs, acc =>
    if a = 0 then .refs acc
    else if isHostAddr a then
      match s.translated ctx (iovaOf a) 256 false 0 r with
      | some t => .wait t
      | none =>
        match bs with
        | [] => .short
        | b :: rest => if blockOk b then readChain s ctx r n b.next.toNat rest (acc ++ b.refs.take b.count.toNat) else .broken
    else
      let b := overflowOf (s.dev (devOf a) 256)
      if blockOk b then readChain s ctx r n b.next.toNat bs (acc ++ b.refs.take b.count.toNat) else .broken

/-! ### Predecessors (R98, R99, R118) -/

/-- How a reference resolves: satisfied, held, or a node. -/
inductive RefTo where
  | done
  | hold
  | node (n : Nat)
  deriving DecidableEq, Repr

/-- The node of a ring's sequence number. -/
def State.nodeOf (s : State) (r seq : Nat) : Option Nat := (s.dv.nodes.find? fun p => p.2.ring = r && p.2.seq = seq).map (·.1)

/-- Accepted-through of a ring: NEXT_SEQ − 1 while it is DISABLED. -/
def Ring.accepted (g : Ring) : Nat := (if g.enabled then g.fetch else g.nextSeq) - 1

/-- Resolves one reference. -/
def State.resolve (s : State) (r seq : Nat) (ref : Word) : RefTo :=
  let q := s.refRing r ref
  let g := s.ring q
  let a := if q = r then seq - 1 else g.accepted
  let e := refOffset a ref
  if e > 0 then .hold
  else if e ≤ -(a : Int) ∨ -e ≥ ((2 ^ g.sizeLog2 : Nat) : Int) then .done
  else
    match s.nodeOf q (((a : Int) + e).toNat) with
    | some n => .node n
    | none => .done

/-- Successor entries that a list of references adds to a node. -/
def timesNamed (l : List Nat) (n : Nat) : Nat := (l.filter (· = n)).length

/-- The predecessors of a command that are in node memory: none while a reference is held, or while one would give a live
predecessor more than 4,096 successors. -/
def State.predNodes (s : State) (r : Nat) (c : Cmd) (chain : List Word) : Option (List Nat) :=
  let rs := ((c.pred.toList.take c.npred) ++ chain).map fun w => s.resolve r c.seq.toNat w
  if rs.contains .hold then none
  else
    let ns := rs.filterMap fun x => match x with
      | .node n => some n
      | _ => none
    if ns.eraseDups.any fun n =>
      match s.node n with
      | some d => d.live && decide (4096 < d.succs.length + timesNamed ns n)
      | none => false
    then none else some ns

/-! ### Host ranges of a command (R89) -/

/-- STRIDE of a registered table. -/
def State.tableStride (s : State) (t : Nat) : Nat := ((Map.look s.mem.tables t).map (·.stride)).getD 0

/-- Bytes that a COPY writes (R266). -/
def copyOut (c : Cmd) : Nat := c.wide 4 / copyWidth (bits (c.slot 6) 0 8) * copyWidth (bits (c.slot 6) 8 8)

/-- The host ranges of a command: address, length, write. -/
def State.hostRanges (s : State) (c : Cmd) : List (Nat × Nat × Bool) :=
  let l :=
    if c.opcode = opCopy then [(c.wide 0, c.wide 4, false), (c.wide 2, copyOut c, true)]
    else if c.opcode = opUpdate then
      [(c.wide 2, 8 * c.slot 1, false), (c.wide 4, c.slot 1 * s.tableStride (c.slot 0), false)]
    else []
  (l.filter fun x => isHostAddr x.1).map fun x => (iovaOf x.1, x.2.1, x.2.2)

/-- Every range of a list is translated; otherwise the request for the first missing page has left. -/
def State.rangesTranslated (s : State) (ctx : Nat) (l : List (Nat × Nat × Bool)) (purpose who : Nat) : Option State :=
  l.foldl (fun acc x =>
    match acc with
    | some t => some t
    | none => s.translated ctx x.1 x.2.1 x.2.2 purpose who) none

/-! ### Credits (R138–R140, R143) -/

/-- Edge blocks that a list of predecessors asks for in a half. -/
def State.edgeNeed (s : State) (ns : List Nat) (h : Nat) : Nat :=
  ns.eraseDups.foldl (fun k n =>
    match s.node n with
    | some d =>
      if d.live ∧ halfOfNode n = h then
        k + (ceilDiv (d.succs.length + timesNamed ns n) 16 - ceilDiv d.succs.length 16)
      else k
    | none => k) 0

/-- The first resource of step 5 that is missing (R140); 0 when none is. -/
def State.creditCause (s : State) (r : Nat) (ns : List Nat) : Nat :=
  let c := (s.ring r).ctx
  let x := s.context c
  let need (h : Nat) : Nat := s.edgeNeed ns h
  if (s.freeNode (s.homeHalf r)).isNone then slNodeFull
  else if x.nodeQuota ≤ s.nodesHeld c then slQuota
  else if [0, 1].any (fun h => decide (need h ≠ 0 ∧ 65536 < s.edgeBlocksUsed h + need h)) then slEdgeFull
  else if need 0 + need 1 ≠ 0 ∧ x.edgeQuota < s.edgesHeld c + 16 * (need 0 + need 1) then slQuota
  else 0

/-- The rings of a context that are STALLED for QUOTA while every node the context holds is RETAINED (R143). -/
def State.deadRings (s : State) (c : Nat) : List Nat :=
  if (s.nodesOfCtx c).all fun p => p.2.state = 6 then
    (s.ringsOf c).filter fun r => s.ringState r = 3 && (s.ring r).stall = slQuota
  else []

/-- Sets DEAD_STALL of a context and raises the fault interrupt of rings. -/
def State.setDeadStall (s : State) (c : Nat) (rs : List Nat) : State :=
  let s1 := s.updCtx c fun x => { x with deadStall := true, deadStallEvents := x.deadStallEvents + 1 }
  (rs.filter isHostRing).foldl (fun t r => t.raiseFault r stOverQuota) s1

/-- After a change from `s0`: DEAD_STALL for every ring for which its condition began to hold. -/
def State.checkDeadStall (s0 s : State) : State :=
  s.ctxs.foldl (fun t p =>
    let new := (s.deadRings p.1).filter fun r => !(s0.deadRings p.1).contains r
    if new.isEmpty then t else t.setDeadStall p.1 new) s

/-! ### Acceptance (R86, R88, R101, R116, R119, R159) -/

/-- A node of the home half is taken. -/
def State.takeNode (s : State) (n : Nat) (d : Node) : State := s.setNode n d

/-- Retained failures of a ring that are out of reach are freed (R101, R114). -/
def State.freeRetained (s : State) (r : Nat) : State :=
  let g := s.ring r
  { s with dv := { s.dv with nodes := s.dv.nodes.filter fun p =>
      !(p.2.ring = r && p.2.state = 6 && decide (p.2.seq + 2 ^ g.sizeLog2 ≤ g.accepted)) } }

/-- The acceptance of the sequence number at the fetch pointer is recorded: in the Tally, or on chip for a device-side ring. -/
def State.recordAcceptance (s : State) (r : Nat) : State :=
  let g := s.ring r
  let s1 := s.updRing r fun x => { x with fetch := g.fetch + 1 }
  let s2 := if isHostRing r then (s1.tallyEntry r).tallyWrite g.ctx (s.homeHalf r) (entryOff r) (u64 g.fetch) else s1
  (s2.count unRingEngine (s.homeHalf r) 0x01 1).freeRetained r

/-- The rings of a context other than one, with their accepted-through, that hold an earlier command not yet complete. -/
def State.fenceUnits (s : State) (r seq : Nat) (context : Bool) : List (Nat × Nat) :=
  let own := if s.earlierDone r seq then [] else [(r, seq - 1)]
  let others := if context then
      ((s.ringsOf (s.ring r).ctx).filter fun q => q ≠ r && (s.ring q).enabled && !s.earlierDone q (s.ring q).fetch).map
        fun q => (q, (s.ring q).accepted)
    else []
  own ++ others

/-- A command that BARRIER or a reference makes depend on a completed failure fails at once (R98, R104). -/
def State.failsAtOnce (s : State) (r : Nat) (c : Cmd) (ns : List Nat) : Bool :=
  let failed (d : Node) : Bool := !d.live && d.status != stOk
  c.opcode != opFence &&
    ((ns.any fun n => match s.node n with
        | some d => failed d
        | none => false)
      || (c.barrier && (s.nodesOfRing r).any fun p => failed p.2 && decide (p.2.seq < c.seq.toNat)))

/-- Steps 5 and 6 for a command whose credits are free: the node and its edges, and the acceptance. -/
def State.acceptNode (s : State) (r : Nat) (c : Cmd) (ns : List Nat) (n : Nat) : State :=
  let g := s.ring r
  let seq := c.seq.toNat
  let fails := s.failsAtOnce r c ns
  let liveNs := if fails then [] else ns.filter fun m => match s.node m with
    | some d => d.live
    | none => false
  let d0 := Node.fresh r g.ctx seq c
  let d := { d0 with
    units := liveNs.length
    barrier := c.barrier && !fails && !s.earlierDone r seq
    fenceOn := if c.opcode = opFence then s.fenceUnits r seq (bit (c.slot 0) 0) else []
    accepted := true
    acceptedAt := s.now
    acceptOrder := s.dv.nextOrder
    grid := if c.opcode = opLaunch then c.slot 10 else 0 }
  let s1 := liveNs.foldl (fun t m => t.updNode m fun x =>
    { x with succs := x.succs ++ [Edge.mk n (halfOfNode m ≠ halfOfNode n) s.dv.nextOrder] }) s
  let s2 := s1.setNode n d
  let s3 := ({ s2 with dv := { s2.dv with nextOrder := s2.dv.nextOrder + 1 } }).recordAcceptance r
  if fails then s3.complete n stPredFailed 0 else s3.tryLeave n

/-- A node placed directly in DONE for a skipped sequence number (R86, R108, R114, R162). -/
def State.acceptSkipped (s : State) (r cause n : Nat) : State :=
  let g := s.ring r
  let st := if cause = fcSeqGap then stSeqGap else stFaulted
  let d0 := Node.fresh r g.ctx g.fetch { Cmd.blank with seq := BitVec.ofNat 64 g.fetch }
  let d := { d0 with
    state := 5
    status := st
    detail := if cause = fcSeqGap then 0 else cause
    endTime := s.now
    accepted := true
    acceptedAt := s.now
    acceptOrder := s.dv.nextOrder
    bare := true }
  let s1 := s.setNode n d
  let s2 := ({ s1 with dv := { s1.dv with nextOrder := s1.dv.nextOrder + 1 } }).recordAcceptance r
  let s3 := s2.schedRecord 0x26 n d (s2.homeSector r) 0 st
  ((s3.trigger 2 (ctxField g.ctx r) st).updRing r fun x => { x with skipping := none }).endAborts

/-- Acceptance may go on: the ring is enabled and neither faulted nor draining, no command of it waits for a page, its backlog has room, and the Tally can be
written (R105, R181). -/
def State.mayAccept (s : State) (r : Nat) : Bool :=
  let g := s.ring r
  g.enabled && g.fault.isNone && !g.draining && !g.aborting && decide (g.backlog.length < 256) && !s.pageStalled r
    && (!isHostRing r || (s.context g.ctx).tallyBlocked.isNone)

/-- The field at an offset of the Tally entry of a host ring can be written; a request for its translation has left otherwise. -/
def State.tallyMissing (s : State) (r k : Nat) : Option State :=
  if isHostRing r then s.tallyOpen (s.ring r).ctx (entryOff r + k) 8 else none

/-- A fault of a command that was never accepted. -/
def State.commandFault (s : State) (r cause : Nat) (address : BitVec 64) (c : Option Cmd) : State :=
  (s.endStall r).ringFault r ⟨cause, (s.ring r).fetch, s.now, address, none, List.replicate 24 0, c, []⟩

/-- The command at the fetch pointer is held at a step. -/
def State.holdAt (s : State) (r : Nat) (c : Cmd) (step since : Nat) (chain : Option (List Word)) : State :=
  s.updRing r fun g => { g with held := some ⟨c, step, since, chain⟩ }

/-- A stall that a page request does not explain has ended at step 4. -/
def State.endOtherStall (s : State) (r : Nat) : State := if (s.ring r).stall = slPageRequest then s else s.endStall r

/-- Steps 4 to 6 for a command whose references are resolved. The Bool is true when it was accepted. A stall whose reason has
ended no longer shows (R106). -/
def State.acceptRest (s : State) (r : Nat) (x : HeldCommand) (chain : List Word) (ns : List Nat) : State × Bool :=
  let hold (t : State) (step : Nat) : State := t.holdAt r x.cmd step x.since (some chain)
  match s.rangesTranslated (s.ring r).ctx (s.hostRanges x.cmd) 0 r with
  | some t => (hold (t.endOtherStall r) 4, false)
  | none =>
    let cause := s.creditCause r ns
    if cause ≠ 0 then ((hold s 5).stallRing r cause, false)
    else
      match s.tallyMissing r 0, s.freeNode (s.homeHalf r) with
      | some t, _ => (hold (t.endStall r) 6, false)
      | none, some n =>
        ((((s.endStall r).updRing r fun g => { g with held := none })).acceptNode r x.cmd ns n, true)
      | none, none => (hold s 5, false)

/-- The command at the fetch pointer goes as far through the steps of R88 as it can. The Bool is true when it was accepted. -/
def State.acceptOne (s : State) (r : Nat) : State × Bool :=
  let g := s.ring r
  match g.skipping with
  | some cause =>
    if !g.enabled || decide (g.backlog.length ≥ 256) then (s, false)
    else
      let why := s.creditCause r []
      if why ≠ 0 then (s.stallRing r why, false)
      else
        match s.tallyMissing r 0, s.freeNode (s.homeHalf r) with
        | some t, _ => (t.endStall r, false)
        | none, some n => ((s.endStall r).acceptSkipped r cause n, true)
        | none, none => (s, false)
  | none =>
    if !s.mayAccept r then (s, false)
    else
      match g.held with
      | some x =>
        match x.chain with
        | none => (s, false)
        | some ch =>
          match s.predNodes r x.cmd ch with
          | none =>
            ((if g.stall = slRefWait then s else (s.holdAt r x.cmd 3 s.now x.chain).stallRing r slRefWait), false)
          | some ns => s.acceptRest r x ch ns
      | none =>
        if g.reread then (s, false)
        else
          match g.fetched with
          | [] => (s.endStall r, false)
          | c :: rest =>
            let s1 := s.updRing r fun y => { y with fetched := rest }
            if c.seq.toNat ≠ g.fetch then (s1.commandFault r fcSeqGap 0 (some c), !isHostRing r)
            else if !s.formOk r c then (s1.commandFault r fcMalformed 0 (some c), !isHostRing r)
            else if c.overflow ≠ 0 then ((s1.endStall r).holdAt r c 3 s.now none, false)
            else
              match s1.predNodes r c [] with
              | none => ((s1.holdAt r c 3 s.now (some [])).stallRing r slRefWait, false)
              | some ns => s1.acceptRest r ⟨c, 4, s.now, some []⟩ [] ns

/-- Accepts the commands of a list of rings while any of them goes on. -/
def acceptRounds : Nat → State → List Nat → State
  | 0, s, _ => s
  | n + 1, s, rs =>
    let (t, any) := rs.foldl (fun (p : State × Bool) r =>
      let (u, b) := p.1.acceptOne r
      (u, p.2 || b)) (s, false)
    if any then acceptRounds n t rs else t

/-- Commands of a context that have been read and not accepted. -/
def State.readAhead (s : State) (c : Nat) : Nat :=
  (s.ringsOf c).foldl (fun k r => k + (s.ring r).fetched.length + 2) 0

/-! ### Reading of slots (R78, R87) -/

/-- Slots of one command buffer. -/
def Ring.slotsPerBuffer (g : Ring) : Nat := 2 ^ g.sizeLog2 / g.buffers.length

/-- The block address of the slot of a sequence number. -/
def Ring.slotAddr (g : Ring) (seq : Nat) : Nat :=
  let i := seq % 2 ^ g.sizeLog2
  let m := g.slotsPerBuffer
  (g.buffers.getD (i / m) 0).toNat + i % m * 128

/-- The next sequence number to read. -/
def Ring.nextRead (g : Ring) : Nat :=
  if g.reread then g.fetch else g.fetch + b2n g.held.isSome + g.fetched.length

/-- The slots in host memory from a sequence number on can be read; otherwise the request for the first missing page has
left. -/
def State.slotsTranslated (s : State) (r seq k : Nat) : Option State :=
  let g := s.ring r
  (List.range k).foldl (fun acc j =>
    match acc with
    | some t => some t
    | none =>
      let a := g.slotAddr (seq + j)
      if isHostAddr a then s.translated g.ctx (iovaOf a) 128 false 0 r else none) none

/-- The request for the first missing page of the slots that the ring reads next leaves. -/
def State.seekSlots (s : State) (r : Nat) : State :=
  let g := s.ring r
  if s.mayAccept r then (s.slotsTranslated r g.nextRead (min 16 (g.tail - g.nextRead))).getD s else s

/-- A command buffer of host memory is translated as a whole; otherwise the request for its first missing page has left. -/
def State.bufferTranslated (s : State) (r i : Nat) : Option State :=
  let g := s.ring r
  let a := (g.buffers.getD (i % g.buffers.length) 0).toNat
  if isHostAddr a then s.translated g.ctx (iovaOf a) (g.slotsPerBuffer * 128) false 0 r else none

/-- When the fetch pointer passes three quarters of a buffer, from `before`, the next buffer is translated (R87): the one it is
in, where it has gone on into the next. -/
def State.pretranslate (s : State) (r before : Nat) : State :=
  let g := s.ring r
  let i := g.fetch % 2 ^ g.sizeLog2
  let m := g.slotsPerBuffer
  if !g.enabled then s
  else if 3 * m ≤ 4 * (i % m) then (s.bufferTranslated r (i / m + 1)).getD s
  else if before / m ≠ g.fetch / m then (s.bufferTranslated r (i / m)).getD s
  else s

/-! ### Acceptance of several rings (R99, R139, R143) -/

/-- The stall is for want of a node, an edge block or quota. -/
def creditStall (c : Nat) : Bool := c == slNodeFull || c == slEdgeFull || c == slQuota

/-- The rings of a ring's home half that stalled on credits before it, in the order in which they stalled (R139). -/
def State.stalledBefore (s : State) (r : Nat) : List Nat :=
  let h := s.homeHalf r
  (sortBy (fun q : Nat => (s.ring q).stallOrder)
    ((s.rings.filter fun p => p.2.enabled && creditStall p.2.stall && s.homeHalf p.1 = h).map (·.1))).takeWhile (· ≠ r)

/-- The ring goes on with acceptance: after the rings that stalled on credits before it, and with the rings of its context whose
references it may have satisfied (R99). Buffers that the fetch pointers near are translated, and DEAD_STALL is checked. -/
def State.pumpRing (s : State) (r : Nat) : State :=
  let c := (s.ring r).ctx
  let waiting := (s.ringsOf c).filter fun q => q ≠ r && (s.ring q).stall = slRefWait
  let rs := s.stalledBefore r ++ r :: waiting
  let s1 := acceptRounds (s.readAhead c + 1) s rs
  State.checkDeadStall s (rs.foldl (fun t q => t.pretranslate q (s.ring q).fetch) s1)

end Sys2Proof.Machine
end

