-- ==== Sys2Proof/Machine/Rings.lean ====
section
/-! DEFINITION. The rows of the ring engine: RING_CONTROL, doorbells, fetch blocks, overflow chains, holds and stalls (R75–R110,
R139, R330, R346, R531). -/
namespace Sys2Proof.Machine

/-! ### ENABLE and DISABLE (R78–R80, R161, R172) -/

/-- Steered rings that are enabled. -/
def State.steeredRings (s : State) : Nat :=
  (s.rings.filter fun p => isHostRing p.1 && p.2.enabled && p.2.mode.getLsbD 1).length

/-- Buffers and size meet R78. -/
def Ring.buffersOk (g : Ring) : Bool :=
  [1, 2, 4, 8, 16].contains g.buffers.length && decide (32 * g.buffers.length ≤ 2 ^ g.sizeLog2)
    && g.buffers.all fun a => blockAddrOk a.toNat && a.toNat % 4096 == 0

/-- The completion ring is configured (R161). -/
def State.completionOk (s : State) (g : Ring) : Bool :=
  let b := g.complBase.toNat
  isHostAddr b && b % min 4096 (32 * 2 ^ g.complSizeLog2) == 0 && decide (g.sizeLog2 ≤ g.complSizeLog2)
    && (s.context g.ctx).tallyBase != 0

/-- A ring right after an ENABLE with its first sequence number. -/
def Ring.start (g : Ring) (seq : Nat) : Ring :=
  { g with
    enabled := true
    draining := false
    stall := 0
    fault := none
    keptFaults := []
    aborting := false
    nextSeq := seq
    fetch := seq
    tail := seq
    reread := false
    fetched := []
    held := none
    skipping := none
    completedThrough := seq - 1
    handedThrough := seq - 1
    blocked := false
    backlog := [] }

/-- The Tally entry of a host ring is written, or stays owed while the Tally cannot be written. A ring enabled while its
context's Tally is blocked is blocked with it: its own write fails at the entry's address (R181). -/
def State.settleTally (s : State) (r : Nat) : State :=
  if isHostRing r && (s.ring r).enabled && (s.context (s.ring r).ctx).tallyBlocked.isSome then
    ((s.updRing r fun g => { g with blockedAt := hostAddr (s.tallyAddr (s.ring r).ctx (entryOff r)) }).event unRingEngine
      (s.homeHalf r) 0x04 0 (s.ringField r)).raiseFault r stBlocked
  else
  match s.tallyMissing r 0 with
  | none => if isHostRing r && (s.ring r).enabled && (s.context (s.ring r).ctx).tallyBlocked.isNone then s.tallyEntry r else s
  | some t => t

/-- ENABLE of a host ring. -/
def State.enableOp (s : State) (r : Nat) : Except Word State := do
  let c := r / 8
  refuse (r ≥ 8192) abRange
  refuse (s.ctx c).isNone abState
  refuse (s.dv.resetting == some c) abState
  let g := { s.ring r with ctx := c }
  refuse g.enabled abState
  refuse (!g.buffersOk || !s.completionOk g) abState
  refuse (g.mode.getLsbD 1 && decide (16 ≤ s.steeredRings)) abState
  return (s.setRing r { g.start g.nextSeq with entryOwed := true }).settleTally r

/-- RING_ENABLE (R80). -/
def execRingEnable (ring : Nat) (s : State) : Host.Outcome State Fault Refusal := .next (s.rootRow (.ringEnable ring) (s.enableOp ring))

/-- A DRAINING ring with nothing left to retire becomes DISABLED (R106). Its tail falls back to the fetch pointer, so a doorbell
latched while DRAINING is to be repeated after the next ENABLE (DESIGN CHOICE, log 144). -/
def State.finishDrain (s : State) (r : Nat) : State :=
  let g := s.ring r
  if g.enabled && g.draining && g.fault.isNone && g.skipping.isNone && g.completedThrough + 1 == g.fetch && g.backlog.isEmpty then
    s.setRing r { g with
      enabled := false
      draining := false
      stall := 0
      nextSeq := g.fetch
      tail := g.fetch
      fetched := []
      held := none }
  else s

/-- DISABLE: fetch and acceptance end; what was read and not accepted is read again after the next ENABLE. -/
def State.disableOp (s : State) (r : Nat) : Except Word State := do
  let g := s.ring r
  let st := s.ringState r
  refuse (!(st == 1 || st == 2 || st == 3) || g.aborting) abState
  return (s.setRing r { g with
    draining := true
    stall := if g.skipping.isSome then g.stall else 0
    fetched := []
    held := none
    reread := false }).finishDrain r

/-- RING_DISABLE (R80). -/
def execRingDisable (ring : Nat) (s : State) : Host.Outcome State Fault Refusal := .next (s.rootRow (.ringDisable ring) (s.disableOp ring))

/-! ### Faults resumed and aborted (R107, R108, R531) -/

/-- The pending fault ends; a kept one takes effect, and the tasks of the ring go on. A DRAINING ring with nothing left to retire
becomes DISABLED. -/
def State.popFault (s : State) (r : Nat) : State :=
  let g := s.ring r
  let s1 := s.event unRingEngine (s.homeHalf r) 0x03 ((g.fault.map (·.cause)).getD 0) (s.ringField r)
  let s2 := match g.keptFaults with
    | [] => s1.setRing r { g with fault := none }
    | f :: rest => (s1.setRing r { g with fault := none, keptFaults := rest }).enterFault r f
  (s2.rejoin (s.homeHalf r)).finishDrain r

/-- What is in flight of a SIGNAL or WAIT that is stopped or issued again is withdrawn. -/
def State.withdrawOps (s : State) (n : Nat) : State :=
  let t := s.leaveWait n
  { t with ecl := { t.ecl with signals := t.ecl.signals.filter fun (m : RemoteSignal) => !(m.node == n && m.kind == 0 && !m.sent) } }

/-- RESUME_RETRY of an accepted command. -/
def State.retryNode (s : State) (n cause : Nat) (d : Node) : State :=
  if d.isLaunch && d.state == 4 then (s.startRecall n true).endRecalls
  else if cause = fcHang && d.live then
    let s1 := if d.cmd.opcode = opRoute then s.cancelRoute n
      else if d.cmd.opcode = opHostStep then s.updRing d.ring fun g => if g.stepSeq = d.seq then { g with stepSeq := 0 } else g
      else s.withdrawOps n
    s1.updNode n fun x => { x with result := none, signalState := 0, dispatchedAt := some s.now }
  else s

/-- RESUME_RETRY. -/
def State.retryOp (s : State) (r : Nat) : Except Word State := do
  let g := s.ring r
  refuse (!isHostRing r || s.ringState r != 4 || g.aborting) abState
  match g.fault with
  | none => .error abState
  | some f =>
    refuse (f.cause == fcNodeLost || f.cause == fcQueueLost) abState
    match f.node with
    | some n =>
      let s1 := s.popFault r
      return (match s1.node n with
        | some d => s1.retryNode n f.cause d
        | none => s1).pumpRing r
    | none =>
      let s1 :=
        if f.cause = fcSeqGap ∨ f.cause = fcMalformed then
          s.updRing r fun y => { y with reread := !y.fetched.isEmpty, held := none }
        else if f.cause = fcRefHold then
          s.updRing r fun y => { y with held := y.held.map fun x => { x with since := s.now } }
        else s
      return (s1.popFault r).pumpRing r

/-- RESUME_RETRY (R108). -/
def execResumeRetry (ring : Nat) (s : State) : Host.Outcome State Fault Refusal := .next (s.rootRow (.resumeRetry ring) (s.retryOp ring))

/-- An executor stops a ROUTE or a WAIT (R531). -/
def State.stopExecutor (n : Nat) (s : State) : State :=
  match s.node n with
  | some d => if d.cmd.opcode = opWait then s.leaveWait n else s.cancelRoute n
  | none => s

/-- The command of a fault that was never accepted is to be completed through a node placed in DONE. -/
def Ring.skipFault (g : Ring) (cause : Nat) : Ring := { g with skipping := some cause, held := none, reread := false }

/-- RESUME_SKIP. -/
def State.skipOp (s : State) (r : Nat) : Except Word State := do
  let g := s.ring r
  refuse (!isHostRing r || s.ringState r != 4 || g.aborting) abState
  match g.fault with
  | none => .error abState
  | some f =>
    match f.node with
    | some n =>
      let s1 := s.popFault r
      return (match s1.node n with
        | some d => s1.skipNode State.stopExecutor n f.cause d
        | none => s1).pumpRing r
    | none =>
      if unacceptedCause f.cause then
        return ((s.updRing r fun y => y.skipFault f.cause).popFault r).pumpRing r
      else return (s.popFault r).pumpRing r

/-- RESUME_SKIP (R108). -/
def execResumeSkip (ring : Nat) (s : State) : Host.Outcome State Fault Refusal := .next (s.rootRow (.resumeSkip ring) (s.skipOp ring))

/-- ABORT: the faulting command as RESUME_SKIP treats it, then every other accepted command of the ring. -/
def State.abortOp (s : State) (r : Nat) : Except Word State := do
  let g := s.ring r
  refuse (!isHostRing r || s.ringState r != 4 || g.aborting) abState
  match g.fault with
  | none => .error abState
  | some f =>
    let s1 := if f.node.isNone && unacceptedCause f.cause then s.updRing r fun y => y.skipFault f.cause else s
    return ((s1.abortRing State.stopExecutor r).finishDrain r).pumpRing r

/-- ABORT (R108, R531). -/
def execRingAbort (ring : Nat) (s : State) : Host.Outcome State Fault Refusal := .next (s.rootRow (.ringAbort ring) (s.abortOp ring))

/-! ### Doorbells and fetch blocks (R83–R88) -/

/-- A doorbell value is latched, stale or refused; a ring that has slots to read asks for the translation of its buffer. -/
def State.doorbellOp (s : State) (r t : Nat) : State :=
  let g := s.ring r
  if !isHostRing r || !g.enabled || decide (t ≤ g.tail) then s
  else if g.completedThrough + 2 ^ g.sizeLog2 + 1 < t then
    s.updRing r fun y => { y with overrun := true, overrunEvents := y.overrunEvents + 1 }
  else
    let s1 := s.updRing r fun y => { y with tail := t }
    s1.seekSlots r

/-- DOORBELL (R83). -/
def execDoorbell (ring : Nat) (tail : BitVec 64) (s : State) : Host.Outcome State Fault Refusal :=
  .next (s.doorbellOp ring tail.toNat)

/-- The commands of the slots from a sequence number upward: those in device memory are read there. -/
def State.slotCommands (s : State) (r seq : Nat) (cmds : List Cmd) : List Cmd :=
  let g := s.ring r
  cmds.zipIdx.map fun p =>
    let a := g.slotAddr (seq + p.2)
    if isHostAddr a then p.1 else Cmd.ofBytes (s.dev (devOf a) 128)

/-- A fetch block arrives: its commands join those read, and acceptance goes on. An uncorrectable error, in a block of the first slot,
faults the ring when no command waits before the block; otherwise the block is read again later. -/
def State.fetchOp (s0 : State) (r : Nat) (cmds : List Cmd) (uncorrectable : Bool) : State :=
  let g := s0.ring r
  let k := cmds.length
  let at' := g.nextRead
  if !s0.mayAccept r || g.skipping.isSome || decide (k = 0 ∨ 16 < k) || decide (g.tail < at' + k) || (g.reread && decide (k ≠ 1)) then s0
  else
    match s0.slotsTranslated r at' k with
    | some t => t
    | none =>
      let first := portRange (g.slotAddr at') 128
      let bad := uncorrectable && !first.isEmpty
      let s := (((List.range k).flatMap fun j => portRange (g.slotAddr (at' + j)) 128).foldl (fun t x =>
        t.portReads (s0.homeHalf r) x.1 x.2) s0).logLost (.ringEngine r) (s0.lostIn bad false first)
      if bad then
        (if (g.held.isNone && (g.reread || g.fetched.isEmpty)) then
          (s.commandFault r fcCommandRead (BitVec.ofNat 64 (64 * (s0.lostIn bad false first).headD 0)) none).pumpRing r
        else s)
      else
        let cs := s.slotCommands r at' cmds
        let s1 := s.updRing r fun y =>
          { y with fetched := if g.reread then cs ++ y.fetched else y.fetched ++ cs, reread := false }
        s1.pumpRing r

/-- COMMAND_FETCH (R88). -/
def execCommandFetch (ring : Nat) (cmds : List Cmd) (uncorrectable : Bool) (s : State) : Host.Outcome State Fault Refusal :=
  .next (s.fetchOp ring cmds uncorrectable)

/-- The overflow chain of the held command is read. -/
def State.chainOp (s : State) (r : Nat) (blocks : List OverflowBlock) (uncorrectable : Bool) : State :=
  let g := s.ring r
  match g.held with
  | none => s
  | some x =>
    let first := portRange x.cmd.overflow.toNat 256
    let lost := s.lostIn uncorrectable false first
    if !s.mayAccept r || x.chain.isSome then s
    else if !lost.isEmpty then
      ((s.readsFor (s.homeHalf r) (.ringEngine r) true first).commandFault r fcCommandRead (BitVec.ofNat 64 (64 * lost.headD 0))
        (some x.cmd)).pumpRing r
    else
      let bad : State := ((s.updRing r fun y => { y with held := none }).commandFault r fcMalformed 0 (some x.cmd)).pumpRing r
      match readChain s g.ctx r 16 x.cmd.overflow.toNat blocks [] with
      | .wait t => t
      | .short => s
      | .broken => bad
      | .refs l =>
        if l.all fun w => s.refOk r x.cmd.seq.toNat w then
          ((s.portReads (s.homeHalf r) (devOf x.cmd.overflow.toNat) (if first.isEmpty then 0 else 256)).holdAt r x.cmd 3 s.now
            (some l)).pumpRing r
        else bad

/-- OVERFLOW_CHAIN_READ (R100). -/
def execOverflowChainRead (ring : Nat) (blocks : List OverflowBlock) (uncorrectable : Bool) (s : State) :
    Host.Outcome State Fault Refusal := .next (s.chainOp ring blocks uncorrectable)

/-- REF_HOLD_LIMIT has passed: a hold that still lasts faults its ring (R99). -/
def State.refHoldOp (s : State) (r : Nat) : State :=
  let s1 := s.pumpRing r
  let g := s1.ring r
  match g.held with
  | some x =>
    if g.enabled && g.stall == slRefWait && g.fault.isNone && !g.draining && !s1.timersHeld (s1.homeHalf r) then
      (s1.commandFault r fcRefHold 0 (some x.cmd)).pumpRing r
    else s1
  | none => s1

/-- REF_HOLD_TIMEOUT (R99). -/
def execRefHoldTimeout (ring : Nat) (s : State) : Host.Outcome State Fault Refusal := .next (s.refHoldOp ring)

/-- Freed credits let the stalled rings of a half go on, in the order in which they stalled; so do its other rings (R139). -/
def State.resumeStalled (s : State) (h : Nat) : State :=
  let rs := (s.rings.filter fun p => p.2.enabled && s.homeHalf p.1 = h).map (·.1)
  let stalled := sortBy (fun r : Nat => (s.ring r).stallOrder) (rs.filter fun r => (s.ring r).stall ≠ 0)
  let others := rs.filter fun r => (s.ring r).stall = 0
  (stalled ++ others).foldl (fun t r => t.pumpRing r) s

/-- RING_STALL_RESUME (R139). -/
def execRingStallResume (half : Nat) (s : State) : Host.Outcome State Fault Refusal := .next (s.resumeStalled half)

/-! ### Device-side rings (R330, R346) -/

/-- ENABLE of a device-side ring: its ranges lie on a port, and its sequence numbers start at 1. A LAUNCH that firmware wrote
before and that was never accepted is written again. -/
def State.deviceEnableOp (s : State) (h d : Nat) : Except Word State := do
  let r := 8192 + 32 * h + d
  let g := s.ring r
  refuse (decide (2 ≤ h) || decide (32 ≤ d)) abRange
  refuse g.enabled abState
  refuse ((s.ctx g.ctx).isNone || s.dv.resetting == some g.ctx) abState
  let b := (g.buffers.headD 0).toNat
  refuse (!(b % 4096 == 0 && g.complBase.toNat % 4096 == 0 && s.onPort b (128 * 2 ^ g.sizeLog2)
    && s.onPort g.complBase.toNat (32 * 2 ^ g.sizeLog2))) abState
  let s1 := s.setRing r { g.start 1 with complSizeLog2 := g.sizeLog2 }
  let s2 := { s1 with exp := { s1.exp with
    portions := s1.exp.portions.map fun (p : Portion) => match p.launch with
      | some (q, _) => if q = r then { p with launch := none, coldSlot := none } else p
      | none => p
    coldSlots := s1.exp.coldSlots.filter fun (x : ColdSlot) => !(x.ring == r && x.copyPending) } }
  return s2.launchPortions h

/-- DEVICE_SIDE_ENABLE (R346). -/
def execDeviceSideEnable (half d : Nat) (s : State) : Host.Outcome State Fault Refusal := .next (s.rootRow (.deviceSideEnable half d) (s.deviceEnableOp half d))

/-- DISABLE of a device-side ring. -/
def State.deviceDisableOp (s : State) (h d : Nat) : Except Word State := do
  refuse (decide (2 ≤ h) || decide (32 ≤ d)) abRange
  s.disableOp (8192 + 32 * h + d)

/-- DEVICE_SIDE_DISABLE (R346). -/
def execDeviceSideDisable (half d : Nat) (s : State) : Host.Outcome State Fault Refusal := .next (s.rootRow (.deviceSideDisable half d) (s.deviceDisableOp half d))

end Sys2Proof.Machine
end

