-- ==== Sys2Proof/Machine/DvorsorOps.lean ====
section
/-! DEFINITION. Selection, the dispatch check, grants, and the assignment of compartments to contexts (R102, R103, R122–R147,
R410, R449). -/
namespace Sys2Proof.Machine

/-! ### Lists (R122–R127) -/

/-- Order of ready lists and open sets: class, then deadline with 0 last, then acceptance (R127). -/
def readyKey (p : Nat × Node) : Nat :=
  (p.2.cmd.prio * 2 ^ 65 + (if p.2.cmd.deadline = 0 then 2 ^ 64 else p.2.cmd.deadline.toNat)) * 2 ^ 64 + p.2.acceptOrder

/-- The executor of an opcode: 0 movers, 1 gather, 2 epoch logic, 3 routing, 4 semaphores, 5 host port, 6 Dvorsor (R123). -/
def executorOf (op : Byte) : Nat :=
  if op = opCopy || op = opUpdate then 0
  else if op = opGather then 1
  else if op = opEpoch then 2
  else if op = opRoute then 3
  else if op = opSignal || op = opWait then 4
  else if op = opHostStep then 5
  else 6

/-- Entries of an executor's queue in a half; none is no limit. -/
def executorRoom (x : Nat) : Option Nat :=
  if x = 0 then some 256
  else if x = 1 then some 512
  else if x = 2 then some 64
  else if x = 3 then some 64
  else if x = 4 then some 4096
  else if x = 5 then some 64
  else none

/-- The executor of an opcode has a free entry in a half. -/
def State.executorFree (s : State) (h : Nat) (op : Byte) : Bool :=
  match executorRoom (executorOf op) with
  | some m =>
    decide ((s.dv.nodes.filter fun p => halfOfNode p.1 = h && p.2.state = 4 && !p.2.isLaunch
      && executorOf p.2.cmd.opcode = executorOf op).length < m)
  | none => true

/-- The context has a ring homed in the half that is not DISABLED, and its COMP_MAX there is not 0 (R103). -/
def State.canHold (s : State) (c h : Nat) : Bool :=
  ((s.ringsOf c).any fun r => (s.ring r).enabled && s.homeHalf r = h)
    && bits (s.context c).compMax.toNat (8 * h) 8 != 0

/-- The stand that a GATHER's OUT names. -/
def outStand (c : Cmd) : Nat := bits (c.slot 4) 19 10

/-- A GATHER waits for its compartment (R124). -/
def State.gatherWaits (s : State) (d : Node) : Bool :=
  let i := compOfStand (outStand d.cmd)
  d.cmd.opcode == opGather && (s.comp i).holder != some d.ctx && s.canHold d.ctx (halfOfComp i)

/-- A READY node may be selected in a sector (R122–R124, R132). A LAUNCH without room in the open set, or without a free landing,
is left out (R130; DESIGN CHOICE, log 157). -/
def State.selectable (s : State) (k n : Nat) (d : Node) : Bool :=
  d.state == 3 && halfOfNode n == halfOfSector k &&
    (if d.isLaunch then
      s.eligible n d k && decide (s.landingsOpen (halfOfNode n) < 256) && decide ((s.sector k).openSet.length < 64)
     else s.homeSector d.ring == k && s.ringAllows n d && s.executorFree (halfOfNode n) d.cmd.opcode && !s.gatherWaits d)

/-- Headroom of a context in a sector (R128). -/
def State.headroomOf (s : State) (c k : Nat) : Nat :=
  let ts := ((compsOfSector k).filter fun i => (s.comp i).holder = some c).flatMap fun i => (List.range 16).map fun j => 16 * i + j
  let value (t : Nat) : Nat :=
    match (s.stand t).headroomAt with
    | some at' => if s.now - at' ≤ 4000 then (s.stand t).headroom else 0
    | none => 0
  if ts.isEmpty then 0 else (ts.map value).sum / ts.length

/-- An urgent node (R128). -/
def State.urgent (s : State) (d : Node) : Bool :=
  let p := d.cmd.prio
  !s.set.energyAware.getLsbD p
    || (d.cmd.deadline != 0 && decide ((d.cmd.deadline.toNat : Int) - s.now ≤ ((s.set.slackThreshold.getD p 0 * 1000 : Nat) : Int)))
    || decide (s.set.deferLimit.getD p 0 * 1000 ≤ s.now - d.readyAt)

/-- A node that fits (R128). -/
def State.fits (s : State) (d : Node) (k : Nat) : Bool :=
  !d.isLaunch || d.cmd.energy == 0 || decide (s.set.energyNeed.getD d.cmd.energy 0 ≤ s.headroomOf d.ctx k)

/-- What a selection gives: the nodes passed over and the node chosen (R129). -/
def State.choose (s : State) (k : Nat) : Option (List (Nat × Node) × Nat × Node) :=
  let all := s.dv.nodes.filter fun p => s.selectable k p.1 p.2
  match (List.range 8).find? fun p => all.any fun x => x.2.cmd.prio = p with
  | none => none
  | some p =>
    let l := sortBy readyKey (all.filter fun x => x.2.cmd.prio = p)
    let front := l.take 16
    let good (x : Nat × Node) : Bool := s.urgent x.2 || s.fits x.2 k
    match front.find? good with
    | some x => some (front.takeWhile fun y => !good y, x.1, x.2)
    | none => l.head?.map fun x => ([], x.1, x.2)

/-! ### The dispatch check (R103) -/

/-- A table is registered to a context. -/
def Table.registeredTo (t : Table) (c : Nat) (gather : Bool) : Bool := t.owner == c || (gather && t.flags.getLsbD 1)

/-- The present state of the block refuses a command. -/
def State.rejects (s : State) (n : Nat) (d : Node) : Bool :=
  let op := d.cmd.opcode
  let c := d.ctx
  let tab := Map.look s.mem.tables (d.cmd.slot 0)
  let h := halfOfNode n
  if op = opLaunch then decide ((s.context c).kernelCount ≤ d.cmd.kernelId.toNat)
  else if op = opGather then
    (match tab with
      | some t => !t.registeredTo c true
      | none => true)
    || !s.canHold c (halfOfComp (compOfStand (outStand d.cmd)))
  else if op = opUpdate then
    (match tab with
      | some t => !t.registeredTo c false || !t.flags.getLsbD 0
      | none => true)
  else if op = opEpoch then
    (match tab with
      | some t => !t.registeredTo c false || !t.flags.getLsbD 0 || t.state != 1
      | none => true)
  else if op = opRoute then !(s.layer h (d.cmd.slot 0 % 256)).configured c
  else if op = opSignal || op = opWait then
    (match targetOf (d.cmd.wide 0) with
      | some (_, some dev) => (s.openFlow c dev).isNone
      | some (.shared i, none) => !s.boundTo i c
      | some (.core k _, none) => !s.holdsCore c k
      | none => true)
  else if op = opHostStep then !(s.ring d.ring).mode.getLsbD 1
  else false

/-! ### Dispatch (R131, R132, R477) -/

/-- The begin pair of a TRACE command, at its first dispatch. -/
def State.beginPair (s : State) (n : Nat) (d : Node) : State :=
  if d.cmd.traceFlag && d.firstDispatch.isNone then
    s.markPair (halfOfNode n) 1 2 (ctxField d.ctx d.ring) (d.seq % 2 ^ 32) 0 d.seq
  else s

/-- The first 8 shape words of a context; those at or beyond SHAPE_SIZE read 0 (R341). -/
def State.shapeWords (s : State) (c : Nat) : List Byte :=
  let x := s.context c
  ((List.range 8).map fun j => if 4 * j + 4 ≤ x.shapeSize then s.dev (x.shapeBase.toNat % 2 ^ 40 + 4 * j) 4 else u32 0).flatten

/-- The node is dispatched by a sector: a LAUNCH opens its landing and joins the open sets, another goes to its executor. -/
def State.dispatch (s : State) (k n : Nat) (d : Node) : State :=
  let step := d.cmd.opcode == opHostStep
  let base := (s.context d.ctx).shapeBase.toNat % 2 ^ 40
  let s1 := (if step then s.portReads (halfOfNode n) base 32 else s).beginPair n d
  let d1 := { d with
    stepShape := if step then s.shapeWords d.ctx else d.stepShape
    state := if d.isLaunch && d.grid == 0 then 3 else 4
    landing := d.isLaunch && d.grid != 0
    dispatchedAt := some s.now
    firstDispatch := some (d.firstDispatch.getD s.now)
    sector := some k
    dispatchOrder := s.dv.nextOrder }
  let s2 := s1.setNode n d1
  let s3 := { s2 with dv := { s2.dv with nextOrder := s2.dv.nextOrder + 1 } }
  if d.isLaunch && d.grid == 0 then s3.complete n stOk 0 else s3.joinOpenSets n

/-- A selection of a sector: the nodes passed over are deferred, and the chosen one is checked and dispatched. -/
def State.selectIn (s : State) (k : Nat) : State :=
  match s.choose k with
  | none => s
  | some (skipped, n, d) =>
    let s1 := skipped.foldl (fun t p =>
      let u := t.updNode p.1 fun x => { x with deferred := true }
      let v := u.updSector k fun x => { x with deferrals := x.deferrals + 1 }
      (v.count unSector k 0x02 1).schedRecord 0x23 p.1 p.2 k p.2.cmd.energy (s.headroomOf p.2.ctx k)) s
    let s2 := (s1.count unSector k 0x01 1).schedRecord 0x22 n d k d.cmd.energy
      (s.headroomOf d.ctx k + 256 * b2n (s.fits d k) + 512 * b2n (s.urgent d))
    if s.rejects n d then
      let s3 := (s2.schedRecord 0x24 n d k d.cmd.energy 0).event unSector k 0x03
        (if d.cmd.opcode = opGather then compOfStand (outStand d.cmd) else 0) (nodeIdent n d)
      (s3.updNode n fun x => { x with sector := some k }).complete n stStateReject 0
    else s2.dispatch k n d

/-! ### Grants (R133–R135) -/

/-- A requeued item may go to a core. -/
def ReqItem.for (x : ReqItem) (c : Nat) : Bool := !x.barred.contains c

/-- A task may give an item to a core of a sector. -/
def State.mayGrant (s : State) (k c n : Nat) (d : Node) : Bool :=
  let i := compOfCore c
  let m := bits (d.cmd.slot 14) 0 16
  d.state == 4 && !d.stopped && s.ringAllows n d && (s.comp i).holder == some d.ctx
    && (!(s.comp i).yielding || (s.comp i).engaged.contains n)
    && (m == 0 || d.workers.contains c || decide (d.workers.length < m))
    && !(s.flt.recalls.any fun r => r.node == n)
    && (d.requeue.any (ReqItem.for · c) || decide (d.nextItem < d.grid))
    && (s.sector k).openSet.contains n

/-- A waiting core may receive a grant: it is not fenced, owes no recall, its stand is not draining, its compartment is awake, and
its half is not drained (R422, R423, R426, R410, R489). -/
def State.mayReceive (s : State) (c : Nat) : Bool :=
  !s.fenced c && !(s.stand (standOfCore c)).draining && (s.comp (compOfCore c)).gating == 0
    && !s.timersHeld (halfOfCore c) && (s.core c).grant.isNone && (s.core c).recalling.isNone

/-- The task that serves a core: the first of the open set that may. -/
def State.taskFor (s : State) (k c : Nat) : Option (Nat × Node) :=
  let l := (s.sector k).openSet.filterMap fun n => (s.node n).map fun d => (n, d)
  (sortBy readyKey l).find? fun p => s.mayGrant k c p.1 p.2

/-- The first waiting request of a sector that can be served, with its task. -/
def State.served (s : State) (k : Nat) : Option (WorkRequest × Nat × Node) :=
  (s.sector k).waiting.findSome? fun w =>
    if s.mayReceive w.core then (s.taskFor k w.core).map fun p => (w, p.1, p.2) else none

/-- The items of a grant: first, count, ALT, REISSUE, and the node without them. -/
def Node.takeItems (d : Node) (c n : Nat) : Nat × Nat × Bool × Bool × Node :=
  match d.requeue.find? (ReqItem.for · c) with
  | some x => (x.item, 1, x.alt, x.reissue, { d with requeue := d.requeue.erase x })
  | none =>
    let k := min n (d.grid - d.nextItem)
    (d.nextItem, k, false, false, { d with nextItem := d.nextItem + k })

/-- The task gives its grant to the core, which is probed as it is served (R420). TRACE records the first grant of each
2^GRANT_SAMPLE_LOG2 (R149; DESIGN CHOICE, log 140). -/
def State.giveGrant (s : State) (k : Nat) (w : WorkRequest) (n : Nat) (d : Node) : State :=
  let c := w.core
  let (first, cnt, alt, re, d1) := d.takeItems c w.count
  let s1 := match (s.core c).prevNode with
    | some m => if m = n then s else s.updNode m fun x => { x with workers := x.workers.filter (· ≠ c) }
    | none => s
  let s2 := s1.setNode n { d1 with
    outstanding := d1.outstanding + cnt
    workers := if d1.workers.contains c then d1.workers else d1.workers ++ [c]
    escalatedFlag := d1.escalatedFlag || alt }
  let s3 := s2.updComp (compOfCore c) fun x =>
    { x with engaged := if x.yielding || x.engaged.contains n then x.engaged else x.engaged ++ [n] }
  let s4 := s3.updCore c fun x => { x with grant := some ⟨n, d.cmd.kernelId.toNat, first, cnt, alt, re, 0⟩, probing := true }
  let sampled := (s.sector k).grantsSampled
  let s5 := s4.updSector k fun x => { x with
    waiting := x.waiting.erase w
    itemsGranted := x.itemsGranted + BitVec.ofNat 64 cnt
    grantsSampled := x.grantsSampled + 1 }
  let s6 := (s5.count unSector k 0x03 1).count unSector k 0x04 cnt
  let s7 := if sampled % 2 ^ bits s.set.traceControl.toNat 8 4 = 0 then s6.schedRecord 0x25 n d k (cnt - 1) c else s6
  s7.joinOpenSets n

/-- A sector answers one waiting request, after tasks that have room again have joined its open set. -/
def State.grantIn (s : State) (k : Nat) : State :=
  let s1 := s.rejoin (halfOfSector k)
  match s1.served k with
  | some (w, n, d) => s1.giveGrant k w n d
  | none => s1

/-! ### Candidates for compartments (R144) -/

/-- READY and open LAUNCHes of a context homed in a half. -/
def State.launchesOf (s : State) (c h : Nat) : List (Nat × Node) :=
  s.dv.nodes.filter fun p => p.2.ctx = c && halfOfNode p.1 = h && p.2.isLaunch && (p.2.state = 3 || p.2.state = 4)

/-- A READY GATHER of the context waits for a compartment. -/
def State.gatherNames (s : State) (c i : Nat) : Bool :=
  s.dv.nodes.any fun p => p.2.ctx = c && p.2.state = 3 && s.gatherWaits p.2 && compOfStand (outStand p.2.cmd) = i

/-- Compartments a context holds in a half. -/
def State.compsHeld (s : State) (c h : Nat) : List Nat :=
  ((List.range 32).map fun j => 32 * h + j).filter fun i => (s.comp i).holder = some c

/-- COMP_MIN and COMP_MAX of a context in a half. -/
def State.compMin (s : State) (c h : Nat) : Nat := bits (s.context c).compMin.toNat (8 * h) 8
def State.compMax (s : State) (c h : Nat) : Nat := bits (s.context c).compMax.toNat (8 * h) 8

/-- A context is a candidate for a compartment. -/
def State.candidate (s : State) (c i : Nat) : Bool :=
  let h := halfOfComp i
  (!(s.launchesOf c h).isEmpty || s.gatherNames c i) && decide ((s.compsHeld c h).length < s.compMax c h)
    && (s.comp i).holder != some c

/-- Keeps, per sector, since when each context has been a candidate for one of its compartments. -/
def State.noteCandidates (s : State) : State :=
  (List.range 8).foldl (fun t k =>
    let cs := (s.ctxs.map (·.1)).filter fun c => (compsOfSector k).any fun i => s.candidate c i
    let old := (s.sector k).candidateSince
    let new := cs.map fun c => (c, Map.at old s.now c)
    if new = old then t else t.updSector k fun x => { x with candidateSince := new }) s

/-- The rank of a candidate for a compartment: the keys of R144 as one number, lower first. -/
def State.candidateKey (s : State) (i c : Nat) : Nat :=
  let h := halfOfComp i
  let k := sectorOfComp i
  let below := decide ((s.compsHeld c h).length < s.compMin c h)
  let cls := (s.launchesOf c h).foldl (fun m p => min m p.2.cmd.prio) 8
  let since := Map.at (s.sector k).candidateSince s.now c
  (((b2n (!s.gatherNames c i) * 2 + b2n (!below)) * 16 + cls) * 2 ^ 64 + since) * 1024 + c

/-- The candidates for a compartment, best first. -/
def State.candidates (s : State) (i : Nat) : List Nat :=
  sortBy (s.candidateKey i) ((s.ctxs.map (·.1)).filter fun c => s.candidate c i)

/-- A context has a READY task, of any opcode, or an open LAUNCH in a half. -/
def State.hasWork (s : State) (c h : Nat) : Bool :=
  s.dv.nodes.any fun p => p.2.ctx = c && halfOfNode p.1 = h && (p.2.state = 3 || (p.2.state = 4 && p.2.isLaunch))

/-- The holder of a compartment has READY, open or engaged work in its half (R144, R145). -/
def State.holderBusy (s : State) (i c : Nat) : Bool :=
  s.hasWork c (halfOfComp i) || (s.comp i).engaged.any fun n => (s.node n).isSome

/-- A candidate for which the holder yields: any, or one below its own COMP_MIN when the holder is at or below its own. -/
def State.yieldsTo (s : State) (i c : Nat) : Bool :=
  let h := halfOfComp i
  let guarded := decide ((s.compsHeld c h).length ≤ s.compMin c h)
  (s.candidates i).any fun x => !guarded || decide ((s.compsHeld x h).length < s.compMin x h)

/-- The quantum of a compartment has passed. -/
def State.quantumOver (s : State) (i : Nat) : Bool :=
  !s.timersHeld (halfOfComp i) && decide ((s.comp i).quantum * 1000 ≤ s.now - (s.comp i).assignedAt)

/-- A held compartment starts YIELDING when a condition of R145 holds. -/
def State.checkYield (s : State) (i : Nat) : State :=
  match (s.comp i).holder with
  | some c =>
    if !(s.comp i).yielding && s.yieldsTo i c && (s.quantumOver i || !s.holderBusy i c) then
      s.updComp i fun x => { x with yielding := true }
    else s
  | none => s

/-- A YIELDING compartment is quiescent (R146). A core whose issued transfers or checks have not ended still drains after its
grant (R185). -/
def State.quiescent (s : State) (i : Nat) : Bool :=
  (coresOfComp i).all (fun c => (s.core c).grant.isNone && (s.fenced c || (s.core c).front != .draining))
    && (s.comp i).engaged.all (fun n => match s.node n with
        | some d => d.state != 4
        | none => true)
    && !(s.dv.nodes.any fun p => p.2.state == 4 && p.2.cmd.opcode == opGather && compOfStand (outStand p.2.cmd) == i)

/-! ### Clearing and assignment (R147, R410, R449) -/

/-- A core after the clearing of its compartment: reset, but for its place among the waiting cores and what the block keeps
beside it. -/
def Core.cleared (k : Core) : Core :=
  { Core.reset with
    front := k.front
    askCount := k.askCount
    dispatchLoop := k.dispatchLoop
    resume := k.resume
    nextId := k.nextId
    probing := k.probing
    recalling := k.recalling
    timeHi := k.timeHi }

/-- Step 4 of R147: every core and stand of the compartment is cleared. -/
def State.clearComp (s : State) (i : Nat) : State :=
  let s1 := { s with
    cores := Map.each s.cores fun c k => if compOfCore c = i then k.cleared else k
    stands := Map.each s.stands fun t x => if compOfStand t = i then { x with mem := [] } else x }
  s1

/-- A compartment in RETAIN is ordered to wake: its regulator is asked for the voltage of step 4 (R410). -/
def State.wakeComp (s : State) (i : Nat) : State :=
  if (s.comp i).gating = 2 then
    (s.updComp i fun x => { x with gating := 1 }).emit (.regulatorRequest i (s.stepVolts i 4))
  else s

/-- A waking compartment is awake: its regulator holds the voltage of step 4, its islands run at that step and its cores are in
their dispatch loops (R410; DESIGN CHOICE, log 102). -/
def State.awake (s : State) (i : Nat) : State :=
    let s1 := s.updComp i fun x => { x with
      gating := 0
      supply := max x.supply (s.stepVolts i 4) }
    let s2 := (List.range 16).foldl (fun t j => t.updStand (16 * i + j) fun x =>
      { x with step := 4, pendingStep := none, lastChange := s.now, runSince := s.now, headroomAt := none }) s1
    (coresOfComp i).foldl (fun t c => if t.fenced c then t else t.dispatchLoop c) s2

/-- The compartment goes to a context. -/
def State.assignComp (s : State) (i c : Nat) : State :=
  let k := sectorOfComp i
  let s1 := s.updComp i fun x => { x with
    holder := some c
    yielding := false
    assignedAt := s.now
    quantum := s.set.quantum
    assignOrder := s.dv.nextOrder
    engaged := [] }
  let s2 := { s1 with dv := { s1.dv with nextOrder := s1.dv.nextOrder + 1 } }
  let s3 := s2.updSector k fun x => { x with candidateSince := Map.put x.candidateSince c s.now }
  (s3.wakeComp i).rejoin (halfOfComp i)

/-- Every core of a compartment is fenced: it is never assigned (R425). -/
def State.compDead (s : State) (i : Nat) : Bool := (s.comp i).fenced || (coresOfComp i).all s.fenced

/-- The compartment becomes FREE. -/
def State.freeComp (s : State) (i : Nat) : State :=
  s.updComp i fun x => { x with holder := none, yielding := false, engaged := [], freeSince := s.now }

/-- Steps 4 and 5 of R147: the compartment is cleared, then assigned to the best candidate or left FREE. -/
def State.switchComp (s : State) (i : Nat) : State :=
  let k := sectorOfComp i
  let best := if s.compDead i then none else (s.candidates i).head?
  let s1 := (s.clearComp i).freeComp i
  let s2 := (s1.updSector k fun x => { x with switches := x.switches + 1 }).count unSector k 0x05 1
  let s3 := s2.event unSector k 0x02 i 0
  let rec' (ctx : Nat) (free : Bool) : State :=
    if s.set.traceControl.getLsbD 7 then
      s3.trace (halfOfComp i)
        [u8 0x27 ++ u8 (k % 4) ++ u16 (ctx % 1024) ++ u32 ((i + 64 * b2n free) * 2 ^ 18 + halfOfComp i * 2 ^ 17) ++ u64 s.now]
    else s3
  match best with
  | some c => (rec' c false).assignComp i c
  | none => rec' 0 true

end Sys2Proof.Machine
end

