-- ==== Sys2Proof/Machine/Dvorsor.lean ====
section
/-! DEFINITION. Dvorsor's rows: shape substitution, the tick, selection, grants, notifications, executor ends, quanta and
compartments, and RECLAIM (R102, R119, R126–R147). -/
namespace Sys2Proof.Machine

/-! ### Shape substitution (R102, R120) -/

/-- The command with every indirect slot replaced by its shape word. -/
def State.substitute (s : State) (c : Nat) (cmd : Cmd) : Cmd :=
  let base := (s.context c).shapeBase.toNat % 2 ^ 40
  (List.range 16).foldl (fun x j =>
    if indirectAt cmd j then x.setSlot j (BitVec.ofNat 32 (leNat (s.dev (base + cmd.slot j) 4))) else x) cmd

/-- A node whose pending count is zero reads its shape words: it leaves WAITING, or completes with STATE_REJECT for a value
out of range or UNCORRECTABLE for a failed read. -/
def State.shapeRead (s : State) (n : Nat) (uncorrectable : Bool) : State :=
  match s.node n with
  | some d =>
    if d.state = 1 ∧ d.accepted ∧ d.pendingUnits = 0 ∧ d.cmd.indirect ≠ 0 then
      let cmd := s.substitute d.ctx d.cmd
      if uncorrectable then s.complete n stUncorrectable 0
      else if variableOk cmd then
        let e := { d with cmd := cmd, grid := if d.isLaunch then cmd.slot 10 else 0 }
        (s.setNode n e).leaveWaiting n e
      else s.complete n stStateReject 0
    else s
  | none => s

/-- The device ranges of the shape words that a node reads (R102). -/
def State.shapeReads (s : State) (n : Nat) : List (Nat × Nat) :=
  match s.node n with
  | some d =>
    if d.state = 1 ∧ d.accepted ∧ d.pendingUnits = 0 ∧ d.cmd.indirect ≠ 0 then
      ((List.range 16).filter (indirectAt d.cmd)).map fun j => ((s.context d.ctx).shapeBase.toNat % 2 ^ 40 + d.cmd.slot j, 4)
    else []
  | none => []

/-- SHAPE_SUBSTITUTION (R102). -/
def execShapeSubstitution (node : Nat) (uncorrectable : Bool) (s : State) : Host.Outcome State Fault Refusal :=
  .next ((s.readsFor (halfOfNode node) (.shape node) uncorrectable (s.shapeReads node)).shapeRead node uncorrectable)

/-! ### The tick (R126) -/

/-- Order of release: RELEASE, then acceptance. -/
def releaseKey (p : Nat × Node) : Nat := p.2.cmd.release.toNat * 2 ^ 64 + p.2.acceptOrder

/-- Every delayed node whose RELEASE is at or before the tick boundary moves to READY. -/
def State.releaseDue (s : State) : State :=
  let due := sortBy releaseKey (s.dv.nodes.filter fun p => p.2.state = 2 && decide (p.2.cmd.release.toNat ≤ s.tickNow))
  due.foldl (fun t p =>
    let (k, l) := p.2.delayList.getD (0, 0)
    (t.toReady p.1).schedRecord 0x21 p.1 p.2 (s.homeSector p.2.ring) p.2.cmd.energy (l + 4 * (k % 4))) s

/-- TICK (R126). -/
def execTick (s : State) : Host.Outcome State Fault Refusal := .next s.releaseDue

/-! ### Selection and grants (R129–R135) -/

/-- SECTOR_SELECT: no selection runs while the half is drained for a halted hart (R489). -/
def State.selectOp (s : State) (k : Nat) : State :=
  if s.timersHeld (halfOfSector k) || decide (8 ≤ k) then s else (s.rejoin (halfOfSector k)).selectIn k

/-- SECTOR_SELECT (R129). -/
def execSectorSelect (sector : Nat) (s : State) : Host.Outcome State Fault Refusal := .next (s.selectOp sector)

/-- GRANT_ISSUE (R134). -/
def execGrantIssue (sector : Nat) (s : State) : Host.Outcome State Fault Refusal :=
  .next (if sector < 8 then s.grantIn sector else s)

/-- A notification of the other half reaches its successor, and its credit comes back (R138). -/
def State.takeNotification (s : State) (h : Nat) : State :=
  match (if h = 0 then s.dv.sched0 else s.dv.sched1) with
  | [] => s
  | (e, st) :: rest =>
    let s1 := { s with dv := if h = 0 then { s.dv with sched0 := rest } else { s.dv with sched1 := rest } }
    let (s2, fs) := s1.satisfyUnit e st
    let (s3, gs) := s2.resumeWalks
    ((fs ++ gs).foldl (fun t n => t.complete n stPredFailed 0) s3).settleUnits

/-- SCHED_NOTIFICATION (R119). -/
def execSchedNotification (half : Nat) (s : State) : Host.Outcome State Fault Refusal := .next (s.takeNotification half)

/-- An executor has finished: the node becomes DONE with its result. A command that its ring's fault names waits for what resumes
the ring (R105, R108). -/
def State.executorDone (s : State) (n : Nat) : State :=
  match s.node n with
  | some d =>
    match d.result with
    | some st =>
      if d.state = 4 ∧ !d.isLaunch ∧ !s.isFaulting n d then
        let status := if st = stOk ∧ d.writeLost then stUncorrectable else st
        let s1 := s.complete n status d.detail
        if !isHostRing d.ring && d.cmd.opcode == opCopy then
          (s1.coldCopyDone d.ring d.seq status).launchPortions ((d.ring - 8192) / 32)
        else s1
      else s
    | none => s
  | none => s

/-- EXECUTOR_FINISH (R123). -/
def execExecutorFinish (node : Nat) (s : State) : Host.Outcome State Fault Refusal := .next (s.executorDone node)

/-! ### Compartments (R144–R147) -/

/-- The quantum of a held compartment has passed: it has none left, and yields where a candidate waits for it. -/
def State.quantumExpires (s : State) (i : Nat) : State :=
  if (s.comp i).holder.isNone || s.timersHeld (halfOfComp i) then s
  else (s.noteCandidates.updComp i fun x => { x with quantum := 0 }).checkYield i

/-- QUANTUM_EXPIRY (R145). -/
def execQuantumExpiry (comp : Nat) (s : State) : Host.Outcome State Fault Refusal := .next (s.quantumExpires comp)

/-- A YIELDING compartment that is quiescent switches; one whose holder has no work left becomes FREE when there is no
candidate. -/
def State.switchOp (s : State) (i : Nat) : State :=
  let s1 := s.noteCandidates.checkYield i
  match (s1.comp i).holder with
  | some c =>
    if (s1.comp i).yielding then (if s1.quiescent i then s1.switchComp i else s1)
    else if !s1.holderBusy i c && (s1.candidates i).isEmpty && s1.quiescent i then s1.switchComp i
    else s1
  | none => s1

/-- COMPARTMENT_SWITCH (R147). -/
def execCompartmentSwitch (comp : Nat) (s : State) : Host.Outcome State Fault Refusal := .next (s.switchOp comp)

/-- A FREE compartment goes to its best candidate. -/
def State.assignOp (s : State) (i : Nat) : State :=
  let s1 := s.noteCandidates
  if (s1.comp i).holder.isSome || s1.compDead i || decide (64 ≤ i) then s1
  else
    match (s1.candidates i).head? with
    | some c => s1.assignComp i c
    | none => s1

/-- COMPARTMENT_ASSIGN (R144). -/
def execCompartmentAssign (comp : Nat) (s : State) : Host.Outcome State Fault Refusal := .next (s.assignOp comp)

/-! ### RECLAIM (R142) -/

/-- Nodes of a context that have not been dispatched, youngest first. -/
def State.unstarted (s : State) (c : Nat) : List (Nat × Node) :=
  (sortBy (fun p : Nat × Node => p.2.acceptOrder) ((s.nodesOfCtx c).filter fun p => decide (1 ≤ p.2.state ∧ p.2.state ≤ 3))).reverse

/-- The nodes to reclaim: until the counts without them are within the quotas. -/
def reclaimList (nq eq : Nat) : Nat → Nat → List (Nat × Node) → List Nat
  | _, _, [] => []
  | nodes, edges, p :: ps =>
    if nodes ≤ nq ∧ edges ≤ eq then [] else p.1 :: reclaimList nq eq (nodes - 1) (edges - 16 * p.2.edgeBlocks) ps

/-- A context is forced down to its quotas. -/
def State.reclaimOp (s : State) (c : Nat) : Except Word State := do
  refuse (s.ctx c).isNone abState
  let x := s.context c
  let ns := reclaimList x.nodeQuota x.edgeQuota (s.nodesHeld c) (s.edgesHeld c) (s.unstarted c)
  let s1 := ns.foldl (fun t n =>
    match t.node n with
    | some d => if 1 ≤ d.state ∧ d.state ≤ 3 then t.complete n stOverQuota 0 else t
    | none => t) s
  let half (t : State) (h : Nat) : State :=
    let mine := (t.compsHeld c h).filter fun i => !(t.comp i).yielding
    let newest := (sortBy (fun i => (t.comp i).assignedAt * 64 + i) mine).reverse
    (newest.take (mine.length - t.compMax c h)).foldl (fun u i => u.updComp i fun y => { y with yielding := true }) t
  return half (half s1 0) 1

/-- RECLAIM (R142). -/
def execReclaim (c : BitVec 16) (s : State) : Host.Outcome State Fault Refusal := .next (s.rootRow (.reclaim c) (s.reclaimOp c.toNat))

end Sys2Proof.Machine
end

