-- ==== Sys2Proof/Machine/Contexts.lean ====
section
/-! DEFINITION. Contexts: creation, destruction and reset (R75, R76, R155, R170, R295, R368, R381, R390, R457, R526–R530). -/
namespace Sys2Proof.Machine

/-- A context comes into being: its entries and rings have their defaults and its generation rises. -/
def State.createOp (s : State) (c : Nat) : Except Word State := do
  refuse (decide (1024 ≤ c)) abRange
  refuse (s.ctx c).isSome abState
  let rings := (List.range 8).foldl (fun m r => Map.put m (8 * c + r) { Ring.reset with ctx := c }) s.rings
  return { s with
    ctxs := Map.put s.ctxs c Context.reset
    rings := rings
    mem := { s.mem with regions := Map.del s.mem.regions c }
    cat := { s.cat with ctxGen := Map.put s.cat.ctxGen c (Map.at s.cat.ctxGen 0 c + 1) } }

/-- CONTEXT_CREATE (R75). -/
def execContextCreate (c : BitVec 16) (s : State) : Host.Outcome State Fault Refusal := .next (s.rootRow (.contextCreate c) (s.createOp c.toNat))

/-- Staged bytes of a context's window and of its sessions are discarded (R62). -/
def State.dropStaging (s : State) (c : Nat) : State :=
  { s with cat := { s.cat with
      windows := Map.each s.cat.windows fun i w => if i = c then { w with staging := none } else w
      sessions := Map.each s.cat.sessions fun _ x => if x.view = .ctx c then { x with staging := none } else x } }

/-- The owner's shared semaphores are unbound, and a guest leaves its bindings (R368). One that is not bound keeps what its binding was
(R375). -/
def State.unbindAll (s : State) (c : Nat) : State :=
  { s with fab := { s.fab with shared := Map.each s.fab.shared fun _ x =>
      if !x.bound then x
      else if x.owner.toNat % 1024 == c then { x with bound := false }
      else { x with guests := x.guests.map fun g => if g.getLsbD 15 && g.toNat % 1024 == c then 0 else g } } }

/-- Every node of a context becomes FREE. -/
def State.freeNodes (s : State) (c : Nat) : State :=
  let gone := (s.nodesOfCtx c).map (·.1)
  { s with
    dv := { s.dv with
      nodes := s.dv.nodes.filter fun p => p.2.ctx ≠ c
      sectors := Map.each s.dv.sectors fun _ x => { x with openSet := x.openSet.filter fun n => !gone.contains n }
      comps := Map.each s.dv.comps fun _ x => { x with engaged := x.engaged.filter fun n => !gone.contains n } }
    mem := { s.mem with partials := s.mem.partials.filter fun w => !gone.contains w.node } }

/-- The compartments of a context are cleared, then assigned or left FREE. -/
def State.yieldAll (s : State) (c : Nat) : State :=
  (s.compsHeld c 0 ++ s.compsHeld c 1).foldl (fun t i => t.switchComp i) s

/-- CONTEXT_DESTROY: its flows close, its tables are unregistered, its bindings, marks and sessions end. Its window's data buffer, CAT_STATUS
and CAT_RESULT stay as they are, and show again when the context is created again (DESIGN CHOICE, log 156). -/
def State.destroyOp (s : State) (c : Nat) : Except Word State := do
  refuse (decide (1024 ≤ c)) abRange
  refuse ((s.ctx c).isNone || s.dv.resetting == some c) abState
  refuse ((s.ringsOf c).any fun r => (s.ring r).enabled) abState
  let s1 := ((s.ecl.flows.filter fun p => p.2.ctx = c && p.2.state ≠ 0).map (·.1)).foldl (fun t f => t.closeFlow f 6 true) s
  let s2 := (((s1.ownerReset c).discardWaiters c).unbindAll c).failPortions c
  let s3 := ((s2.freeNodes c).yieldAll c).leaveRecords fun x p _ => x == c && p != 1
  return State.settleInvs { s3 with
    ctxs := Map.del s3.ctxs c
    rings := s3.rings.filter fun p => !(isHostRing p.1 && p.2.ctx = c)
    mem := { s3.mem with
      tables := s3.mem.tables.filter fun p => p.2.owner ≠ c
      regions := Map.del s3.mem.regions c
      requests := s3.mem.requests.map fun q => if q.ctx = c then { q with purpose := 6 } else q }
    ecl := { s3.ecl with marks := s3.ecl.marks.filter fun m => m.ctx ≠ c }
    cat := { s3.cat with
      windows := Map.each s3.cat.windows fun i w => if i = c then { w with staging := none } else w
      sessions := s3.cat.sessions.filter fun p => p.2.view ≠ .ctx c } }

/-- CONTEXT_DESTROY (R75). -/
def execContextDestroy (c : BitVec 16) (s : State) : Host.Outcome State Fault Refusal := .next (s.rootRow (.contextDestroy c) (s.destroyOp c.toNat))

/-! ### Context reset (R526–R528) -/

/-- A ring of a context under reset becomes DISABLED; what had not retired is numbered again from there. -/
def Ring.stopped (g : Ring) : Ring :=
  { g with
    enabled := false
    draining := false
    stall := 0
    fault := none
    keptFaults := []
    aborting := false
    nextSeq := g.completedThrough + 1
    tail := if g.enabled then g.completedThrough + 1 else g.tail
    reread := false
    fetched := []
    held := none
    skipping := none
    entryOwed := false
    handedThrough := g.completedThrough
    blocked := false
    backlog := []
    stepSeq := 0 }

/-- Steps 1 to 3 of R527, step 4 once the recall of step 3 has ended, and step 5 as far as the requesters' records go. -/
def State.resetOp (s : State) (c : Nat) : Except Word State := do
  refuse (decide (1024 ≤ c)) abRange
  refuse ((s.ctx c).isNone || s.dv.resetting.isSome) abState
  let s1 := { (s.updCtx c fun x => { x with
      resetCount := x.resetCount + 1
      tallyBlocked := none
      tallyHostError := false }) with dv := { s.dv with resetting := some c, resetFabric := true } }
  let s2 := { s1 with rings := Map.each s1.rings fun _ g => if g.ctx = c then g.stopped else g }
  let mine := (s2.nodesOfCtx c).map (·.1)
  let s3 := (s2.dropRoutes c).failPortions c
  let s4 := { s3 with
    mem := { s3.mem with gathers := s3.mem.gathers.filter fun g => !mine.contains g.node }
    fab := { s3.fab with msgs := s3.fab.msgs.map fun (m : SemMsg) =>
      match m.node with
      | some n => if mine.contains n then { m with node := none } else m
      | none => m }
    ecl := { s3.ecl with signals := s3.ecl.signals.filter fun (m : RemoteSignal) => (s3.ring m.ring).ctx ≠ c } }
  let s5 := { s4 with dv := { s4.dv with nodes := Map.each s4.dv.nodes fun _ d =>
    if d.ctx = c then { d with stopped := true, requeue := [], delayList := none } else d } }
  let running := (s5.nodesOfCtx c).filter fun p => p.2.isLaunch && p.2.state == 4
  let s6 := running.foldl (fun t p => t.startRecall p.1 false) s5
  let s6 := { s6 with flt := { s6.flt with
    resetCores := (s6.flt.recalls.map fun (r : Recall) => if mine.contains r.node then r.cores else []).flatten } }
  return ((((s6.discardWaits c).resetFabricStep).leaveRecords fun x p _ => x == c && p != 1).dropStaging c).order 1

/-- CONTEXT_RESET (R527). -/
def execContextReset (c : BitVec 16) (s : State) : Host.Outcome State Fault Refusal := .next (s.rootRow (.contextReset c) (s.resetOp c.toNat))

/-- The recall has ended and every write of the context's cores is acknowledged. -/
def State.resetSettled (s : State) (c : Nat) : Bool :=
  let is := s.compsHeld c 0 ++ s.compsHeld c 1
  s.cores.all fun p =>
    (match p.2.grant with
      | some g => (match s.node g.node with
        | some d => d.ctx != c
        | none => true)
      | none => true)
    && (!is.contains (compOfCore p.1) || s.fenced p.1 || (p.2.slots.isEmpty && p.2.lastRows.isEmpty && !p.2.loaderBusy))

/-- The UNFENCE writes that waited for the end of a context reset are served (R530). -/
def State.serveUnfences (s : State) : State :=
  s.flt.unfences.foldl (fun t u => match t.unfence u.1 u.2 with
    | some v => { v with cat := { v.cat with answer := 0 } }
    | none => { t with cat := { t.cat with answer := abState } })
    { s with flt := { s.flt with
      resetCores := []
      unfences := [] } }

/-- Steps 6 to 8 of R527: the nodes are freed, the compartments change hands, and RESETTING names no context. -/
def State.finishReset (s : State) : State :=
  match s.dv.resetting with
  | some c =>
    if s.resetSettled c then
      let gone := (s.nodesOfCtx c).map (·.1)
      let s1 := { (s.freeNodes c) with flt := { s.flt with recalls := s.flt.recalls.filter fun r => !gone.contains r.node } }
      let s2 := s1.yieldAll c
      State.serveUnfences { s2 with dv := { s2.dv with resetting := none, resetFabric := false } }
    else s
  | none => s

end Sys2Proof.Machine
end

