-- ==== Sys2Proof/Machine/Completion.lean ====
section
/-! DEFINITION. Completion: the records of a ring in order, completion signals, notification, the retries of
COMPLETION_BLOCKED and TASK_LIMIT (R75, R108, R157–R168, R174, R175, R181, R182, R330). -/
namespace Sys2Proof.Machine

/-! ### Records (R162) -/

/-- FLAGS of a node's record. -/
def recordFlags (d : Node) : Byte :=
  if d.bare then 0
  else BitVec.ofNat 8 (b2n (d.cmd.deadline != 0 && decide (d.cmd.deadline.toNat < d.endTime)) + 2 * b2n d.cmd.irq
    + 4 * b2n d.reissuedFlag + 8 * b2n d.escalatedFlag + 16 * b2n d.signalDropped)

/-- The completion record of a node that is DONE. -/
def recordOf (d : Node) : Record where
  seq := d.seq
  status := d.status
  flags := recordFlags d
  detail := BitVec.ofNat 16 (if d.status = stFaulted then d.detail else 0)
  escalated := d.escalated % 2 ^ 24
  endTime := d.endTime
  run := match d.firstDispatch with
    | some t => min (d.endTime - t) 0xFFFFFFFF
    | none => 0
  saturations := if d.status = stPrecision then min d.sat 0xFFFF else 0
  nans := if d.status = stPrecision then min d.nans 0xFFFF else 0

/-- A record with FLAGS.LATE counts at its context and at the sector that selected its command (R154, R155). -/
def State.countLate (s : State) (d : Node) : State :=
  if (recordFlags d).getLsbD 0 then
    let s1 := s.updCtx d.ctx fun x => { x with deadlineMisses := x.deadlineMisses + 1 }
    match d.sector with
    | some k => s1.updSector k fun x => { x with deadlineMisses := x.deadlineMisses + 1 }
    | none => s1
  else s

/-! ### Step 2: the completion signal (R168, R175) -/

/-- The record posts a completion signal. -/
def State.signals (s : State) (r : Nat) (d : Node) : Bool :=
  isHostRing r && (s.ring r).complSignal != 0 && (recordFlags d).getLsbD 1 && d.status == stOk && !d.cmd.noSignal

/-- A signal of a command or of a record leaves for a semaphore of this device. -/
def State.postLocal (s : State) (n : Nat) (d : Node) (id : SemId) (kind amount : Nat) : State :=
  s.semSend ⟨id, .command d.ring, 0, 0, some n, kind, d.ctx, (s.context d.ctx).resetCount % 8, 0, .signal amount⟩

/-- A signal to a semaphore of which the context is a guest is journaled (R175); the context has a Tally. -/
def State.journals (s : State) (c : Nat) : SemId → Bool
  | .shared i => s.guestOf i c && (s.context c).tallyBase != 0
  | .core _ _ => false

/-- The index that a commit entry names. -/
def sharedIndex : SemId → Nat
  | .shared i => i
  | .core _ _ => 0

/-- The completion signal is posted, journaled first where it must be, or dropped. -/
def State.postCompletion (s : State) (r n : Nat) (d : Node) : State :=
  match targetOf (s.ring r).complSignal.toNat with
  | some (_, some dev) =>
    if (s.openFlow d.ctx dev).isNone then s.dropCompletion n
    else (s.setNode n { d with signalState := 1 }).queueSignal ⟨r, 1, d.seq, n, dev, (s.ring r).complSignal, 1, false, none⟩
  | some (id, none) =>
    let bound := match id with
      | .shared i => s.boundTo i d.ctx
      | .core _ _ => false
    if !bound then s.dropCompletion n
    else if s.journals d.ctx id then
      match s.journal d.ctx (s.homeHalf r) d.seq (sharedIndex id) (ringNo r) 2 1 with
      | (t, true) => (t.setNode n { d with signalState := 1 }).postLocal n d id 1 1
      | (t, false) => t
    else (s.setNode n { d with signalState := 1 }).postLocal n d id 1 1
  | none => s.dropCompletion n

/-! ### Steps 3 to 5 (R158, R164, R165) -/

/-- A notification interrupt. -/
def State.raiseNotify (s : State) (r : Nat) : State :=
  let g := s.ring r
  let s1 := s.setRing r { g with irqNotify := true, notifyEvents := g.notifyEvents + 1, pendingNotes := 0 }
  if g.maskNotify then s1 else s1.msix (s.homeHalf r) (bits g.vectors.toNat 0 16)

/-- One record counts toward notification. -/
def State.note (s : State) (r : Nat) : State :=
  let g := s.ring r
  let s1 := s.setRing r { g with
    pendingNotes := g.pendingNotes + 1
    firstNoteAt := if g.pendingNotes = 0 then s.now else g.firstNoteAt }
  if bits g.moderation.toNat 0 16 ≤ g.pendingNotes + 1 ∨ bits g.moderation.toNat 16 16 = 0 then s1.raiseNotify r else s1

/-- The next record of a ring to pass step 3: its node is DONE. -/
def State.headRecord (s : State) (r : Nat) : Option (Nat × Node) :=
  let g := s.ring r
  s.dv.nodes.find? fun p => p.2.ring = r && p.2.state = 5 && p.2.seq = g.handedThrough + g.backlog.length + 1

/-- Step 3: the record is handed to the host port, goes to the backlog, or waits. -/
def State.passRecord (s : State) (r : Nat) (d : Node) : State :=
  let g := s.ring r
  let x := recordOf d
  if !isHostRing r then
    ((s.setDev (s.homeHalf d.ring) (g.recordAddr d.seq) x.bytes).updRing r fun y => { y with handedThrough := d.seq }).countLate d
  else if s.ringBlocked r || !g.backlog.isEmpty then
    (if g.backlog.length < 256 then (s.updRing r fun y => { y with backlog := y.backlog ++ [x] }).countLate d else s)
  else
    match s.handRecord r x with
    | .ok t => t.countLate d
    | .error t => t

/-- The nodes that a COMPLETED_THROUGH write covers become FREE or RETAINED, and their records count toward notification; a
device-side record is read by firmware. -/
def State.retireNodes (s : State) (r from' upto : Nat) : State :=
  let mine := sortBy (fun p : Nat × Node => p.2.seq)
    ((s.nodesOfRing r).filter fun p => p.2.state = 5 && decide (from' < p.2.seq ∧ p.2.seq ≤ upto))
  mine.foldl (fun t p =>
    let d := p.2
    let t1 := if d.status = stOk then t.delNode p.1 else t.setNode p.1 { d with state := 6 }
    let t2 := t1.count unRingEngine (s.homeHalf r) 0x02 1
    if isHostRing r then (if (recordFlags d).getLsbD 1 then t2.note r else t2) else t2.expertRetired r d.seq d.status) s

/-- Steps 4 and 5 for every record handed over. -/
def State.showCompleted (s : State) (r : Nat) : State :=
  let g := s.ring r
  if g.handedThrough ≤ g.completedThrough then s
  else
    let go (t : State) : State :=
      ((t.updRing r fun y => { y with completedThrough := g.handedThrough }).retireNodes r g.completedThrough
        g.handedThrough).freeRetained r
    if !isHostRing r then go s
    else
      match s.tallyMissing r 8 with
      | some t => t
      | none =>
        go ((s.tallyEntry r).tallyWrite g.ctx (s.homeHalf r) (entryOff r + 8) (u64 g.handedThrough))

/-- Step 2 of every record of a ring that is DONE, whatever has become of the records before it (R158). -/
def State.postSignals (s : State) (r : Nat) : State :=
  (sortBy (fun p : Nat × Node => p.2.seq) ((s.nodesOfRing r).filter fun p => p.2.state = 5)).foldl (fun t p =>
    match t.node p.1 with
    | some d => if t.signals r d && d.signalState = 0 then t.postCompletion r p.1 d else t
    | none => t) s

/-- The records of a ring go on through the steps of R158: step 2 each by itself, step 3 in sequence order. The faulting command
of a FAULTED ring does not retire (R108). -/
def State.retire (s : State) (r : Nat) : State :=
  if !(s.ring r).enabled then s
  else
    let s0 := (s.showCompleted r).postSignals r
    let s1 := match s0.headRecord r with
      | some (n, d) =>
        if s0.isFaulting n d || (s0.signals r d && d.signalState != 2) then s0
        else (s0.passRecord r d).showCompleted r
      | none => s0
    State.checkDeadStall s (s1.finishDrain r)

/-- RECORD_RETIRE (R158). -/
def execRecordRetire (ring : Nat) (s : State) : Host.Outcome State Fault Refusal := .next (s.retire ring)

/-- MAX_DELAY has passed since the first pending notification. -/
def State.delayExpires (s : State) (r : Nat) : State := if (s.ring r).pendingNotes = 0 then s else s.raiseNotify r

/-- MAX_DELAY_EXPIRY (R165). -/
def execMaxDelayExpiry (ring : Nat) (s : State) : Host.Outcome State Fault Refusal := .next (s.delayExpires ring)

/-- A write of IRQ_MASK: a mask bit written 0 while its flag is 1 sends the vector once. -/
def State.maskWrite (s : State) (r v : Nat) : State :=
  let g := s.ring r
  let s1 := s.setRing r { g with maskFault := bit v 1, maskNotify := bit v 0 }
  let s2 := if !bit v 1 && g.irqFault then s1.msix (s.homeHalf r) (bits g.vectors.toNat 16 16) else s1
  if !bit v 0 && g.irqNotify then s2.msix (s.homeHalf r) (bits g.vectors.toNat 0 16) else s2

/-- IRQ_MASK_WRITE (R167). -/
def execIrqMaskWrite (ring : Nat) (value : BitVec 64) (s : State) : Host.Outcome State Fault Refusal :=
  .next (s.maskWrite ring value.toNat)

/-! ### The retries of COMPLETION_BLOCKED and the poll of EPOCH_CONSUMED (R174, R181, R182) -/

/-- The Tally can be written again: its rings' entries, backlogs and acceptance go on. -/
def State.recoverTally (s : State) (c : Nat) : State :=
  let s1 := s.updCtx c fun x => { x with tallyBlocked := none, tallyHostError := false }
  ((s1.ringsOf c).filter fun r => isHostRing r && (s1.ring r).enabled).foldl (fun t r =>
    let t1 := t.settleTally r
    (if (t1.ring r).blocked then t1 else t1.unblock r).pumpRing r) s1

/-- A page whose request was refused is asked for again. -/
def State.askAgain (s : State) (c target purpose who : Nat) : State :=
  let page := target / 4096 * 4096
  if s.awaits c page purpose who true then s else s.joinRecord ⟨0, s.pasid c, c, page, true, purpose, who, target⟩

/-- Every 1 ms: what was refused is asked for again, and a Tally read that met an error is read again. -/
def State.completionRetry (s : State) (c : Nat) : State :=
  let x := s.context c
  let s1 := match x.tallyBlocked with
    | some a =>
      if x.tallyHostError then s.emit (.hostRead (s.pasid c) (BitVec.ofNat 64 (s.tallyAddr c 0x10)) 8)
      else s.askAgain c (iovaOf a.toNat) 2 c
    | none => s
  ((s1.ringsOf c).filter fun r => isHostRing r && (s1.ring r).enabled && (s1.ring r).blocked).foldl (fun t r =>
    t.askAgain c ((t.ring r).recordAddr ((t.ring r).handedThrough + 1)) 4 r) s1

/-- COMPLETION_RETRY_TIMER (R182). -/
def execCompletionRetryTimer (ctx : Nat) (s : State) : Host.Outcome State Fault Refusal := .next (s.completionRetry ctx)

/-- A read of EPOCH_CONSUMED while the test of R174 fails; `none` is a host port error, which blocks the Tally. -/
def State.consumedRead (s : State) (c : Nat) (v : Option (BitVec 64)) : State :=
  let x := s.context c
  if (s.ctx c).isNone || (!x.tallyHostError && (x.tallyBlocked.isSome || decide (x.epochNext < x.epochConsumed + 512))) then s
  else
    match s.translated c (s.tallyAddr c 0x10) 8 false 2 c, v with
    | some t, _ => t
    | none, some w =>
      let s1 := (s.updCtx c fun y => { y with epochConsumed := w.toNat }).count unHostPort 0 0x01 8
      if x.tallyHostError then s1.recoverTally c else s1
    | none, none => if x.tallyHostError then s else s.blockTally c (s.tallyAddr c 0x10) true

/-- EPOCH_CONSUMED_POLL (R174). -/
def execEpochConsumedPoll (ctx : Nat) (read : Option (BitVec 64)) (s : State) : Host.Outcome State Fault Refusal :=
  .next (s.consumedRead ctx read)

/-! ### TASK_LIMIT (R75, R108, R531) -/

/-- TASK_LIMIT passes on a dispatched command: its ring faults with HANG, or, during an ABORT, the items of a LAUNCH that
cores still hold are recalled. -/
def State.limitExpires (s : State) (n : Nat) : State :=
  match s.node n with
  | some d =>
    if d.state ≠ 4 ∨ s.set.taskLimit = 0 ∨ s.timersHeld (halfOfNode n) ∨ s.isFaulting n d then s
    else if (s.ring d.ring).aborting then
      (if d.isLaunch && !(s.flt.recalls.any fun r => r.node == n) then (s.startRecall n false).endRecalls else s)
    else if !d.isLaunch && d.result.isSome then s
    else s.nodeFault n fcHang 0 (s.holdersEntries n)
  | none => s

/-- TASK_LIMIT_EXPIRY (R75). -/
def execTaskLimitExpiry (node : Nat) (s : State) : Host.Outcome State Fault Refusal := .next (s.limitExpires node)

end Sys2Proof.Machine
end

