-- ==== Sys2Proof/Machine/TableOps.lean ====
section
/-! DEFINITION. What the memory movers, the gather-reduce units and the table logic do: copies with conversion, rows and
bitmaps of tables, pooling, the cold tier (R259–R266, R285–R304). -/
namespace Sys2Proof.Machine

/-! ### Block addresses and uncorrectable blocks (R92, R285) -/

/-- Bytes at a block address; `host` holds those the command brought, from the block address `base` on, and a host byte that
it did not bring is a free value (DESIGN CHOICE, log 13). -/
def State.readBlock (s : State) (c : Nat) (host : List Byte) (base a n : Nat) : List Byte :=
  if isHostAddr a then
    (List.range n).map fun j => (host[a + j - base]?).getD (Config.hostByte s.freeCtr (iovaOf a + j))
  else s.readDevice c host (devOf base) (devOf a) n

/-- The command of a node writes bytes at a block address. -/
def State.writeBlock (s : State) (n c a : Nat) (bs : List Byte) : State :=
  if isHostAddr a then s.hostWrite (halfOfNode n) c (BitVec.ofNat 64 (iovaOf a)) bs
  else s.writeDevice (halfOfNode n) (some n) c (devOf a) bs

/-- The device ranges among the block addresses of a list: address, length, write. -/
def deviceRanges (l : List (Nat × Nat × Bool)) : List (Nat × Nat × Bool) :=
  (l.filter fun x => !isHostAddr x.1).map fun x => (devOf x.1, x.2.1, x.2.2)

/-! ### COPY (R259–R263, R266) -/

/-- The converted elements of a COPY: source bytes, formats, rounding and the key of its stream. -/
def copyElements (sf df mode key : Nat) (src : List Byte) : List Byte :=
  if sf = df then src
  else
    let n := src.length * 8 / fmtWidth sf
    pack df ((unpack sf n src).zipIdx.map fun p =>
      (convertNum df mode (rngDraw (BitVec.ofNat 32 key) (BitVec.ofNat 32 p.2)).toNat false (decodeNum sf p.1)).code)

/-- The key of a COPY's rounding stream: the two words of SEQ, XORed. -/
def copyKey (d : Node) : Nat := (d.seq % 2 ^ 32) ^^^ (d.seq / 2 ^ 32 % 2 ^ 32)

/-- A COPY moves and converts its bytes. With an uncorrectable read, which `said` tells of if RDATA did not, the elements of the blocks
that were lost are not written. -/
def State.copyData (s : State) (n : Nat) (d : Node) (host : List Byte) (said : Bool) : State :=
  let c := d.cmd
  let sf := bits (c.slot 6) 0 8
  let df := bits (c.slot 6) 8 8
  let src := c.wide 0
  let out := copyElements sf df (bits (c.slot 6) 16 2) (copyKey d) (s.readBlock d.ctx host src src (c.wide 4))
  let rs := portRange src (c.wide 4)
  let lost := s.lostIn said d.uncorrectable rs
  let s0 := s.readsFor (halfOfNode n) (.unit n) said rs
  let s1 := if lost.isEmpty then s0.writeBlock n d.ctx (c.wide 2) out
    else
      let sw := copyWidth sf
      let dw := copyWidth df
      (List.range (c.wide 4 / sw)).foldl (fun t i =>
        if lostAt lost (devOf src + i * sw) sw then t
        else t.writeBlock n d.ctx (c.wide 2 + i * dw) (slice out (i * dw) dw)) s0
  s1.nextFree

/-! ### Tables (R293–R297) -/

def State.table (s : State) (t : Nat) : Option Table := Map.look s.mem.tables t
def State.updTable (s : State) (t : Nat) (f : Table → Table) : State :=
  match s.table t with
  | some x => { s with mem := { s.mem with tables := Map.put s.mem.tables t (f x) } }
  | none => s

def Table.live (t : Table) : Bool := t.flags.getLsbD 0
def Table.cold (t : Table) : Bool := t.flags.getLsbD 2

/-- The device address of the selector bitmap of an epoch. -/
def Table.bitmap (t : Table) (epoch : Nat) : Nat := if epoch % 2 = 0 then t.bitmap0 else t.bitmap1

/-- The slot of a row that an epoch's bitmap names. -/
def State.rowSlot (s : State) (t : Table) (epoch r : Nat) : Nat :=
  b2n (bit (leNat (s.dev (t.bitmap epoch + r / 8) 1)) (r % 8))

/-- The device address of a row that is not cold, under an epoch. -/
def State.rowAddr (s : State) (t : Table) (epoch r : Nat) : Nat :=
  if t.live then t.base + (2 * r + s.rowSlot t epoch r) * t.stride else t.base + r * t.stride

/-- The current bitmap is copied over the other one, and the table is OPEN. -/
def State.openTable (s : State) (id : Nat) : State :=
  match s.table id with
  | some t =>
    let h := t.base / 2 ^ 36 / 6
    let n := ceilDiv t.rows 8
    ((s.portReads h (t.bitmap t.epoch) n).setDev h (t.bitmap (t.epoch + 1)) (s.dev (t.bitmap t.epoch) n)).updTable id
      fun x => { x with state := 1 }
  | none => s

/-! ### UPDATE (R296) -/

/-- One row of an UPDATE: its bytes go into the slot that the current bitmap does not name, and the next bitmap names it. The bit is
taken back with a partial write of the slot that is not made. -/
def State.updateRow (s : State) (n id : Nat) (t : Table) (r : Nat) (bytes : List Byte) : State :=
  if t.rows ≤ r then s.updTable id fun x => { x with invalidIds := x.invalidIds + 1 }
  else
    let slot := 1 - s.rowSlot t t.epoch r
    let h := halfOfNode n
    let a := t.bitmap (t.epoch + 1) + r / 8
    let old := some (a, r % 8, bit (leNat (s.dev a 1)) (r % 8))
    let s1 := (s.portReads h (t.bitmap t.epoch + r / 8) 1).store h (some n) (t.base + (2 * r + slot) * t.stride) bytes old
    let b := leNat (s1.dev a 1)
    let m := 2 ^ (r % 8)
    State.setDev { s1 with mem := { s1.mem with partials := s1.mem.partials ++ [⟨n, a, [], [], old⟩] } } h a
      (u8 (if slot = 1 then b ||| m else b - (b &&& m)))

/-- The row indices of an UPDATE: those the command brought for host ROW_IDS, otherwise read from device memory. -/
def State.updateIds (s : State) (d : Node) (ids : List Nat) : List Nat :=
  let a := d.cmd.wide 2
  (List.range (d.cmd.slot 1)).map fun i =>
    if isHostAddr a then
      (ids[i]?).getD (leNat ((List.range 8).map fun j => Config.hostByte s.freeCtr (iovaOf a + 8 * i + j)))
    else leNat (s.readDevice d.ctx [] 0 (devOf a + 8 * i) 8)

/-- An UPDATE writes its rows in list order, but for those whose data was uncorrectable. -/
def State.updateData (s : State) (n : Nat) (d : Node) (id : Nat) (t : Table) (ids : List Nat) (host : List Byte) (bad : Option Nat) :
    State :=
  let src := d.cmd.wide 4
  let h := halfOfNode n
  let lost := s.lostIn false d.uncorrectable (portRange src (d.cmd.slot 1 * t.stride))
  let s0 := match bad with
    | some i => s.logLost (.unit n) (s.lostIn true false (portRange (src + i * t.stride) t.stride))
    | none => s
  let s1 := (portRange (d.cmd.wide 2) (8 * d.cmd.slot 1) ++ portRange src (d.cmd.slot 1 * t.stride)).foldl
    (fun u r => u.portReads h r.1 r.2) s0
  ((s.updateIds d ids).zipIdx.foldl (fun u p =>
    if bad = some p.2 || (!isHostAddr src && lostAt lost (devOf src + p.2 * t.stride) t.stride) then u
    else u.updateRow n id t p.1 (s.readBlock d.ctx host src (src + p.2 * t.stride) t.stride)) s1).nextFree

/-- Commands of an opcode on a table that were dispatched before a node and that have not ended. -/
def State.earlierOn (s : State) (d : Node) (op : Byte) (id : Nat) : Bool :=
  s.dv.nodes.any fun p => p.2.state = 4 && p.2.cmd.opcode = op && p.2.cmd.slot 0 = id && decide (p.2.dispatchOrder < d.dispatchOrder)

/-! ### GATHER (R289–R292) -/

/-- The port whose units run a GATHER of a home half. -/
def Table.gatherPort (t : Table) (h : Nat) : Nat :=
  let p := t.base / 2 ^ 36
  if p / 6 = h then p else 6 * h + p % 6

/-- A bag: its list and COUNT; none for a bad bag. -/
def State.bag (s : State) (d : Node) (b : Nat) : Option (Nat × Nat) :=
  let e := s.readDevice d.ctx [] 0 (devOf (d.cmd.wide 2) + 16 * b) 16
  if bits (field e 0 8) 40 24 ≠ 0 ∨ field e 12 4 ≠ 0 ∨ 1048576 < field e 8 4 then none else some (field e 0 8, field e 8 4)

/-- Bytes of one list element of a GATHER. -/
def bagElement (d : Node) : Nat := if bits (d.cmd.slot 5) 0 2 = 2 then 8 else 4

/-- The elements of a bag: row index and weight. -/
def State.bagRows (s : State) (d : Node) (list count : Nat) : List (Nat × Nat) :=
  let w := bagElement d
  (List.range count).map fun i =>
    let e := s.readDevice d.ctx [] 0 (list + w * i) w
    (field e 0 4, field e 4 4)

/-- The bags of a GATHER. -/
def State.bags (s : State) (d : Node) : List (Option (Nat × Nat)) := (List.range (d.cmd.slot 1)).map (s.bag d)

/-- The device ranges of a GATHER that R287 checks. -/
def State.gatherRanges (s : State) (d : Node) : List (Nat × Nat × Bool) :=
  (s.bags d).filterMap fun b => b.map fun x => (x.1, bagElement d * x.2, false)

/-- A value rounded to F32. -/
def rneF32 (x : Num) : Num := decodeNum 1 (ieee 1 false x).1

/-- The decoded elements of a row, in F32, and its saturation events per run of 16 (R262, R274, R292). -/
def rowValues (f elems : Nat) (row : List Byte) : List Num × Nat :=
  let xs := (unpack f elems row).zipIdx.map fun p =>
    let v := decodeNum f p.1
    convertNum 1 0 0 false (if fmtGrouped f then v.withScale (field row (fmtBytes f elems + p.2 / 16) 1) else v)
  (xs.map fun x => decodeNum 1 x.code,
    ((List.range (ceilDiv elems 16)).filter fun g => ((xs.drop (16 * g)).take 16).any (·.sat)).length)

/-- The maximum of R292: NaN when either operand is NaN, +0 above −0. -/
def maxNaN (a b : Num) : Num := if a.isNaN || b.isNaN then .nan else a.maximum b

/-- One row joins the pool of a bag: 0 sum, 1 mean, 2 weighted sum, 3 max. -/
def poolRow (pool n : Nat) (acc v : List Num) (weight : Nat) : List Num :=
  List.zipWith (fun a x =>
    if pool = 3 then (if n = 0 then x else maxNaN a x)
    else if pool = 2 then rneF32 (a.add ((decodeNum 1 weight).mul x))
    else rneF32 (a.add x)) acc v

/-- A pooled row in its output format, with its saturation and NaN events per run of 16; F32 is copied (R259). -/
def pooledRow (f : Nat) (acc : List Num) : List Byte × Nat × Nat :=
  let xs := acc.map fun x => if f = 1 then ⟨(ieee 1 false x).1, false, false, false⟩ else convertNum f 0 0 false x
  let runs (p : Conv → Bool) : Nat :=
    ((List.range (ceilDiv acc.length 16)).filter fun g => ((xs.drop (16 * g)).take 16).any p).length
  (pack f (xs.map (·.code)), runs (·.sat), runs (·.nan))

/-- The bytes of a row that a GATHER reads. -/
def State.gatherRow (s : State) (g : Gather) (t : Table) (r : Nat) : List Byte :=
  if t.cold then ((g.rows.find? fun p => p.1 = r).map (·.2)).getD [] else s.dev (s.rowAddr t g.epoch r) t.stride

/-- The pool of a bag: its elements, the rows it skipped and the saturation events of decoding. -/
def State.poolBag (s : State) (d : Node) (g : Gather) (t : Table) (rows : List (Nat × Nat)) : List Num × Nat × Nat :=
  let pool := bits (d.cmd.slot 5) 0 2
  let zero : List Num := List.replicate t.elems (.fin false 0 0)
  let (acc, n, bad, sat) := rows.foldl (fun (p : List Num × Nat × Nat × Nat) x =>
    let (acc, n, bad, sat) := p
    if t.rows ≤ x.1 then (acc, n, bad + 1, sat)
    else
      let (v, e) := rowValues t.format t.elems (s.gatherRow g t x.1)
      (poolRow pool n acc v x.2, n + 1, bad, sat + e)) (zero, 0, 0, 0)
  (if pool = 1 && n != 0 then acc.map fun a => rneF32 (a.div (.fin false n 0)) else acc, bad, sat)

/-- The device ranges that a bag reads: its entry, its list, and its rows with their selector bits. -/
def State.bagReads (s : State) (d : Node) (g : Gather) (t : Table) (b : Nat) : List (Nat × Nat) :=
  (devOf (d.cmd.wide 2) + 16 * b, 16) ::
    (match s.bag d b with
      | some (l, c) =>
        (l, bagElement d * c) :: if t.cold then [] else
          ((s.bagRows d l c).filter fun x => decide (x.1 < t.rows)).flatMap fun x =>
            (s.rowAddr t g.epoch x.1, t.stride) :: if t.live then [(t.bitmap g.epoch + x.1 / 8, 1)] else []
      | none => [])

/-- The gather-reduce units of a port that are not fenced (R432). -/
def State.gatherUnits (s : State) (port : Nat) : List Nat :=
  ((List.range 4).map fun j => 4 * port + j).filter fun u => !s.flt.unitsFenced.contains (0, u)

/-- One bag is pooled and its row written to stand memory (R291). -/
def State.runBag (s : State) (d : Node) (g : Gather) (t : Table) (b : Nat) : State :=
  let f := bits (d.cmd.slot 5) 8 8
  let rows := match s.bag d b with
    | some (l, c) => s.bagRows d l c
    | none => []
  let (acc, invalid, sat0) := s.poolBag d g t rows
  let (bytes, sat, nan) := pooledRow f acc
  let off := bits (d.cmd.slot 4) 0 19 + b * (ceilDiv (t.elems * fmtWidth f / 8) 16 * 16)
  let past := decide (0x80000 < off + bytes.length)
  let s1 := s.updTable g.table fun x => { x with
    invalidIds := x.invalidIds + BitVec.ofNat 64 invalid
    badBags := if (s.bag d b).isNone || past then x.badBags + 1 else x.badBags
    satEvents := x.satEvents + BitVec.ofNat 32 (sat0 + sat)
    nanEvents := x.nanEvents + BitVec.ofNat 32 nan }
  let us := s.gatherUnits g.port
  let u := us.getD (b % us.length) (4 * g.port)
  let s2 := (s1.count unGather u 0x01 1).count unGather u 0x02 rows.length
  if past then s2 else s2.updStand (outStand d.cmd) fun x => { x with mem := Cells.store x.mem off bytes }

/-- The bags of an admitted GATHER run: one that read an uncorrectable block, which `said` tells of if RDATA did not, is not
written. -/
def State.runGather (s : State) (n : Nat) (d : Node) (g : Gather) (t : Table) (said : Bool) : State :=
  let reads := (List.range (d.cmd.slot 1)).map (s.bagReads d g t)
  let lost := s.lostIn said d.uncorrectable reads.flatten
  let s0 := s.readsFor (g.port / 6) (.unit n) said reads.flatten
  let s1 := reads.zipIdx.foldl (fun u p =>
    if p.1.any fun r => lostAt lost r.1 r.2 then u else u.runBag d g t p.2) s0
  (s1.updNode n fun x => { x with result := some (if said || d.uncorrectable then stUncorrectable else stOk) }).nextFree

/-! ### The cold tier (R302–R304) -/

/-- The cached line of a row. -/
def Table.lineOf (t : Table) (r : Nat) : Option CacheLine := t.cache.find? fun x => x.row = r

/-- The fetches that an admitted GATHER still has to start leave, or wait for the translation of their page. -/
def State.startFills (s : State) (n : Nat) (g : Gather) : State :=
  g.waitingRows.foldl (fun u r =>
    match u.table g.table with
    | some t =>
      if t.fills.contains r then u
      else
        match u.translated t.owner (iovaOf t.backing.toNat + r * t.stride) t.stride false 5 n with
        | some v => v
        | none => u.updTable g.table fun x => { x with fills := x.fills ++ [r] }
    | none => u) s

/-- The line that a fill takes: a free way of its set, else the one filled earliest. -/
def Table.victim (t : Table) (r : Nat) : Nat :=
  let set := r % (t.cacheRows / 4)
  let ways := (List.range 4).map fun w => 4 * set + w
  match ways.find? fun l => !t.cache.any fun x => x.line = l with
  | some l => l
  | none => ((sortBy (fun x : CacheLine => x.order) (t.cache.filter fun x => ways.contains x.line)).head?.map (·.line)).getD (4 * set)

/-- A fill lands: the row goes into its line, and every GATHER that waits on it takes it. -/
def State.landFill (s : State) (id r : Nat) (bytes : List Byte) : State :=
  match s.table id with
  | some t =>
    let row := slice bytes 0 t.stride
    let l := t.victim r
    let h := t.base / 2 ^ 36 / 6
    let s1 := (s.setDev h (t.base + l * t.stride) row).setDev h (t.base + t.cacheRows * t.stride + 8 * l)
      (u64 (Config.coldTag s.freeCtr r).toNat)
    let s2 := (s1.updTable id fun x => { x with
      cache := x.cache.filter (fun y => y.line ≠ l) ++ [⟨r, l, x.fillOrder⟩]
      fillOrder := x.fillOrder + 1
      fills := x.fills.filter (· ≠ r) }).nextFree
    ({ s2 with mem := { s2.mem with gathers := s2.mem.gathers.map fun (g : Gather) =>
        if g.table = id ∧ g.waitingRows.contains r then
          { g with waitingRows := g.waitingRows.filter (· ≠ r), rows := g.rows ++ [(r, row)] }
        else g } }).count unHostPort 0 0x01 t.stride
  | none => s

end Sys2Proof.Machine
end

