-- ==== Sys2Proof/Machine/Commands.lean ====
section
/-! DEFINITION. The rows of commands at their executors (R95, R97, R123, R132, R175, R266, R285–R304, R339–R343, R349, R359,
R477). A command's effect is whole at its row; EXECUTOR_FINISH completes its node with the result left here. -/
namespace Sys2Proof.Machine

/-- The executor has ended a command with a status. -/
def State.result (s : State) (n st : Nat) : State := s.updNode n fun d => { d with result := some st }

/-- Adds 1 command and the bytes moved to the movers' counters of a half. -/
def State.moverCount (s : State) (n bytes : Nat) : State :=
  (s.count unMover (halfOfNode n) 0x01 1).count unMover (halfOfNode n) 0x02 bytes

/-- What an executor does before it starts a command (R287, R305): its device ranges pass the region check and its host ranges
are translated, or it waits, or its ring faults with TRANSLATION at the range's start. -/
def State.startRanges (s : State) (n : Nat) (d : Node) (dev host : List (Nat × Nat × Bool)) (go : State) : State :=
  let (r, a) := s.checkRanges d.ctx dev
  if r = 2 then s.nodeFault n fcTranslation (BitVec.ofNat 64 a) (s.holdersEntries n)
  else if r = 1 then s
  else
    match s.rangesTranslated d.ctx host 5 n with
    | some t => t
    | none => go

/-- Every memory mover of a half is fenced: its ids follow those of the half before (R432; DESIGN CHOICE, log 19). -/
def State.moversLost (s : State) (h : Nat) : Bool :=
  s.flt.unitsFenced.any (fun u => u.1 == 1) && (List.range (Config.moreMovers + 1)).all fun j =>
    s.flt.unitsFenced.contains (1, (Config.moreMovers + 1) * h + j)

/-- A command whose kind of unit is gone faults its ring with UNIT_LOST (R432, R436). -/
def State.onUnit (s : State) (n : Nat) (lost : Bool) (go : State) : State := if lost then s.nodeFault n fcUnitLost 0 [] else go

/-! ### NOP, LAUNCH, FENCE and MARK -/

/-- NOP completes OK at Dvorsor. -/
def State.nopStep (s : State) (n : Nat) : State :=
  match s.atExecutor n opNop with
  | some _ => s.result n stOk
  | none => s

/-- NOP_COMMAND (R95). -/
def execNopCommand (node : Nat) (s : State) : Host.Outcome State Fault Refusal := .next (s.nopStep node)

/-- A dispatched LAUNCH holds a landing and joins the open sets of the sectors where it is eligible. -/
def State.launchStep (s : State) (n : Nat) : State :=
  match s.atExecutor n opLaunch with
  | some d => ((s.setNode n { d with landing := true }).joinOpenSets n).checkLaunch n
  | none => s

/-- LAUNCH_COMMAND (R132). -/
def execLaunchCommand (node : Nat) (s : State) : Host.Outcome State Fault Refusal := .next (s.launchStep node)

/-- FENCE: its covered commands completed before it was dispatched. -/
def State.fenceStep (s : State) (n : Nat) : State :=
  match s.atExecutor n opFence with
  | some d => if d.pendingUnits = 0 then s.result n stOk else s
  | none => s

/-- FENCE_COMMAND (R97). -/
def execFenceCommand (node : Nat) (s : State) : Host.Outcome State Fault Refusal := .next (s.fenceStep node)

/-- MARK emits its pair and completes OK. -/
def State.markStep (s : State) (n : Nat) : State :=
  match s.atExecutor n opMark with
  | some d =>
    (s.markPair (halfOfNode n) (bits (d.cmd.slot 1) 0 2) 1 (ctxField d.ctx d.ring) (d.cmd.slot 0) 0 (d.cmd.wide 2)).result n stOk
  | none => s

/-- MARK_COMMAND (R477). -/
def execMarkCommand (node : Nat) (s : State) : Host.Outcome State Fault Refusal := .next (s.markStep node)

/-! ### COPY and UPDATE (R266, R296) -/

/-- The ranges of a COPY as block addresses. -/
def copyRanges (d : Node) : List (Nat × Nat × Bool) := [(d.cmd.wide 0, d.cmd.wide 4, false), (d.cmd.wide 2, copyOut d.cmd, true)]

/-- COPY at its mover. An error counts only for a source in device memory. -/
def State.copyStep (s : State) (n : Nat) (host : List Byte) (uncorrectable : Bool) : State :=
  match s.atExecutor n opCopy with
  | some d =>
    let bad := (uncorrectable || d.uncorrectable) && !isHostAddr (d.cmd.wide 0)
    s.onUnit n (s.moversLost (halfOfNode n)) (s.startRanges n d (deviceRanges (copyRanges d)) (s.hostRanges d.cmd)
      (((s.copyData n d host uncorrectable).moverCount n (d.cmd.wide 4)).result n (if bad then stUncorrectable else stOk)))
  | none => s

/-- COPY_COMMAND (R266). -/
def execCopyCommand (node : Nat) (hostData : List Byte) (uncorrectable : Bool) (s : State) : Host.Outcome State Fault Refusal :=
  .next (s.copyStep node hostData uncorrectable)

/-- The device ranges of an UPDATE that R287 checks. -/
def updateRanges (d : Node) (t : Table) : List (Nat × Nat × Bool) :=
  [(d.cmd.wide 2, 8 * d.cmd.slot 1, false), (d.cmd.wide 4, d.cmd.slot 1 * t.stride, false)]

/-- UPDATE at its mover: it waits for the UPDATEs and EPOCHs of its table dispatched before it and for a pending drain. -/
def State.updateStep (s : State) (n : Nat) (ids : List Nat) (host : List Byte) (bad : Option Nat) : State :=
  match s.atExecutor n opUpdate with
  | some d =>
    let id := d.cmd.slot 0
    match s.table id with
    | some t =>
      if t.state ≠ 1 ∨ s.earlierOn d opUpdate id ∨ s.earlierOn d opEpoch id then s
      else
        s.onUnit n (s.moversLost (halfOfNode n)) (s.startRanges n d (deviceRanges (updateRanges d t)) (s.hostRanges d.cmd)
          (((s.updateData n d id t ids host bad).moverCount n (d.cmd.slot 1 * t.stride)).result n
            (if bad.isSome || d.uncorrectable then stUncorrectable else stOk)))
    | none => s
  | none => s

/-- UPDATE_COMMAND (R296). -/
def execUpdateCommand (node : Nat) (hostIds : List Nat) (hostData : List Byte) (uncorrectable : Option Nat) (s : State) :
    Host.Outcome State Fault Refusal := .next (s.updateStep node hostIds hostData uncorrectable)

/-! ### GATHER and the table logic (R289–R304) -/

/-- The GATHER is admitted under the current epoch; of a cold table, the rows in the cache are read and the others wait. -/
def State.admitGather (s : State) (n : Nat) (d : Node) (t : Table) : State :=
  let id := d.cmd.slot 0
  let g0 : Gather := ⟨n, id, t.epoch, t.gatherPort (halfOfNode n), [], []⟩
  if !t.cold then { s with mem := { s.mem with gathers := s.mem.gathers ++ [g0] } }
  else
    let rows := ((s.bags d).map fun b => match b with
      | some (l, c) => ((s.bagRows d l c).map (·.1)).filter fun r => decide (r < t.rows)
      | none => []).flatten
    let misses := rows.filter fun r => (t.lineOf r).isNone
    let hits := (rows.eraseDups.filterMap fun r => (t.lineOf r).map fun x => (r, s.dev (t.base + x.line * t.stride) t.stride))
    let g := { g0 with waitingRows := misses.eraseDups, rows := hits }
    let s1 := hits.foldl (fun u p => u.portReads (g0.port / 6) (t.base + ((t.lineOf p.1).map (·.line * t.stride)).getD 0) t.stride)
      { s with mem := { s.mem with gathers := s.mem.gathers ++ [g] } }
    let s2 := (s1.updTable id fun x => { x with coldMisses := x.coldMisses + BitVec.ofNat 64 misses.length }).count unGather
      (4 * g.port) 0x03 misses.length
    s2.startFills n g

/-- An admitted GATHER goes on: it runs when every row it waits for has landed. -/
def State.gatherGoes (s : State) (n : Nat) (d : Node) (uncorrectable : Bool) : State :=
  match s.mem.gathers.find? fun g => g.node = n with
  | some g =>
    (match s.table g.table with
      | some t =>
        if g.waitingRows.isEmpty then
          s.onUnit n (s.gatherUnits g.port).isEmpty (s.runGather n d g t uncorrectable)
        else s.startFills n g
      | none => s)
  | none => s

/-- GATHER at the gather-reduce units. -/
def State.gatherStep (s : State) (n : Nat) (uncorrectable : Bool) : State :=
  match s.atExecutor n opGather with
  | some d =>
    if s.mem.gathers.any (fun g => g.node = n) then s.gatherGoes n d uncorrectable
    else
      match s.table (d.cmd.slot 0) with
      | some t =>
        let req := (devOf (d.cmd.wide 2), 16 * d.cmd.slot 1, false)
        s.onUnit n (s.gatherUnits (t.gatherPort (halfOfNode n))).isEmpty (s.startRanges n d [req] []
          (s.startRanges n d (s.gatherRanges d) [] ((s.admitGather n d t).gatherGoes n d uncorrectable)))
      | none => s
  | none => s

/-- GATHER_COMMAND (R292). -/
def execGatherCommand (node : Nat) (uncorrectable : Bool) (s : State) : Host.Outcome State Fault Refusal :=
  .next (s.gatherStep node uncorrectable)

/-- A cold-tier fetch lands; the GATHERs that waited only for it run. -/
def State.coldFill (s : State) (id r : Nat) (bytes : List Byte) : State :=
  match s.table id with
  | some t =>
    if t.fills.contains r then
      State.settleInvs ((s.mem.gathers.filter fun g => g.table = id && g.waitingRows.contains r).foldl (fun u g =>
        match u.atExecutor g.node opGather with
        | some d => u.gatherGoes g.node d false
        | none => u) (s.landFill id r bytes))
    else s
  | none => s

/-- COLD_FILL (R303). -/
def execColdFill (table row : Nat) (bytes : List Byte) (s : State) : Host.Outcome State Fault Refusal :=
  .next (s.coldFill table row bytes)

/-- EPOCH at the table logic: after the UPDATEs dispatched before it, the commit entry is written, then the switch. -/
def State.epochStep (s : State) (n : Nat) : State :=
  match s.atExecutor n opEpoch with
  | some d =>
    let id := d.cmd.slot 0
    match s.table id with
    | some t =>
      if s.earlierOn d opUpdate id then s
      else if t.state ≠ 1 then s.result n stStateReject
      else
        match s.journal d.ctx (halfOfNode n) d.seq id (ringNo d.ring % 8) 0 ((t.epoch + 1) % 2 ^ 32) with
        | (u, true) => (u.updTable id fun x => { x with epoch := (x.epoch + 1) % 2 ^ 32, state := 2 }).result n stOk
        | (u, false) => u
    | none => s
  | none => s

/-- EPOCH_COMMAND (R298). -/
def execEpochCommand (node : Nat) (s : State) : Host.Outcome State Fault Refusal := .next (s.epochStep node)

/-- The drain of a table ends when every GATHER admitted under the old epoch has completed. -/
def State.drainEnd (s : State) (id : Nat) : State :=
  match s.table id with
  | some t =>
    if t.state = 2 && !(s.mem.gathers.any fun g => g.table = id && g.epoch ≠ t.epoch) then s.openTable id else s
  | none => s

/-- EPOCH_DRAIN_END (R298). -/
def execEpochDrainEnd (table : Nat) (s : State) : Host.Outcome State Fault Refusal := .next (s.drainEnd table)

/-- The bitmap of a RESTORING table has been copied. -/
def State.restoreDone (s : State) (id : Nat) : State :=
  match s.table id with
  | some t => if t.state = 3 then s.openTable id else s
  | none => s

/-- TABLE_RESTORE_DONE (R299). -/
def execTableRestoreDone (table : Nat) (s : State) : Host.Outcome State Fault Refusal := .next (s.restoreDone table)

/-! ### SIGNAL and WAIT (R175, R349, R359) -/

/-- SIGNAL: a remote one joins its ring's order; a local one is journaled where it must be and leaves for its semaphore. -/
def State.signalStep (s : State) (n : Nat) : State :=
  match s.atExecutor n opSignal with
  | some d =>
    let amount := d.cmd.slot 2
    if d.signalState ≠ 0 then s
    else
      match targetOf (d.cmd.wide 0) with
      | some (_, some dev) =>
        (s.setNode n { d with signalState := 1 }).queueSignal
          ⟨d.ring, 0, d.seq, n, dev, BitVec.ofNat 64 (d.cmd.wide 0), amount, false, none⟩
      | some (id, none) =>
        if s.journals d.ctx id then
          match s.journal d.ctx (halfOfNode n) d.seq (sharedIndex id) (ringNo d.ring % 8) 1 amount with
          | (u, true) => (u.setNode n { d with signalState := 2 }).postLocal n d id 0 amount
          | (u, false) => u
        else (s.setNode n { d with signalState := 2 }).postLocal n d id 0 amount
      | none => s
  | none => s

/-- SIGNAL_COMMAND (R349). -/
def execSignalCommand (node : Nat) (s : State) : Host.Outcome State Fault Refusal := .next (s.signalStep node)

/-- WAIT: it leaves for its semaphore as TAKE or WAITGE. -/
def State.waitStep (s : State) (n : Nat) : State :=
  match s.atExecutor n opWait with
  | some d =>
    if d.signalState ≠ 0 then s
    else
      match targetOf (d.cmd.wide 0) with
      | some (id, none) =>
        let op : SemOp := if bit (d.cmd.slot 3) 0 then .take (d.cmd.slot 2) else .waitge (d.cmd.slot 2)
        (s.setNode n { d with signalState := 1 }).semSend
          ⟨id, .command d.ring, 0, 0, some n, 0, d.ctx, (s.context d.ctx).resetCount % 8, 0, op⟩
      | _ => s
  | none => s

/-- WAIT_COMMAND (R359). -/
def execWaitCommand (node : Nat) (s : State) : Host.Outcome State Fault Refusal := .next (s.waitStep node)

/-! ### HOSTSTEP (R341–R343) -/

/-- An earlier HOSTSTEP of the ring has not completed. -/
def State.earlierStep (s : State) (d : Node) : Bool :=
  (s.nodesOfRing d.ring).any fun p => p.2.live && p.2.cmd.opcode = opHostStep && decide (p.2.seq < d.seq)

/-- The 64-byte step record; its shape words are those of the dispatch. -/
def State.stepRecord (s : State) (d : Node) : List Byte :=
  u64 d.seq ++ u32 (d.cmd.slot 0) ++ u32 0 ++ u64 (d.cmd.wide 2) ++ u64 (d.firstDispatch.getD s.now) ++ slice d.stepShape 0 32

/-- HOSTSTEP: the step record is written, the step presented, and the host notified. -/
def State.hostStep (s : State) (n : Nat) : State :=
  match s.atExecutor n opHostStep with
  | some d =>
    let g := s.ring d.ring
    if g.stepSeq ≠ 0 ∨ s.earlierStep d then s
    else
      let box := g.mailbox.toNat
      s.startRanges n d [] (if box = 0 then [] else [(iovaOf box, 64, true)])
        (let s1 := if box = 0 then s else s.hostWrite (halfOfNode n) d.ctx (BitVec.ofNat 64 (iovaOf box)) (s.stepRecord d)
         let s2 := s1.updRing d.ring fun y => { y with
           stepSeq := d.seq
           stepCookie := BitVec.ofNat 64 (d.cmd.wide 2)
           stepId := BitVec.ofNat 32 (d.cmd.slot 0)
           stepFlag := true
           stepEvents := y.stepEvents + 1 }
         if g.maskNotify then s2 else s2.msix (halfOfNode n) (bits g.vectors.toNat 0 16))
  | none => s

/-- HOSTSTEP_COMMAND (R343). -/
def execHostStepCommand (node : Nat) (s : State) : Host.Outcome State Fault Refusal := .next (s.hostStep node)

/-- The reply that names the presented HOSTSTEP completes it; one that faulted keeps its fault. -/
def State.stepReply (s : State) (r v : Nat) : State :=
  let g := s.ring r
  if g.stepSeq = 0 ∨ v ≠ g.stepSeq then s
  else
    match s.nodeOf r g.stepSeq with
    | some n =>
      (match s.atExecutor n opHostStep with
        | some _ => (s.updRing r fun y => { y with stepSeq := 0 }).result n stOk
        | none => s)
    | none => s

/-- STEP_REPLY (R343). -/
def execStepReply (ring : Nat) (value : BitVec 64) (s : State) : Host.Outcome State Fault Refusal :=
  .next (s.stepReply ring value.toNat)

end Sys2Proof.Machine
end

