-- ==== Sys2Proof/Machine/PortOps.lean ====
section
/-! DEFINITION. Device memory ports, regions, the table registry, and what follows a translation or a page response (R22,
R280–R309, R430, R448, R455, R501–R505). -/
namespace Sys2Proof.Machine

/-! ### Blocks of device memory (R281–R285, R430) -/

/-- The sub-port of a port offset (R281). -/
def subportOf (a : Nat) : Nat := (bits a 7 4 ^^^ bits a 11 4 : Nat)

/-- A command that an executor holds has met an uncorrectable block; one that has ended but not completed takes the status. -/
def State.unitLostBlock (s : State) (n : Nat) : State :=
  s.updNode n fun d => { d with
    uncorrectable := true
    result := if !d.isLaunch && d.result = some stOk then some stUncorrectable else d.result }

/-- The ring engine met an uncorrectable block in a slot or an overflow edge block. -/
def State.slotLost (s : State) (r a : Nat) : State :=
  let g := s.ring r
  if !s.mayAccept r then s
  else
    match g.held with
    | some x => if x.chain.isNone then (s.commandFault r fcCommandRead (BitVec.ofNat 64 a) (some x.cmd)).pumpRing r else s
    | none =>
      if (g.reread || g.fetched.isEmpty) && decide (g.nextRead < g.tail) then
        (s.commandFault r fcCommandRead (BitVec.ofNat 64 a) none).pumpRing r
      else s

/-- A core met an uncorrectable block: in its kernel load, its parameter read or a transfer (R248). -/
def State.coreLostBlock (s : State) (c : Nat) : State :=
  match (s.core c).front with
  | .kernelLoad => s.kernelArrives c true
  | .paramRead => s.parametersArrive c true
  | _ =>
    match (s.core c).slots.head? with
    | some (j, _) => s.transferEnds c j true []
    | none => s

/-- What an uncorrectable read does to its consumer (R285). -/
def State.failConsumer (s : State) (a : Nat) : Consumer → State
  | .core c => s.coreLostBlock c
  | .unit n => s.unitLostBlock n
  | .shape n => s.shapeRead n true
  | .ringEngine r => s.slotLost r (a / 64 * 64)
  | .partialWrite n =>
    (match s.mem.partials.find? fun (w : PartialWrite) => w.node = n && w.addr / 64 = a / 64 with
      | some w => s.endPartial n w.addr false
      | none => s).updNode n fun d => { d with writeLost := true }
  | .scrubber => s

/-- A request to the controller to remap a lane: one at a time per port (R505). -/
def State.askRemap (s : State) (port sub lane : Nat) : State :=
  if (s.port port).remap.isSome then s.updPort port fun p => { p with remapWaiting := p.remapWaiting ++ [(sub, lane)] }
  else (s.updPort port fun p => { p with remap := some (sub, lane) }).emit (.laneRemapReq port sub lane)

/-- A corrected bit is attributed to its lane; more than 1,000 within 1 ms fail the lane. -/
def State.laneError (s : State) (port sub lane : Nat) : State :=
  let p := s.port port
  if p.lanesFailed.contains (sub, lane) then s
  else
    let l := (p.laneErrors.filter fun x => decide (s.now < x.2.2 + 1000000)) ++ [(sub, lane, s.now)]
    if 1000 < (l.filter fun x => x.1 = sub && x.2.1 = lane).length then
      (s.updPort port fun q => { q with
        laneErrors := l.filter fun x => !(x.1 = sub && x.2.1 = lane)
        lanesFailed := q.lanesFailed ++ [(sub, lane)] }).askRemap port sub lane
    else s.updPort port fun q => { q with laneErrors := l }

/-- The data lanes of the bits in which two blocks differ. -/
def dataLanesOf (raw fixed : List Byte) : List Nat :=
  ((List.range 64).map fun i => ((List.range 8).filter fun j =>
    ((raw.getD i 0) ^^^ (fixed.getD i 0)).getLsbD j).map fun j => 8 * i + j).flatten

/-- A read that corrected an error: counted, its bits attributed to their lanes. -/
def State.readCorrected (s : State) (port a : Nat) (raw fixed : List Byte) : State :=
  let s1 := (dataLanesOf raw (fixed.take 64)).foldl (fun t l => t.laneError port (subportOf (a / 64 * 64 % 2 ^ 36)) l) s
  (s1.updPort port fun p => { p with corrected := p.corrected + 1 }).count unMemoryPort port 0x06 1

/-- A corrected block: it is written back, unless a newer write of it has reached the sub-port first (R284). -/
def State.blockCorrected (s : State) (port a : Nat) (raw fixed : List Byte) (newer : Bool) : State :=
  let data := fixed.take 64
  let s1 := s.readCorrected port a raw fixed
  if newer then s1.updPort port fun p => { p with writebacksDropped := p.writebacksDropped + 1 }
  else
    ((s1.updPort port fun p => { p with writebacks := p.writebacks + 1 }).emit
      (.blockWrite (a / 64 * 64) data (rsCheck data))).count unMemoryPort port 0x02 1

/-- The decoded 72 bytes of a block that a sub-port read, and the bytes corrected; none when it is uncorrectable or the controller
answered RERR (R283, R285). -/
def decodeBlock (raw check : List Byte) (rerr : Bool) : Option (List Byte × List Nat) :=
  if rerr then none else rsDecode (slice raw 0 64) (slice check 0 8)

/-- A block returns from a sub-port for a consumer (R283). The reads of every consumer but the scrubber are counted by the command that
takes their data (DEDUCED, log 81). -/
def State.blockReturns (s : State) (port a : Nat) (w : Consumer) (raw check : List Byte) (rerr newer : Bool) : State :=
  let s1 := if w = .scrubber then s.count unMemoryPort port 0x01 1 else s
  match decodeBlock raw check rerr with
  | none => (s1.blockLost port a w).failConsumer a w
  | some (fixed, ps) => if ps.isEmpty then s1 else s1.blockCorrected port a (slice raw 0 64) fixed newer

/-- A block with bytes merged into it from an offset on. -/
def mergeBlock (block : List Byte) (off : Nat) (bs : List Byte) : List Byte :=
  (block.take off ++ bs ++ block.drop (off + bs.length)).take 64

/-- A partial write reads and decodes its block, merges its bytes and writes the block back; with an uncorrectable read it is not made
(R282, R285). -/
def State.mergeWrite (s : State) (a n : Nat) (bs raw check : List Byte) (rerr : Bool) : State :=
  let port := a / 2 ^ 36
  let base := a / 64 * 64
  let s1 := (s.count unMemoryPort port 0x01 1).count unMemoryPort port 0x03 1
  match decodeBlock raw check rerr with
  | none =>
    ((s1.blockLost port a (.partialWrite n)).endPartial n a false).updNode n fun d => { d with writeLost := true }
  | some (fixed, ps) =>
    let s2 := if ps.isEmpty then s1 else s1.readCorrected port a (slice raw 0 64) fixed
    let blk := mergeBlock (fixed.take 64) (a % 64) bs
    let s3 := ((s2.endPartial n a true).putDev a bs).emit (.blockWrite base blk (rsCheck blk))
    let s4 := s3.count unMemoryPort port 0x02 1
    if halfOfNode n = port / 6 then s4
    else ((s4.count unMemoryPort port 0x05 1).cross (halfOfNode n) 5 bs.length).cross (1 - halfOfNode n) 5 0

/-! ### Ranges of device memory (R112, R280) -/

/-- Two ranges meet. -/
def rangesMeet (a n b m : Nat) : Bool := decide (a < b + m ∧ b < a + n)

/-- A range meets a parameter store or a routing workspace (R112, R314), once bring-up has reserved them. -/
def State.meetsParams (s : State) (a n : Nat) : Bool :=
  ([(s.dv.paramBase0, 0x1000000), (s.dv.paramBase1, 0x1000000), ((s.engine 0).workspace, 0x10000000),
    ((s.engine 1).workspace, 0x10000000)] : List (Nat × Nat)).any fun r => r.1 != 0 && rangesMeet a n r.1 r.2

/-! ### Regions (R286, R288, R448) -/

/-- The region of 32 bytes. STATE is ignored. -/
def Region.ofBytes (l : List Byte) : Region :=
  ⟨field l 0 8, field l 8 8, field l 16 8, BitVec.ofNat 8 (field l 24 1), 0⟩

/-- The 32 bytes of a region. -/
def Region.bytes (r : Region) : List Byte :=
  u64 r.base ++ u64 r.size ++ u64 r.iova ++ [r.flags] ++ u8 r.state ++ List.replicate 6 0

def Region.valid (r : Region) : Bool := r.flags.getLsbD 0

/-- A region breaks R286. -/
def State.regionBad (s : State) (r : Region) : Bool :=
  bits r.base 40 24 != 0 || r.flags.toNat / 8 != 0 ||
    (r.valid && (r.base % 64 != 0 || r.size % 64 != 0 || r.size == 0 || decide (2 ^ 36 < r.size)
      || (if inAperture r.base then
            decide (2 ^ 40 < r.base + r.size) || r.iova % 4096 != r.base % 4096 || decide (2 ^ 57 < r.iova + r.size)
          else r.iova != 0 || !s.onPort r.base r.size || s.meetsParams r.base r.size)))

/-- A VALID region of a set meets one of another context while EXCLUSIVE_REGIONS is 1. -/
def State.regionTaken (s : State) (c : Nat) (rs : List Region) : Bool :=
  s.set.exclusiveRegions && rs.any fun r => r.valid && s.mem.regions.any fun p =>
    p.1 != c && (s.ctx p.1).isSome && p.2.any fun q => q.valid && rangesMeet r.base r.size q.base q.size

/-- The state of a region right after its write. -/
def Region.start (r : Region) : Region :=
  { r with state := if !r.valid then 0 else if inAperture r.base then 2 else 1 }

/-- The first 4 KiB page of a range that the pinned translation table lacks, over `n` pages at most. -/
def State.unpinned (s : State) (pasid : Option Nat) : Nat → Nat → Nat → Option Nat
  | 0, _, _ => none
  | n + 1, a, stop =>
    if stop ≤ a then none
    else
      match s.mem.pinned.find? fun t => t.covers pasid a with
      | some t => s.unpinned pasid n (t.iova + 2 ^ t.pageLog2) stop
      | none => some (a / 4096 * 4096)

/-- Sets the state of one region of a context. -/
def State.setRegion (s : State) (c i state : Nat) : State :=
  let rs := (Map.at s.mem.regions [] c).zipIdx.map fun p => if p.2 = i then { p.1 with state := state } else p.1
  { s with mem := { s.mem with regions := Map.put s.mem.regions c rs } }

/-- Each PENDING region of a context asks for its next page, or becomes READY; it becomes FAILED when the table is full. -/
def State.pin (s : State) (c : Nat) : State :=
  (Map.at s.mem.regions [] c).zipIdx.foldl (fun t p =>
    let r := p.1
    if r.state ≠ 2 then t
    else
      match t.unpinned (t.pasid c) (r.size / 4096 + 2) r.iova (r.iova + r.size) with
      | none => t.setRegion c p.2 1
      | some page =>
        if 262144 ≤ t.mem.pinned.length then t.setRegion c p.2 3
        else t.requestXlt (t.pasid c) c page (r.flags.getLsbD 2) 1 c page) s

/-- A write of a context's region set: the whole set is replaced. -/
def State.regionsOp (s : State) (c : Nat) (b : List Byte) : Except Word State := do
  refuse (b.length != 512) abLength
  let rs := (List.range 16).map fun i => Region.ofBytes (slice b (32 * i) 32)
  refuse (decide (1024 ≤ c) || (rs.any s.regionBad) || s.regionTaken c rs
    || (List.range 16).any fun i => !allZero (slice b (32 * i + 26) 6)) abRange
  refuse ((s.ctx c).isNone || s.dv.resetting == some c) abState
  let s1 := s.leaveRecords fun ctx purpose _ => ctx == c && purpose == 1
  let s2 := { s1 with mem := { s1.mem with
    regions := Map.put s1.mem.regions c (rs.map Region.start)
    pinned := s1.mem.pinned.filter fun t => t.pasid ≠ s.pasid c } }
  return s2.pin c

/-! ### The table registry (R293–R295, R448) -/

/-- The table that a descriptor describes. -/
def Table.ofBytes (l : List Byte) : Table where
  owner := field l 2 2
  format := field l 4 1
  flags := BitVec.ofNat 8 (field l 5 1)
  elems := field l 6 2
  base := field l 8 8
  rows := field l 16 4
  stride := field l 20 2
  state := if bit (field l 5 1) 0 then 3 else 1
  epoch := field l 24 4
  bitmap0 := field l 32 8
  bitmap1 := field l 40 8
  backing := BitVec.ofNat 64 (field l 48 8)
  cacheRows := field l 56 4
  invalidIds := 0
  badBags := 0
  satEvents := 0
  nanEvents := 0
  coldMisses := 0
  cache := []
  fills := []
  fillOrder := 0

/-- The 96 bytes of a table's descriptor. -/
def Table.bytes (id : Nat) (t : Table) : List Byte :=
  u16 id ++ u16 t.owner ++ u8 t.format ++ [t.flags] ++ u16 t.elems ++ u64 t.base ++ u32 t.rows ++ u16 t.stride ++ u8 t.state
    ++ u8 0 ++ u32 t.epoch ++ u32 0 ++ u64 t.bitmap0 ++ u64 t.bitmap1 ++ u64 t.backing.toNat ++ u32 t.cacheRows ++ u32 0
    ++ u64 t.invalidIds.toNat ++ u64 t.badBags.toNat ++ u32 t.satEvents.toNat ++ u32 t.nanEvents.toNat ++ u64 t.coldMisses.toNat

/-- The device ranges of a table: its rows or its cache with the tag array, and its bitmaps. -/
def Table.ranges (t : Table) : List (Nat × Nat) :=
  if t.cold then [(t.base, t.cacheRows * t.stride + t.cacheRows * 8)]
  else if t.live then [(t.base, 2 * t.rows * t.stride), (t.bitmap0, ceilDiv t.rows 8), (t.bitmap1, ceilDiv t.rows 8)]
  else [(t.base, t.rows * t.stride)]

/-- A number is a power of two. -/
def isPow2 (n : Nat) : Bool := n != 0 && n == 2 ^ Nat.log2 n

/-- A descriptor has a field out of range or a reserved one that is not 0. -/
def Table.bad (l : List Byte) (t : Table) : Bool :=
  decide (16384 ≤ field l 0 2) || decide (1024 ≤ t.owner) || t.format == 0 || decide (10 < t.format) || t.flags.toNat / 8 != 0
    || (t.live && t.cold) || t.elems == 0 || decide (4096 < t.elems) || (fmtGrouped t.format && t.elems % 16 != 0)
    || t.base % 64 != 0 || decide (2 ^ 40 ≤ t.base) || t.rows == 0 || t.stride % 16 != 0 || t.stride == 0
    || decide (4096 < t.stride)
    || decide (t.stride < fmtBytes t.format t.elems + (if fmtGrouped t.format then t.elems / 16 else 0))
    || field l 23 1 != 0 || field l 28 4 != 0 || field l 60 4 != 0 || !allZero (slice l 64 32)
    || (if t.live then t.bitmap0 % 64 != 0 || t.bitmap1 % 64 != 0 || decide (2 ^ 40 ≤ t.bitmap0) || decide (2 ^ 40 ≤ t.bitmap1)
        else t.bitmap0 != 0 || t.bitmap1 != 0)
    || (if t.cold then !isHostAddr t.backing.toNat || !blockAddrOk t.backing.toNat || !isPow2 t.cacheRows
          || decide (t.cacheRows < 4) || decide (2 ^ 24 < t.cacheRows)
        else t.backing != 0 || t.cacheRows != 0)

/-- A write of REGISTER. -/
def State.registerOp (s : State) (l : List Byte) : Except Word State := do
  refuse (l.length != 96) abLength
  let t := Table.ofBytes l
  let id := field l 0 2
  refuse (Table.bad l t || (t.ranges.any fun r => !s.onPort r.1 r.2 || s.meetsParams r.1 r.2)
    || (s.set.exclusiveRegions && t.flags.getLsbD 1)
    || (t.ranges.any fun r => s.mem.tables.any fun p => p.1 != id && p.2.ranges.any fun q => rangesMeet r.1 r.2 q.1 q.2)) abRange
  refuse ((s.table id).isSome || (s.ctx t.owner).isNone) abState
  return { s with mem := { s.mem with tables := Map.put s.mem.tables id t } }

/-- A write of UNREGISTER. -/
def State.unregisterOp (s : State) (id : Nat) : Except Word State := do
  match s.table id with
  | none => .error abRange
  | some t =>
    refuse (t.state != 1 || s.dv.nodes.any fun p =>
      p.2.state == 4 && (p.2.cmd.opcode == opGather || p.2.cmd.opcode == opUpdate || p.2.cmd.opcode == opEpoch)
        && p.2.cmd.slot 0 == id) abState
    return { s with mem := { s.mem with tables := Map.del s.mem.tables id } }

/-! ### Translations and page responses (R305–R309, R501) -/

/-- The firmware load ends with a refusal (R453, R455). -/
def State.fwRefused (s : State) (reason : Nat) : State :=
  { s with boot := { s.boot with
      fwState := 3
      fwReason := reason
      fwLoad := false
      fwDone := true
      fwDoneEvents := s.boot.fwDoneEvents + 1
      loadsRefused := s.boot.loadsRefused + 1 } }

/-- The bytes of the image that are fetched: no more than the longest image has (R454). -/
def Boot.fetchLength (b : Boot) : Nat := min b.fwLen.toNat 229888

/-- The next page of the firmware image is translated. -/
def State.fwTranslate (s : State) : State :=
  match s.missingPage none false (s.boot.fetchLength / 4096 + 2) (iovaOf s.boot.fwAddr.toNat)
      (iovaOf s.boot.fwAddr.toNat + s.boot.fetchLength) with
  | some p => s.requestXlt none 1024 p false 3 0 p
  | none => s

/-- A ring goes on after a translation: its PAGE_REQUEST stall ends, its buffer is translated further and acceptance goes on. -/
def State.ringTranslated (s : State) (r : Nat) : State :=
  let s1 := if (s.ring r).stall = slPageRequest then s.endStall r else s
  (s1.pumpRing r).seekSlots r

/-- What follows a translation, by the requester's purpose. -/
def State.afterXlt (s : State) (q : XltRequest) : State :=
  if q.purpose = 0 then s.ringTranslated q.who
  else if q.purpose = 1 then s.pin q.who
  else if q.purpose = 2 then (if (s.context q.who).tallyHostError then s else s.recoverTally q.who)
  else if q.purpose = 3 then s.fwTranslate
  else if q.purpose = 4 then s.unblock q.who
  else s

/-- A translation request is answered: the translation is kept, or a page request starts; a pinned region fails and a firmware
fetch is refused. -/
def State.xltRsp (s : State) (tag : Nat) (none' : Bool) (addr pageLog2 : Nat) (r w : Bool) : State :=
  match s.mem.requests.find? fun q => q.tag = tag with
  | none => s
  | some q =>
    let s1 := State.sendWaiting { s with mem := { s.mem with requests := s.mem.requests.erase q } }
    let x : Translation := ⟨q.pasid, q.iova / 2 ^ pageLog2 * 2 ^ pageLog2, pageLog2, addr / 2 ^ pageLog2 * 2 ^ pageLog2, r, w⟩
    let usable := !none' && (if q.write then w else r)
    if q.purpose = 1 then
      (if usable && (r || !((Map.at s.mem.regions [] q.who).any fun g => g.state == 2 && g.flags.getLsbD 1
            && decide (g.iova < q.iova + 4096 ∧ q.iova < g.iova + g.size))) then
        ({ s1 with mem := { s1.mem with pinned := s1.mem.pinned ++ [x] } }).afterXlt q
      else
        let rs := (Map.at s1.mem.regions [] q.who).map fun (g : Region) =>
          if g.state = 2 ∧ g.iova < q.iova + 4096 ∧ q.iova < g.iova + g.size then { g with state := 3 } else g
        { s1 with mem := { s1.mem with regions := Map.put s1.mem.regions q.who rs } })
    else if usable then
      ({ s1 with mem := { s1.mem with
        xlat := (s1.mem.xlat.filter fun (t : Translation) => !t.covers q.pasid q.iova) ++ [x] } }).afterXlt q
    else if q.purpose = 3 then s1.fwRefused 0x01
    else if q.purpose = 6 then s1
    else s1.joinRecord q

/-- A refused page request: the requester's ring faults with TRANSLATION, but for completion and Tally writes (R182). -/
def State.refused (s : State) (page : Nat) (q : Requester) : State :=
  if q.purpose = 0 then (s.commandFault q.who fcTranslation (hostAddr page) ((s.ring q.who).held.map (·.cmd))).pumpRing q.who
  else if q.purpose = 5 then s.nodeFault q.who fcTranslation (hostAddr page) (s.holdersEntries q.who)
  else s

/-- A ring whose executors no longer wait for a page goes on (R106, R307). -/
def State.endPageStall (s : State) (r : Nat) : State :=
  if s.pageStalled r || (s.ring r).stall ≠ 0 then s
  else ((s.event unRingEngine (s.homeHalf r) 0x03 slPageRequest (s.ringField r)).pumpRing r).seekSlots r

/-- A page request is answered: its requesters translate again, or fault. -/
def State.pageRsp (s : State) (group result : Nat) : State :=
  match Map.look s.mem.records group with
  | none => s
  | some x =>
    let s1 := State.admitWaiters { s with mem := { s.mem with records := Map.del s.mem.records group } }
    let rs := (x.requesters.filterMap fun q => if q.purpose = 5 then (s.node q.who).map (·.ring) else none).eraseDups
    let s2 := x.requesters.foldl (fun t q =>
      if result = 0 then t.requestXlt x.pasid x.ctx x.page q.write q.purpose q.who q.target else t.refused x.page q) s1
    rs.foldl State.endPageStall s2

/-- A range meets the pages of an invalidation. -/
def invMeets (iova size a n : Nat) : Bool := rangesMeet (iova / 2 ^ size * 2 ^ size) (2 ^ size) a n

/-- The host range of a transfer from a pinned host region: of its elements and of its scales. -/
def State.slotHost (s : State) (x : TransferSlot) : List (Nat × Nat) :=
  if x.op = 0x44 && inAperture x.src then
    ([(x.src, x.desc.srcSpan)] ++ if fmtGrouped x.desc.srcFmt then [(planeAt x.src x.desc.srcScale, x.desc.srcScaleSpan)] else []).filterMap
      fun a => (s.regionOf x.ctx a.1 a.2 false).map fun r => (r.iova + (a.1 - r.base), a.2)
  else []

/-- The cold fills on their way through a translation that an invalidation drops. -/
def State.fillsHit (s : State) (hit : Option Nat → Nat → Nat → Bool) : List (Nat × Nat) :=
  s.mem.tables.flatMap fun p => (p.2.fills.filter fun r =>
    hit (s.pasid p.2.owner) (iovaOf p.2.backing.toNat + r * p.2.stride) p.2.stride).map fun r => (p.1, r)

/-- The transfers on their way through a translation that an invalidation drops. -/
def State.slotsHit (s : State) (hit : Option Nat → Nat → Nat → Bool) : List (Nat × Nat) :=
  s.cores.flatMap fun p => (p.2.slots.filter fun x =>
    (s.slotHost x.2).any fun a => hit (s.pasid x.2.ctx) a.1 a.2).map fun x => (p.1, x.2.instr)

/-- An invalidation: every covered translation is dropped, READY pinned regions are revoked, and PENDING ones pin again. It is answered
when the accesses that used a dropped translation have ended. -/
def State.invReq (s : State) (itag : Nat) (pasid : Option Nat) (global : Bool) (iova size : Nat) : State :=
  let hit (p : Option Nat) (a n : Nat) : Bool := (global || p == pasid) && invMeets iova size a n
  let drop (t : Translation) : Bool := hit t.pasid t.iova (2 ^ t.pageLog2)
  let s1 := { s with mem := { s.mem with
    xlat := s.mem.xlat.filter fun t => !drop t
    pinned := s.mem.pinned.filter fun t => !drop t
    records := Map.each s.mem.records fun _ x => if hit x.pasid x.page 4096 then { x with invalidated := true } else x
    regions := Map.each s.mem.regions fun c rs => rs.map fun (r : Region) =>
      if r.state = 1 ∧ inAperture r.base ∧ hit (s.pasid c) r.iova r.size then { r with state := 4 } else r } }
  let s2 := s1.mem.regions.foldl (fun t p => t.pin p.1) s1
  let s3 := s2.rings.foldl (fun t p => t.seekSlots p.1) s2
  State.settleInvs { s3 with mem := { s3.mem with invWaiting := s3.mem.invWaiting ++ [⟨itag, s.fillsHit hit, s.slotsHit hit⟩] } }

/-- The node of a ring whose host range holds an address. -/
def State.nodeReading (s : State) (r a : Nat) : Option Nat :=
  ((s.nodesOfRing r).find? fun p => p.2.state = 4 && p.2.result.isNone &&
    ((s.hostRanges p.2.cmd).any (fun x => decide (x.1 ≤ a ∧ a < x.1 + x.2.1))
      || (p.2.cmd.opcode == opGather && (match s.table (p.2.cmd.slot 0) with
          | some t => t.cold && decide (iovaOf t.backing.toNat ≤ a ∧ a < iovaOf t.backing.toNat + t.rows * t.stride)
          | none => false)))).map (·.1)

/-- A read through the host port ends: its bytes are counted; an error is treated by its requester (R500). -/
def State.hostReadEnds (s : State) (r a : Nat) (error : Bool) (bytes : List Byte) : State :=
  let c := (s.ring r).ctx
  if isHostRing r && a = s.tallyAddr c 0x10 && (s.context c).tallyBase ≠ 0 then
    s.consumedRead c (if error then none else some (BitVec.ofNat 64 (field bytes 0 8)))
  else if !error then s.count unHostPort 0 0x01 bytes.length
  else
    match s.nodeReading r a with
    | some n => s.refused (a / 4096 * 4096) ⟨5, n, a, false⟩
    | none => if s.mayAccept r then s.refused (a / 4096 * 4096) ⟨0, r, a, false⟩ else s

end Sys2Proof.Machine
end

