-- ==== Sys2Proof/Machine/Ports.lean ====
section
/-! DEFINITION. The rows of memory ports, regions, tables and translation (R282–R288, R293–R309, R500, R501, R505). -/
namespace Sys2Proof.Machine

/-- REGIONS_WRITE (R286). -/
def execRegionsWrite (c : Nat) (bytes : List Byte) (s : State) : Host.Outcome State Fault Refusal :=
  .next (s.rootRow (.regionsWrite c bytes) (s.regionsOp c bytes))

/-- REGISTER (R295). -/
def execTableRegister (bytes : List Byte) (s : State) : Host.Outcome State Fault Refusal := .next (s.rootRow (.tableRegister bytes) (s.registerOp bytes))

/-- UNREGISTER (R295). -/
def execTableUnregister (id : BitVec 16) (s : State) : Host.Outcome State Fault Refusal :=
  .next (s.rootRow (.tableUnregister id) (s.unregisterOp id.toNat))

/-- RDATA (R283). -/
def execRdata (port : Nat) (address : Nat) (consumer : Consumer) (bytes : List Byte) (check : List Byte) (reply : ReadReply)
    (s : State) : Host.Outcome State Fault Refusal := .next (s.blockReturns port address consumer bytes check reply.rerr reply.newer)

/-- PARTIAL_WRITE (R282). -/
def execPartialWrite (address : Nat) (bytes : List Byte) (node : Nat) (block : Beat) (s : State) :
    Host.Outcome State Fault Refusal := .next (s.mergeWrite address node bytes block.data block.check block.rerr)

/-- SCRUB: nothing while the scrubber is off, nor at or above CAPACITY (R284). -/
def execScrub (port : Nat) (address : Nat) (bytes : List Byte) (check : List Byte) (reply : ReadReply) (s : State) :
    Host.Outcome State Fault Refusal :=
  .next (if s.set.scrubHours = 0 ∨ !s.onPort (address / 64 * 64) 64 then s
    else s.blockReturns port address .scrubber bytes check reply.rerr reply.newer)

/-- A lane remap is answered; the next request of the port leaves. A remap that the repair table holds was asked again for it and
adds nothing (R505, R525). -/
def State.remapAnswered (s : State) (port : Nat) (noSpare : Bool) : State :=
  match (s.port port).remap with
  | none => s
  | some (sub, lane) =>
    let a := port + 16 * sub
    let s1 := s.updPort port fun p => { p with remap := none }
    let s2 :=
      if noSpare then (s1.blockFlag .spare).log 0x0B 8 (a + 65536 * lane) 0 0 0 0
      else
        let t := s1.updPort port fun p => { p with lanesFailed := p.lanesFailed.erase (sub, lane) }
        if t.flt.entries.any fun e => e.kind == 0x0A && e.a == a && e.b == lane then t
        else (({ t with flt := { t.flt with lanesSpared := t.flt.lanesSpared + 1 } }).repairAdd 0x0A 0 a lane).log 0x0B 4
          (a + 65536 * lane) 0 0 0 0
    match (s2.port port).remapWaiting with
    | (u, l) :: rest => (s2.updPort port fun p => { p with remapWaiting := rest }).askRemap port u l
    | [] => s2

/-- LANE_REMAP_RSP (R505). -/
def execLaneRemapRsp (port : Nat) (noSpare : Bool) (s : State) : Host.Outcome State Fault Refusal :=
  .next (s.remapAnswered port noSpare)

/-- XLT_RSP (R501). -/
def execXltRsp (tag : Nat) (none_ : Bool) (addr : Nat) (pageLog2 : Nat) (readOk writeOk : Bool) (s : State) :
    Host.Outcome State Fault Refusal := .next (s.xltRsp tag none_ addr pageLog2 readOk writeOk)

/-- PAGE_RSP (R307). -/
def execPageRsp (group : Nat) (result : Nat) (s : State) : Host.Outcome State Fault Refusal := .next (s.pageRsp group result)

/-- INV_REQ (R306). -/
def execInvReq (itag : Nat) (pasid : Option Nat) (global : Bool) (iova : Nat) (sizeLog2 : Nat) (s : State) :
    Host.Outcome State Fault Refusal := .next (s.invReq itag pasid global iova sizeLog2)

/-- HOST_READ_COMPLETION (R500). -/
def execHostReadCompletion (ring : Nat) (address : BitVec 64) (error : Bool) (bytes : List Byte) (s : State) :
    Host.Outcome State Fault Refusal := .next (s.hostReadEnds ring (iovaOf address.toNat) error bytes)

end Sys2Proof.Machine
end

