-- ==== Sys2Proof/Machine/Islands.lean ====
section
/-! DEFINITION. Clock islands, regulators, gating and power telemetry (R400–R418, R497). -/
namespace Sys2Proof.Machine

/-- The effective ceiling of an island, in units of 10 mA, by the CEILING_DERATE that its last evaluation took (R405, R414). -/
def State.ceilOf (s : State) (t : Nat) : Nat := Map.at s.fuses.ceilings 0 t * (s.stand t).derate / 100

/-- A compartment is in RETAIN. -/
def State.retained (s : State) (i : Nat) : Bool := (s.comp i).gating == 2

/-- The islands of a compartment do not run: it is in RETAIN, or waking (R410). -/
def State.islandsOff (s : State) (i : Nat) : Bool := (s.comp i).gating != 0

/-- The voltage that an island requests: that of its step, and of the step that it asks to rise to (R404). -/
def State.islandRequest (s : State) (i t : Nat) : Nat :=
  let x := s.stand t
  match x.pendingStep with
  | some k => max (s.stepVolts i x.step) (s.stepVolts i k)
  | none => s.stepVolts i x.step

/-- The highest voltage that the islands of a compartment request; the retention level in RETAIN (R403). -/
def State.requested (s : State) (i : Nat) : Nat :=
  if s.retained i then 450
  else ((List.range 16).map fun j => s.islandRequest i (16 * i + j)).foldl max 0

/-- The regulator of a compartment falls to the highest request that remains (R403, R404 step 4). -/
def State.regulate (s : State) (i : Nat) : State := s.updComp i fun x => { x with supply := min x.supply (s.requested i) }

/-- BLOCK_HOT: some island has a trip in force (R497). -/
def State.blockHot (s : State) : Bool := s.stands.any fun p => p.2.trip

/-- An island moves to a step (R404); a raise that waited is withdrawn. -/
def State.moveStep (s : State) (t k : Nat) : State :=
  if (s.stand t).step = k then (s.updStand t fun x => { x with pendingStep := none }).regulate (compOfStand t)
  else
    let s1 := s.updStand t fun x => { x with
      step := k
      pendingStep := none
      lastChange := s.now }
    let s2 := { s1 with pwr := { s1.pwr with stepChanges := s1.pwr.stepChanges + 1 } }
    s2.regulate (compOfStand t)

/-- An island asks for a higher step: a regulator that holds the voltage already acknowledges at once (R404). -/
def State.raiseStep (s : State) (t k : Nat) : State :=
  if s.stepVolts (compOfStand t) k ≤ (s.comp (compOfStand t)).supply then s.moveStep t k
  else if (s.stand t).pendingStep = some k then s
  else
    (s.updStand t fun x => { x with pendingStep := some k }).emit
      (.regulatorRequest (compOfStand t) (s.stepVolts (compOfStand t) k))

/-- The predicted current of the next higher step of an island in compartment c fits under the ceiling (R406). -/
def State.currentFits (s : State) (c k i ceil : Nat) : Bool :=
  decide (100 * (i * stepFreq (k - 1) * s.stepVolts c (k - 1)) ≤ 95 * (ceil * stepFreq k * s.stepVolts c k))

/-- The headroom of R412, without a trip or a sensor fault. -/
def State.headroomAtTemp (s : State) (i ceil temp : Nat) : Nat :=
  let hi := if ceil = 0 then 0 else 255 * (ceil - i) / ceil
  let ht := min 255 (255 * (s.fuses.tjThrottle - temp) / 60)
  min hi ht

/-- One evaluation of an island (R406), with the sensors' readings: the CEILING_DERATE at its start comes into force (R414, R418).
An island whose compartment is in RETAIN or waking, or that has run for less than 100 ns, makes none. A fast drop in the same cycle
stands for the period that begins (R418). -/
def State.evaluate (s : State) (t i reading : Nat) : State :=
  let x := s.stand t
  if s.islandsOff (compOfStand t) || decide (s.now < x.runSince + 100) then s
  else
    let ceil := Map.at s.fuses.ceilings 0 t * s.set.ceilingDerate / 100
    let temp := if x.sensorFault then s.fuses.tjCrit else reading
    let trip := decide (s.fuses.tjCrit ≤ temp) || (x.trip && decide (s.fuses.tjCrit < temp + 10))
    let hotter := decide (s.fuses.tjThrottle < temp)
    let above := decide (ceil < i)
    let ready := decide (0 < x.step ∧ x.lastChange + 8000 ≤ s.now)
    let fits := s.currentFits (compOfStand t) x.step i ceil
    let cool := decide (temp + 5 ≤ s.fuses.tjThrottle)
    let s1 :=
      if trip then s.moveStep t 4
      else if above || hotter then s.moveStep t (min (x.step + 1) 4)
      else if ready && fits && cool then s.raiseStep t (x.step - 1)
      else s
    let s2 := s1.updStand t fun y => { y with
      current := i
      temp := temp
      trip := trip
      currentLimited := !trip && (above || (!hotter && ready && !fits))
      thermalLimited := trip || hotter || (!above && ready && !cool)
      headroom := if trip || x.sensorFault then 0 else s.headroomAtTemp i ceil temp
      headroomAt := some s.now
      derate := s.set.ceilingDerate
      fastDropped := x.fastDropped && decide (x.lastChange = s.now) }
    { s2 with pwr := { s2.pwr with
        trips := if trip && !x.trip then s2.pwr.trips + 1 else s2.pwr.trips
        hottest := max s2.pwr.hottest temp } }

/-- ISLAND_EVALUATION (R406). -/
def execIslandEvaluation (stand : Nat) (current : Nat) (temp : Nat) (s : State) : Host.Outcome State Fault Refusal :=
  .next (s.evaluate stand current temp)

/-- The fast path of R407: above 110 % of the effective ceiling over 100 ns the step falls by one, once a period. -/
def State.dropFast (s : State) (t current : Nat) : State :=
  let x := s.stand t
  if s.islandsOff (compOfStand t) || x.fastDropped || decide (4 ≤ x.step) || decide (10 * current ≤ 11 * s.ceilOf t) then s
  else
    let s1 := (s.updStand t fun y => { y with fastDropped := true }).moveStep t (x.step + 1)
    { s1 with pwr := { s1.pwr with fastDrops := s1.pwr.fastDrops + 1 } }

/-- FAST_DROP (R407). -/
def execFastDrop (stand : Nat) (current : Nat) (s : State) : Host.Outcome State Fault Refusal := .next (s.dropFast stand current)

/-- The regulator reaches the voltage that an island waits for and acknowledges: the island's loop moves (R404). In a waking
compartment the wake is complete (R410). -/
def State.acknowledged (s : State) (t : Nat) : State :=
  let i := compOfStand t
  if (s.comp i).gating = 1 then s.awake i
  else
    match (s.stand t).pendingStep with
    | some k => (s.updComp i fun x => { x with supply := max x.supply (s.stepVolts i k) }).moveStep t k
    | none => s

/-- REGULATOR_ACK (R404, R410). -/
def execRegulatorAck (stand : Nat) (s : State) : Host.Outcome State Fault Refusal := .next (s.acknowledged stand)

/-- SENSOR_FAULT: the island behaves as at TJ_CRIT, and the fault is counted in the log (R408, R419). -/
def execSensorFault (stand : Nat) (s : State) : Host.Outcome State Fault Refusal :=
  .next (if (s.stand stand).sensorFault then s
    else (s.updStand stand fun x => { x with sensorFault := true }).log 0x06 0 stand 0 0 0 0)

/-- RETAIN_ENTRY: a compartment that is FREE enters RETAIN (R409, R410). -/
def execRetainEntry (comp : Nat) (s : State) : Host.Outcome State Fault Refusal :=
  .next (if (s.comp comp).holder.isSome || s.retained comp then s
    else
      let s1 := (s.updComp comp fun x => { x with gating := 2, supply := 450 }).updSector (sectorOfComp comp) fun k =>
        { k with waiting := k.waiting.filter fun w => compOfCore w.core ≠ comp }
      (List.range 16).foldl (fun t j => t.updStand (16 * comp + j) fun x => { x with
        pendingStep := none
        headroomAt := none }) s1)

/-- TELEMETRY_REFRESH: the power of the last 1 ms, in mW, and of each compartment (R414, R415). -/
def execTelemetryRefresh (powerMilliwatts : Nat) (compPower : List Nat) (s : State) : Host.Outcome State Fault Refusal :=
  let p := s.pwr
  let s1 := { s with pwr := { p with
    now := powerMilliwatts
    peak := max p.peak powerMilliwatts
    energy := p.energy + BitVec.ofNat 64 powerMilliwatts
    tempMax := p.hottest
    hottest := 0 } }
  .next ((compPower.take 64).zipIdx.foldl (fun t c => t.updComp c.2 fun x => { x with power := c.1 }) s1)

end Sys2Proof.Machine
end

