-- ==== Sys2Proof/Machine/RepairOps.lean ====
section
/-! DEFINITION. The Meridian link's lanes, the control cores, and the repair table's load and self-test findings (R428, R431,
R438–R440, R505, R514, R523, R525). -/
namespace Sys2Proof.Machine

/-! ### Meridian lanes (R428, R513, R514): physical lanes 0 to 135, of which 128 to 135 are spares 0 to 7 -/

def Faults.meridianFailed (f : Faults) (dir : Nat) : List Nat := if dir = 0 then f.meridianFailed0 else f.meridianFailed1
def Faults.meridianSpares (f : Faults) (dir : Nat) : Nat := if dir = 0 then f.meridianSpares0 else f.meridianSpares1
def Faults.meridianNarrow (f : Faults) (dir : Nat) : Bool := if dir = 0 then f.meridianNarrow0 else f.meridianNarrow1

/-- The state of one direction: failed lanes, spares gone through, narrowed. -/
def Faults.setMeridian (f : Faults) (dir : Nat) (failed : List Nat) (spares : Nat) (narrow : Bool) : Faults :=
  if dir = 0 then { f with meridianFailed0 := failed, meridianSpares0 := spares, meridianNarrow0 := narrow }
  else { f with meridianFailed1 := failed, meridianSpares1 := spares, meridianNarrow1 := narrow }

/-- The next spare lane of a direction that has not failed, from spare `j` on. -/
def nextSpare (failed : List Nat) (j : Nat) : Option Nat :=
  (List.range 8).find? fun i => decide (j ≤ i) && !failed.contains (128 + i)

/-- A lane of a direction is failed: a spare takes it over, or the direction narrows to 64 data lanes. A spare lane that no
lane uses is only marked. -/
def State.meridianLaneFails (s : State) (dir lane : Nat) : State :=
  let f := s.flt
  let failed := f.meridianFailed dir ++ [lane]
  let used := f.meridianSpares dir
  if (f.meridianFailed dir).contains lane then s
  else if 128 + used ≤ lane then { s with flt := f.setMeridian dir failed used (f.meridianNarrow dir) }
  else
    let a := dir % 2 + 2 * (lane % 256)
    match nextSpare failed used with
    | some j =>
      let s1 := { s with flt := { f.setMeridian dir failed (j + 1) (f.meridianNarrow dir) with lanesSpared := f.lanesSpared + 1 } }
      (s1.repairAdd 6 0 a j).log 0x0C 4 a 0 0 0 0
    | none =>
      let s1 := ({ s with flt := f.setMeridian dir failed 8 true }).repairAdd 6 0 a 0xF
      let s2 := if f.meridianNarrow dir then s1 else (s1.blockFlag .spare).blockFlag .degraded
      s2.log 0x0C 8 a 0 0 0 0

/-- Good lanes of a direction. -/
def Faults.goodLanes (f : Faults) (dir : Nat) : Nat := 136 - (f.meridianFailed dir).length

/-- The link is down with fewer than 64 good lanes: every enabled ring enters FAULTED. -/
def State.meridianCheck (s : State) : State :=
  if s.flt.meridianDown || (decide (64 ≤ s.flt.goodLanes 0) && decide (64 ≤ s.flt.goodLanes 1)) then s
  else
    let s1 := { s with flt := { s.flt with meridianDown := true } }
    (s1.rings.filter fun p => p.2.enabled).foldl (fun t p => t.commandFault p.1 fcMeridianDown 0 none) s1

/-- A lane test of a direction: a lane that fails two consecutive tests is failed. -/
def State.laneTest (s : State) (dir : Nat) (failed : List Nat) : State :=
  let old := if dir = 0 then s.flt.meridianSuspect0 else s.flt.meridianSuspect1
  let bad := failed.filter fun l => decide (l < 136)
  let s1 := { s with flt :=
    if dir = 0 then { s.flt with meridianSuspect0 := bad } else { s.flt with meridianSuspect1 := bad } }
  ((bad.filter old.contains).foldl (fun t l => t.meridianLaneFails dir l) s1).meridianCheck

/-! ### Control cores (R431): four and a spare in each half, the spare last -/

/-- A control core that firmware runs on is started, or held in reset. -/
def State.setStarted (s : State) (n : Nat) (on : Bool) : State :=
  { s with boot := { s.boot with controlCores := Map.each s.boot.controlCores fun m x => if m = n then { x with started := on } else x } }

/-- A control core fails: it is held in reset, and the spare or the remaining cores take its roles. -/
def State.controlCoreFails (s : State) (half core : Nat) : State :=
  let id := 8 * half + core
  if s.flt.controlFailed.contains id then s
  else
    let taken := if half = 0 then s.flt.spareTaken0 else s.flt.spareTaken1
    let free := !taken && !s.flt.controlFailed.contains (8 * half + 4)
    let a := half % 2 + 2 * (core % 8)
    let s1 := (({ s with flt := { s.flt with controlFailed := s.flt.controlFailed ++ [id] } }).setStarted (5 * half + core) false).repairAdd 9 0 a 0
    if core = 4 && !taken then s1.log 0x0F 0 a 0 0 0 0
    else if free then
      let f := s1.flt
      let f1 := { f with takeovers := f.takeovers + 1 }
      (({ s1 with flt := if half = 0 then { f1 with spareTaken0 := true } else { f1 with spareTaken1 := true } }).setStarted (5 * half + 4)
        true).log 0x0F 5 a 0 0 0 0
    else (s1.blockFlag .degraded).log 0x0F 5 a 0 0 0 0

/-! ### Self-test findings (R523, R525) -/

/-- The table holds an entry of a repair. -/
def State.holdsEntry (s : State) (kind a b : Nat) : Bool := s.flt.entries.any fun e => e.kind == kind && e.a == a && e.b == b

/-- An entry is added unless the table holds it; the flag is the caller's. -/
def State.addEntry (s : State) (kind a b : Nat) : State :=
  if s.holdsEntry kind a b then s
  else if 4092 ≤ s.flt.entries.length then s.blockFlag .degraded
  else
    { s with flt := { s.flt with
        entries := s.flt.entries ++ [RepairEntry.mk kind 0 a b s.now]
        generation := s.flt.generation + 1 } }

/-- A failing physical position of a stand: the unused spare is marked failed; another is replaced by an unused spare, else
its logical core is fenced. -/
def State.finding (s : State) (t pos : Nat) : State :=
  let x := s.stand t
  if pos = x.sparePos then
    (if x.spareState = 0 then s.updStand t fun y => { y with spareState := 3 } else s)
  else if x.spareState = 0 then
    (s.updStand t fun y => { y with sparePos := pos, spareState := 1 }).addEntry 1 t pos
  else
    let c := 16 * t + (if pos < x.sparePos then pos else pos - 1)
    if s.fenced c then s
    else
      let u := (s.fenceOne c).addEntry 2 c 0
      u.blockFlag .spare

/-- A failing row of an array is repaired; a core memory without a spare row left fails its core. -/
def State.rowFinding (s : State) (a row : Nat) : State :=
  let used := Map.at s.flt.sparesRows 0 a
  if s.flt.entries.any fun e => e.kind == 5 && e.a == a && e.b % 65536 == row then s
  else if used < arraySpares a then
    let s1 := { s with flt := { s.flt with sparesRows := Map.put s.flt.sparesRows a (used + 1) } }
    s1.addEntry 5 a (row % 65536 + 65536 * used)
  else if a < 32768 then
    let c := a % 16384
    s.finding (c / 16) ((s.stand (c / 16)).position (c % 16))
  else s

/-- Every finding is applied; REPAIR is set once when an entry was added. -/
def State.applyFindings (s : State) : State :=
  let s1 := s.boot.rowFindings.foldl (fun t r => t.rowFinding r.1 r.2) s
  let s2 := s1.boot.findings.foldl (fun t p => t.finding p.1 p.2) s1
  if s2.flt.generation = s.flt.generation then s2 else s2.blockFlag .repair

/-- The map of every stand as fuse data gives it (R18, R444), with its cores that were fenced one by one in service. -/
def State.fuseMap (s : State) : State :=
  let keys := (s.stands.map (·.1) ++ s.fuses.spares.map (·.1)).eraseDups
  keys.foldl (fun u t =>
    let pos := Map.at u.fuses.spares 16 t
    let x := u.stand t
    let back := if x.standFenced || (u.comp (compOfStand t)).fenced then []
      else (coresOfStand t).filter fun c => x.fencedMask.getLsbD (c % 16)
    let v := u.updStand t fun y => { y with
      sparePos := pos
      spareState := if pos = 16 then 0 else 1
      substituting := none
      draining := false
      fencedMask := if y.standFenced || (u.comp (compOfStand t)).fenced then y.fencedMask else 0 }
    back.foldl (fun w c => (w.setCore c Core.reset).dispatchLoop c) v) s

/-! ### The repair table (R438–R440) -/

/-- An entry of 16 bytes. -/
def RepairEntry.ofBytes (l : List Byte) : RepairEntry := ⟨field l 0 1, field l 1 1, field l 2 2, field l 4 4, field l 8 8⟩

def RepairEntry.bytes (e : RepairEntry) : List Byte := u8 e.kind ++ u8 e.flags ++ u16 e.a ++ u32 e.b ++ u64 e.time

/-- An entry is as R439 lays it out. -/
def RepairEntry.ok (e : RepairEntry) : Bool :=
  decide (e.flags < 2) &&
    match e.kind with
    | 1 => decide (e.a < 1024 ∧ e.b ≤ 16)
    | 2 => decide (e.a < 16384) && e.b == 0
    | 3 => decide (e.a < 1024) && e.b == 0
    | 4 => decide (e.a < 64) && e.b == 0
    | 5 => decide (e.a < 49154 ∧ e.b < 2 ^ 24)
    | 6 => decide (e.a < 512 ∧ e.a / 2 < 136 ∧ (e.b < 8 ∨ e.b = 15))
    | 7 => decide (e.a < 512 ∧ e.a / 16 < 17) && e.b == 0
    | 8 => decide (e.a < 8) && e.b == 0
    | 9 => decide (e.a < 16 ∧ e.a / 2 < 5) && e.b == 0
    | 10 => decide (e.a < 256 ∧ e.a % 16 < 12 ∧ e.b < 512)
    | 11 => decide (e.a < 512) && e.b == 0 && (e.a % 2 == 1 || decide (e.a / 2 < 48))
    | _ => false

/-- The bytes that CHECK covers: the header's first 40 and the entries. -/
def tableChecked (l : List Byte) : List Byte := slice l 0 40 ++ l.drop 48

/-- The whole repair table. -/
def State.repairTable (s : State) : List Byte :=
  let es := (s.flt.entries.map RepairEntry.bytes).flatten
  let head := u16 0x0301 ++ u16 s.flt.entries.length ++ u32 s.flt.generation.toNat ++ s.fuses.uid0 ++ s.fuses.uid1
  head ++ u32 (crc32c (head ++ es)).toNat ++ u32 0 ++ es

/-- A loaded entry takes effect: a control core is held in reset and the half's spare works in its place (R431). A repair already in
force changes nothing. -/
def State.applyEntry (s : State) (e : RepairEntry) : State :=
  match e.kind with
  | 1 => s.updStand e.a fun x => { x with sparePos := e.b, spareState := 1 }
  | 2 => if s.fenced e.a then s else s.fenceOne e.a
  | 3 =>
    let u := (coresOfStand e.a).foldl (fun t c => if t.fenced c then t else t.fenceOne c) s
    u.updStand e.a fun x => { x with standFenced := true, fencedMask := 0xFFFF }
  | 4 =>
    let u := (coresOfComp e.a).foldl (fun t c => if t.fenced c then t else t.fenceOne c) s
    u.updComp e.a fun x => { x with fenced := true }
  | 5 => { s with flt := { s.flt with
      sparesRows := Map.put s.flt.sparesRows e.a (max (Map.at s.flt.sparesRows 0 e.a) (e.b / 65536 + 1)) } }
  | 6 =>
    let dir := e.a % 2
    let lane := e.a / 2
    let f := s.flt
    if (f.meridianFailed dir).contains lane then s
    else
      let used := if e.b = 15 then 8 else max (f.meridianSpares dir) (e.b + 1)
      { s with flt := f.setMeridian dir (f.meridianFailed dir ++ [lane]) used (f.meridianNarrow dir || e.b == 15) }
  | 7 => s.updXport (e.a % 8) fun x =>
    if bit e.a 3 then { x with lanesFailed1 := [e.a / 16] } else { x with lanesFailed0 := [e.a / 16] }
  | 8 => s.updXport e.a fun x => { x with failed := true }
  | 9 =>
    let half := e.a % 2
    let core := e.a / 2
    let id := 8 * half + core
    if s.flt.controlFailed.contains id then s
    else
      let f := { s.flt with controlFailed := s.flt.controlFailed ++ [id] }
      let s1 := ({ s with flt := if half = 0 then { f with spareTaken0 := f.spareTaken0 || decide (core < 4) }
        else { f with spareTaken1 := f.spareTaken1 || decide (core < 4) } }).setStarted (5 * half + core) false
      if core < 4 && !s.flt.controlFailed.contains (8 * half + 4) then s1.setStarted (5 * half + 4) true else s1
  | 10 =>
    let u := s.updPort (e.a % 16) fun p => { p with lanesFailed := p.lanesFailed.filter (· ≠ (e.a / 16, e.b)) ++ [(e.a / 16, e.b)] }
    u.askRemap (e.a % 16) (e.a / 16) e.b
  | 11 => { s with flt := { s.flt with unitsFenced := s.flt.unitsFenced.filter (· ≠ (e.a % 2, e.a / 2)) ++ [(e.a % 2, e.a / 2)] } }
  | _ => s

/-- REPAIR_LOAD: the substitutions are undone, the loaded entries applied in order, and the findings and the block's other
repairs applied again; what the loaded table does not hold is added. -/
def State.loadTable (s : State) (l : List Byte) : Except Word State := do
  let n := field l 2 2
  let es := (List.range n).map fun i => RepairEntry.ofBytes (slice l (48 + 16 * i) 16)
  refuse (decide (l.length < 48) || field l 0 2 != 0x0301 || decide (4092 < n) || l.length != 48 + 16 * n
    || slice l 8 16 != s.fuses.uid0 || slice l 24 16 != s.fuses.uid1
    || field l 40 4 != (crc32c (tableChecked l)).toNat || es.any fun e => !e.ok) abRange
  refuse (s.rings.any fun p => p.2.enabled) abState
  let mine := s.flt.entries.filter fun e => decide (3 ≤ e.kind)
  let s1 := s.fuseMap
  let s2 := { s1 with flt := { s1.flt with
    entries := es
    generation := BitVec.ofNat 32 (field l 4 4) } }
  let s3 := es.foldl State.applyEntry s2
  let s4 := mine.foldl (fun t (e : RepairEntry) => t.addEntry e.kind e.a e.b) s3
  let s5 := s4.applyFindings
  return (if s5.flt.generation = s4.flt.generation ∧ s4.flt.generation ≠ s3.flt.generation then s5.blockFlag .repair else s5)

end Sys2Proof.Machine
end

