-- ==== Sys2Proof/Machine/Repairing.lean ====
section
/-! DEFINITION. The rows of faults, fencing and repair (R420–R440). -/
namespace Sys2Proof.Machine

/-- CORE_PROBE: a core that holds a grant, or waits for one, is probed (R420). -/
def execCoreProbe (core : Nat) (s : State) : Host.Outcome State Fault Refusal :=
  .next (if !s.fenced core && ((s.core core).grant.isSome
      || (s.sector (sectorOfCore core)).waiting.any fun w => w.core = core) then
    s.updCore core fun k => { k with probing := true }
  else s)

/-- PROBE_TIMEOUT: a probed core that does not answer is fenced (R420, R422). -/
def execProbeTimeout (core : Nat) (s : State) : Host.Outcome State Fault Refusal :=
  .next (if (s.core core).probing then s.fenceCore core 0x02 0 else s)

/-- A write of FENCE_CORE. -/
def State.fenceOp (s : State) (c : Nat) : Except Word State := do
  refuse (decide (16384 ≤ c)) abRange
  refuse (s.fenced c) abState
  return s.fenceCore c 0x12 1

/-- FENCE_CORE (R422, R435). -/
def execFenceCore (value : BitVec 16) (s : State) : Host.Outcome State Fault Refusal := .next (s.rootRow (.fenceCore value) (s.fenceOp value.toNat))

/-- A write of UNFENCE_CORE; while a context reset recalls the core's grants it waits for the end of the reset (R530). -/
def State.unfenceOp (s : State) (c : Nat) (passes : Bool) : State :=
  if 16384 ≤ c then s.answered (.error abRange)
  else if s.dv.resetting.isSome && s.flt.resetCores.contains c && s.fenced c then
    { s with flt := { s.flt with unfences := s.flt.unfences ++ [(c, passes)] } }
  else
    match s.unfence c passes with
    | some t => s.answered (.ok t)
    | none => s.answered (.error abState)

/-- UNFENCE_CORE (R440). -/
def execUnfenceCore (value : BitVec 16) (selfTestPasses : Bool) (s : State) : Host.Outcome State Fault Refusal :=
  .next (s.rootServes (.unfenceCore value selfTestPasses) (s.unfenceOp value.toNat selfTestPasses))

/-- RECALL_ACK: the core has flushed and returned to its dispatch loop (R423). -/
def execRecallAck (core : Nat) (s : State) : Host.Outcome State Fault Refusal :=
  .next (if (s.core core).recalling.isSome then (s.recallCore core).recallAnswered core else s)

/-- RECALL_ACK_TIMEOUT: a core that does not acknowledge is unresponsive (R420). -/
def execRecallAckTimeout (core : Nat) (s : State) : Host.Outcome State Fault Refusal :=
  .next (if (s.core core).recalling.isSome then s.fenceCore core 0x02 0 else s)

/-- STAND_DRAINED (R426). -/
def execStandDrained (stand : Nat) (s : State) : Host.Outcome State Fault Refusal :=
  .next (if s.standDrained stand then s.endDrain stand else s)

/-- ISLAND_FAULT (R425). -/
def execIslandFault (stand : Nat) (s : State) : Host.Outcome State Fault Refusal := .next (s.fenceStand stand 0x05 0)

/-- REGULATOR_FAULT (R425). -/
def execRegulatorFault (comp : Nat) (s : State) : Host.Outcome State Fault Refusal := .next (s.fenceComp comp 0x07 0)

/-- A node, edge, landing or command queue word is lost: its ring faults, and the row of an array is mapped out (R427, R434). -/
def State.nodeLost (s : State) (n : Nat) (queueWord : Bool) : State :=
  match s.node n with
  | some d =>
    if !d.live then s
    else if queueWord then (s.log 0x09 6 n 0 (s.ringField d.ring) fcQueueLost (d.seq % 2 ^ 32)).nodeFault n fcQueueLost 0 []
    else
      let a := arrayNode (halfOfNode n)
      ((s.log 0x08 6 a (n % 131072) (s.ringField d.ring) fcNodeLost (d.seq % 2 ^ 32)).nodeFault n fcNodeLost 0 []).repairRow a
        (n % 131072)
  | none => s

/-- NODE_LOST (R434): the code of a node, edge, landing or command queue word found an uncorrectable error, or one that it
corrected, which is counted against its row (R419, R421). -/
def execNodeLost (node : Nat) (word : NodeWord) (s : State) : Host.Outcome State Fault Refusal :=
  .next (match word.ecc with
  | .clean => s
  | .corrected row => s.correctedRow (if word.queueWord then arrayQueue (halfOfNode node) else arrayNode (halfOfNode node)) row
  | .uncorrectable => s.nodeLost node word.queueWord)

/-- UNIT_FAULT: the unit is fenced, and the other units of its kind execute its work again (R432). -/
def execUnitFault (mover : Bool) (unit : Nat) (s : State) : Host.Outcome State Fault Refusal :=
  let u := (b2n mover, unit)
  let a := b2n mover + 2 * (unit % 256)
  .next (if s.flt.unitsFenced.contains u then s
    else ((({ s with flt := { s.flt with unitsFenced := s.flt.unitsFenced ++ [u] } }).repairAdd 11 0 a 0).blockFlag .fence).log
      0x10 1 a 0 0 0 0)

/-- MERIDIAN_LANE_TEST (R428). -/
def execMeridianLaneTest (dir : Nat) (failed : List Nat) (s : State) : Host.Outcome State Fault Refusal :=
  .next (s.laneTest dir failed)

/-- REPAIR_LOAD (R440, R525). -/
def execRepairLoad (bytes : List Byte) (s : State) : Host.Outcome State Fault Refusal := .next (s.rootRow (.repairLoad bytes) (s.loadTable bytes))

end Sys2Proof.Machine
end

