-- ==== Sys2Proof/Machine/TraceOps.lean ====
section
/-! DEFINITION. Control of the trace stream, global counters, samples, the control cores' halts, and DEBUG_LOCK (R458, R459,
R464–R490). -/
namespace Sys2Proof.Machine

/-- A BOOL: 0 or 1. -/
def isBool (v : Nat) : Bool := decide (v < 2)

/-! ### Starting and stopping the stream (R480–R484) -/

/-- TRACE_ENABLE is set: WRITE_INDEX and TRIGGER_INDEX are 0, WRAPPED is clear, the trigger is armed and a SYNC record starts
the stream. -/
def State.startTrace (s : State) : State :=
  State.syncRecord { s with dbg := { s.dbg with
    traceEnable := true
    traceState := 1
    wrapped := false
    writeIndex := 0
    triggerIndex := 0
    traceBlock := []
    armed := true
    windowLeft := 0 } }

/-- PAD records complete the last block of the buffer. -/
def padTrace : Nat → State → State
  | 0, s => s
  | n + 1, s => if s.dbg.traceBlock.isEmpty then s else padTrace n (s.sinkRecord (List.replicate 16 0))

/-- The losses of a half that no LOSS record has counted are written as one. -/
def State.reportLoss (s : State) (h : Nat) : State :=
  let d := s.dbg
  let n := if h = 0 then d.lost0 else d.lost1
  if n = 0 then s
  else (({ s with dbg := if h = 0 then { d with lost0 := 0 } else { d with lost1 := 0 } })).sinkRecord
    (lossRecord h n (if h = 0 then d.lossAt0 else d.lossAt1))

/-- In STOP_ON_FULL one LOSS record, in the reserved slot, counts the losses of both halves. -/
def State.reportAllLoss (s : State) : State :=
  let d := s.dbg
  if d.lost0 + d.lost1 = 0 then s
  else
    let h := if d.lost0 = 0 then 1 else 0
    let at' := if d.lost0 = 0 then d.lossAt1 else if d.lost1 = 0 then d.lossAt0 else min d.lossAt0 d.lossAt1
    ({ s with dbg := { d with lost0 := 0, lost1 := 0 } }).sinkRecord (lossRecord h (d.lost0 + d.lost1) at')

/-- TRACE_ENABLE is cleared: the losses not yet reported and the pads are written; inside the post-trigger window the STATE is
STOPPED (R490). -/
def State.stopTrace (s : State) : State :=
  if !s.dbg.traceEnable then s
  else
    let inWindow := s.dbg.traceMode == 2 && s.dbg.traceState == 2
    let s1 := if s.dbg.traceMode = 1 then s.reportAllLoss else (s.reportLoss 0).reportLoss 1
    let s2 := padTrace 4 s1
    { s2 with dbg := { s2.dbg with
        traceEnable := false
        armed := false
        windowLeft := 0
        traceState := if inWindow then 3 else 0 } }

/-- A write of TRACE_ENABLE (R483). -/
def State.traceEnableOp (s : State) (v : Nat) : Except Word State := do
  refuse (!isBool v) abRange
  let d := s.dbg
  refuse (v == 1 && (s.set.debugLock.getLsbD 1 || (d.sink == 1 && d.bufferSize.toNat == 0) || (d.traceMode == 1 && d.sink == 0)
    || (d.traceMode == 2 && d.sink == 1 && decide (d.slots ≤ d.triggerPost)))) abState
  return (if v = 1 then s.startTrace else s.stopTrace)

/-- A write of TRIGGER_NOW (R481). -/
def State.triggerNowOp (s : State) (v : Nat) : Except Word State := do
  refuse (!isBool v) abRange
  return (if v = 1 then s.trigger 5 0 0 else s)

/-! ### Global counters (R470–R472) -/

/-- A select names a counter that R471 lists, or turns it off. -/
def selectOk (w : Nat) : Bool :=
  let cls := bits w 24 8
  let idx := bits w 8 16
  let ev := bits w 0 8
  let unit (limit last : Nat) : Bool := (decide (idx < limit) || idx == 0xFFFF) && decide (1 ≤ ev ∧ ev ≤ last)
  w == 0 ||
    match cls with
    | 0x01 => (decide (idx < 16384) || idx == 0xFFFF) && (decide (1 ≤ ev ∧ ev ≤ 0x0D) || decide (0x10 ≤ ev ∧ ev ≤ 0x1A))
    | 0x02 => unit 8 5
    | 0x03 => unit 2 4
    | 0x04 => unit 48 3
    | 0x05 => unit 2 2
    | 0x06 => unit 2 3
    | 0x07 => unit 2 3
    | 0x08 => unit 12 6
    | 0x09 => unit 2 6
    | 0x0A => unit 8 3
    | 0x0C => unit 1 4
    | 0x0D => unit 2 2
    | _ => false

/-- A write of GC_SELECT: the counters whose select changed read 0 (R470, R490). -/
def State.gcSelectOp (s : State) (l : List Word) : Except Word State := do
  refuse (l.length != 256) abLength
  refuse (l.any fun w => !selectOk w.toNat) abRange
  return { s with dbg := { s.dbg with
    gcSelect := l
    gcValues := List.zipWith (fun (p : Word × Word) v => if p.1 = p.2 then v else 0) (s.dbg.gcSelect.zip l) s.dbg.gcValues } }

/-- A write of GC_CLEAR (R472). -/
def State.gcClearOp (s : State) (v : Nat) : Except Word State := do
  refuse (v != 1) abRange
  return { s with dbg := { s.dbg with gcValues := List.replicate 256 0 } }

/-! ### Per-core counters and samples (R464–R468, R475, R476) -/

/-- An event code of R465. -/
def coreEventOk (e : Nat) : Bool := decide (e ≤ 0x0D) || decide (0x10 ≤ e ∧ e ≤ 0x1A)

/-- A write of CORE_EVENTS: the counters of the cores that the context holds are reset at their next grant (R466, R468). -/
def State.coreEventsOp (s : State) (c : Nat) (l : List (BitVec 16)) : Except Word State := do
  refuse (l.length != 8) abLength
  refuse (l.any fun w => bits w.toNat 8 7 != 0 || !coreEventOk (w.toNat % 256)) abRange
  refuse (s.ctx c).isNone abState
  let s1 := s.updCtx c fun x => { x with coreEvents := l }
  let mine := ((List.range 64).filter fun i => (s.comp i).holder = some c)
  return (mine.map coresOfComp).flatten.foldl (fun t k => t.updCore k fun x => { x with counterReset := true }) s1

/-- The records of one core in a PC sample. -/
def State.pcGroup (s : State) (c tag : Nat) : List (List Byte) :=
  let k := s.core c
  let (stall, pc) := k.stallState
  let ctx := match s.grantNode c with
    | some (_, d) => ctxField d.ctx d.ring
    | none => 0
  let core := u16 (c + b2n k.grant.isSome * 2 ^ 14)
  let head := [0x01] ++ u8 tag ++ core ++ u16 stall ++ u16 pc ++ u16 ctx ++ u16 0 ++ u32 s.now
  let sel := match (s.comp (compOfCore c)).holder with
    | some h => (s.context h).coreEvents
    | none => []
  let counters := (List.range 8).filterMap fun i =>
    let e := (sel.getD i 0).toNat
    if e % 256 = 0 then none
    else some ([0x02] ++ u8 tag ++ core ++ u8 (i + b2n (bit e 15) * 16) ++ u8 e ++ u16 0 ++ u64 (k.counters.toList.getD i 0).toNat)
  head :: (if s.dbg.sampleControl.getLsbD 2 then counters else [])

/-- A PC sample of a stand (R476). A fenced core holds no state to show (R411). -/
def State.pcSample (s : State) (t : Nat) : State :=
  let w := s.dbg.sampleControl.toNat
  if !s.tracing || bits w 8 5 = 0 || !bit s.dbg.sampleComps.toNat (compOfStand t) || s.islandsOff (compOfStand t) then s
  else
    let tag := (s.stand t).sampleTag
    let s1 := s.updStand t fun x => { x with sampleTag := x.sampleTag + 1 }
    ((coresOfStand t).filter fun c => !s.fenced c).foldl (fun u c => u.trace (halfOfCore c) (s.pcGroup c tag.toNat)) s1

/-! ### Halted harts (R488, R489) -/

/-- A half starts to drain; its timers are suspended. -/
def State.suspendHalf (s : State) (h : Nat) : State :=
  if s.timersHeld h then s
  else { s with dbg := if h = 0 then { s.dbg with suspended0 := some s.now } else { s.dbg with suspended1 := some s.now } }

/-- The drain of a half ends: its timers go on from where they stopped. -/
def State.releaseHalf (s : State) (h : Nat) : State :=
  match (if h = 0 then s.dbg.suspended0 else s.dbg.suspended1) with
  | none => s
  | some t =>
    let n := s.now - t
    let d := { s.dbg with drained := s.dbg.drained.filter (· ≠ h) }
    let d := if h = 0 then { d with suspended0 := none } else { d with suspended1 := none }
    let later (r : Nat) (g : Ring) : Ring :=
      if s.homeHalf r = h then { g with held := g.held.map fun (x : HeldCommand) => { x with since := x.since + n } } else g
    let longer (i : Nat) (x : Compartment) : Compartment :=
      if halfOfComp i = h then { x with assignedAt := x.assignedAt + n } else x
    let s1 := { s with
      dbg := d
      rings := Map.each s.rings later
      dv := { s.dv with comps := Map.each s.dv.comps longer } }
    s1.rejoin h

/-- HALT_MODE and the halted harts decide which halves drain. -/
def State.applyHalts (s : State) : State :=
  let wants (h : Nat) : Bool := !s.dbg.halted.isEmpty &&
    (s.dbg.haltMode == 2 || (s.dbg.haltMode == 1 && s.dbg.halted.any fun n => n / 5 == h))
  [0, 1].foldl (fun t h => if wants h then t.suspendHalf h else t.releaseHalf h) s

/-- A hart halts. One held in reset does not. -/
def State.haltHart (s : State) (n : Nat) : State :=
  if 10 ≤ n ∨ s.dbg.halted.contains n ∨ s.set.debugLock.getLsbD 0 ∨ s.flt.controlFailed.contains (8 * (n / 5) + n % 5) then s
  else
    let s1 := { s with dbg := { s.dbg with halted := s.dbg.halted ++ [n] } }
    let s2 := if s.dbg.haltMode = 0 then s1 else if s.dbg.haltMode = 1 then s1.suspendHalf (n / 5) else
      (s1.suspendHalf 0).suspendHalf 1
    s2

/-- A hart resumes; the resume of the last halted hart ends the drain. -/
def State.resumeHart (s : State) (n : Nat) : State :=
  let s1 := { s with dbg := { s.dbg with halted := s.dbg.halted.filter (· ≠ n) } }
  if s1.dbg.halted.isEmpty then (s1.releaseHalf 0).releaseHalf 1 else s1

/-- A half is drained when every core of it holds no grant or is stopped in TAKE or WAITGE. -/
def State.isDrained (s : State) (h : Nat) : Bool :=
  s.cores.all fun p => halfOfCore p.1 != h || p.2.grant.isNone ||
    p.2.inflight.any fun i => i.started && (i.op == 0x64 || i.op == 0x65)

/-- DRAIN_STATE: 0 none, 1 draining, 2 drained. -/
def State.drainState (s : State) : Nat :=
  let hs := [0, 1].filter s.timersHeld
  if hs.isEmpty then 0 else if hs.all s.dbg.drained.contains then 2 else 1

/-- An access of the debug module ends (R488). A write of dmcontrol halts or resumes a hart as RISC-V External Debug Support
0.13.2 says (PRESUMED, log 6); what a read returns is free. -/
def State.dmiOp (s : State) (address : Byte) (op : Nat) (data : Word) : State :=
  let d := s.dbg
  let done (t : State) (result : Nat) (v : Word) : State :=
    { t with dbg := { t.dbg with
      dbgBusy := false
      dbgDone := true
      dbgDoneEvents := t.dbg.dbgDoneEvents + 1
      dbgResult := result
      dbgData := v } }
  let s1 := { s with dbg := { d with dmi := BitVec.ofNat 64 (address.toNat * 2 ^ 40 + op % 4 * 2 ^ 32 + data.toNat) } }
  if s.set.debugLock.getLsbD 0 ∨ (op ≠ 1 ∧ op ≠ 2) then done s1 2 0
  else if op = 1 then
    done { s1 with freeCtr := s1.freeCtr + 1 } 0 (Config.debugRead s1.freeCtr address)
  else if address ≠ 0x10 then done s1 0 d.dbgData
  else if !data.getLsbD 0 then done { s1 with dbg := { s1.dbg with dmactive := false, hartsel := 0 } } 0 d.dbgData
  else if !d.dmactive then done { s1 with dbg := { s1.dbg with dmactive := true } } 0 d.dbgData
  else
    let n := bits data.toNat 16 10 + 1024 * bits data.toNat 6 10
    let s2 := { s1 with dbg := { s1.dbg with hartsel := n } }
    done (if data.getLsbD 31 then s2.haltHart n else if data.getLsbD 30 then s2.resumeHart n else s2) 0 d.dbgData

/-! ### DEBUG_LOCK (R458, R459, R474) -/

/-- Setting the TRACE bit discards what the FIFOs hold, counting it as lost, and stops the stream. -/
def State.lockTrace (s : State) : State :=
  let s1 := [0, 1].foldl (fun t h => t.traceLost h (s.dbg.fifo.filter fun p => p.1 = h).length)
    { s with dbg := { s.dbg with fifo := [] } }
  let n := (s.dbg.fifo.filter fun p => p.1 < 2).length
  let s2 := if n = 0 then { s with dbg := { s.dbg with fifo := [] } } else s1
  { s2 with dbg := { s2.dbg with
      traceState := if s2.dbg.traceEnable then 3 else s2.dbg.traceState
      windowLeft := 0
      armed := false } }

/-- Setting CC_DEBUG resumes every halted hart. -/
def State.lockDebug (s : State) : State := s.dbg.halted.foldl State.resumeHart s

/-- A write of DEBUG_LOCK sets bits only. -/
def State.debugLockOp (s : State) (v : Byte) : Except Word State := do
  let old := s.set.debugLock
  let w := v &&& 7
  refuse (old &&& w != old &&& 7) abState
  let s1 := { s with set := { s.set with debugLock := old ||| w } }
  let s2 := if w.getLsbD 0 && !old.getLsbD 0 then s1.lockDebug else s1
  return (if w.getLsbD 1 && !old.getLsbD 1 then s2.lockTrace else s2)

end Sys2Proof.Machine
end

