-- ==== Sys2Proof/Machine/Tracing.lean ====
section
/-! DEFINITION. The rows of debug, trace and counters (R458, R467–R490, R510, R512). -/
namespace Sys2Proof.Machine

/-- HART_BREAKPOINT: a breakpoint halts its hart, unless debug is locked (R459, R488, R489). -/
def execHartBreakpoint (hart : Nat) (s : State) : Host.Outcome State Fault Refusal := .next (s.haltHart hart)

/-- HALF_DRAINED (R489). -/
def execHalfDrained (half : Nat) (s : State) : Host.Outcome State Fault Refusal :=
  .next (if s.timersHeld half && s.isDrained half && !s.dbg.drained.contains half then
    { s with dbg := { s.dbg with drained := s.dbg.drained ++ [half] } }
  else s)

/-- TRACE_ENABLE (R483). -/
def execTraceEnable (value : Byte) (s : State) : Host.Outcome State Fault Refusal :=
  .next (s.rootRow (.traceEnable value) (s.traceEnableOp value.toNat))

/-- TRIGGER_NOW (R481). -/
def execTriggerNow (value : Byte) (s : State) : Host.Outcome State Fault Refusal :=
  .next (s.rootRow (.triggerNow value) (s.triggerNowOp value.toNat))

/-- WINDOW_END: the stream stops after the post-trigger window (R481). -/
def execWindowEnd (s : State) : Host.Outcome State Fault Refusal :=
  .next (if s.dbg.traceMode = 2 ∧ s.dbg.traceState = 2 ∧ s.dbg.windowLeft = 0 then
    { s with dbg := { s.dbg with traceState := 3 } }
  else s)

/-- PC_SAMPLE_TIMER (R476). -/
def execPcSampleTimer (stand : Nat) (s : State) : Host.Outcome State Fault Refusal := .next (s.pcSample stand)

/-- SYNC_RECORD_TIMER (R476). -/
def execSyncRecordTimer (s : State) : Host.Outcome State Fault Refusal :=
  .next (if s.tracing && !s.dbg.streamClosed then s.syncRecord else s)

/-- TRACE_READY_CHANGE: the stream stalls or goes on (R473, R510). -/
def execTraceReadyChange (ready : Bool) (s : State) : Host.Outcome State Fault Refusal :=
  .next (drainTrace s.dbg.fifo.length { s with dbg := { s.dbg with traceReady := ready } })

/-- GC_SELECT (R470). -/
def execGcSelect (selects : List Word) (s : State) : Host.Outcome State Fault Refusal := .next (s.rootRow (.gcSelect selects) (s.gcSelectOp selects))

/-- GC_CLEAR (R470). -/
def execGcClear (value : Byte) (s : State) : Host.Outcome State Fault Refusal := .next (s.rootRow (.gcClear value) (s.gcClearOp value.toNat))

/-- CORE_EVENTS (R468). -/
def execCoreEvents (c : Nat) (events : List (BitVec 16)) (s : State) : Host.Outcome State Fault Refusal :=
  .next (s.rootRow (.coreEvents c events) (s.coreEventsOp c events))

/-- A write of EVENT_FREEZE (R487). -/
def State.eventFreezeOp (s : State) (v : Nat) : Except Word State := do
  refuse (!isBool v) abRange
  return { s with dbg := { s.dbg with eventFreeze := v == 1 } }

/-- EVENT_FREEZE (R487). -/
def execEventFreeze (value : Byte) (s : State) : Host.Outcome State Fault Refusal :=
  .next (s.rootRow (.eventFreeze value) (s.eventFreezeOp value.toNat))

/-- TEST_PORT_ACCESS: while SCAN is locked only the mandatory instructions are answered (R458, R512). -/
def execTestPortAccess (ir : Nat) (mandatory : Bool) (s : State) : Host.Outcome State Fault Refusal :=
  .next (if s.set.debugLock.getLsbD 2 && !mandatory then s
    else
      let v := Config.tapOut s.freeCtr ir
      { s with
        dbg := { s.dbg with tapIr := ir }
        freeCtr := s.freeCtr + 1
        outputs := s.outputs ++ [.testPort ir v] })

end Sys2Proof.Machine
end

