-- ==== Sys2Proof/Machine/Entries.lean ====
section
/-! DEFINITION. Entries of the Catalogue: identity, contexts, rings, Dvorsor and the Tally (R20, R21, R41–R53, R75–R80, R109,
R152–R156, R160, R170, R340, R346). -/
namespace Sys2Proof.Machine

/-- The access right of an entry in one kind of view (R12, R46). -/
inductive Access where
  | no | ro | rw | wo
  deriving DecidableEq, Repr

/-- An entry: its type code, the size of an element, the longest value and whether every value has that length (R42), its access
in the privileged view and in the unprivileged ones (`sees` says in which of these it exists), its value, and the effect of a
write of a value whose length fits. -/
structure CatEntry where
  type : Nat
  elem : Nat
  max : Nat
  exact : Bool
  p : Access
  u : Access
  sees : Nat → Bool
  get : List Byte
  put : List Byte → Except Word State

/-! ### Forms of entries -/

/-- A write of an entry that has no write: never reached, since check 3 of R48 refuses it. -/
def noPut : List Byte → Except Word State := fun _ => .error 0x0C000003

/-- A read-only entry of a fixed length. -/
def roEntry (type n : Nat) (u : Bool) (v : List Byte) : CatEntry :=
  ⟨type, 1, n, true, .ro, if u then .ro else .no, fun _ => true, v, noPut⟩

def roU8 (u : Bool) (v : Nat) : CatEntry := roEntry 0x02 1 u (u8 v)
def roU16 (u : Bool) (v : Nat) : CatEntry := roEntry 0x03 2 u (u16 v)
def roU32 (u : Bool) (v : Nat) : CatEntry := roEntry 0x04 4 u (u32 v)
def roU64 (u : Bool) (v : Nat) : CatEntry := roEntry 0x05 8 u (u64 v)
def roTime (u : Bool) (v : Nat) : CatEntry := roEntry 0x09 8 u (u64 v)
def roOctets (u : Bool) (v : List Byte) : CatEntry := roEntry 0x0A v.length u v

/-- A read-only array. -/
def roArray (elem max : Nat) (u : Bool) (v : List Byte) : CatEntry :=
  ⟨0x0C, elem, max, false, .ro, if u then .ro else .no, fun _ => true, v, noPut⟩

/-- A number that the privileged view may write. -/
def rwNum (type n : Nat) (u : Bool) (v : Nat) (put : Nat → Except Word State) : CatEntry :=
  ⟨type, 1, n, true, .rw, if u then .ro else .no, fun _ => true, leBytes n v, fun l => put (leNat l)⟩

def rwBool (u : Bool) (v : Bool) (put : Nat → Except Word State) : CatEntry := rwNum 0x01 1 u (b2n v) put
def rwU8 (u : Bool) (v : Nat) (put : Nat → Except Word State) : CatEntry := rwNum 0x02 1 u v put
def rwU16 (u : Bool) (v : Nat) (put : Nat → Except Word State) : CatEntry := rwNum 0x03 2 u v put
def rwU32 (u : Bool) (v : Nat) (put : Nat → Except Word State) : CatEntry := rwNum 0x04 4 u v put
def rwU64 (u : Bool) (v : Nat) (put : Nat → Except Word State) : CatEntry := rwNum 0x05 8 u v put

/-- A number that is only written. -/
def woNum (type n : Nat) (put : Nat → Except Word State) : CatEntry :=
  ⟨type, 1, n, true, .wo, .no, fun _ => true, [], fun l => put (leNat l)⟩

/-- A byte string of a fixed length that is only written. -/
def woOctets (n : Nat) (put : List Byte → Except Word State) : CatEntry :=
  ⟨0x0A, 1, n, true, .wo, .no, fun _ => true, [], put⟩

/-- A fixed-length array that the privileged view may write. -/
def rwArray (elem n : Nat) (u : Bool) (v : List Byte) (put : List Byte → Except Word State) : CatEntry :=
  ⟨0x0C, elem, n, false, .rw, if u then .ro else .no, fun _ => true, v, put⟩

/-- The entry exists, in the unprivileged views, only for some contexts. -/
def CatEntry.onlyFor (e : CatEntry) (f : Nat → Bool) : CatEntry := { e with sees := f }

/-- The elements of an array of numbers. -/
def numsOf (n : Nat) (l : List Byte) : List Nat := (pieces n (l.length / n) l).map leNat

/-! ### Identity and the device id (R21, R53) -/

/-- The bytes of a text. -/
def textBytes (t : String) : List Byte := t.toList.map fun c => BitVec.ofNat 8 c.toNat

/-- BLOCK_VERSION. -/
def blockVersion : Nat := 0x00030100

/-- Some exchange port is enabled. -/
def State.portEnabled (s : State) : Bool := s.ecl.ports.any fun p => p.2.enable

/-- LOGICAL_CORES_UP (R21). -/
def State.coresUp (s : State) : Nat := 16384 - ((List.range 16384).filter s.fenced).length

/-- A write of DEVICE_ID (R21). -/
def State.deviceIdOp (s : State) (v : Nat) : Except Word State := do
  refuse (decide (0x3FFF < v)) abRange
  refuse s.portEnabled abState
  return { s with set := { s.set with deviceId := v } }

/-- The entries of 0x1000 to 0x1100. -/
def State.identityEntry (s : State) (idx sub : Nat) : Option CatEntry :=
  match idx, sub with
  | 0x1000, 1 => some ⟨0x0B, 1, 256, false, .ro, .ro, fun _ => true, textBytes "Newabex Microsystems", noPut⟩
  | 0x1000, 2 => some ⟨0x0B, 1, 256, false, .ro, .ro, fun _ => true, textBytes "Falhorn FX-8", noPut⟩
  | 0x1000, 3 => some (roU32 true blockVersion)
  | 0x1000, 4 => some (roU16 true 0x0301)
  | 0x1000, 5 => some (roEntry 0x01 1 true (u8 (b2n s.boot.ready)))
  | 0x1001, 1 => some (roU32 true s.boot.fwVersion.toNat)
  | 0x1001, 2 => some (roOctets false (slice s.boot.fwDigest 0 48))
  | 0x1001, 3 => some (roTime false s.boot.fwLoadTime)
  | 0x1002, 1 => some (roOctets false (slice s.fuses.uid0 0 16))
  | 0x1002, 2 => some (roOctets false (slice s.fuses.uid1 0 16))
  | 0x1002, 3 => some (roU8 false s.fuses.revision)
  | 0x1100, 1 => some (rwU16 true s.set.deviceId s.deviceIdOp)
  | 0x1100, 2 => some (roU8 true s.straps.build0)
  | 0x1100, 3 => some (roU16 false s.coresUp)
  | _, _ => none

/-! ### Contexts (R75, R76, R155, R156) -/

/-- A write that a context under reset refuses (R530), or one whose object does not exist. -/
def State.ctxBusy (s : State) (c : Nat) : Bool := (s.ctx c).isNone || s.dv.resetting == some c

/-- Some ring of the context is not DISABLED. -/
def State.ringsOn (s : State) (c : Nat) : Bool := (s.ringsOf c).any fun r => (s.ring r).enabled

/-- A write of a field of a context. -/
def State.putCtx (s : State) (c : Nat) (range busy : Bool) (f : Context → Context) : Except Word State := do
  refuse range abRange
  refuse (s.ctxBusy c || busy) abState
  return s.updCtx c f

/-- A range of device memory lies inside a VALID region of the context, when EXCLUSIVE_REGIONS asks for it (R448). -/
def State.outsideRegions (s : State) (c a n : Nat) : Bool :=
  s.set.exclusiveRegions && !(Map.at s.mem.regions [] c).any fun r => r.valid && decide (r.base ≤ a ∧ a + n ≤ r.base + r.size)

/-- CONTEXT_SCHED_STATUS (R156). -/
def State.schedStatus (s : State) (c : Nat) : Nat :=
  let x := s.context c
  let node := decide (x.nodeQuota < s.nodesHeld c)
  let edge := decide (x.edgeQuota < s.edgesHeld c)
  let comp := [0, 1].any fun h => decide (s.compMax c h < (s.compsHeld c h).length)
  x.deadStallEvents.toNat * 2 ^ 16 + b2n x.deadStall * 16 + b2n comp * 8 + b2n edge * 4 + b2n node * 2
    + b2n (node || edge || comp)

/-- COMP_MIN and COMP_MAX hold two counts of at most 32, the first not above the second. -/
def compsBad (lo hi : Nat) : Bool :=
  decide (32 < bits lo 0 8) || decide (32 < bits lo 8 8) || decide (32 < bits hi 0 8) || decide (32 < bits hi 8 8)
    || decide (bits hi 0 8 < bits lo 0 8) || decide (bits hi 8 8 < bits lo 8 8)

/-- The COMP_MIN of all contexts would pass 32 in a half. -/
def State.minsOver (s : State) (c v : Nat) : Bool :=
  [0, 1].any fun h => decide (32 < s.ctxs.foldl (fun n p => n + bits (if p.1 = c then v else p.2.compMin.toNat) (8 * h) 8) 0)

/-- Subindices 0x01 to 0x1F of a context. -/
def State.contextEntry (s : State) (c sub : Nat) : Option CatEntry :=
  let x := s.context c
  let on := s.ringsOn c
  match sub with
  | 0x01 => some (rwU32 true x.pasid.toNat fun v => s.putCtx c (bits v 20 12 != 0) on fun y => { y with pasid := BitVec.ofNat 32 v })
  | 0x02 => some (rwU64 true x.shapeBase.toNat fun v =>
      s.putCtx c (bits v 40 24 != 0 || v % 64 != 0 || s.outsideRegions c v x.shapeSize) on
        fun y => { y with shapeBase := BitVec.ofNat 64 v })
  | 0x03 => some (rwU32 true x.shapeSize fun v => s.putCtx c (decide (65536 < v) || v % 4 != 0) on fun y => { y with shapeSize := v })
  | 0x04 => some (rwU64 true x.kernelTable.toNat fun v =>
      s.putCtx c (bits v 40 24 != 0 || s.outsideRegions c v (32 * x.kernelCount)) on
        fun y => { y with kernelTable := BitVec.ofNat 64 v })
  | 0x05 => some (rwU32 true x.kernelCount fun v => s.putCtx c (decide (65536 < v)) on fun y => { y with kernelCount := v })
  | 0x10 => some (rwU32 true x.nodeQuota fun v => s.putCtx c (decide (v < 1 ∨ 262144 < v)) false fun y => { y with nodeQuota := v })
  | 0x11 => some (rwU32 true x.edgeQuota fun v => s.putCtx c (decide (v < 16 ∨ 2097152 < v)) false fun y => { y with edgeQuota := v })
  | 0x12 => some (rwU16 true x.compMin.toNat fun v => s.putCtx c (compsBad v x.compMax.toNat) (s.minsOver c v)
      fun y => { y with compMin := BitVec.ofNat 16 v })
  | 0x13 => some (rwU16 true x.compMax.toNat fun v => s.putCtx c (compsBad x.compMin.toNat v) false
      fun y => { y with compMax := BitVec.ofNat 16 v })
  | 0x14 => some (rwU32 true (s.schedStatus c) fun v =>
      s.putCtx c false false fun y => { y with deadStall := w1c y.deadStall (bit v 4) })
  | 0x15 => some (roU32 true (s.nodesHeld c))
  | 0x16 => some (roU32 true (s.edgesHeld c))
  | 0x17 => some (roU16 true ((s.compsHeld c 0).length + 256 * (s.compsHeld c 1).length))
  | 0x18 => some (roU64 true ((s.compsHeld c 0 ++ s.compsHeld c 1).foldl (fun n i => n + 2 ^ i) 0))
  | 0x19 => some (roU32 true x.deadlineMisses.toNat)
  | _ => none

/-! ### Rings (R77–R80, R109, R160, R340) -/

/-- One CORES element of a fault-capture record. -/
def captureCore (c : Nat × Nat × Nat) : List Byte := u16 (c.1 % 2 ^ 14 + 2 ^ 15) ++ u16 c.2.1 ++ u32 c.2.2

/-- FAULT_CAPTURE (R109). -/
def RingFault.bytes (f : RingFault) : List Byte :=
  let cores := f.cores.take 16
  u32 f.cause ++ u32 cores.length ++ u64 f.seq ++ u64 f.time ++ u64 f.address.toNat ++ List.replicate 8 0 ++ slice f.nodeState 0 24
    ++ (match f.cmd with
      | some c => slice c.bytes 0 128
      | none => List.replicate 128 0)
    ++ slice (cores.map captureCore).flatten 0 128

/-- FAULT_CAPTURE of a ring. -/
def Ring.captureBytes (g : Ring) : List Byte :=
  match g.capture with
  | some f => f.bytes
  | none => List.replicate 320 0

/-- A write of a setting of a host ring that is accepted only in DISABLED. -/
def State.putRing (s : State) (r : Nat) (range : Bool) (f : Ring → Ring) : Except Word State := do
  refuse range abRange
  refuse ((s.ring r).enabled || s.dv.resetting == some (r / 8)) abState
  return s.updRing r f

/-- An MSI-X vector or none (R160). -/
def vectorOk (v : Nat) : Bool := decide (v < 2048) || v == 0xFFFF

/-- The number of command buffers is none that R77 allows. -/
def buffersBad (l : List Nat) : Bool := !([1, 2, 4, 8, 16] : List Nat).contains l.length

/-- COMPL_SIGNAL is 0 or names a shared semaphore. -/
def complSignalBad (v : Nat) : Bool :=
  v != 0 && match targetOf v with
    | some (.shared _, _) => false
    | _ => true

/-- RING_CONTROL (R80). -/
def State.ringControl (s : State) (r v : Nat) : Except Word State :=
  match v with
  | 1 => s.enableOp r
  | 2 => s.disableOp r
  | 3 => s.retryOp r
  | 4 => s.skipOp r
  | 5 => s.abortOp r
  | _ => .error abRange

/-- The 16 entries of a host ring. -/
def State.ringEntry (s : State) (r k : Nat) : Option CatEntry :=
  let g := s.ring r
  match k with
  | 0x0 => some (roU8 true (s.ringState r))
  | 0x1 => some (woNum 0x02 1 (s.ringControl r))
  | 0x2 => some (rwU8 true g.mode.toNat fun v => s.putRing r false fun y => { y with mode := BitVec.ofNat 8 (v % 4) })
  | 0x3 => some (rwU8 true g.sizeLog2 fun v =>
      (s.putRing r (decide (v < 6 ∨ 16 < v)) fun y => { y with sizeLog2 := v }).map fun t => t.freeRetained r)
  | 0x4 => some (rwArray 8 128 true (g.buffers.map fun b => u64 b.toNat).flatten fun l =>
      s.putRing r (buffersBad (numsOf 8 l)) fun y =>
        { y with buffers := (numsOf 8 l).map fun a => BitVec.ofNat 64 (blockAddrOf a) })
  | 0x5 => some (rwU64 true (if g.enabled then g.fetch else g.nextSeq) fun v =>
      (s.putRing r (v == 0) fun y => { y with nextSeq := v }).map fun t => t.freeRetained r)
  | 0x6 => some (roU64 true g.tail)
  | 0x7 => some (roOctets true g.captureBytes)
  | 0x8 => some (rwU64 true g.complBase.toNat fun v => s.putRing r false fun y =>
      { y with complBase := BitVec.ofNat 64 (blockAddrOf v) })
  | 0x9 => some (rwU8 true g.complSizeLog2 fun v => s.putRing r (decide (v < 6 ∨ 16 < v)) fun y => { y with complSizeLog2 := v })
  | 0xA => some (rwU32 true g.vectors.toNat fun v => do
      refuse (!vectorOk (bits v 0 16) || !vectorOk (bits v 16 16)) abRange
      refuse (s.dv.resetting == some (r / 8)) abState
      return s.updRing r fun y => { y with vectors := BitVec.ofNat 32 v })
  | 0xB => some (rwU32 true g.moderation.toNat fun v => do
      refuse (bits v 0 16 == 0) abRange
      refuse (s.dv.resetting == some (r / 8)) abState
      return s.updRing r fun y => { y with moderation := BitVec.ofNat 32 v })
  | 0xC => some (rwU64 true g.complSignal.toNat fun v =>
      s.putRing r (complSignalBad (targetFields v)) fun y => { y with complSignal := BitVec.ofNat 64 (targetFields v) })
  | 0xD => some (roU64 true g.completedThrough)
  | 0xE => some (roU16 true g.backlogCount)
  | 0xF => some (roU64 true g.blockedAt.toNat)
  | _ => none

/-- The subindices of context index 0x4000 + c (R76). -/
def State.contextIndexEntry (s : State) (c sub : Nat) : Option CatEntry :=
  (if sub < 0x20 then s.contextEntry c sub
    else if sub < 0xA0 then s.ringEntry (8 * c + (sub - 0x20) / 16) (sub % 16)
    else none).map fun e => e.onlyFor (· == c)

/-- STEP_MAILBOX of a host ring (R340). -/
def State.mailboxEntry (s : State) (c sub : Nat) : Option CatEntry :=
  if sub < 1 ∨ 8 < sub then none
  else
    let r := 8 * c + (sub - 1)
    some ((rwU64 true (s.ring r).mailbox.toNat fun w => do
      let v := blockAddrOf w
      refuse (v != 0 && (!isHostAddr v || v % 64 != 0)) abRange
      refuse ((s.ctx c).isNone || (s.ring r).enabled) abState
      return s.updRing r fun y => { y with mailbox := BitVec.ofNat 64 v }).onlyFor (· == c))

/-- The Tally configuration (R170). A new TALLY_BASE drops the copy of EPOCH_CONSUMED that the block kept. -/
def State.tallyConfig (s : State) (c sub : Nat) : Option CatEntry :=
  match sub with
  | 1 => some (rwU64 false (s.context c).tallyBase.toNat fun w =>
      let v := blockAddrOf w
      s.putCtx c (v != 0 && (!isHostAddr v || v % 4096 != 0)) (s.ringsOn c)
        fun y => { y with tallyBase := BitVec.ofNat 64 v, epochConsumed := 0 })
  | 2 => some (rwU64 false (s.context c).epochNext fun v =>
      s.putCtx c (v == 0) (s.ringsOn c) fun y => { y with epochNext := v })
  | _ => none

/-- Contexts and rings block-wide (R75) and the context reset (R526). -/
def State.ringsIndexEntry (s : State) (idx sub : Nat) : Option CatEntry :=
  match idx, sub with
  | 0x2000, 1 => some (woNum 0x03 2 s.createOp)
  | 0x2000, 2 => some (woNum 0x03 2 s.destroyOp)
  | 0x2000, 3 => some (roU8 false s.steeredRings)
  | 0x2000, 4 => some (rwU32 false s.set.refHoldLimit fun v => do
      refuse (decide (v < 1000 ∨ 10000000 < v)) abRange
      return { s with set := { s.set with refHoldLimit := v } })
  | 0x2000, 5 => some (rwU32 false s.set.taskLimit fun v => do
      refuse (decide (60000 < v)) abRange
      return { s with set := { s.set with taskLimit := v } })
  | 0x2001, 1 => some (woNum 0x03 2 s.resetOp)
  | 0x2001, 2 => some (roU16 false (s.dv.resetting.getD 0xFFFF))
  | _, _ => none

/-! ### Dvorsor (R152–R154) -/

/-- A write of a block-wide setting. -/
def State.putSet (s : State) (range : Bool) (f : Settings → Settings) : Except Word State := do
  refuse range abRange
  return { s with set := f s.set }

/-- No ring of the block is enabled, as an idle-only entry asks (R152). -/
def State.busy (s : State) : Bool := s.rings.any fun p => p.2.enabled

/-- The block-wide entries 0x3000. -/
def State.dvorsorEntry (s : State) (sub : Nat) : Option CatEntry :=
  match sub with
  | 0x1 => some (roU64 false s.dv.paramBase0)
  | 0x2 => some (roU64 false s.dv.paramBase1)
  | 0x3 => some (rwU16 true s.set.tickNs fun v => do
      refuse (!([16, 32, 64, 128, 256, 512, 1024] : List Nat).contains v) abRange
      refuse s.busy abState
      return { s with set := { s.set with tickNs := v } })
  | 0x4 => some (rwU32 true s.set.quantum fun v => s.putSet (decide (v < 100 ∨ 100000 < v)) fun y => { y with quantum := v })
  | 0x5 => some (rwArray 4 32 true (s.set.slackThreshold.map u32).flatten fun l => do
      refuse (l.length != 32) abLength
      s.putSet ((numsOf 4 l).any (1000000 < ·)) fun y => { y with slackThreshold := numsOf 4 l })
  | 0x6 => some (rwArray 4 32 true (s.set.deferLimit.map u32).flatten fun l => do
      refuse (l.length != 32) abLength
      s.putSet ((numsOf 4 l).any fun v => decide (v < 1 ∨ 1000000 < v)) fun y => { y with deferLimit := numsOf 4 l })
  | 0x7 => some (rwU8 true s.set.energyAware.toNat fun v => s.putSet false fun y => { y with energyAware := BitVec.ofNat 8 v })
  | 0x8 => some (rwArray 1 4 true (s.set.energyNeed.map u8).flatten fun l => do
      refuse (l.length != 4) abLength
      s.putSet (field l 0 1 != 0) fun y => { y with energyNeed := numsOf 1 l })
  | 0x9 => some (rwU32 false s.set.traceControl.toNat fun v =>
      s.putSet false fun y => { y with traceControl := BitVec.ofNat 32 (v % 4096) })
  | 0xA => some (woNum 0x03 2 s.reclaimOp)
  | _ => none

/-- Nodes of a half in a state. -/
def State.nodesIn (s : State) (h st : Nat) : Nat := (s.dv.nodes.filter fun p => halfOfNode p.1 = h && p.2.state = st).length

/-- The READY nodes listed in a sector: a LAUNCH in every sector of its half, another command in its home sector (R127). -/
def State.readyIn (s : State) (k : Nat) : Nat :=
  (s.dv.nodes.filter fun p => p.2.state = 3 && halfOfNode p.1 = halfOfSector k && (p.2.isLaunch || s.homeSector p.2.ring == k)).length

/-- The status of a half (R154). -/
def State.halfEntry (s : State) (h sub : Nat) : Option CatEntry :=
  match sub with
  | 1 => some (roU32 false (s.nodesUsed h))
  | 2 => some (roU32 false (s.edgeBlocksUsed h))
  | 3 => some (roU32 false (s.nodesIn h 6))
  | 4 => some (roU16 false (s.landingsOpen h))
  | 5 => some (roU64 false (if h = 0 then s.dv.crossSent0 else s.dv.crossSent1).toNat)
  | _ => none

/-- The status of a sector (R154). -/
def State.sectorEntry (s : State) (k sub : Nat) : Option CatEntry :=
  let x := s.sector k
  match sub with
  | 1 => some (roU32 false (s.readyIn k))
  | 2 => some (roU16 false x.waiting.length)
  | 3 => some (roU64 false x.itemsGranted.toNat)
  | 4 => some (roU64 false x.deferrals.toNat)
  | 5 => some (roU64 false x.deadlineMisses.toNat)
  | 6 => some (roU32 false x.switches.toNat)
  | 7 => some (roU16 false (((compsOfSector k).map coresOfComp).flatten.filter fun c => !s.fenced c).length)
  | _ => none

end Sys2Proof.Machine
end

