-- ==== Sys2Proof/Machine/EntriesDevice.lean ====
section
/-! DEFINITION. Entries of the Catalogue: semaphores, memory and tables, routing, power, faults, security, counters and trace,
fabric and time (R72, R73, R295, R308, R344–R346, R373, R375, R391, R396–R399, R414–R416, R443, R444, R456, R458, R461,
R468–R472, R483–R489). -/
namespace Sys2Proof.Machine

/-! ### Semaphores (R373, R375) -/

/-- The semaphore fabric's entries. -/
def State.fabricEntry (s : State) (sub : Nat) : Option CatEntry :=
  let f := s.fab
  match sub with
  | 0x1 => some (rwU32 true s.set.waitWatchdog fun v =>
      s.putSet (v != 0 && decide (v < 100 ∨ 10000000 < v)) fun y => { y with waitWatchdog := v })
  | 0x2 => some (woOctets 12 s.bindOp)
  | 0x3 => some (woNum 0x03 2 s.unbindOp)
  | 0x4 => some (roU32 false f.waiters.length)
  | 0x5 => some (roU64 false f.stale.toNat)
  | 0x6 => some (roU64 false f.fencedOps.toNat)
  | 0x7 => some (roU64 false f.returns.toNat)
  | 0x8 => some (roU64 false f.watchdogFires.toNat)
  | 0x9 => some (roU64 false f.abandoned.toNat)
  | 0xA => some (roU64 false f.remoteRefused.toNat)
  | 0xB => some (roU64 false f.remoteDuplicates.toNat)
  | 0xC => some (roU64 false f.overflows.toNat)
  | _ => none

/-- The 12 bytes of a shared semaphore (R375). -/
def SharedSem.bytes (x : SharedSem) : List Byte :=
  u32 x.word.toNat ++ u16 (x.owner.toNat % 2 ^ 15 + b2n x.bound * 2 ^ 15) ++ slice (x.guests.map fun g => u16 g.toNat).flatten 0 6

/-- Shared semaphore i, which a context sees while it is bound to it. -/
def State.sharedEntry (s : State) (i : Nat) : CatEntry := (roOctets true (s.shared i).bytes).onlyFor (s.boundTo i)

/-! ### Memory and tables (R295, R308) -/

/-- CAPACITY of a port: a strap above 64 counts as no stack. -/
def State.capByte (s : State) (p : Nat) : Nat := s.portCapacity p / 2 ^ 30

/-- A page fault record. -/
def FaultRecord.bytes (r : FaultRecord) : List Byte :=
  u64 (r.page % 2 ^ 57 / 4096 * 4096) ++ u32 (r.pasid.getD 0) ++ u16 (r.ctx % 1024) ++ u8 (b2n r.write + 2 * b2n r.invalidated)
    ++ u8 r.state ++ u16 (min r.count 0xFFFF) ++ List.replicate 6 0 ++ u64 r.first

/-- A context's regions. -/
def State.regionsEntry (s : State) (c : Nat) : CatEntry :=
  let rs := Map.at s.mem.regions [] c
  let v := slice (rs.map Region.bytes).flatten 0 512
  (rwArray 32 512 true v (s.regionsOp c)).onlyFor (· == c)

/-- A table's descriptor: all zero in the privileged view while the table is not registered. -/
def State.tableEntry (s : State) (t : Nat) : CatEntry :=
  match s.table t with
  | some x => (roOctets true (x.bytes t)).onlyFor (· == x.owner)
  | none => (roOctets true (List.replicate 96 0)).onlyFor fun _ => false

/-- The entries 0x5000 to 0x57FF. -/
def State.memoryEntry (s : State) (idx sub : Nat) : Option CatEntry :=
  if idx = 0x5000 then
    match sub with
    | 1 => some (roArray 1 12 true ((List.range 12).map fun p => BitVec.ofNat 8 (s.capByte p)))
    | 2 => some (rwU16 false s.set.scrubHours fun v => s.putSet (decide (1000 < v)) fun y => { y with scrubHours := v })
    | _ => none
  else if 0x5010 ≤ idx ∧ idx < 0x501C then
    let p := s.port (idx - 0x5010)
    match sub with
    | 1 => some (roU64 false p.corrected.toNat)
    | 2 => some (roU64 false p.uncorrectable.toNat)
    | 3 => some (roU64 false p.writebacks.toNat)
    | 4 => some (roU64 false p.writebacksDropped.toNat)
    | _ => none
  else if idx = 0x5100 then
    match sub with
    | 1 => some (woOctets 96 s.registerOp)
    | 2 => some (woNum 0x03 2 s.unregisterOp)
    | _ => none
  else if idx = 0x5110 then
    match sub with
    | 1 => some (roArray 32 65536 false (s.mem.records.map fun p => p.2.bytes).flatten)
    | 2 => some (roU64 false s.mem.pageRequests.toNat)
    | _ => none
  else if 0x5200 ≤ idx ∧ idx < 0x5300 then (if 1 ≤ sub ∧ sub ≤ 4 then some (s.regionsEntry (4 * (idx - 0x5200) + sub - 1)) else none)
  else if 0x5400 ≤ idx ∧ idx < 0x5800 then (if 1 ≤ sub ∧ sub ≤ 16 then some (s.tableEntry (16 * (idx - 0x5400) + sub - 1)) else none)
  else none

/-! ### Routing (R344–R346) -/

/-- The entries of a layer. -/
def State.layerEntry (s : State) (h l sub : Nat) : Option CatEntry :=
  let x := s.layer h l
  let e := match sub with
    | 0x1 => some { roOctets true (slice x.bytes 0 64) with p := .rw, put := s.descriptorOp h l }
    | 0x2 => some { woNum 0x03 2 (s.layerCancelOp h l) with u := .wo }
    | 0x3 => some (roU64 true x.steps.toNat)
    | 0x4 => some (roU64 true x.tokens.toNat)
    | 0x5 => some (roU64 true x.assignments.toNat)
    | 0x6 => some (roU64 true x.dropped.toNat)
    | 0x7 => some (roU64 true x.skipped.toNat)
    | 0x8 => some (roU64 true x.nanScores.toNat)
    | 0x9 => some (roU32 true x.cancelled.toNat)
    | 0xA => some (roU64 true x.failedAnswers.toNat)
    | 0xB => some (roU64 true x.missingRanks.toNat)
    | 0xC => some (roU32 true x.imbalanced.toNat)
    | 0xD => some (roU32 true x.biasUpdates.toNat)
    | _ => none
  e.map fun y => y.onlyFor fun c => x.valid && x.owner == c

/-- The deliveries a half holds as an expert half (R345): those in its pool and those that wait for room. -/
def State.deliveriesOpen (s : State) (h : Nat) : Nat :=
  let ds := (s.exp.portions.filter fun p => p.half = h).map fun p => (p.flow, p.origin, p.originHalf, p.generation, p.hb)
  ds.eraseDups.length + (s.exp.waiting.filter fun w => w.half = h).length

/-- The pool or the cold cache lies off the half's ports, or the ranges of the engine overlap, or meet what bring-up reserved. -/
def State.engineBad (s : State) (h : Nat) (e : Engine) : Bool :=
  let off (a n : Nat) : Bool := decide (2 ^ 40 ≤ a) || (n != 0 && (a / 2 ^ 36 / 6 != h || !s.onPort a n || s.meetsParams a n))
  let cold := e.coldSlots * e.coldSlotBytes
  off e.poolBase e.poolSize || off e.coldBase cold || rangesMeet e.poolBase e.poolSize e.coldBase cold

/-- A write of a setting of a routing engine. -/
def State.putEngine (s : State) (h : Nat) (range : Bool) (f : Engine → Engine) : Except Word State := do
  refuse (range || s.engineBad h (f (s.engine h))) abRange
  refuse (s.deliveriesOpen h != 0 || (List.range 32).any fun d => (s.ring (8192 + 32 * h + d)).enabled) abState
  return s.updEngine h f

/-- The entries of a routing engine. -/
def State.engineEntry (s : State) (h sub : Nat) : Option CatEntry :=
  let e := s.engine h
  match sub with
  | 0x1 => some (roU64 false e.workspace)
  | 0x2 => some (rwU64 false e.expertTable fun v => s.putEngine h (v % 64 != 0 || decide (2 ^ 40 ≤ v)) fun y => { y with expertTable := v })
  | 0x3 => some (rwU16 false e.expertCount fun v => s.putEngine h (decide (4096 < v)) fun y => { y with expertCount := v })
  | 0x4 => some (rwU64 false e.poolBase fun v => s.putEngine h (v % 65536 != 0) fun y => { y with poolBase := v })
  | 0x5 => some (rwU64 false e.poolSize fun v =>
      s.putEngine h (v % 65536 != 0 || decide (2 ^ 34 < v)) fun y => { y with poolSize := v })
  | 0x6 => some (roU8 false (s.routesOf h).length)
  | 0x7 => some (roU32 false (s.deliveriesOpen h))
  | 0x8 => some (roU64 false e.lateAnswers.toNat)
  | 0x9 => some (roU64 false e.poolRefused.toNat)
  | 0xA => some (rwU64 false e.coldBase fun v => s.putEngine h (v % 64 != 0) fun y => { y with coldBase := v })
  | 0xB => some (rwU32 false e.coldSlotBytes fun v => s.putEngine h (v % 64 != 0) fun y => { y with coldSlotBytes := v })
  | 0xC => some (rwU16 false e.coldSlots fun v => s.putEngine h (decide (4096 < v)) fun y => { y with coldSlots := v })
  | 0xD => some (roU64 false e.coldFetches.toNat)
  | _ => none

/-- A write of a setting of a device-side ring. -/
def State.putDeviceRing (s : State) (r : Nat) (range : Bool) (f : Ring → Ring) : Except Word State := do
  refuse range abRange
  refuse (s.ring r).enabled abState
  return s.updRing r f

/-- The entries of a device-side ring. -/
def State.deviceRingEntry (s : State) (h d sub : Nat) : Option CatEntry :=
  let r := 8192 + 32 * h + d
  let g := s.ring r
  let device (v : Nat) : Bool := v % 4096 != 0 || decide (2 ^ 40 ≤ v)
  match sub with
  | 0x1 => some (rwU16 false g.ctx fun v => s.putDeviceRing r false fun y => { y with ctx := v % 1024 })
  | 0x2 => some (rwU8 false g.sizeLog2 fun v => s.putDeviceRing r (decide (v < 6 ∨ 16 < v)) fun y => { y with sizeLog2 := v })
  | 0x3 => some (rwU64 false (g.buffers.headD 0).toNat fun v =>
      s.putDeviceRing r (device v) fun y => { y with buffers := [BitVec.ofNat 64 v] })
  | 0x4 => some (rwU64 false g.complBase.toNat fun v =>
      s.putDeviceRing r (device v) fun y => { y with complBase := BitVec.ofNat 64 v })
  | 0x5 => some (roU8 false (s.ringState r))
  | 0x6 => some (woNum 0x02 1 fun v =>
      if v = 1 then s.deviceEnableOp h d else if v = 2 then s.deviceDisableOp h d else .error abRange)
  | 0x7 => some (roU64 false g.accepted)
  | 0x8 => some (roU64 false g.completedThrough)
  | 0x9 => some (roOctets false g.captureBytes)
  | 0xA => some (roU32 false g.faultsHandled.toNat)
  | _ => none

/-! ### Power (R414–R416) -/

/-- The block's power entries. -/
def State.powerEntry (s : State) (sub : Nat) : Option CatEntry :=
  let w := s.pwr
  match sub with
  | 0x1 => some (roArray 2 10 false ((List.range 5).map fun k => u16 (((List.range 64).map fun i => s.stepVolts i k).foldl max 0)).flatten)
  | 0x2 => some (rwU8 false s.set.ceilingDerate fun v =>
      s.putSet (!([70, 80, 90, 100] : List Nat).contains v) fun y => { y with ceilingDerate := v })
  | 0x3 => some (roU8 false s.fuses.tjThrottle)
  | 0x4 => some (roU8 false s.fuses.tjCrit)
  | 0x5 => some (roU32 false w.now)
  | 0x6 => some (roU32 false w.peak)
  | 0x7 => some (roU64 false w.energy.toNat)
  | 0x8 => some (roU8 false w.tempMax)
  | 0x9 => some (roU64 false w.trips.toNat)
  | 0xA => some (roU64 false w.fastDrops.toNat)
  | 0xB => some (roU64 false w.stepChanges.toNat)
  | _ => none

/-- An island record; it reads 0 until the island has left reset with self-test (R415, R523; DESIGN CHOICE, log 102). -/
def State.islandBytes (s : State) (t : Nat) : List Byte :=
  let x := s.stand t
  if !s.boot.selfTested then List.replicate 8 0
  else u8 x.step ++ u8 x.headroom ++ u8 x.temp
    ++ u8 (b2n x.trip + 2 * b2n x.sensorFault + 4 * b2n x.currentLimited + 8 * b2n x.thermalLimited)
    ++ u16 (s.ceilOf t) ++ u16 x.current

/-- The entries of a compartment's regulator and islands. -/
def State.compEntry (s : State) (i sub : Nat) : Option CatEntry :=
  let x := s.comp i
  match sub with
  | 1 => some (roU16 false x.supply)
  | 2 => some (roU32 false x.power)
  | 3 => some (roU8 false x.gating)
  | 4 => some (roArray 8 128 false (((List.range 16).map fun j => s.islandBytes (16 * i + j)).flatten))
  | _ => none

/-! ### Faults and repair (R441–R444) -/

/-- A record of the fault log. -/
def LogRecord.bytes (r : LogRecord) : List Byte :=
  u64 r.time ++ u8 r.cls ++ u8 r.action ++ u16 0 ++ u32 r.location ++ u64 r.address ++ u16 r.ring ++ u8 r.cause ++ u8 0 ++ u32 r.seqLo

/-- The fault log by slots: record n lies in slot n mod 256. -/
def Faults.logBytes (f : Faults) : List Byte :=
  ((List.range 256).map fun slot =>
    let first := f.logNext - f.log.length
    match f.log[(slot + 256 - first % 256) % 256]? with
    | some r => r.bytes
    | none => List.replicate 32 0).flatten

/-- A write of UNFENCE_CORE through the Catalogue: the outcome of the self-test is free (DESIGN CHOICE, log 20). -/
def State.unfenceWrite (s : State) (v : Nat) : Except Word State := do
  refuse (decide (16384 ≤ v)) abRange
  match s.unfence v (Config.selfTest s.freeCtr v) with
  | some t => .ok t
  | none => .error abState

/-- The entries 0x7000 and 0x7001. -/
def State.faultEntry (s : State) (idx sub : Nat) : Option CatEntry :=
  let f := s.flt
  match idx, sub with
  | 0x7000, 0x1 => some (rwU16 false s.set.faultVector fun v => s.putSet (!vectorOk v) fun y => { y with faultVector := v })
  | 0x7000, 0x2 => some (rwU32 false s.set.probePeriod fun v => s.putSet (decide (v < 10 ∨ 1000 < v)) fun y => { y with probePeriod := v })
  | 0x7000, 0x3 => some (rwU8 false s.set.ceRowLimit fun v => s.putSet (v == 0) fun y => { y with ceRowLimit := v })
  | 0x7000, 0x4 => some (rwU32 false s.set.ceWindow fun v => s.putSet (decide (v < 1 ∨ 604800 < v)) fun y => { y with ceWindow := v })
  | 0x7000, 0x5 => some (rwU8 false s.set.reissueLimit fun v => s.putSet (decide (v < 2 ∨ 63 < v)) fun y => { y with reissueLimit := v })
  | 0x7000, 0x6 => some (woNum 0x03 2 s.fenceOp)
  | 0x7000, 0x7 => some (woNum 0x03 2 s.unfenceWrite)
  | 0x7000, 0x8 => some ⟨0x0A, 1, 65520, false, .wo, .no, fun _ => true, [], s.loadTable⟩
  | 0x7000, 0x9 => some ⟨0x0A, 1, 65520, false, .ro, .no, fun _ => true, s.repairTable, noPut⟩
  | 0x7000, 0xA => some (roArray 32 8192 false f.logBytes)
  | 0x7001, 0x1 => some (roU64 false f.coresFenced.toNat)
  | 0x7001, 0x2 => some (roU64 false f.sparesUsed.toNat)
  | 0x7001, 0x3 => some (roU64 false f.rowsRepaired.toNat)
  | 0x7001, 0x4 => some (roU64 false f.lanesSpared.toNat)
  | 0x7001, 0x5 => some (roU64 false f.takeovers.toNat)
  | 0x7001, 0x6 => some (roU64 false f.memoryCe.toNat)
  | 0x7001, 0x7 => some (roU64 false f.queueCe.toNat)
  | 0x7001, 0x8 => some (roU64 false f.mismatches.toNat)
  | _, _ => none

/-- The stand record. -/
def State.standEntry (s : State) (t : Nat) : CatEntry :=
  let x := s.stand t
  roOctets false (u8 x.sparePos ++ u8 x.spareState ++ u16 x.fencedMask.toNat ++ u8 (b2n x.standFenced + 2 * b2n x.draining)
    ++ List.replicate 3 0 ++ slice (x.mismatches.map fun n => BitVec.ofNat 8 (min n 255)) 0 16
    ++ slice (x.memoryCe.map fun n => BitVec.ofNat 8 (min n 255)) 0 16 ++ u32 x.standCe ++ u32 0)

/-! ### Security (R456, R458, R461) -/

/-- Some two elements of a list are equal. -/
def hasDuplicates {α : Type} [DecidableEq α] (l : List α) : Bool := l.eraseDups.length != l.length

/-- CERT_VIOLATIONS (R461). -/
def State.certViolations (s : State) : Nat :=
  let pasids := s.ctxs.map fun p => p.2.pasid
  b2n (!s.set.debugLock.getLsbD 0) + 2 * b2n (!s.set.debugLock.getLsbD 2) + 4 * b2n (!s.set.exclusiveRegions)
    + 8 * b2n (hasDuplicates (s.cat.keys.map fun p => p.2.key)) + 16 * b2n (pasids.any (· == 0))
    + 32 * b2n (hasDuplicates pasids) + 64 * b2n (!s.set.debugLock.getLsbD 1 && !s.set.traceOpenAllowed)

/-- The roles of key slots: 0xFFFF_FFFF privileged, 0xFFFF_FFFE empty. -/
def rolePriv : Nat := 0xFFFFFFFF
def roleEmpty : Nat := 0xFFFFFFFE

/-- A session ends with its staging, its cached response and its key (R70). -/
def State.endSession (s : State) (slot : Nat) : State := { s with cat := { s.cat with sessions := Map.del s.cat.sessions slot } }

/-- Sessions end; one with a request in execution ends when its response has left (R463). -/
def State.endSessions (s : State) (p : Session → Bool) : State :=
  { s with cat := { s.cat with sessions :=
      (s.cat.sessions.filter fun x => !p x.2 || x.2.inExecution).map fun x => if p x.2 then (x.1, { x.2 with ending := true }) else x } }

/-- A write of KEY_WRITE. -/
def State.keyOp (s : State) (slot : Nat) (l : List Byte) : Except Word State := do
  refuse (l.length != 36) abLength
  let role := field l 0 4
  let key := slice l 4 32
  refuse (decide (8 ≤ slot) || !(role == rolePriv || decide (role < 1024) || (role == roleEmpty && allZero key))) abRange
  let keys := if role = roleEmpty then Map.del s.cat.keys slot else Map.put s.cat.keys slot (KeySlot.mk (BitVec.ofNat 32 role) key)
  return State.endSessions { s with cat := { s.cat with keys := keys } } fun x => x.keyId == slot

/-- The entries 0x8010 to 0x8101. -/
def State.securityEntry (s : State) (idx sub : Nat) : Option CatEntry :=
  match idx with
  | 0x8010 =>
    match sub with
    | 1 => some (rwU8 false s.set.debugLock.toNat fun v => s.debugLockOp (BitVec.ofNat 8 v))
    | 2 => some (roU8 false s.fuses.debugLockFuse.toNat)
    | _ => none
  | 0x8020 =>
    match sub with
    | 1 => some (roU32 false s.certViolations)
    | 2 => some (rwBool false s.set.exclusiveRegions fun v => s.putSet (!isBool v) fun y => { y with exclusiveRegions := v == 1 })
    | 3 => some (rwBool false s.set.traceOpenAllowed fun v => s.putSet (!isBool v) fun y => { y with traceOpenAllowed := v == 1 })
    | _ => none
  | 0x8100 => if 1 ≤ sub ∧ sub ≤ 8 then some (woOctets 36 (s.keyOp (sub - 1))) else none
  | 0x8101 =>
    if 1 ≤ sub ∧ sub ≤ 8 then
      some (roU32 false (match Map.look s.cat.keys (sub - 1) with
        | some k => k.role.toNat
        | none => roleEmpty))
    else none
  | _ => none

/-! ### CAP (R72, R73) -/

/-- The role of a view as a U32 (R65). -/
def viewWord : View → Nat
  | .priv => rolePriv
  | .ctx c => c

/-- The CAP configuration. -/
def State.capConfig (s : State) (sub : Nat) : Option CatEntry :=
  let k := s.cat
  match sub with
  | 0x1 => some (rwBool false k.capEnable fun v => do
      refuse (!isBool v) abRange
      let t := { s with cat := { k with capEnable := v == 1 } }
      return (if v = 1 then t else t.endSessions fun _ => true))
  | 0x2 => some (rwU16 false k.udpPort fun v => do
      refuse (v == 0) abRange
      refuse (!k.sessions.isEmpty) abState
      return { s with cat := { k with udpPort := v } })
  | 0x3 => some { roOctets false (slice k.address 0 16) with p := .rw, put := fun l => .ok { s with cat := { k with address := l } } }
  | 0x4 => some (rwU32 false k.idleTimeout fun v => do
      refuse (decide (v < 1000 ∨ 3600000 < v)) abRange
      return { s with cat := { k with idleTimeout := v } })
  | 0x5 => some (roU8 false k.sessions.length)
  | 0x6 => some (roU32 false k.authFailures.toNat)
  | 0x7 => some (roU32 false k.discarded.toNat)
  | 0x8 => some (roU32 false k.retransmits.toNat)
  | _ => none

/-- A write of CLOSE of a session. -/
def State.sessionCloseOp (s : State) (slot v : Nat) : Except Word State := do
  refuse (v != 1) abRange
  return s.endSession slot

/-- The entries of a session. -/
def State.sessionEntry (s : State) (slot sub : Nat) : Option CatEntry :=
  match Map.look s.cat.sessions slot with
  | none => none
  | some x =>
    match sub with
    | 0x1 => some (roU32 false x.id.toNat)
    | 0x2 => some (roU8 false x.keyId)
    | 0x3 => some (roU32 false (viewWord x.view))
    | 0x4 => some (roOctets false (slice x.peer 0 16))
    | 0x5 => some (roU64 false x.last)
    | 0x6 => some (roTime false x.openedAt)
    | 0x7 => some (woNum 0x01 1 (s.sessionCloseOp slot))
    | _ => none

/-! ### Counters and trace (R468–R472, R483–R489) -/

/-- CORE_COUNTERS: a fenced core reads 0. -/
def State.countersBytes (s : State) (c : Nat) : List Byte :=
  let k := s.core c
  if s.fenced c then List.replicate 72 0
  else (k.counters.toList.map fun v => u64 v.toNat).flatten ++ [k.coincident, 0, 0, 0]
    ++ u16 (match (s.comp (compOfCore c)).holder with
      | some h => h % 1024 + 2 ^ 15
      | none => 0) ++ u16 0

/-- CORE_COUNTERS of a core, seen by the holder of its compartment. -/
def State.countersEntry (s : State) (c : Nat) : CatEntry :=
  (roOctets true (s.countersBytes c)).onlyFor fun x => (s.comp (compOfCore c)).holder == some x

/-- CORE_EVENTS of a context: all 0 while the context does not exist. -/
def State.coreEventsEntry (s : State) (c : Nat) : CatEntry :=
  { rwArray 2 16 true ((s.context c).coreEvents.map fun e => u16 e.toNat).flatten
      (fun l => s.coreEventsOp c ((numsOf 2 l).map (BitVec.ofNat 16))) with u := .rw, sees := (· == c) }

/-- The global counters. -/
def State.globalEntry (s : State) (sub : Nat) : Option CatEntry :=
  match sub with
  | 1 => some (rwArray 4 1024 false (s.dbg.gcSelect.map fun w => u32 w.toNat).flatten fun l =>
      s.gcSelectOp ((numsOf 4 l).map (BitVec.ofNat 32)))
  | 2 => some (roArray 8 2048 false (s.dbg.gcValues.map fun v => u64 v.toNat).flatten)
  | 3 => some (woNum 0x01 1 s.gcClearOp)
  | 4 => some (rwBool false s.dbg.gcFreeze fun v => do
      refuse (!isBool v) abRange
      return { s with dbg := { s.dbg with gcFreeze := v == 1 } })
  | _ => none

/-- The trace buffer is not where R483 allows it. -/
def State.traceBufferBad (s : State) (base size : Nat) : Bool :=
  base % 4096 != 0 || decide (6 ≤ base / 2 ^ 36) || (size != 0 && !s.onPort base size) || s.meetsParams base (max size 1)

/-- A write of a trace setting; `held` for those that a running trace holds. -/
def State.putTrace (s : State) (held range : Bool) (f : Debug → Debug) : Except Word State := do
  refuse range abRange
  refuse (held && s.dbg.traceEnable) abState
  return { s with dbg := f s.dbg }

/-- The trace entries. -/
def State.traceEntry (s : State) (sub : Nat) : Option CatEntry :=
  let d := s.dbg
  match sub with
  | 0x1 => some (rwBool false d.traceEnable s.traceEnableOp)
  | 0x2 => some (rwU8 false d.sink fun v => s.putTrace true (decide (1 < v)) fun y => { y with sink := v })
  | 0x3 => some (rwU8 false d.traceMode fun v => s.putTrace true (decide (2 < v)) fun y => { y with traceMode := v })
  | 0x4 => some (rwU64 false d.bufferBase.toNat fun v =>
      s.putTrace true (s.traceBufferBad v d.bufferSize.toNat) fun y => { y with bufferBase := BitVec.ofNat 64 v })
  | 0x5 => some (rwU64 false d.bufferSize.toNat fun v =>
      s.putTrace true (v != 0 && (decide (v < 65536 ∨ 2 ^ 32 < v) || v % 4096 != 0 || s.traceBufferBad d.bufferBase.toNat v))
        fun y => { y with bufferSize := BitVec.ofNat 64 v })
  | 0x6 => some (rwU8 false d.triggerSelect.toNat fun v =>
      s.putTrace false false fun y => { y with triggerSelect := BitVec.ofNat 8 (v % 64) })
  | 0x7 => some (rwU32 false d.triggerMarkId.toNat fun v => s.putTrace false false fun y => { y with triggerMarkId := BitVec.ofNat 32 v })
  | 0x8 => some (rwU32 false d.triggerPost fun v =>
      s.putTrace true (decide (v < 1 ∨ 2 ^ 28 - 2 < v)) fun y => { y with triggerPost := v })
  | 0x9 => some (woNum 0x01 1 s.triggerNowOp)
  | 0xA => some (rwU32 false d.traceStatus fun v => s.putTrace false false fun y => { y with loss := w1c y.loss (bit v 28) })
  | 0xB => some (roU64 false d.writeIndex)
  | 0xC => some (roU64 false d.triggerIndex)
  | 0xD => some (roU64 false d.lost.toNat)
  | 0xE => some (rwU32 false d.sampleControl.toNat fun v =>
      s.putTrace false (bits v 8 5 != 0 && decide (bits v 8 5 < 10 ∨ 24 < bits v 8 5)) fun y =>
        { y with sampleControl := BitVec.ofNat 32 (v % 8 + bits v 8 5 * 256) })
  | 0xF => some (rwU64 false d.sampleComps.toNat fun v => s.putTrace false false fun y => { y with sampleComps := BitVec.ofNat 64 v })
  | _ => none

/-- A unit of R471. -/
def unitOk (cls idx : Nat) : Bool :=
  match cls with
  | 0x01 => decide (idx < 16384)
  | 0x02 => decide (idx < 8)
  | 0x04 => decide (idx < 48)
  | 0x08 => decide (idx < 12)
  | 0x0A => decide (idx < 8)
  | 0x0B => decide (idx / 2 < 5)
  | 0x0C => idx == 0
  | 0x03 | 0x05 | 0x06 | 0x07 | 0x09 | 0x0D => decide (idx < 2)
  | _ => false

/-- An event of an event ring. -/
def Event.bytes (e : Event) : List Byte := u64 e.time ++ u8 e.code ++ u8 0 ++ u16 e.arg ++ u32 e.data

/-- The event rings' entries. -/
def State.eventEntry (s : State) (sub : Nat) : Option CatEntry :=
  let d := s.dbg
  match sub with
  | 1 => some (rwU32 false d.ringSelect.toNat fun v => do
      refuse (!unitOk (bits v 24 8) (bits v 8 16)) abRange
      return { s with dbg := { d with ringSelect := BitVec.ofNat 32 (v / 256 * 256) } })
  | 2 =>
    let es := Map.at d.events [] (bits d.ringSelect.toNat 24 8 * 65536 + bits d.ringSelect.toNat 8 16)
    some (roArray 16 1024 false (slice (es.map Event.bytes).flatten 0 1024))
  | 3 => some (rwBool false d.eventFreeze s.eventFreezeOp)
  | 4 => some (rwU8 false d.freezeOn.toNat fun v => .ok { s with dbg := { d with freezeOn := BitVec.ofNat 8 (v % 4) } })
  | _ => none

/-- The debug entries. -/
def State.debugEntry (s : State) (sub : Nat) : Option CatEntry :=
  match sub with
  | 1 => some (rwU8 false s.dbg.haltMode fun v => do
      refuse (decide (2 < v)) abRange
      return State.applyHalts { s with dbg := { s.dbg with haltMode := v } })
  | 2 => some (roU8 false s.drainState)
  | _ => none

/-! ### Fabric and time (R391, R396–R399) -/

/-- Devices to which a flow is OPENING or OPEN. -/
def State.peersNow (s : State) : List Nat := ((s.ecl.flows.filter fun p => p.2.state ≠ 0).map fun p => p.2.peer).eraseDups

/-- A write of a setting that an enabled port holds. -/
def State.putWire (s : State) (range : Bool) (f : Settings → Settings) : Except Word State := do
  refuse range abRange
  refuse s.portEnabled abState
  return { s with set := f s.set }

/-- The Eclahild entries. -/
def State.wireEntry (s : State) (sub : Nat) : Option CatEntry :=
  match sub with
  | 0x1 => some (rwU16 false s.set.etherType fun v => s.putWire (decide (v < 0x0600)) fun y => { y with etherType := v })
  | 0x2 => some { roOctets false (slice s.set.macPrefix 0 3) with
      p := .rw
      put := fun l => s.putWire (bits (field l 0 1) 0 2 != 2) fun y => { y with macPrefix := l } }
  | 0x3 => some (rwU32 false s.set.rto fun v => s.putWire (decide (v < 5 ∨ 10000 < v)) fun y => { y with rto := v })
  | 0x4 => some (rwU8 false s.set.maxRetries fun v => s.putWire (decide (v < 1 ∨ 64 < v)) fun y => { y with maxRetries := v })
  | 0x5 => some (woOctets 16 s.flowOpenOp)
  | 0x6 => some (woNum 0x03 2 s.flowCloseOp)
  | 0x7 => some (roU16 false (s.ecl.flows.filter fun p => p.2.state ≠ 0).length)
  | 0x8 => some (roU16 false (s.peersNow.filter fun d => !s.inPod d).length)
  | 0x9 => some (roU64 false s.ecl.unmatchedOpens.toNat)
  | 0xA => some (roU16 false s.ecl.marks.length)
  | 0xB => some (woOctets 6 s.markReleaseOp)
  | _ => none

/-- A write of ENABLE of an exchange port (R398). -/
def State.portEnableOp (s : State) (p v : Nat) : Except Word State := do
  refuse (!isBool v) abRange
  refuse ((s.xport p).speed == 0) abState
  return s.portChanged (s.updXport p fun x => { x with enable := v == 1 }) p

/-- The entries of an exchange port. -/
def State.portEntry (s : State) (p sub : Nat) : Option CatEntry :=
  let x := s.xport p
  match sub with
  | 0x1 => some (rwBool false x.enable (s.portEnableOp p))
  | 0x2 => some (roU8 false x.speed)
  | 0x3 => some (roU8 false x.state)
  | 0x4 => some (roU64 false x.tx.toNat)
  | 0x5 => some (roU64 false x.rx.toNat)
  | 0x6 => some (roU64 false x.crcErrors.toNat)
  | 0x7 => some (roU64 false x.badPackets.toNat)
  | 0x8 => some (rwU16 false x.txDelay fun v => .ok (s.updXport p fun y => { y with txDelay := v }))
  | 0x9 => some (rwU16 false x.rxDelay fun v => .ok (s.updXport p fun y => { y with rxDelay := v }))
  | _ => none

/-- The time entries. -/
def State.timeEntry (s : State) (sub : Nat) : Option CatEntry :=
  let c := s.clock
  match sub with
  | 0x1 => some (roTime true s.now)
  | 0x2 => some (rwU16 false c.source fun v => do
      refuse (decide (0x3FFF < v ∧ v < 0xFFFE)) abRange
      return s.setTimeSource v)
  | 0x3 => some (rwU32 false c.interval fun v => do
      refuse (decide (v < 100 ∨ 100000 < v)) abRange
      return s.updClock fun y => { y with interval := v })
  | 0x4 => some (rwU16 false c.maxSlew fun v => do
      refuse (decide (v < 1 ∨ 500 < v)) abRange
      return s.updClock fun y => { y with maxSlew := v })
  | 0x5 => some (rwU32 true c.status fun v => .ok (s.updClock fun y => { y with lostSync := w1c y.lostSync (bit v 31) }))
  | 0x6 => some (roEntry 0x07 8 false (u64 (wrapInt 64 c.offset)))
  | 0x7 => some (roU32 false c.pathDelay)
  | 0x8 => some (roU32 false c.steps.toNat)
  | _ => none

/-- The device at a position of the pod. -/
def State.podDevice (s : State) (k : Nat) : Nat := s.set.deviceId / 64 * 64 + k

/-- The entries of a peer. -/
def State.peerEntry (s : State) (k sub : Nat) : Option CatEntry :=
  let d := s.podDevice k
  let x := s.peer d
  match sub with
  | 0x1 => some (roU16 false d)
  | 0x2 => some (roU16 false (s.ecl.flows.filter fun p => p.2.state ≠ 0 && p.2.peer = d).length)
  | 0x3 => some (roU32 false x.incarnation.toNat)
  | 0x4 => some (roU32 false x.rtt)
  | 0x5 => some (roU64 false x.retransmits.toNat)
  | 0x6 => some (roU64 false x.signalsApplied.toNat)
  | _ => none

/-- The 32 bytes of a flow: all zero where none was ever opened. -/
def State.flowBytes (s : State) (f : Nat) : List Byte :=
  match Map.look s.ecl.flows f with
  | some x => u16 f ++ u16 x.ctx ++ u16 x.peer ++ u16 x.peerCtx ++ [x.planes] ++ u8 x.state ++ u8 x.reason ++ u8 0 ++ u16 x.remote ++ u16 0
      ++ u32 x.retransmits.toNat ++ u32 0 ++ u64 x.messages.toNat
  | none => List.replicate 32 0

/-- A flow, which its context sees while it is not CLOSED. -/
def State.flowEntry (s : State) (f : Nat) : CatEntry :=
  (roOctets true (s.flowBytes f)).onlyFor fun c => (s.flow f).state != 0 && (s.flow f).ctx == c

end Sys2Proof.Machine
end

