-- ==== Sys2Proof/Machine/Catalogue.lean ====
section
/-! DEFINITION. The Catalogue root: existence and visibility of entries, the checks of R48, staged writes, lists, the host
windows, and requests that wait while the root's hart is halted (R41–R62, R446, R489). -/
namespace Sys2Proof.Machine

/-! ### Abort codes (R74) -/

def abNoIndex : Word := 0x0C000001
def abNoSub : Word := 0x0C000002
def abReadOnly : Word := 0x0C000003
def abGeneration : Word := 0x0C000008
def abOrder : Word := 0x0C000009
def abTooLong : Word := 0x0C00000A
def abAhead : Word := 0x0C00000B
def abNoSlot : Word := 0x0C00000C
def abUnknown : Word := 0x0C00000E
def abWriteOnly : Word := 0x0C000010

/-! ### The index space (R49, R52) -/

/-- The ranges of indices that exist or may exist: first index, number of indices, HIGHEST_SUBINDEX. -/
def indexRanges : List (Nat × Nat × Nat) :=
  [(0x1000, 1, 5), (0x1001, 1, 3), (0x1002, 1, 3), (0x1100, 1, 3), (0x1110, 1, 8), (0x2000, 1, 5), (0x2001, 1, 2),
   (0x2400, 1024, 2), (0x3000, 1, 0xA), (0x3010, 2, 5), (0x3020, 8, 7), (0x3030, 1, 0xC), (0x3100, 32, 0x80),
   (0x4000, 1024, 0xFE), (0x5000, 1, 2), (0x5010, 12, 4), (0x5100, 1, 2), (0x5110, 1, 2), (0x5200, 256, 4),
   (0x5400, 1024, 0x10)]
  ++ [(0x5800, 512, 0xD), (0x5A00, 2, 0xD), (0x5B00, 64, 0xA), (0x5C00, 1024, 8), (0x6000, 1, 0xB), (0x6100, 64, 4),
   (0x7000, 1, 0xA), (0x7001, 1, 8), (0x7400, 64, 0x10), (0x8010, 1, 2), (0x8020, 1, 3), (0x8100, 1, 8), (0x8101, 1, 8),
   (0x8200, 8, 0xFE)]
  ++ [(0x9000, 1, 0xF), (0x9010, 1, 4), (0x9080, 1, 4), (0x9090, 1, 2), (0x9100, 1024, 0x10), (0x9600, 1024, 1),
   (0xA000, 1, 0xB), (0xA010, 8, 9), (0xA080, 1, 8), (0xA100, 64, 0xFE), (0xA400, 1024, 0x10)]

/-- HIGHEST_SUBINDEX of an index of R52. -/
def highestOf (idx : Nat) : Option Nat :=
  (indexRanges.find? fun r => decide (r.1 ≤ idx ∧ idx < r.1 + r.2.1)).map fun r => r.2.2

/-- A dynamic index (R49). -/
def isDynamic (idx : Nat) : Bool :=
  decide (0x4000 ≤ idx ∧ idx < 0x4400) || decide (0x8200 ≤ idx ∧ idx < 0x8208) || decide (0xA100 ≤ idx ∧ idx < 0xA140)

/-- GENERATION of an index: 0 for a static one (R50, R51). -/
def State.indexGeneration (s : State) (idx : Nat) : Nat :=
  if !isDynamic idx then 0
  else if idx < 0x8000 then Map.at s.cat.ctxGen 0 (idx - 0x4000)
  else if idx < 0xA000 then Map.at s.cat.slotGen 0 (idx - 0x8200)
  else Map.at s.cat.peerGen 0 (idx - 0xA100)

/-- The object of an index exists. -/
def State.indexExists (s : State) (idx : Nat) : Bool :=
  if !isDynamic idx then (highestOf idx).isSome
  else if idx < 0x8000 then (s.ctx (idx - 0x4000)).isSome
  else if idx < 0xA000 then (Map.look s.cat.sessions (idx - 0x8200)).isSome
  else s.peersNow.contains (s.podDevice (idx - 0xA100))

/-- The entries of an index that exists, but for HIGHEST_SUBINDEX and GENERATION. -/
def State.body (s : State) (idx sub : Nat) : Option CatEntry :=
  if idx = 0x1110 then s.capConfig sub
  else if idx < 0x2000 then s.identityEntry idx sub
  else if idx < 0x2400 then s.ringsIndexEntry idx sub
  else if idx < 0x3000 then s.tallyConfig (idx - 0x2400) sub
  else if idx = 0x3000 then s.dvorsorEntry sub
  else if idx < 0x3020 then s.halfEntry (idx - 0x3010) sub
  else if idx < 0x3030 then s.sectorEntry (idx - 0x3020) sub
  else if idx = 0x3030 then s.fabricEntry sub
  else if idx < 0x4000 then (if 1 ≤ sub ∧ sub ≤ 128 then some (s.sharedEntry (128 * (idx - 0x3100) + sub - 1)) else none)
  else if idx < 0x5000 then s.contextIndexEntry (idx - 0x4000) sub
  else if idx < 0x5800 then s.memoryEntry idx sub
  else if idx < 0x5A00 then s.layerEntry ((idx - 0x5800) / 256) ((idx - 0x5800) % 256) sub
  else if idx < 0x5B00 then s.engineEntry (idx - 0x5A00) sub
  else if idx < 0x5C00 then s.deviceRingEntry ((idx - 0x5B00) / 32) ((idx - 0x5B00) % 32) sub
  else if idx < 0x6000 then s.mailboxEntry (idx - 0x5C00) sub
  else if idx = 0x6000 then s.powerEntry sub
  else if idx < 0x7000 then s.compEntry (idx - 0x6100) sub
  else if idx < 0x7400 then s.faultEntry idx sub
  else if idx < 0x8000 then (if 1 ≤ sub ∧ sub ≤ 16 then some (s.standEntry (16 * (idx - 0x7400) + sub - 1)) else none)
  else if idx < 0x8200 then s.securityEntry idx sub
  else if idx < 0x9000 then s.sessionEntry (idx - 0x8200) sub
  else if idx = 0x9000 then s.traceEntry sub
  else if idx = 0x9010 then s.globalEntry sub
  else if idx = 0x9080 then s.eventEntry sub
  else if idx = 0x9090 then s.debugEntry sub
  else if idx < 0x9600 then (if 1 ≤ sub ∧ sub ≤ 16 then some (s.countersEntry (16 * (idx - 0x9100) + sub - 1)) else none)
  else if idx < 0xA000 then (if sub = 1 then some (s.coreEventsEntry (idx - 0x9600)) else none)
  else if idx = 0xA000 then s.wireEntry sub
  else if idx < 0xA080 then s.portEntry (idx - 0xA010) sub
  else if idx = 0xA080 then s.timeEntry sub
  else if idx < 0xA400 then s.peerEntry (idx - 0xA100) sub
  else if 1 ≤ sub ∧ sub ≤ 16 ∧ 16 * (idx - 0xA400) + sub ≤ 16383 then some (s.flowEntry (16 * (idx - 0xA400) + sub - 1))
  else none

/-! ### Views (R41, R46–R48) -/

/-- The access right of an entry in a view; none where it does not exist there. -/
def CatEntry.access (e : CatEntry) : View → Access
  | .priv => e.p
  | .ctx c => if e.sees c then e.u else .no

/-- An index exists and is visible in a view. -/
def State.indexVisible (s : State) (v : View) (idx : Nat) : Bool :=
  match highestOf idx with
  | none => false
  | some h => s.indexExists idx && match v with
    | .priv => true
    | .ctx _ => (List.range h).any fun i => ((s.body idx (i + 1)).map fun e => e.access v != .no).getD false

/-- The entry that an access names, by check 1 of R48. -/
def State.entry (s : State) (v : View) (idx sub : Nat) : Except Word CatEntry :=
  let generation := roU32 true (s.indexGeneration idx)
  if !s.indexVisible v idx then
    (if isDynamic idx && v == .priv && sub == 0xFE && !s.indexExists idx then .ok generation else .error abNoIndex)
  else if sub = 0 then .ok (roU8 true ((highestOf idx).getD 0))
  else if isDynamic idx && sub == 0xFE then .ok generation
  else
    match s.body idx sub with
    | some e => if e.access v = .no then .error abNoSub else .ok e
    | none => .error abNoSub

/-! ### Accesses (R48, R60–R62) -/

/-- What an access answers: abort code, type, generation, TOTAL, and the bytes of a read or list. -/
structure Answer where
  abort : Word
  type : Nat
  generation : Nat
  total : Nat
  data : List Byte
  deriving DecidableEq, Repr

/-- An answer that fails check 1. -/
def Answer.refused (code : Word) : Answer := ⟨code, 0, 0, 0, []⟩

/-- Check 2: the generation named is the index's, and an absent object fails check 1. -/
def State.generationBad (s : State) (idx : Nat) (chk : Option Nat) : Option Word :=
  match chk with
  | none => none
  | some g => if !s.indexExists idx then some abNoIndex else if g ≠ s.indexGeneration idx then some abGeneration else none

/-- A read: `n` bytes at most, from an offset; `limit` is the room for them. -/
def State.catRead (s : State) (v : View) (idx sub off n limit : Nat) (chk : Option Nat) : Answer :=
  match s.entry v idx sub with
  | .error code => .refused code
  | .ok e =>
    let g := s.indexGeneration idx
    match s.generationBad idx chk with
    | some code => if code = abNoIndex then .refused code else ⟨code, e.type, g, 0, []⟩
    | none =>
      if e.access v = .wo then ⟨abWriteOnly, e.type, g, 0, []⟩
      else if limit < n then ⟨abTooLong, e.type, g, 0, []⟩
      else ⟨abOk, e.type, g, e.get.length, (e.get.drop off).take n⟩

/-- Check 4 of a write and its staging: the value to commit, the bytes staged, or an abort code. -/
def segment (e : CatEntry) (staged data : List Byte) (off : Nat) (last tooLong : Bool) : Except Word (Option (List Byte) × List Byte) :=
  if tooLong then .error abTooLong
  else if e.type < 0x0A then
    (if off = 0 ∧ last ∧ data.length = e.max then .ok (some data, []) else .error abLength)
  else if off ≠ staged.length then .error abOrder
  else if data.length % e.elem ≠ 0 then .error abLength
  else if e.max < staged.length + data.length then .error abTooLong
  else if !last then .ok (none, staged ++ data)
  else if e.exact ∧ staged.length + data.length ≠ e.max then .error abLength
  else .ok (some (staged ++ data), [])

/-- A write, with what its window or session has staged; answers what stays staged. -/
def State.catWrite (s : State) (v : View) (idx sub : Nat) (data : List Byte) (off : Nat) (last tooLong : Bool) (chk : Option Nat)
    (st : Option Staging) : State × Answer × Option Staging :=
  let staged := match st with
    | some x => if x.index = idx ∧ x.sub = sub then x.bytes else []
    | none => []
  match s.entry v idx sub with
  | .error code => (s, .refused code, none)
  | .ok e =>
    let g := s.indexGeneration idx
    let fail (code : Word) : State × Answer × Option Staging := (s, ⟨code, e.type, g, 0, []⟩, none)
    match s.generationBad idx chk with
    | some code => if code = abNoIndex then (s, .refused code, none) else fail code
    | none =>
      if e.access v = .ro then fail abReadOnly
      else
        match segment e staged data off last tooLong with
        | .error code => fail code
        | .ok (none, bytes) => (s, ⟨abOk, e.type, g, bytes.length, []⟩, some ⟨idx, sub, bytes⟩)
        | .ok (some value, _) =>
          match e.put value with
          | .error code => fail code
          | .ok t => (t, ⟨abOk, e.type, g, value.length, []⟩, none)

/-- The indices visible in a view from one on, `n` at most, and the next one to ask for. -/
def State.catList (s : State) (v : View) (start n : Nat) : List Nat × Nat :=
  let all := (indexRanges.map fun r => (List.range r.2.1).map (r.1 + ·)).flatten
  let seen := (all.filter fun i => decide (start ≤ i)).filter (s.indexVisible v)
  (seen.take n, (seen.drop n).headD 0)

/-! ### The root's hart (R431, R489) -/

/-- A write of UNFENCE_CORE of a core whose grants the context reset in progress recalls is served after the reset (R530). -/
def State.unfenceHeld (s : State) (idx sub : Nat) (data : List Byte) : Bool :=
  idx == 0x7000 && sub == 7 && s.dv.resetting.isSome && s.flt.resetCores.contains (leNat data) && s.fenced (leNat data)

/-! ### The windows (R55–R60) -/

/-- The window of a view. -/
def State.window (s : State) : View → Window
  | .priv => s.cat.priv
  | .ctx c => Map.at s.cat.windows Window.reset c

/-- Replaces the window of a view. -/
def State.setWindow (s : State) (v : View) (w : Window) : State :=
  match v with
  | .priv => { s with cat := { s.cat with priv := w } }
  | .ctx c => { s with cat := { s.cat with windows := Map.put s.cat.windows c w } }

/-- The data buffer's size. -/
def windowSize : View → Nat
  | .priv => 1024
  | .ctx _ => 256

/-- CAT_REQ of a request (R56), without GO. -/
def reqWord (op : Nat) (r : CatReq) : BitVec 64 :=
  BitVec.ofNat 64 (op % 4 * 2 ^ 56 + b2n r.last * 2 ^ 55 + b2n r.chkgen * 2 ^ 54 + r.index.toNat * 2 ^ 24 + r.sub.toNat * 2 ^ 16
    + r.length.toNat)

/-- The request that CAT_REQ holds. -/
def CatReq.ofWord (w : Nat) : CatReq where
  last := bit w 55
  chkgen := bit w 54
  index := BitVec.ofNat 16 (bits w 24 16)
  sub := BitVec.ofNat 8 (bits w 16 8)
  length := BitVec.ofNat 16 (bits w 0 16)

/-- The outcome of a request is shown and DONE is set (R58–R60). -/
def State.windowDone (s : State) (v : View) (a : Answer) (st : Option Staging) : State :=
  let w := s.window v
  s.setWindow v { w with
    busy := false
    done := true
    doneEvents := w.doneEvents + 1
    type := BitVec.ofNat 8 a.type
    abort := a.abort
    generation := BitVec.ofNat 32 a.generation
    total := BitVec.ofNat 32 a.total
    buffer := if a.data.isEmpty then w.buffer else setSlice (slice w.buffer 0 (windowSize v)) 0 a.data
    staging := st }

/-- The root serves a window's request: `op` is 0 for a read, 1 for a write, 2 for a list; 3 is refused. -/
def State.serveWindow (s : State) (v : View) (op : Nat) (r : CatReq) : State :=
  let w := s.window v
  let idx := r.index.toNat
  let sub := r.sub.toNat
  let n := r.length.toNat
  let off := bits w.aux.toNat 0 32
  let chk := if r.chkgen then some (bits w.aux.toNat 32 32) else none
  if !s.boot.ready && !(op == 0 && idx == 0x1000 && sub == 5) then s.windowDone v (.refused abNotReady) none
  else if (match v with
      | .priv => false
      | .ctx c => (s.ctx c).isNone) then s.windowDone v (.refused abNoIndex) none
  else if op = 0 then s.windowDone v (s.catRead v idx sub off n (windowSize v) chk) none
  else if op = 1 then
    let s0 := { s with freeCtr := s.freeCtr + 1 }
    let (t, a, st) := s0.catWrite v idx sub (slice w.buffer 0 (min n (windowSize v))) off r.last (decide (windowSize v < n)) chk w.staging
    t.windowDone v a st
  else if op = 2 then
    (if windowSize v < n then s.windowDone v (.refused abTooLong) none
    else
      let (l, next) := s.catList v idx (n / 2)
      s.windowDone v ⟨abOk, 0, next, l.length, (l.map u16).flatten⟩ none)
  else s.windowDone v (.refused abUnknown) none

/-- A request of a window that would be an UNFENCE held by a context reset. -/
def State.windowHeld (s : State) (v : View) (op : Nat) (r : CatReq) : Bool :=
  op == 1 && v == .priv && r.length.toNat == 2 && s.unfenceHeld r.index.toNat r.sub.toNat (slice (s.window v).buffer 0 2)

/-- GO of a window: a busy window ignores it; the request waits for a halted root and for a context reset. -/
def State.windowGo (s : State) (v : View) (op : Nat) (r : CatReq) : State :=
  let w := s.window v
  if w.busy then s
  else
    let s1 := s.setWindow v { w with req := reqWord op r }
    if s.boot.ready && (s.rootHalted || s.windowHeld v op r) then
      let s2 := s1.setWindow v { s1.window v with busy := true }
      { s2 with cat := { s2.cat with waiting := s2.cat.waiting ++ [.window v op r] } }
    else s1.serveWindow v op r

/-- CAT_READ (R56, R60). -/
def execCatRead (v : View) (r : CatReq) (s : State) : Host.Outcome State Fault Refusal := .next (s.windowGo v 0 r)

/-- CAT_WRITE (R56, R60, R61). -/
def execCatWrite (v : View) (r : CatReq) (s : State) : Host.Outcome State Fault Refusal := .next (s.windowGo v 1 r)

/-- CAT_LIST (R56, R60). -/
def execCatList (v : View) (r : CatReq) (s : State) : Host.Outcome State Fault Refusal := .next (s.windowGo v 2 r)

/-! ### Entries whose commit is a row of its own (R21, R73, R456) -/

/-- DEVICE_ID_WRITE (R21). -/
def execDeviceIdWrite (value : BitVec 16) (s : State) : Host.Outcome State Fault Refusal :=
  .next (s.rootRow (.deviceIdWrite value) (s.deviceIdOp value.toNat))

/-- KEY_WRITE (R456, R463). -/
def execKeyWrite (slot : Nat) (bytes : List Byte) (s : State) : Host.Outcome State Fault Refusal :=
  .next (s.rootRow (.keyWrite slot bytes) (s.keyOp slot bytes))

/-- SESSION_CLOSE_WRITE (R73): a slot without a session has no entry. -/
def execSessionCloseWrite (slot : Nat) (value : Byte) (s : State) : Host.Outcome State Fault Refusal :=
  .next (s.rootRow (.sessionCloseWrite slot value) (if (Map.look s.cat.sessions slot).isNone then .error abNoIndex else s.sessionCloseOp slot value.toNat))

end Sys2Proof.Machine
end

