-- ==== Sys2Proof/Machine/Crypto.lean ====
section
/-! DEFINITION. The hash, message authentication and signature functions that R66, R452 and R454 name: SHA-256,
SHA-384, HMAC-SHA-256 and ECDSA over P-384 (FIPS 180-4, FIPS 198-1, FIPS 186-5). Log 9. -/
namespace Sys2Proof.Machine

/-- Round constants of SHA-256. -/
def sha256K : List Nat :=
  [0x428A2F98, 0x71374491, 0xB5C0FBCF, 0xE9B5DBA5, 0x3956C25B, 0x59F111F1, 0x923F82A4, 0xAB1C5ED5, 0xD807AA98, 0x12835B01, 0x243185BE, 0x550C7DC3, 0x72BE5D74, 0x80DEB1FE, 0x9BDC06A7, 0xC19BF174] ++
  [0xE49B69C1, 0xEFBE4786, 0x0FC19DC6, 0x240CA1CC, 0x2DE92C6F, 0x4A7484AA, 0x5CB0A9DC, 0x76F988DA, 0x983E5152, 0xA831C66D, 0xB00327C8, 0xBF597FC7, 0xC6E00BF3, 0xD5A79147, 0x06CA6351, 0x14292967] ++
  [0x27B70A85, 0x2E1B2138, 0x4D2C6DFC, 0x53380D13, 0x650A7354, 0x766A0ABB, 0x81C2C92E, 0x92722C85, 0xA2BFE8A1, 0xA81A664B, 0xC24B8B70, 0xC76C51A3, 0xD192E819, 0xD6990624, 0xF40E3585, 0x106AA070] ++
  [0x19A4C116, 0x1E376C08, 0x2748774C, 0x34B0BCB5, 0x391C0CB3, 0x4ED8AA4A, 0x5B9CCA4F, 0x682E6FF3, 0x748F82EE, 0x78A5636F, 0x84C87814, 0x8CC70208, 0x90BEFFFA, 0xA4506CEB, 0xBEF9A3F7, 0xC67178F2]

/-- Round constants of SHA-384. -/
def sha512K : List Nat :=
  [0x428A2F98D728AE22, 0x7137449123EF65CD, 0xB5C0FBCFEC4D3B2F, 0xE9B5DBA58189DBBC, 0x3956C25BF348B538, 0x59F111F1B605D019, 0x923F82A4AF194F9B, 0xAB1C5ED5DA6D8118, 0xD807AA98A3030242, 0x12835B0145706FBE, 0x243185BE4EE4B28C, 0x550C7DC3D5FFB4E2, 0x72BE5D74F27B896F, 0x80DEB1FE3B1696B1, 0x9BDC06A725C71235, 0xC19BF174CF692694] ++
  [0xE49B69C19EF14AD2, 0xEFBE4786384F25E3, 0x0FC19DC68B8CD5B5, 0x240CA1CC77AC9C65, 0x2DE92C6F592B0275, 0x4A7484AA6EA6E483, 0x5CB0A9DCBD41FBD4, 0x76F988DA831153B5, 0x983E5152EE66DFAB, 0xA831C66D2DB43210, 0xB00327C898FB213F, 0xBF597FC7BEEF0EE4, 0xC6E00BF33DA88FC2, 0xD5A79147930AA725, 0x06CA6351E003826F, 0x142929670A0E6E70] ++
  [0x27B70A8546D22FFC, 0x2E1B21385C26C926, 0x4D2C6DFC5AC42AED, 0x53380D139D95B3DF, 0x650A73548BAF63DE, 0x766A0ABB3C77B2A8, 0x81C2C92E47EDAEE6, 0x92722C851482353B, 0xA2BFE8A14CF10364, 0xA81A664BBC423001, 0xC24B8B70D0F89791, 0xC76C51A30654BE30, 0xD192E819D6EF5218, 0xD69906245565A910, 0xF40E35855771202A, 0x106AA07032BBD1B8] ++
  [0x19A4C116B8D2D0C8, 0x1E376C085141AB53, 0x2748774CDF8EEB99, 0x34B0BCB5E19B48A8, 0x391C0CB3C5C95A63, 0x4ED8AA4AE3418ACB, 0x5B9CCA4F7763E373, 0x682E6FF3D6B2B8A3, 0x748F82EE5DEFB2FC, 0x78A5636F43172F60, 0x84C87814A1F0AB72, 0x8CC702081A6439EC, 0x90BEFFFA23631E28, 0xA4506CEBDE82BDE9, 0xBEF9A3F7B2C67915, 0xC67178F2E372532B] ++
  [0xCA273ECEEA26619C, 0xD186B8C721C0C207, 0xEADA7DD6CDE0EB1E, 0xF57D4F7FEE6ED178, 0x06F067AA72176FBA, 0x0A637DC5A2C898A6, 0x113F9804BEF90DAE, 0x1B710B35131C471B, 0x28DB77F523047D84, 0x32CAAB7B40C72493, 0x3C9EBE0A15C9BEBC, 0x431D67C49C100D4C, 0x4CC5D4BECB3E42B6, 0x597F299CFC657E2A, 0x5FCB6FAB3AD6FAEC, 0x6C44198C4A475817]

/-- Initial hash of SHA-256. -/
def sha256H : List Nat :=
  [0x6A09E667, 0xBB67AE85, 0x3C6EF372, 0xA54FF53A, 0x510E527F, 0x9B05688C, 0x1F83D9AB, 0x5BE0CD19]

/-- Initial hash of SHA-384. -/
def sha384H : List Nat :=
  [0xCBBB9D5DC1059ED8, 0x629A292A367CD507, 0x9159015A3070DD17, 0x152FECD8F70E5939, 0x67332667FFC00B31, 0x8EB44A8768581511, 0xDB0C2E0D64F98FA7, 0x47B5481DBEFA4FA4]

/-- Rotation to the right in `w` bits. -/
def rotr (w n x : Nat) : Nat := (x >>> n ||| x <<< (w - n)) % 2 ^ w

/-- The parameters in which the two hashes differ: word width, the six rotation triples, rounds, constants. -/
def sha2Sigma (w a b c x : Nat) : Nat := rotr w a x ^^^ rotr w b x ^^^ rotr w c x

/-- A small sigma: two rotations and a shift. -/
def sha2Small (w a b c x : Nat) : Nat := rotr w a x ^^^ rotr w b x ^^^ (x >>> c)

/-- The message schedule, newest word first, extended by `n` words. -/
def sha2Extend (w : Nat) (s0 s1 : Nat × Nat × Nat) : Nat → List Nat → List Nat
  | 0, l => l
  | n + 1, l =>
    let x := (sha2Small w s1.1 s1.2.1 s1.2.2 (l.getD 1 0) + l.getD 6 0 +
      sha2Small w s0.1 s0.2.1 s0.2.2 (l.getD 14 0) + l.getD 15 0) % 2 ^ w
    sha2Extend w s0 s1 n (x :: l)

/-- One round on the eight working words. -/
def sha2Round (w : Nat) (S0 S1 : Nat × Nat × Nat) (h : List Nat) (kw : Nat) : List Nat :=
  match h with
  | [a, b, c, d, e, f, g, x] =>
    let ch := (e &&& f) ^^^ ((2 ^ w - 1 - e) &&& g)
    let t1 := x + sha2Sigma w S1.1 S1.2.1 S1.2.2 e + ch + kw
    let maj := (a &&& b) ^^^ (a &&& c) ^^^ (b &&& c)
    let t2 := sha2Sigma w S0.1 S0.2.1 S0.2.2 a + maj
    [(t1 + t2) % 2 ^ w, a, b, c, (d + t1) % 2 ^ w, e, f, g]
  | _ => h

/-- One block of 16 words. -/
def sha2Block (w : Nat) (s0 s1 S0 S1 : Nat × Nat × Nat) (ks : List Nat) (h m : List Nat) : List Nat :=
  let sched := (sha2Extend w s0 s1 (ks.length - 16) m.reverse).reverse
  let r := (List.zipWith (· + ·) ks sched).foldl (sha2Round w S0 S1) h
  List.zipWith (fun a b => (a + b) % 2 ^ w) h r

/-- The padded message as words of `wb` bytes. -/
def sha2Pad (wb : Nat) (l : List Byte) : List Byte :=
  let block := 16 * wb
  let z := (block - (l.length + 1 + 2 * wb) % block) % block
  l ++ [0x80] ++ List.replicate z 0 ++ beBytes (2 * wb) (8 * l.length)

/-- The blocks folded. -/
def sha2Blocks (w : Nat) (s0 s1 S0 S1 : Nat × Nat × Nat) (ks : List Nat) (h : List Nat) (l : List Byte) : List Nat :=
  let wb := w / 8
  let p := sha2Pad wb l
  (pieces (16 * wb) (p.length / (16 * wb)) p).foldl
    (fun h b => sha2Block w s0 s1 S0 S1 ks h ((pieces wb 16 b).map beNat)) h

/-- SHA-256. -/
def sha256 (l : List Byte) : List Byte :=
  (sha2Blocks 32 (7, 18, 3) (17, 19, 10) (2, 13, 22) (6, 11, 25) sha256K sha256H l).flatMap (beBytes 4)

/-- SHA-384. -/
def sha384 (l : List Byte) : List Byte :=
  ((sha2Blocks 64 (1, 8, 7) (19, 61, 6) (28, 34, 39) (14, 18, 41) sha512K sha384H l).take 6).flatMap (beBytes 8)

/-- HMAC-SHA-256 (R64, R66). -/
def hmacSha256 (key msg : List Byte) : List Byte :=
  let k := slice (if key.length > 64 then sha256 key else key) 0 64
  sha256 (k.map (· ^^^ 0x5C) ++ sha256 (k.map (· ^^^ 0x36) ++ msg))

/-- The prime of P-384. -/
def p384P : Nat := 2 ^ 384 - 2 ^ 128 - 2 ^ 96 + 2 ^ 32 - 1

/-- The order of P-384. -/
def p384N : Nat :=
  0xFFFFFFFFFFFFFFFFFFFFFFFFFFFFFFFFFFFFFFFFFFFFFFFFC7634D81F4372DDF581A0DB248B0A77AECEC196ACCC52973

/-- The constant b of P-384. -/
def p384B : Nat :=
  0xB3312FA7E23EE7E4988E056BE3F82D19181D9C6EFE8141120314088F5013875AC656398D8A2ED19D2A85C8EDD3EC2AEF

/-- The base point of P-384. -/
def p384G : Nat × Nat :=
  (0xAA87CA22BE8B05378EB1C71EF320AD746E1D3B628BA79B9859F741E082542A385502F25DBF55296C3A545E3872760AB7,
   0x3617DE4A96262C6F5D9E98BF9292DC29F8F41DBD289A147CE9DA3113B5F0B8C00A60B1CE1D7E819D7A431D7C90EA0E5F)

/-- A power modulo `m`, over `n` bits of the exponent. -/
def powMod (m b : Nat) : Nat → Nat → Nat
  | 0, _ => 1 % m
  | n + 1, e =>
    let h := powMod m (b * b % m) n (e / 2)
    if e % 2 = 1 then h * b % m else h

/-- The inverse modulo a prime of at most 384 bits. -/
def invMod (m a : Nat) : Nat := powMod m (a % m) 384 (m - 2)

/-- Twice a point of P-384. A point is (X, Y, Z), which stands for (X / Z^2, Y / Z^3); with Z = 0 it is the point at infinity. -/
def p384Double (a : Nat × Nat × Nat) : Nat × Nat × Nat :=
  let p := p384P
  let d := a.2.2 * a.2.2 % p
  let g := a.2.1 * a.2.1 % p
  let b := a.1 * g % p
  let l := 3 * (a.1 + p - d) * (a.1 + d) % p
  let x := (l * l + 8 * (p - b)) % p
  (x, (l * (4 * b + p - x) + 8 * (p - g * g % p)) % p, 2 * a.2.1 * a.2.2 % p)

/-- The sum of two points of P-384. -/
def p384Add (a b : Nat × Nat × Nat) : Nat × Nat × Nat :=
  let p := p384P
  if a.2.2 = 0 then b
  else if b.2.2 = 0 then a
  else
    let za := a.2.2 * a.2.2 % p
    let zb := b.2.2 * b.2.2 % p
    let u := a.1 * zb % p
    let s := a.2.1 * b.2.2 * zb % p
    let h := (b.1 * za + p - u) % p
    let r := (b.2.1 * a.2.2 * za + p - s) % p
    if h = 0 then if r = 0 then p384Double a else (1, 1, 0)
    else
      let hh := h * h % p
      let hhh := hh * h % p
      let v := u * hh % p
      let x := (r * r + (p - hhh) + 2 * (p - v)) % p
      (x, (r * (v + p - x) + s * (p - hhh)) % p, h * a.2.2 * b.2.2 % p)

/-- A multiple of a point, over `n` bits of the scalar. -/
def p384Mul : Nat → Nat → Nat × Nat × Nat → Nat × Nat × Nat
  | 0, _, _ => (1, 1, 0)
  | n + 1, k, q =>
    let r := p384Mul n (k / 2) (p384Double q)
    if k % 2 = 1 then p384Add q r else r

/-- Whether a pair is a point of the curve. -/
def p384On (x y : Nat) : Bool :=
  x < p384P && y < p384P && y * y % p384P == (x * x * x + (p384P - 3) * x + p384B) % p384P

/-- ECDSA verification (R452, R455 check 6). -/
def ecdsaVerify (pub sig digest : List Byte) : Bool :=
  let x := beNat (slice pub 0 48)
  let y := beNat (slice pub 48 48)
  let r := beNat (slice sig 0 48)
  let t := beNat (slice sig 48 48)
  let n := p384N
  if p384On x y && 0 < r && r < n && 0 < t && t < n then
    let w := invMod n t
    let z := beNat digest
    let g := p384Mul 384 (z * w % n) (p384G.1, p384G.2, 1)
    let s := p384Add g (p384Mul 384 (r * w % n) (x, y, 1))
    let i := invMod p384P s.2.2
    s.2.2 != 0 && s.1 * (i * i % p384P) % p384P % n == r
  else false

end Sys2Proof.Machine
end

