-- ==== Sys2Proof/Machine/Cap.lean ====
section
/-! DEFINITION. The Catalogue Access Protocol: frames, sessions and sequencing, and the management stack (R63–R73, R456, R457,
R489). -/
namespace Sys2Proof.Machine

/-! ### Frames (R64–R67) -/

/-- The header of a frame. -/
def capHeader (op : Byte) (session seq length keyId status : Nat) : List Byte :=
  [1, op] ++ u16 0 ++ u32 session ++ u64 seq ++ u16 length ++ u8 keyId ++ u8 0 ++ u32 status

/-- The bytes that the tag of a received frame covers. -/
def capSigned (f : CapFrame) (op : Nat) : List Byte :=
  [f.version, BitVec.ofNat 8 (op % 128 + b2n f.response * 128)] ++ u16 f.flags.toNat ++ u32 f.session.toNat ++ u64 f.seq.toNat
    ++ u16 f.length.toNat ++ [f.keyId, f.reserved] ++ u32 f.status.toNat ++ f.payload

/-- A response leaves, tagged with a key (R63, R66). -/
def State.capRespond (s : State) (f : CapFrame) (key : List Byte) (op session keyId : Nat) (status : Word) (payload : List Byte) :
    State :=
  let o := BitVec.ofNat 8 (op % 128 + 128)
  let h := capHeader o session f.seq.toNat payload.length keyId status.toNat
  s.emit (.capResponse f.dstPort f.srcAddr f.srcPort o (BitVec.ofNat 32 session) f.seq (BitVec.ofNat 8 keyId) status payload
    (hmacSha256 key (h ++ payload)))

/-- A frame discarded for any reason but its tag. -/
def State.capDiscard (s : State) : State := { s with cat := { s.cat with discarded := s.cat.discarded + 1 } }

/-- A frame discarded for its tag. -/
def State.capBadTag (s : State) : State := { s with cat := { s.cat with authFailures := s.cat.authFailures + 1 } }

/-- The frame's form fails a check of R67 that needs no session: its length, its version, a reserved field, or TYPE[7]. LAST, which a READ
has no use for, is no reserved field and is ignored in one (DESIGN CHOICE, log 155). -/
def capMalformed (f : CapFrame) (op : Nat) : Bool :=
  decide (f.size < 56) || f.size != 56 + f.length.toNat || decide (1176 < f.length.toNat) || f.payload.length != f.length.toNat
    || f.tag.length != 32 || f.version != 1 || f.response || f.flags != 0 || f.reserved != 0 || f.status != 0
    || (op == 0x01 && !allZero (slice f.payload 1 3))
    || ((op == 0x10 || op == 0x11) && (bits (field f.payload 3 1) 2 6 != 0 || field f.payload 14 2 != 0))

/-! ### OPEN (R66, R68, R457) -/

/-- The first value from one on, cyclically, that is nonzero and not in use. -/
def freshId : Nat → List Word → Word → Word
  | 0, _, v => v
  | n + 1, used, v => if v = 0 ∨ used.contains v then freshId n used (v + 1) else v

/-- The view of a role. -/
def viewOf (role : Nat) : View := if role = rolePriv then .priv else .ctx role

/-- An OPEN whose tag verifies. Of several free session slots it takes the lowest (DESIGN CHOICE, log 153). -/
def State.capOpen (s : State) (f : CapFrame) (k : KeySlot) : State :=
  let slot := f.keyId.toNat
  let role := k.role.toNat
  let answer (code : Word) : State := s.capRespond f k.key 0x01 0 slot code []
  if f.payload.length ≠ 20 then answer 0x0C000005
  else if role ≠ rolePriv ∧ (s.ctx role).isNone then answer abState
  else
    match (List.range 8).find? fun i => (Map.look s.cat.sessions i).isNone with
    | none => answer abNoSlot
    | some i =>
      let (s1, r1) := s.draw
      let (s2, r2) := s1.draw
      let id := freshId (s.cat.usedIds.length + 2) s.cat.usedIds (BitVec.ofNat 32 r1.toNat)
      let nonce := leBytes 16 r2.toNat
      let x : Session :=
        { id := id
          keyId := slot
          view := viewOf role
          peer := f.srcAddr
          peerPort := f.srcPort
          last := 0
          openedAt := s.now
          lastRequest := s.now
          authenticated := false
          key := hmacSha256 k.key (textBytes "CAP-SKEY" ++ slice f.payload 4 16 ++ nonce ++ u32 id.toNat)
          cached := none
          inExecution := false
          ending := false
          staging := none }
      let s3 := { s2 with cat := { s2.cat with
        sessions := Map.put s2.cat.sessions i x
        usedIds := s2.cat.usedIds ++ [id]
        slotGen := Map.put s2.cat.slotGen i (Map.at s2.cat.slotGen 0 i + 1) } }
      s3.capRespond f k.key 0x01 id.toNat slot 0 (nonce ++ u32 role)

/-! ### Requests of a session (R65, R69–R71) -/

/-- What an accepted request does: the state, its status, its response payload and what stays staged. Every request but a WRITE of the
same entry discards what is staged, a KEEPALIVE too (DESIGN CHOICE, log 154). -/
def State.capRun (s : State) (x : Session) (op : Nat) (p : List Byte) : State × Word × List Byte × Option Staging :=
  let idx := field p 0 2
  let sub := field p 2 1
  let chk := if bit (field p 3 1) 0 then some (field p 8 4) else none
  let n := field p 12 2
  match op with
  | 0x02 | 0x03 => (s, if p.isEmpty then 0 else 0x0C000005, [], none)
  | 0x10 =>
    if p.length ≠ 16 then (s, 0x0C000005, [], none)
    else
      let a := s.catRead x.view idx sub (field p 4 4) n 1160 chk
      (s, a.abort, u8 a.type ++ [0, 0, 0] ++ u32 a.total ++ u32 a.generation ++ u16 a.data.length ++ u16 0 ++ a.data, none)
  | 0x11 =>
    if p.length ≠ 16 + n then (s, 0x0C000005, [], none)
    else
      let s0 := { s with freeCtr := s.freeCtr + 1 }
      let (t, a, st) := s0.catWrite x.view idx sub (p.drop 16) (field p 4 4) (bit (field p 3 1) 1) (decide (1160 < n)) chk x.staging
      (t, a.abort, u8 a.type ++ [0, 0, 0] ++ u32 a.total ++ u32 a.generation ++ u32 0, st)
  | 0x12 =>
    if p.length ≠ 4 then (s, 0x0C000005, [], none)
    else if field p 2 2 < 1 ∨ 580 < field p 2 2 then (s, abRange, u32 0, none)
    else
      let (l, next) := s.catList x.view (field p 0 2) (field p 2 2)
      (s, 0, u16 next ++ u16 l.length ++ (l.map u16).flatten, none)
  | _ => (s, abUnknown, [], none)

/-- Changes the session of a slot. -/
def State.updSession (s : State) (slot : Nat) (g : Session → Session) : State :=
  match Map.look s.cat.sessions slot with
  | some x => { s with cat := { s.cat with sessions := Map.put s.cat.sessions slot (g x) } }
  | none => s

/-- A request in execution ends: its response is kept and sent, and the session ends if it is to. -/
def State.capExecute (s : State) (slot op : Nat) (f : CapFrame) : State :=
  match Map.look s.cat.sessions slot with
  | none => s
  | some x =>
    let (t, status, payload, st) := s.capRun x op f.payload
    let t1 := match Map.look t.cat.sessions slot with
      | some y =>
        if y.ending || (op == 0x02 && status == 0) then t.endSession slot
        else t.updSession slot fun z =>
          { z with
            inExecution := false
            staging := st
            cached := some (CapReply.mk (BitVec.ofNat 8 op) f.seq.toNat status payload) }
      | none => t
    t1.capRespond f x.key op x.id.toNat 0 status payload

/-- A WRITE that is an UNFENCE held by a context reset (R530). -/
def State.capHeld (s : State) (op : Nat) (x : Session) (f : CapFrame) : Bool :=
  op == 0x11 && x.view == .priv && f.payload.length == 18 && s.unfenceHeld (field f.payload 0 2) (field f.payload 2 1) (f.payload.drop 16)

/-- An authenticated request of a session, by its SEQ (R69). -/
def State.capRequest (s : State) (slot op : Nat) (x : Session) (f : CapFrame) : State :=
  let s1 := s.updSession slot fun y => { y with authenticated := true, lastRequest := s.now }
  let seq := f.seq.toNat
  if seq = x.last + 1 then
    (if x.inExecution then s1.capDiscard
    else
      let s2 := s1.updSession slot fun y => { y with last := seq, inExecution := true, cached := none }
      if s2.capHeld op x f then { s2 with cat := { s2.cat with waiting := s2.cat.waiting ++ [.capStarted slot op f] } }
      else s2.capExecute slot op f)
  else if seq = x.last then
    (match x.inExecution, x.cached with
    | false, some r =>
      let s2 := { s1 with cat := { s1.cat with retransmits := s1.cat.retransmits + 1 } }
      s2.capRespond f x.key r.op.toNat x.id.toNat 0 r.status r.payload
    | _, _ => s1.capDiscard)
  else if seq < x.last then s1.capDiscard
  else (s1.updSession slot fun y => { y with staging := none }).capRespond f x.key op x.id.toNat 0 abAhead []

/-- The session of an id. -/
def State.sessionOf (s : State) (id : Word) : Option (Nat × Session) := s.cat.sessions.find? fun p => p.2.id = id

/-- A frame is checked and served (R67). A frame that comes before READY or to another UDP port is no CAP frame of the block and
counts nowhere (R54, R63; DESIGN CHOICE, log 152). -/
def State.capFrame (s : State) (op : Nat) (f : CapFrame) : State :=
  if !s.cat.capEnable || !s.boot.ready || f.dstPort != s.cat.udpPort then s
  else if capMalformed f op then s.capDiscard
  else if op = 0x01 then
    (if f.session ≠ 0 then s.capDiscard
    else
      match Map.look s.cat.keys f.keyId.toNat with
      | none => s.capDiscard
      | some k => if hmacSha256 k.key (capSigned f op) = f.tag then s.capOpen f k else s.capBadTag)
  else
    match s.sessionOf f.session with
    | none => s.capDiscard
    | some (slot, x) =>
      if f.keyId ≠ 0 then s.capDiscard
      else if hmacSha256 x.key (capSigned f op) = f.tag then s.capRequest slot op x f
      else s.capBadTag

/-- A frame arrives: while the root's hart is halted every frame waits, and an OPEN waits while the entropy source fails. -/
def State.capIn (s : State) (op : Nat) (f : CapFrame) : State :=
  if s.boot.ready && s.cat.capEnable && f.dstPort == s.cat.udpPort && (s.rootHalted || (op == 0x01 && !s.boot.entropyOk)) then
    { s with cat := { s.cat with waiting := s.cat.waiting ++ [.cap op f] } }
  else s.capFrame op f

/-- OPEN (R68). -/
def execCapOpen (f : CapFrame) (s : State) : Host.Outcome State Fault Refusal := .next (s.capIn 0x01 f)

/-- CLOSE (R70). -/
def execCapClose (f : CapFrame) (s : State) : Host.Outcome State Fault Refusal := .next (s.capIn 0x02 f)

/-- KEEPALIVE (R70). -/
def execCapKeepalive (f : CapFrame) (s : State) : Host.Outcome State Fault Refusal := .next (s.capIn 0x03 f)

/-- CAP READ (R71). -/
def execCapRead (f : CapFrame) (s : State) : Host.Outcome State Fault Refusal := .next (s.capIn 0x10 f)

/-- CAP WRITE (R71). -/
def execCapWrite (f : CapFrame) (s : State) : Host.Outcome State Fault Refusal := .next (s.capIn 0x11 f)

/-- CAP LIST (R71). -/
def execCapList (f : CapFrame) (s : State) : Host.Outcome State Fault Refusal := .next (s.capIn 0x12 f)

/-- A frame of an operation that R65 does not list is refused once it is authenticated. -/
def execCapUnknownOperation (op : BitVec 7) (f : CapFrame) (s : State) : Host.Outcome State Fault Refusal :=
  .next (if ([0x01, 0x02, 0x03, 0x10, 0x11, 0x12] : List Nat).contains op.toNat then s else s.capIn op.toNat f)

/-- CAP_IDLE_TIMEOUT: no authenticated request arrived for IDLE_TIMEOUT (R70). -/
def execCapIdleTimeout (slot : Nat) (s : State) : Host.Outcome State Fault Refusal := .next (s.endSession slot)

/-- OPEN_FIRST_REQUEST_TIMEOUT: a session with no authenticated request is freed (R68). -/
def execOpenFirstRequestTimeout (slot : Nat) (s : State) : Host.Outcome State Fault Refusal :=
  .next (match Map.look s.cat.sessions slot with
  | some x => if x.authenticated then s else s.endSession slot
  | none => s)

/-! ### The requests that wait (R489, R530) -/

/-- A waiting request still waits for the end of a context reset or for the entropy source. -/
def State.stillHeld (s : State) : RootRequest → Bool
  | .window v op r => s.windowHeld v op r
  | .capStarted slot op f =>
    (match Map.look s.cat.sessions slot with
    | some x => s.capHeld op x f
    | none => false)
  | .cap op _ => op == 0x01 && !s.boot.entropyOk
  | .row _ => false

/-- What the row of an entry's write does when the root serves it. -/
def State.serveRow (s : State) : Instr → State
  | .bind record => s.answered (s.bindOp record)
  | .unbind value => s.answered (s.unbindOp value.toNat)
  | .contextCreate c => s.answered (s.createOp c.toNat)
  | .contextDestroy c => s.answered (s.destroyOp c.toNat)
  | .contextReset c => s.answered (s.resetOp c.toNat)
  | .reclaim c => s.answered (s.reclaimOp c.toNat)
  | .flowOpen record => s.answered (s.flowOpenOp record)
  | .flowClose value => s.answered (s.flowCloseOp value.toNat)
  | .markRelease record => s.answered (s.markReleaseOp record)
  | .layerCancel half layer value => s.answered (s.layerCancelOp half layer value.toNat)
  | .descriptorWrite half layer bytes => s.answered (s.descriptorOp half layer bytes)
  | .regionsWrite c bytes => s.answered (s.regionsOp c bytes)
  | .tableRegister bytes => s.answered (s.registerOp bytes)
  | .tableUnregister id => s.answered (s.unregisterOp id.toNat)
  | .fenceCore value => s.answered (s.fenceOp value.toNat)
  | .repairLoad bytes => s.answered (s.loadTable bytes)
  | .ringEnable ring => s.answered (s.enableOp ring)
  | .ringDisable ring => s.answered (s.disableOp ring)
  | .resumeRetry ring => s.answered (s.retryOp ring)
  | .resumeSkip ring => s.answered (s.skipOp ring)
  | .ringAbort ring => s.answered (s.abortOp ring)
  | .deviceSideEnable half d => s.answered (s.deviceEnableOp half d)
  | .deviceSideDisable half d => s.answered (s.deviceDisableOp half d)
  | .traceEnable value => s.answered (s.traceEnableOp value.toNat)
  | .triggerNow value => s.answered (s.triggerNowOp value.toNat)
  | .gcSelect selects => s.answered (s.gcSelectOp selects)
  | .gcClear value => s.answered (s.gcClearOp value.toNat)
  | .coreEvents c events => s.answered (s.coreEventsOp c events)
  | .eventFreeze value => s.answered (s.eventFreezeOp value.toNat)
  | .deviceIdWrite value => s.answered (s.deviceIdOp value.toNat)
  | .keyWrite slot bytes => s.answered (s.keyOp slot bytes)
  | .sessionCloseWrite slot value => s.answered (if (Map.look s.cat.sessions slot).isNone then .error abNoIndex else s.sessionCloseOp slot value.toNat)
  | .debugLock value => s.answered (s.debugLockOp value)
  | .unfenceCore value selfTestPasses => s.unfenceOp value.toNat selfTestPasses
  | _ => s

/-- The root serves a request that has waited. -/
def State.serveRequest (s : State) : RootRequest → State
  | .window v op r => s.serveWindow v op r
  | .capStarted slot op f => s.capExecute slot op f
  | .cap op f => s.capFrame op f
  | .row i => s.serveRow i

/-- The requests that may go on are served, in order of arrival. -/
def State.serveWaiting (s : State) : State :=
  if s.rootHalted then s
  else s.cat.waiting.foldl (fun t q =>
    if t.stillHeld q then { t with cat := { t.cat with waiting := t.cat.waiting ++ [q] } } else t.serveRequest q)
    { s with cat := { s.cat with waiting := [] } }

/-- CONTEXT_RESET_COMPLETE (R527, R530). -/
def execContextResetComplete (s : State) : Host.Outcome State Fault Refusal := .next s.finishReset.serveWaiting

/-- DMI_ACCESS (R488, R489). -/
def execDmiAccess (address : Byte) (op : BitVec 2) (data : Word) (s : State) : Host.Outcome State Fault Refusal :=
  .next (s.dmiOp address op.toNat data).serveWaiting

/-- DEBUG_LOCK (R458, R459). -/
def execDebugLock (value : Byte) (s : State) : Host.Outcome State Fault Refusal := .next (s.rootRow (.debugLock value) (s.debugLockOp value)).serveWaiting

/-- HEARTBEAT_TIMEOUT: the watchdog of a halted hart is suspended (R431, R489). -/
def execHeartbeatTimeout (half core : Nat) (s : State) : Host.Outcome State Fault Refusal :=
  .next (if s.dbg.halted.contains (5 * half + core) then s else (s.controlCoreFails half core).serveWaiting)

/-- CONTROL_CORE_MEMORY_ERROR (R431). -/
def execControlCoreMemoryError (half core : Nat) (s : State) : Host.Outcome State Fault Refusal :=
  .next (s.controlCoreFails half core).serveWaiting

/-! ### The management stack (R63, R509) -/

/-- The link-local address that the block forms from its MAC address (PRESUMED, log 22). -/
def State.linkLocal (s : State) : List Byte :=
  let m := beBytes 6 s.straps.mgmtMac
  let flip := (m.headD 0) ^^^ 2
  [0xFE, 0x80, 0, 0, 0, 0, 0, 0, flip] ++ slice m 1 2 ++ [0xFF, 0xFE] ++ slice m 3 3

/-- An address of the block. -/
def State.ownAddress (s : State) (a : List Byte) : Bool :=
  a == s.linkLocal || (a == s.cat.address && !allZero s.cat.address)

/-- MGMT_ICMPV6 (R63). -/
def execMgmtIcmpv6 (f : MgmtFrame) (s : State) : Host.Outcome State Fault Refusal :=
  .next (if !s.boot.ready then s
  else
    match f with
    | .neighbourSolicitation src target => if s.ownAddress target then s.emit (.neighbourAdvert src target) else s
    | .echoRequest src data => s.emit (.echoReply src data)
    | .fragment => s.capDiscard)

end Sys2Proof.Machine
end

