-- ==== Sys2Proof/Machine/Bringup.lean ====
section
/-! DEFINITION. Block reset, bring-up, clocks, power-good and the firmware load (R382, R452–R455, R457, R463, R492–R495,
R520–R525). -/
namespace Sys2Proof.Machine

/-! ### Block reset (R494, R495, R521, R522 steps 1 and 2) -/

/-- Bring-up halts until the next block reset. -/
def State.halt (s : State) (reason : Nat) : State := { s with boot := { s.boot with stage := 7, haltReason := reason } }

/-- Bring-up goes on through self-test, entropy and training. -/
def State.inBringup (s : State) : Bool := s.boot.stage == 2 || s.boot.stage == 3

/-- Why the straps halt bring-up: 0 for not at all. -/
def State.strapHalt (s : State) : Nat :=
  let t := s.straps
  if t.build0 ≠ t.build1 ∨ t.meridianRev0 ≠ t.meridianRev1 then 1
  else if s.portCapacity 0 = 0 ∨ s.portCapacity 6 = 0 then 5
  else 0

/-- The speed that a strap of an exchange port names. -/
def strapSpeed (v : Nat) : Nat := if v = 1 ∨ v = 2 then v else 0

/-- Every item of the block after a block reset: device memory, fuses and what has left the block stay. -/
def State.resetBlock (s : State) (straps : Straps) : State :=
  let r := State.reset
  let ports := (List.range 8).map fun p => (p, { XPort.reset with speed := strapSpeed (straps.xchSpeed.getD p 0) })
  { r with
    straps := straps
    fuses := s.fuses
    boot := { r.boot with randomDraws := s.boot.randomDraws }
    set := { r.set with debugLock := s.fuses.debugLockFuse }
    ecl := { r.ecl with ports := ports }
    mem := { r.mem with dev := s.mem.dev }
    dbg := { r.dbg with traceReady := s.dbg.traceReady }
    outputs := s.outputs
    freeCtr := s.freeCtr
    pending := s.pending }

/-- BLOCK_RESET (R521): the straps are sampled and fuse data is applied. -/
def execBlockReset (straps : Straps) (s : State) : Host.Outcome State Fault Refusal :=
  let t := s.resetBlock straps
  .next (if t.strapHalt ≠ 0 then t.halt t.strapHalt
    else
      let u := t.fuseMap
      { u with boot := { u.boot with stage := 2 } })

/-- PWR_OK_LOW (R494): the integrator holds the block in reset from here on. -/
def execPwrOkLow (half : Nat) (s : State) : Host.Outcome State Fault Refusal :=
  .next { s with boot := if half = 0 then { s.boot with pwrOk0 := false } else { s.boot with pwrOk1 := false } }

/-! ### The firmware load (R453–R455) -/

/-- FW_ADDR is a 4 KiB aligned host block address. -/
def Boot.addressOk (b : Boot) : Bool :=
  isHostAddr b.fwAddr.toNat && bits b.fwAddr.toNat 57 6 == 0 && b.fwAddr.toNat % 4096 == 0

/-- LOAD is served in EMPTY or REFUSED once bring-up waits for firmware; before that it stays set. -/
def State.serveLoad (s : State) : State :=
  if !s.boot.fwLoad || s.boot.stage != 4 || (s.boot.fwState != 0 && s.boot.fwState != 3) then s
  else if allZero s.fuses.keyHash then s.fwRefused 0x07
  else if !s.boot.addressOk then s.fwRefused 0x01
  else State.fwTranslate { s with boot := { s.boot with fwState := 1, fwReason := 0 } }

/-- A write of LOAD: in LOADING and RUNNING it has no effect. -/
def State.fwLoadOp (s : State) : State :=
  if s.boot.fwState = 1 ∨ s.boot.fwState = 2 then s
  else State.serveLoad { s with boot := { s.boot with fwLoad := true } }

/-- FW_LOAD (R453). -/
def execFwLoad (s : State) : Host.Outcome State Fault Refusal := .next s.fwLoadOp

/-- The message that SIG signs (R454). -/
def fwSigned (l : List Byte) : List Byte := slice l 0 160 ++ l.drop 256

/-- Checks 3 to 7 of R455: the reason of the first that fails, 0 for none. -/
def State.fwCheck (s : State) (l : List Byte) : Nat :=
  let body := field l 16 4
  let entry := field l 20 4
  let pub := slice l 64 96
  if field l 0 4 ≠ 0x57484E46 ∨ field l 4 2 ≠ 0x0301 ∨ field l 6 2 ≠ 0 ∨ !allZero (slice l 28 36) ∨ !allZero (slice l 256 256)
      ∨ body % 8 ≠ 0 ∨ body < 4096 ∨ 229376 < body ∨ entry % 4 ≠ 0 ∨ body ≤ entry ∨ s.boot.fwLen.toNat ≠ 512 + body
      ∨ l.length ≠ 512 + body then 0x02
  else if blockVersion < field l 24 4 then 0x03
  else if sha384 pub ≠ s.fuses.keyHash then 0x04
  else if !ecdsaVerify pub (slice l 160 96) (sha384 (fwSigned l)) then 0x05
  else if field l 12 4 < s.fuses.minSvn then 0x06
  else 0

/-- A control core after the image's body is copied into it: an active one is started at ENTRY; a spare waits idle, and a failed core
is held in reset (R431, R455, R523). -/
def State.imageIn (s : State) (n : Nat) (body : List Byte) (entry : Nat) : ControlCore :=
  let taken := if n / 5 = 0 then s.flt.spareTaken0 else s.flt.spareTaken1
  ⟨body, entry, !s.flt.controlFailed.contains (8 * (n / 5) + n % 5) && (decide (n % 5 < 4) || taken)⟩

/-- The image is copied into the control cores and runs. -/
def State.fwRun (s : State) (l : List Byte) : State :=
  { s with boot := { s.boot with
      stage := 5
      fwState := 2
      fwReason := 0
      fwLoad := false
      fwDone := true
      fwDoneEvents := s.boot.fwDoneEvents + 1
      fwVersion := BitVec.ofNat 32 (field l 8 4)
      fwDigest := sha384 (fwSigned l)
      fwLoadTime := s.now
      fwEntry := field l 20 4
      controlCores := (List.range 10).map fun n => (n, s.imageIn n (l.drop 512) (field l 20 4)) } }

/-- FW_FETCH_DONE (R455): the fetch ends, with the image or with an error. -/
def execFwFetchDone (ok : Bool) (image : List Byte) (s : State) : Host.Outcome State Fault Refusal :=
  .next (if s.boot.fwState ≠ 1 then s
  else if !ok then s.fwRefused 0x01
  else if s.fwCheck image ≠ 0 then s.fwRefused (s.fwCheck image)
  else s.fwRun image)

/-- The base of the parameter store and of the routing workspace of a half (R112, R314). -/
def State.storeBase (s : State) (h : Nat) : Nat := 6 * h * 2 ^ 36 + s.portCapacity (6 * h) - 0x1000000
def State.workspaceBase (s : State) (h : Nat) : Nat := s.storeBase h - 0x10000000

/-- FIRMWARE_INIT_DONE: the stores and workspaces are reserved and the Catalogue is ready (R522 steps 8 and 9). -/
def execFirmwareInitDone (s : State) : Host.Outcome State Fault Refusal :=
  .next (if s.boot.stage ≠ 5 then s
  else
    let s1 := { s with
      dv := { s.dv with paramBase0 := s.storeBase 0, paramBase1 := s.storeBase 1 }
      boot := { s.boot with stage := 6, ready := true } }
    (s1.updEngine 0 fun e => { e with workspace := s.workspaceBase 0 }).updEngine 1 fun e => { e with workspace := s.workspaceBase 1 })

/-! ### Training, health tests and self-test (R457, R514, R522, R523) -/

/-- Bring-up waits for firmware once training, health tests and self-test have ended. -/
def State.bringupGoes (s : State) : State :=
  if !s.inBringup || !s.boot.selfTested || !s.boot.linkTrained then s
  else if !s.boot.entropyOk then { s with boot := { s.boot with stage := 3 } }
  else State.serveLoad { s with boot := { s.boot with stage := 4 } }

/-- MERIDIAN_TRAINING_DONE (R514, R522 step 3). -/
def execMeridianTrainingDone (failed0 failed1 : List Nat) (s : State) : Host.Outcome State Fault Refusal :=
  .next (if !s.inBringup || s.boot.linkTrained then s
  else
    let lanes (l : List Nat) := (l.filter fun i => decide (i < 136)).eraseDups
    let s1 := (lanes failed0).foldl (fun t i => t.meridianLaneFails 0 i) s
    let s2 := (lanes failed1).foldl (fun t i => t.meridianLaneFails 1 i) s1
    if s2.flt.goodLanes 0 < 64 ∨ s2.flt.goodLanes 1 < 64 then s2.halt 2
    else State.bringupGoes { s2 with boot := { s2.boot with linkTrained := true } })

/-- HEALTH_TESTS_PASS (R457): bring-up and the OPENs that wait go on; the incarnation is drawn once in each bring-up (R382). -/
def execHealthTestsPass (s : State) : Host.Outcome State Fault Refusal :=
  let s1 := { s with boot := { s.boot with entropyOk := true } }
  let s2 := if s1.ecl.incarnation ≠ 0 then s1
    else
      let (t, r) := s1.draw
      { t with ecl := { t.ecl with incarnation := freshId 1 [] (BitVec.ofNat 32 r.toNat) } }
  .next s2.bringupGoes.serveWaiting

/-- HEALTH_TEST_FAIL (R457): bring-up and CAP OPEN are held. -/
def execHealthTestFail (s : State) : Host.Outcome State Fault Refusal := .next { s with boot := { s.boot with entropyOk := false } }

/-- The rows of an array that self-test found failing. -/
def rowsOf (found : SelfTest) (a : Nat) : List Nat := ((found.rows.filter fun r => r.1 = a).map (·.2)).eraseDups

/-- An array has more failing rows than spares. -/
def arrayFails (found : SelfTest) (a : Nat) : Bool := decide (arraySpares a < (rowsOf found a).length)

/-- The positions of the cores that fail, by their own test or by a memory. -/
def State.failingCores (s : State) (found : SelfTest) : List (Nat × Nat) :=
  let byRow := (((found.rows.map (·.1)).eraseDups.filter fun a => inCore a && arrayFails found a).map fun a =>
    (a % 16384 / 16, (s.stand (a % 16384 / 16)).position (a % 16)))
  (found.cores ++ byRow).eraseDups

/-- The cores of a sector that are not fenced wait for work in their dispatch loops. -/
def State.allAsk (s : State) : State :=
  (List.range 8).foldl (fun t k => t.updSector k fun x =>
    { x with waiting := (((compsOfSector k).map coresOfComp).flatten.filter fun c => !t.fenced c).map fun c => WorkRequest.mk c 1 }) s

/-- A control core that fails self-test is held in reset, and the table holds its repair. -/
def State.controlFinding (s : State) (half core : Nat) : State :=
  let id := 8 * half + core
  if s.flt.controlFailed.contains id then s
  else
    let f := { s.flt with controlFailed := s.flt.controlFailed ++ [id] }
    let f1 := if core = 4 then f else if half = 0 then { f with spareTaken0 := true } else { f with spareTaken1 := true }
    State.addEntry { s with flt := f1 } 9 (half % 2 + 2 * (core % 8)) 0

/-- SELF_TEST_DONE (R523). -/
def execSelfTestDone (found : SelfTest) (s : State) : Host.Outcome State Fault Refusal :=
  .next (if !s.inBringup || s.boot.selfTested then s
  else
    let bad := s.failingCores found
    let s1 := { s with boot := { s.boot with
      selfTested := true
      coresFailed := bad.length
      findings := bad
      rowFindings := found.rows.eraseDups } }
    let s2 := found.control.foldl (fun t c => t.controlFinding c.1 c.2) s1
    let s3 := s2.applyFindings
    let s4 := if s3.flt.generation ≠ s2.flt.generation || s2.flt.generation = s1.flt.generation then s3 else s3.blockFlag .repair
    let s5 := (List.range 64).foldl (fun t i => t.updComp i fun x => { x with supply := t.requested i }) s4.allAsk
    if arrayFails found (arrayNode 0) || arrayFails found (arrayNode 1) then s5.halt 3
    else if [0, 1].any fun h => (List.range 5).all fun k => s5.flt.controlFailed.contains (8 * h + k) then s5.halt 4
    else s5.bringupGoes)

/-! ### Clocks (R492, R493) -/

/-- CLOCK_FAULT: REF_CLK and TIME_REF fault the whole block; another clock faults its port. -/
def execClockFault (clock : ClockId) (s : State) : Host.Outcome State Fault Refusal :=
  let port := { s with boot := { s.boot with portFaults := s.boot.portFaults.filter (· ≠ clock) ++ [clock] } }
  .next (match clock with
    | .refClk _ => { s with boot := { s.boot with blockFault := true } }
    | .timeRef => { s with boot := { s.boot with blockFault := true } }
    | .xch p => port.failPort p
    | .host => port
    | .mem _ => port
    | .mgmt => port)

end Sys2Proof.Machine
end

