-- ==== Sys2Proof/Machine/CoreMemory.lean ====
section
/-! DEFINITION. Local loads and stores, transfers, digests and the matrix slice instructions (R230–R238). Each is decoded at the core's PC and runs as its queue allows. -/
namespace Sys2Proof.Machine

/-- LDS (R230). -/
def execLds (core : Nat) (f : Fields) (ecc : Ecc) (s : State) : Host.Outcome State Fault Refusal :=
  .next (s.issue core 0x40 f ecc)

/-- STS (R230). -/
def execSts (core : Nat) (f : Fields) (ecc : Ecc) (s : State) : Host.Outcome State Fault Refusal :=
  .next (s.issue core 0x41 f ecc)

/-- VLD (R231). -/
def execVld (core : Nat) (f : Fields) (ecc : Ecc) (s : State) : Host.Outcome State Fault Refusal :=
  .next (s.issue core 0x42 f ecc)

/-- VST (R231). -/
def execVst (core : Nat) (f : Fields) (s : State) : Host.Outcome State Fault Refusal :=
  .next (s.issue core 0x43 f .clean)

/-- XLD (R232). -/
def execXld (core : Nat) (f : CodedFields) (s : State) : Host.Outcome State Fault Refusal :=
  .next (s.issue core 0x44 f.fields f.ecc)

/-- XST (R232). -/
def execXst (core : Nat) (f : CodedFields) (s : State) : Host.Outcome State Fault Refusal :=
  .next (s.issue core 0x45 f.fields f.ecc)

/-- XMV (R232). -/
def execXmv (core : Nat) (f : CodedFields) (s : State) : Host.Outcome State Fault Refusal :=
  .next (s.issue core 0x46 f.fields f.ecc)

/-- TDIGEST (R236). -/
def execTdigest (core : Nat) (f : Fields) (s : State) : Host.Outcome State Fault Refusal :=
  .next (s.issue core 0x47 f .clean)

/-- MLOAD (R196, R237). -/
def execMload (core : Nat) (f : CodedFields) (s : State) : Host.Outcome State Fault Refusal :=
  .next (s.issue core 0x50 f.fields f.ecc)

/-- MSWAP (R197). -/
def execMswap (core : Nat) (f : Fields) (s : State) : Host.Outcome State Fault Refusal :=
  .next (s.issue core 0x51 f .clean)

/-- MSTREAM (R238). -/
def execMstream (core : Nat) (f : CodedFields) (s : State) : Host.Outcome State Fault Refusal :=
  .next (s.issue core 0x52 f.fields f.ecc)

end Sys2Proof.Machine
end

