-- ==== Sys2Proof/Machine/CoreScalar.lean ====
section
/-! DEFINITION. Scalar, control-flow and control instructions (R222–R227, R248). Each is decoded at the core's PC and runs as its queue allows. -/
namespace Sys2Proof.Machine

/-- ADD: RA + B (R222). -/
def execAdd (core : Nat) (f : Fields) (s : State) : Host.Outcome State Fault Refusal :=
  .next (s.issue core 0x01 f .clean)

/-- SUB: RA − B (R222). -/
def execSub (core : Nat) (f : Fields) (s : State) : Host.Outcome State Fault Refusal :=
  .next (s.issue core 0x02 f .clean)

/-- AND (R222). -/
def execAnd (core : Nat) (f : Fields) (s : State) : Host.Outcome State Fault Refusal :=
  .next (s.issue core 0x03 f .clean)

/-- OR (R222). -/
def execOr (core : Nat) (f : Fields) (s : State) : Host.Outcome State Fault Refusal :=
  .next (s.issue core 0x04 f .clean)

/-- XOR (R222). -/
def execXor (core : Nat) (f : Fields) (s : State) : Host.Outcome State Fault Refusal :=
  .next (s.issue core 0x05 f .clean)

/-- SLL: shift left by B[4:0] (R222). -/
def execSll (core : Nat) (f : Fields) (s : State) : Host.Outcome State Fault Refusal :=
  .next (s.issue core 0x06 f .clean)

/-- SRL: shift right, zero fill (R222). -/
def execSrl (core : Nat) (f : Fields) (s : State) : Host.Outcome State Fault Refusal :=
  .next (s.issue core 0x07 f .clean)

/-- SRA: shift right, sign fill (R222). -/
def execSra (core : Nat) (f : Fields) (s : State) : Host.Outcome State Fault Refusal :=
  .next (s.issue core 0x08 f .clean)

/-- MUL: the low 32 bits of RA × B (R222). -/
def execMul (core : Nat) (f : Fields) (s : State) : Host.Outcome State Fault Refusal :=
  .next (s.issue core 0x09 f .clean)

/-- MULHU: the high 32 bits of the unsigned product (R222). -/
def execMulhu (core : Nat) (f : Fields) (s : State) : Host.Outcome State Fault Refusal :=
  .next (s.issue core 0x0A f .clean)

/-- MIN: signed minimum (R222). -/
def execMin (core : Nat) (f : Fields) (s : State) : Host.Outcome State Fault Refusal :=
  .next (s.issue core 0x0B f .clean)

/-- MAX: signed maximum (R222). -/
def execMax (core : Nat) (f : Fields) (s : State) : Host.Outcome State Fault Refusal :=
  .next (s.issue core 0x0C f .clean)

/-- SLT: 1 if RA < B signed (R222). -/
def execSlt (core : Nat) (f : Fields) (s : State) : Host.Outcome State Fault Refusal :=
  .next (s.issue core 0x0D f .clean)

/-- SLTU: 1 if RA < B unsigned (R222). -/
def execSltu (core : Nat) (f : Fields) (s : State) : Host.Outcome State Fault Refusal :=
  .next (s.issue core 0x0E f .clean)

/-- NOP (R216, R223): the core decodes a whole word of its instruction memory. The word of zeros is NOP, and a word whose opcode no
table lists raises ILLEGAL; the code of the instruction memory may have found an error in it (R421, R433). -/
def execNop (core : Nat) (fetch : Fetched) (s : State) : Host.Outcome State Fault Refusal :=
  .next (s.issueWord core fetch.word fetch.ecc)

/-- BEQ: branch if RA = RB (R223). -/
def execBeq (core : Nat) (f : Fields) (s : State) : Host.Outcome State Fault Refusal :=
  .next (s.issue core 0x10 f .clean)

/-- BNE: branch if RA ≠ RB (R223). -/
def execBne (core : Nat) (f : Fields) (s : State) : Host.Outcome State Fault Refusal :=
  .next (s.issue core 0x11 f .clean)

/-- BLT: branch if RA < RB signed (R223). -/
def execBlt (core : Nat) (f : Fields) (s : State) : Host.Outcome State Fault Refusal :=
  .next (s.issue core 0x12 f .clean)

/-- BGE: branch if RA ≥ RB signed (R223). -/
def execBge (core : Nat) (f : Fields) (s : State) : Host.Outcome State Fault Refusal :=
  .next (s.issue core 0x13 f .clean)

/-- BLTU: branch if RA < RB unsigned (R223). -/
def execBltu (core : Nat) (f : Fields) (s : State) : Host.Outcome State Fault Refusal :=
  .next (s.issue core 0x14 f .clean)

/-- BGEU: branch if RA ≥ RB unsigned (R223). -/
def execBgeu (core : Nat) (f : Fields) (s : State) : Host.Outcome State Fault Refusal :=
  .next (s.issue core 0x15 f .clean)

/-- JAL: RD ← PC + 8; PC ← PC + IMM (R223). -/
def execJal (core : Nat) (f : Fields) (s : State) : Host.Outcome State Fault Refusal :=
  .next (s.issue core 0x16 f .clean)

/-- JALR: RD ← PC + 8; PC ← RA + IMM (R223). -/
def execJalr (core : Nat) (f : Fields) (s : State) : Host.Outcome State Fault Refusal :=
  .next (s.issue core 0x17 f .clean)

/-- CRR: RD ← control register (R224). -/
def execCrr (core : Nat) (f : Fields) (s : State) : Host.Outcome State Fault Refusal :=
  .next (s.issue core 0x18 f .clean)

/-- CRW: control register ← RA (R224). -/
def execCrw (core : Nat) (f : Fields) (s : State) : Host.Outcome State Fault Refusal :=
  .next (s.issue core 0x19 f .clean)

/-- CNTRD: RD ← half of a counter (R227). -/
def execCntrd (core : Nat) (f : Fields) (s : State) : Host.Outcome State Fault Refusal :=
  .next (s.issue core 0x1A f .clean)

/-- TRAP raises exception TRAP (R248). -/
def execTrap (core : Nat) (f : Fields) (s : State) : Host.Outcome State Fault Refusal :=
  .next (s.issue core 0x1B f .clean)

end Sys2Proof.Machine
end

