-- ==== Sys2Proof/Machine/CoreSync.lean ====
section
/-! DEFINITION. Ordering, synchronisation, marking and work instructions (R239–R244). Each is decoded at the core's PC and runs as its queue allows. -/
namespace Sys2Proof.Machine

/-- QBAR (R240). -/
def execQbar (core : Nat) (f : Fields) (s : State) : Host.Outcome State Fault Refusal :=
  .next (s.issue core 0x60 f .clean)

/-- FENCE (R241). -/
def execFence (core : Nat) (f : Fields) (s : State) : Host.Outcome State Fault Refusal :=
  .next (s.issue core 0x61 f .clean)

/-- XWAIT (R235). -/
def execXwait (core : Nat) (f : Fields) (s : State) : Host.Outcome State Fault Refusal :=
  .next (s.issue core 0x62 f .clean)

/-- SIGNAL (R239, R243). -/
def execSignal (core : Nat) (f : Fields) (s : State) : Host.Outcome State Fault Refusal :=
  .next (s.issue core 0x63 f .clean)

/-- TAKE (R239, R243, R244). -/
def execTake (core : Nat) (f : Fields) (s : State) : Host.Outcome State Fault Refusal :=
  .next (s.issue core 0x64 f .clean)

/-- WAITGE (R239, R243, R244). -/
def execWaitge (core : Nat) (f : Fields) (s : State) : Host.Outcome State Fault Refusal :=
  .next (s.issue core 0x65 f .clean)

/-- SEMRD (R239, R243). -/
def execSemrd (core : Nat) (f : Fields) (s : State) : Host.Outcome State Fault Refusal :=
  .next (s.issue core 0x66 f .clean)

/-- SEMINIT (R239, R243). -/
def execSeminit (core : Nat) (f : Fields) (s : State) : Host.Outcome State Fault Refusal :=
  .next (s.issue core 0x67 f .clean)

/-- MARK (R239, R477). -/
def execMark (core : Nat) (f : Fields) (s : State) : Host.Outcome State Fault Refusal :=
  .next (s.issue core 0x68 f .clean)

/-- GETWORK (R185, R242). -/
def execGetwork (core : Nat) (f : Fields) (s : State) : Host.Outcome State Fault Refusal :=
  .next (s.issue core 0x70 f .clean)

/-- ENDWORK (R135, R239). -/
def execEndwork (core : Nat) (f : Fields) (s : State) : Host.Outcome State Fault Refusal :=
  .next (s.issue core 0x71 f .clean)

end Sys2Proof.Machine
end

