-- ==== Sys2Proof/Machine/CoreVector.lean ====
section
/-! DEFINITION. Vector instructions (R207, R208, R228, R229). Each is decoded at the core's PC and runs as its queue allows. -/
namespace Sys2Proof.Machine

/-- VADD (R228). -/
def execVadd (core : Nat) (f : Fields) (s : State) : Host.Outcome State Fault Refusal :=
  .next (s.issue core 0x20 f .clean)

/-- VSUB (R228). -/
def execVsub (core : Nat) (f : Fields) (s : State) : Host.Outcome State Fault Refusal :=
  .next (s.issue core 0x21 f .clean)

/-- VMUL (R228). -/
def execVmul (core : Nat) (f : Fields) (s : State) : Host.Outcome State Fault Refusal :=
  .next (s.issue core 0x22 f .clean)

/-- VFMA (R228). -/
def execVfma (core : Nat) (f : Fields) (s : State) : Host.Outcome State Fault Refusal :=
  .next (s.issue core 0x23 f .clean)

/-- VMIN (R228). -/
def execVmin (core : Nat) (f : Fields) (s : State) : Host.Outcome State Fault Refusal :=
  .next (s.issue core 0x24 f .clean)

/-- VMAX (R228). -/
def execVmax (core : Nat) (f : Fields) (s : State) : Host.Outcome State Fault Refusal :=
  .next (s.issue core 0x25 f .clean)

/-- VAND (R228). -/
def execVand (core : Nat) (f : Fields) (s : State) : Host.Outcome State Fault Refusal :=
  .next (s.issue core 0x26 f .clean)

/-- VOR (R228). -/
def execVor (core : Nat) (f : Fields) (s : State) : Host.Outcome State Fault Refusal :=
  .next (s.issue core 0x27 f .clean)

/-- VXOR (R228). -/
def execVxor (core : Nat) (f : Fields) (s : State) : Host.Outcome State Fault Refusal :=
  .next (s.issue core 0x28 f .clean)

/-- VCMP (R228). -/
def execVcmp (core : Nat) (f : Fields) (s : State) : Host.Outcome State Fault Refusal :=
  .next (s.issue core 0x29 f .clean)

/-- VSEL (R228). -/
def execVsel (core : Nat) (f : Fields) (s : State) : Host.Outcome State Fault Refusal :=
  .next (s.issue core 0x2A f .clean)

/-- VBCAST (R228). -/
def execVbcast (core : Nat) (f : Fields) (s : State) : Host.Outcome State Fault Refusal :=
  .next (s.issue core 0x2B f .clean)

/-- VEXT (R228). -/
def execVext (core : Nat) (f : Fields) (s : State) : Host.Outcome State Fault Refusal :=
  .next (s.issue core 0x2C f .clean)

/-- VLANE (R228). -/
def execVlane (core : Nat) (f : Fields) (s : State) : Host.Outcome State Fault Refusal :=
  .next (s.issue core 0x2D f .clean)

/-- VRED (R228). -/
def execVred (core : Nat) (f : Fields) (s : State) : Host.Outcome State Fault Refusal :=
  .next (s.issue core 0x2E f .clean)

/-- VEXP2 (R228, R229). -/
def execVexp2 (core : Nat) (f : Fields) (s : State) : Host.Outcome State Fault Refusal :=
  .next (s.issue core 0x2F f .clean)

/-- VRCP (R228, R229). -/
def execVrcp (core : Nat) (f : Fields) (s : State) : Host.Outcome State Fault Refusal :=
  .next (s.issue core 0x30 f .clean)

/-- VRSQRT (R228, R229). -/
def execVrsqrt (core : Nat) (f : Fields) (s : State) : Host.Outcome State Fault Refusal :=
  .next (s.issue core 0x31 f .clean)

/-- VMAXRUN (R208). -/
def execVmaxrun (core : Nat) (f : Fields) (s : State) : Host.Outcome State Fault Refusal :=
  .next (s.issue core 0x32 f .clean)

/-- VEXPSUB (R208, R229). -/
def execVexpsub (core : Nat) (f : Fields) (s : State) : Host.Outcome State Fault Refusal :=
  .next (s.issue core 0x33 f .clean)

/-- VRESCALE (R208). -/
def execVrescale (core : Nat) (f : Fields) (s : State) : Host.Outcome State Fault Refusal :=
  .next (s.issue core 0x34 f .clean)

/-- VDIVSAFE (R208, R229). -/
def execVdivsafe (core : Nat) (f : Fields) (s : State) : Host.Outcome State Fault Refusal :=
  .next (s.issue core 0x35 f .clean)

end Sys2Proof.Machine
end

