-- ==== Sys2Proof/Machine/Registers.lean ====
section
/-! DEFINITION. The registers of the host window: what a read of one returns, and the effect of a write (R13, R37, R38,
R55–R60, R81, R82, R164, R342, R441, R446, R453, R488, R499, R524). -/
namespace Sys2Proof.Machine

/-! ### Values of registers -/

/-- CAT_STATUS (R58). -/
def Window.status (w : Window) : Nat :=
  b2n w.busy * 2 ^ 63 + b2n w.done * 2 ^ 62 + w.doneEvents.toNat * 2 ^ 40 + w.type.toNat * 2 ^ 32 + w.abort.toNat

/-- A register of a Catalogue window, by its offset from the window's base. -/
def Window.read (w : Window) (o : Nat) : Nat :=
  if o = 0x00 then w.req.toNat + b2n w.busy * 2 ^ 63
  else if o = 0x08 then w.aux.toNat
  else if o = 0x10 then w.status
  else if o = 0x18 then w.generation.toNat * 2 ^ 32 + w.total.toNat
  else 0

/-- RING_STATUS (R82). -/
def State.ringStatus (s : State) (r : Nat) : Nat :=
  let g := s.ring r
  s.ringState r * 2 ^ 56 + s.ringCause r * 2 ^ 48 + b2n g.overrun * 2 ^ 47 + g.overrunEvents.toNat * 2 ^ 16

/-- STEP_STATUS (R342). -/
def Ring.stepStatus (g : Ring) : Nat := b2n g.stepFlag * 2 ^ 63 + g.stepEvents.toNat * 2 ^ 32 + g.stepId.toNat

/-- BRINGUP_STATUS (R524). -/
def Boot.status (b : Boot) : Nat := b.stage * 2 ^ 56 + b.haltReason * 2 ^ 48 + b.coresFailed % 65536 * 2 ^ 16

/-- FW_STATUS (R453). -/
def Boot.fwStatus (b : Boot) : Nat :=
  b.fwState * 2 ^ 56 + b.fwReason * 2 ^ 48 + b2n b.fwDone * 2 ^ 47 + b.fwDoneEvents.toNat * 2 ^ 16 + b.loadsRefused.toNat

/-- A register of the privileged page. -/
def State.privRead (s : State) (o : Nat) : Nat :=
  match o with
  | 0x0000 => s.boot.status
  | 0x0100 => s.flt.status
  | 0x0108 => s.flt.maskBits.toNat * 2 ^ 60
  | 0x0110 => s.flt.logNext
  | 0x0200 => s.boot.fwAddr.toNat
  | 0x0208 => s.boot.fwLen.toNat
  | 0x0210 => b2n s.boot.fwLoad * 2 ^ 63
  | 0x0218 => s.boot.fwStatus
  | 0x0300 => s.dbg.dmi.toNat
  | 0x0308 => s.dbg.status
  | _ => if 0xF000 ≤ o then s.cat.priv.read (o - 0xF000) else 0

/-- A register of a ring's block, notification block or steering block. -/
def State.ringRead (s : State) (r o : Nat) : Nat :=
  let g := s.ring r
  match o with
  | 0x008 => s.ringStatus r
  | 0x010 => if g.enabled then g.fetch else g.nextSeq
  | 0x018 => g.accepted
  | 0x200 => g.completedThrough
  | 0x208 => g.irqStatus
  | 0x210 => g.irqMask
  | 0x400 => g.stepSeq
  | 0x408 => g.stepCookie.toNat
  | 0x410 => g.stepStatus
  | _ => 0

/-- The ring and the offset in its block that an offset of a context page names, as `ringRead` numbers them. -/
def pageRing (o : Nat) : Option (Nat × Nat) :=
  if o < 0x200 then some (o / 0x40, o % 0x40)
  else if o < 0x300 then some ((o - 0x200) / 0x20, 0x200 + o % 0x20)
  else if 0x400 ≤ o ∧ o < 0x500 then some ((o - 0x400) / 0x20, 0x400 + o % 0x20)
  else none

/-- The page that an offset of the host window lies in, and the offset in that page: the privileged page of 64 KiB at 0, and the context
pages of 4 KiB from 0x0010_0000 to 0x004F_FFFF (R13). Between and beyond them there is none (R499; DEDUCED for the gap, log 151). -/
def hostPage (x : Nat) : Option (View × Nat) :=
  if x < 0x10000 then some (.priv, x)
  else if 0x100000 ≤ x ∧ x < 0x500000 then some (.ctx ((x - 0x100000) / 0x1000), x % 0x1000)
  else none

/-- What an aligned 8-byte read of a page returns; an absent context's page reads 0 but for its Catalogue window. -/
def State.registerRead (s : State) (v : View) (o : Nat) : Nat :=
  match v with
  | .priv => s.privRead o
  | .ctx c =>
    if 0xC00 ≤ o ∧ o < 0xC20 then (s.window v).read (o - 0xC00)
    else if (s.ctx c).isNone then 0
    else
      match pageRing o with
      | some (r, k) => s.ringRead (8 * c + r) k
      | none => 0

/-- The offset in the data buffer of a window that an offset of a page names. -/
def bufferOffset (v : View) (o : Nat) : Option Nat :=
  match v with
  | .priv => if 0xF100 ≤ o ∧ o < 0xF500 then some (o - 0xF100) else none
  | .ctx _ => if 0xD00 ≤ o ∧ o < 0xE00 then some (o - 0xD00) else none

/-- What a read of `size` bytes of a page returns (R499): aligned reads of a data buffer, of a register, and of half a register;
any other returns 0. -/
def State.pageRead (s : State) (v : View) (o size : Nat) : Nat :=
  match bufferOffset v o with
  | some b =>
    if 1 ≤ size ∧ size ≤ 64 ∧ o % size = 0 then leNat (slice (slice (s.window v).buffer 0 (windowSize v)) b size) else 0
  | none =>
    if size = 8 ∧ o % 8 = 0 then s.registerRead v o
    else if size = 4 ∧ o % 4 = 0 then bits (s.registerRead v (o / 8 * 8)) (8 * (o % 8)) 32
    else 0

/-- What a read of the host window returns (R13, R499). -/
def State.windowRead (s : State) (x size : Nat) : Nat :=
  match hostPage x with
  | some (v, o) => s.pageRead v o size
  | none => 0

/-! ### Writes of registers -/

/-- A write of a register of a Catalogue window (R56–R60). -/
def State.windowWrite (s : State) (v : View) (o w : Nat) : State :=
  let x := s.window v
  if o = 0x00 then
    (if x.busy then s
    else if bit w 63 then s.windowGo v (bits w 56 2) (CatReq.ofWord w)
    else s.setWindow v { x with req := reqWord (bits w 56 2) (CatReq.ofWord w) })
  else if o = 0x08 then (if x.busy then s else s.setWindow v { x with aux := BitVec.ofNat 64 w })
  else if o = 0x10 then s.setWindow v { x with done := w1c x.done (bit w 62) }
  else s

/-- A write of the data buffer, ignored while the window is busy. -/
def State.bufferWrite (s : State) (v : View) (o : Nat) (bs : List Byte) : State :=
  let x := s.window v
  if x.busy ∨ windowSize v < o + bs.length then s
  else s.setWindow v { x with buffer := setSlice (slice x.buffer 0 (windowSize v)) o bs }

/-- A write of BLOCK_FAULT_STATUS: its flags are W1C (R441). -/
def Faults.clearFlags (f : Faults) (w : Nat) : Faults :=
  { f with
    repair := w1c f.repair (bit w 63)
    fence := w1c f.fence (bit w 62)
    spare := w1c f.spare (bit w 61)
    degraded := w1c f.degraded (bit w 60) }

/-- A write of a register of the privileged page. -/
def State.privWrite (s : State) (o w : Nat) : State :=
  match o with
  | 0x0100 => { s with flt := s.flt.clearFlags w }
  | 0x0108 => { s with flt := { s.flt with maskBits := BitVec.ofNat 8 (bits w 60 4) } }
  | 0x0200 => { s with boot := { s.boot with fwAddr := BitVec.ofNat 64 (blockAddrOf w) } }
  | 0x0208 => { s with boot := { s.boot with fwLen := BitVec.ofNat 64 w } }
  | 0x0210 => if bit w 63 then s.fwLoadOp else s
  | 0x0218 => { s with boot := { s.boot with fwDone := w1c s.boot.fwDone (bit w 47) } }
  | 0x0300 =>
    let dmi := BitVec.ofNat 64 (bits w 40 8 * 2 ^ 40 + bits w 32 2 * 2 ^ 32 + bits w 0 32)
    if bit w 63 then (s.dmiOp (BitVec.ofNat 8 (bits w 40 8)) (bits w 32 2) (BitVec.ofNat 32 (bits w 0 32))).serveWaiting
    else { s with dbg := { s.dbg with dmi := dmi } }
  | 0x0308 => { s with dbg := { s.dbg with dbgDone := w1c s.dbg.dbgDone (bit w 62) } }
  | _ => if 0xF000 ≤ o then s.windowWrite .priv (o - 0xF000) w else s

/-- A write of a register of a ring. -/
def State.ringWrite (s : State) (r o w : Nat) : State :=
  match o with
  | 0x000 => s.doorbellOp r w
  | 0x008 => s.updRing r fun g => { g with overrun := w1c g.overrun (bit w 47) }
  | 0x208 => s.updRing r fun g => { g with irqFault := w1c g.irqFault (bit w 63), irqNotify := w1c g.irqNotify (bit w 62) }
  | 0x210 => s.maskWrite r w
  | 0x410 => s.updRing r fun g => { g with stepFlag := w1c g.stepFlag (bit w 63) }
  | 0x418 => s.stepReply r w
  | _ => s

/-- A write of a page: an aligned write to a data buffer, or an aligned 8-byte write to a register; any other has no effect
(R499). -/
def State.pageWrite (s : State) (v : View) (o size w : Nat) : State :=
  match bufferOffset v o with
  | some b => if 1 ≤ size ∧ size ≤ 64 ∧ o % size = 0 then s.bufferWrite v b (leBytes size w) else s
  | none =>
    if size ≠ 8 ∨ o % 8 ≠ 0 then s
    else
      match v with
      | .priv => s.privWrite o w
      | .ctx c =>
        if 0xC00 ≤ o ∧ o < 0xC20 then s.windowWrite v (o - 0xC00) w
        else if (s.ctx c).isNone then s
        else
          match pageRing o with
          | some (r, k) => s.ringWrite (8 * c + r) k w
          | none => s

/-- REGISTER_WRITE: a write of the host window (R13, R499). OFFSET [22:12] is `page` and OFFSET [11:0] is `offset` (R498). -/
def execRegisterWrite (page offset size : Nat) (value : BitVec 512) (s : State) : Host.Outcome State Fault Refusal :=
  .next (match hostPage (0x1000 * page + offset) with
    | some (v, o) => s.pageWrite v o size value.toNat
    | none => s)

end Sys2Proof.Machine
end

