-- ==== Sys2Proof/Machine/Dispatch.lean ====
section
/-! DEFINITION. The dispatch of a command to its meaning. -/
namespace Sys2Proof.Machine

/-- The effect of a command on everything but the queue: one arm for each row of the table. -/
def exec (i : Instr) (s : State) : Host.Outcome State Fault Refusal :=
  match i with
  | .blockReset straps => Sys2Proof.Machine.execBlockReset straps s
  | .pwrOkLow half => Sys2Proof.Machine.execPwrOkLow half s
  | .meridianTrainingDone failed0 failed1 => Sys2Proof.Machine.execMeridianTrainingDone failed0 failed1 s
  | .healthTestsPass => Sys2Proof.Machine.execHealthTestsPass s
  | .selfTestDone found => Sys2Proof.Machine.execSelfTestDone found s
  | .firmwareInitDone => Sys2Proof.Machine.execFirmwareInitDone s
  | .clockFault clock => Sys2Proof.Machine.execClockFault clock s
  | .fwLoad => Sys2Proof.Machine.execFwLoad s
  | .fwFetchDone ok image => Sys2Proof.Machine.execFwFetchDone ok image s
  | .catRead v r => Sys2Proof.Machine.execCatRead v r s
  | .catWrite v r => Sys2Proof.Machine.execCatWrite v r s
  | .catList v r => Sys2Proof.Machine.execCatList v r s
  | .capOpen f => Sys2Proof.Machine.execCapOpen f s
  | .capClose f => Sys2Proof.Machine.execCapClose f s
  | .capKeepalive f => Sys2Proof.Machine.execCapKeepalive f s
  | .capRead f => Sys2Proof.Machine.execCapRead f s
  | .capWrite f => Sys2Proof.Machine.execCapWrite f s
  | .capList f => Sys2Proof.Machine.execCapList f s
  | .capUnknownOperation op f => Sys2Proof.Machine.execCapUnknownOperation op f s
  | .capIdleTimeout slot => Sys2Proof.Machine.execCapIdleTimeout slot s
  | .openFirstRequestTimeout slot => Sys2Proof.Machine.execOpenFirstRequestTimeout slot s
  | .sessionCloseWrite slot value => Sys2Proof.Machine.execSessionCloseWrite slot value s
  | .mgmtIcmpv6 f => Sys2Proof.Machine.execMgmtIcmpv6 f s
  | .deviceIdWrite value => Sys2Proof.Machine.execDeviceIdWrite value s
  | .contextCreate c => Sys2Proof.Machine.execContextCreate c s
  | .contextDestroy c => Sys2Proof.Machine.execContextDestroy c s
  | .contextReset c => Sys2Proof.Machine.execContextReset c s
  | .contextResetComplete => Sys2Proof.Machine.execContextResetComplete s
  | .reclaim c => Sys2Proof.Machine.execReclaim c s
  | .ringEnable ring => Sys2Proof.Machine.execRingEnable ring s
  | .ringDisable ring => Sys2Proof.Machine.execRingDisable ring s
  | .resumeRetry ring => Sys2Proof.Machine.execResumeRetry ring s
  | .resumeSkip ring => Sys2Proof.Machine.execResumeSkip ring s
  | .ringAbort ring => Sys2Proof.Machine.execRingAbort ring s
  | .doorbell ring tail => Sys2Proof.Machine.execDoorbell ring tail s
  | .registerWrite page offset size value => Sys2Proof.Machine.execRegisterWrite page offset size value s
  | .commandFetch ring cmds uncorrectable => Sys2Proof.Machine.execCommandFetch ring cmds uncorrectable s
  | .overflowChainRead ring blocks uncorrectable => Sys2Proof.Machine.execOverflowChainRead ring blocks uncorrectable s
  | .refHoldTimeout ring => Sys2Proof.Machine.execRefHoldTimeout ring s
  | .ringStallResume half => Sys2Proof.Machine.execRingStallResume half s
  | .shapeSubstitution node uncorrectable => Sys2Proof.Machine.execShapeSubstitution node uncorrectable s
  | .tick => Sys2Proof.Machine.execTick s
  | .sectorSelect sector => Sys2Proof.Machine.execSectorSelect sector s
  | .grantIssue sector => Sys2Proof.Machine.execGrantIssue sector s
  | .grantWord core => Sys2Proof.Machine.execGrantWord core s
  | .kernelLoad core uncorrectable => Sys2Proof.Machine.execKernelLoad core uncorrectable s
  | .parameterRead core uncorrectable => Sys2Proof.Machine.execParameterRead core uncorrectable s
  | .schedNotification half => Sys2Proof.Machine.execSchedNotification half s
  | .executorFinish node => Sys2Proof.Machine.execExecutorFinish node s
  | .quantumExpiry comp => Sys2Proof.Machine.execQuantumExpiry comp s
  | .compartmentSwitch comp => Sys2Proof.Machine.execCompartmentSwitch comp s
  | .compartmentAssign comp => Sys2Proof.Machine.execCompartmentAssign comp s
  | .recordRetire ring => Sys2Proof.Machine.execRecordRetire ring s
  | .maxDelayExpiry ring => Sys2Proof.Machine.execMaxDelayExpiry ring s
  | .irqMaskWrite ring value => Sys2Proof.Machine.execIrqMaskWrite ring value s
  | .completionRetryTimer ctx => Sys2Proof.Machine.execCompletionRetryTimer ctx s
  | .epochConsumedPoll ctx read => Sys2Proof.Machine.execEpochConsumedPoll ctx read s
  | .taskLimitExpiry node => Sys2Proof.Machine.execTaskLimitExpiry node s
  | .nopCommand node => Sys2Proof.Machine.execNopCommand node s
  | .launchCommand node => Sys2Proof.Machine.execLaunchCommand node s
  | .copyCommand node hostData uncorrectable => Sys2Proof.Machine.execCopyCommand node hostData uncorrectable s
  | .gatherCommand node uncorrectable => Sys2Proof.Machine.execGatherCommand node uncorrectable s
  | .updateCommand node hostIds hostData uncorrectable => Sys2Proof.Machine.execUpdateCommand node hostIds hostData uncorrectable s
  | .epochCommand node => Sys2Proof.Machine.execEpochCommand node s
  | .routeCommand node uncorrectable => Sys2Proof.Machine.execRouteCommand node uncorrectable s
  | .signalCommand node => Sys2Proof.Machine.execSignalCommand node s
  | .waitCommand node => Sys2Proof.Machine.execWaitCommand node s
  | .fenceCommand node => Sys2Proof.Machine.execFenceCommand node s
  | .markCommand node => Sys2Proof.Machine.execMarkCommand node s
  | .hostStepCommand node => Sys2Proof.Machine.execHostStepCommand node s
  | .stepReply ring value => Sys2Proof.Machine.execStepReply ring value s
  | .add core f => Sys2Proof.Machine.execAdd core f s
  | .sub core f => Sys2Proof.Machine.execSub core f s
  | .and core f => Sys2Proof.Machine.execAnd core f s
  | .or core f => Sys2Proof.Machine.execOr core f s
  | .xor core f => Sys2Proof.Machine.execXor core f s
  | .sll core f => Sys2Proof.Machine.execSll core f s
  | .srl core f => Sys2Proof.Machine.execSrl core f s
  | .sra core f => Sys2Proof.Machine.execSra core f s
  | .mul core f => Sys2Proof.Machine.execMul core f s
  | .mulhu core f => Sys2Proof.Machine.execMulhu core f s
  | .min core f => Sys2Proof.Machine.execMin core f s
  | .max core f => Sys2Proof.Machine.execMax core f s
  | .slt core f => Sys2Proof.Machine.execSlt core f s
  | .sltu core f => Sys2Proof.Machine.execSltu core f s
  | .nop core fetch => Sys2Proof.Machine.execNop core fetch s
  | .beq core f => Sys2Proof.Machine.execBeq core f s
  | .bne core f => Sys2Proof.Machine.execBne core f s
  | .blt core f => Sys2Proof.Machine.execBlt core f s
  | .bge core f => Sys2Proof.Machine.execBge core f s
  | .bltu core f => Sys2Proof.Machine.execBltu core f s
  | .bgeu core f => Sys2Proof.Machine.execBgeu core f s
  | .jal core f => Sys2Proof.Machine.execJal core f s
  | .jalr core f => Sys2Proof.Machine.execJalr core f s
  | .crr core f => Sys2Proof.Machine.execCrr core f s
  | .crw core f => Sys2Proof.Machine.execCrw core f s
  | .cntrd core f => Sys2Proof.Machine.execCntrd core f s
  | .trap core f => Sys2Proof.Machine.execTrap core f s
  | .vadd core f => Sys2Proof.Machine.execVadd core f s
  | .vsub core f => Sys2Proof.Machine.execVsub core f s
  | .vmul core f => Sys2Proof.Machine.execVmul core f s
  | .vfma core f => Sys2Proof.Machine.execVfma core f s
  | .vmin core f => Sys2Proof.Machine.execVmin core f s
  | .vmax core f => Sys2Proof.Machine.execVmax core f s
  | .vand core f => Sys2Proof.Machine.execVand core f s
  | .vor core f => Sys2Proof.Machine.execVor core f s
  | .vxor core f => Sys2Proof.Machine.execVxor core f s
  | .vcmp core f => Sys2Proof.Machine.execVcmp core f s
  | .vsel core f => Sys2Proof.Machine.execVsel core f s
  | .vbcast core f => Sys2Proof.Machine.execVbcast core f s
  | .vext core f => Sys2Proof.Machine.execVext core f s
  | .vlane core f => Sys2Proof.Machine.execVlane core f s
  | .vred core f => Sys2Proof.Machine.execVred core f s
  | .vexp2 core f => Sys2Proof.Machine.execVexp2 core f s
  | .vrcp core f => Sys2Proof.Machine.execVrcp core f s
  | .vrsqrt core f => Sys2Proof.Machine.execVrsqrt core f s
  | .vmaxrun core f => Sys2Proof.Machine.execVmaxrun core f s
  | .vexpsub core f => Sys2Proof.Machine.execVexpsub core f s
  | .vrescale core f => Sys2Proof.Machine.execVrescale core f s
  | .vdivsafe core f => Sys2Proof.Machine.execVdivsafe core f s
  | .lds core f ecc => Sys2Proof.Machine.execLds core f ecc s
  | .sts core f ecc => Sys2Proof.Machine.execSts core f ecc s
  | .vld core f ecc => Sys2Proof.Machine.execVld core f ecc s
  | .vst core f => Sys2Proof.Machine.execVst core f s
  | .xld core f => Sys2Proof.Machine.execXld core f s
  | .xst core f => Sys2Proof.Machine.execXst core f s
  | .xmv core f => Sys2Proof.Machine.execXmv core f s
  | .transferDone core slot uncorrectable hostData => Sys2Proof.Machine.execTransferDone core slot uncorrectable hostData s
  | .tdigest core f => Sys2Proof.Machine.execTdigest core f s
  | .mload core f => Sys2Proof.Machine.execMload core f s
  | .loaderDone core => Sys2Proof.Machine.execLoaderDone core s
  | .mswap core f => Sys2Proof.Machine.execMswap core f s
  | .mstream core f => Sys2Proof.Machine.execMstream core f s
  | .checksumMismatch failed => Sys2Proof.Machine.execChecksumMismatch failed s
  | .mismatchReport half => Sys2Proof.Machine.execMismatchReport half s
  | .qbar core f => Sys2Proof.Machine.execQbar core f s
  | .fence core f => Sys2Proof.Machine.execFence core f s
  | .xwait core f => Sys2Proof.Machine.execXwait core f s
  | .signal core f => Sys2Proof.Machine.execSignal core f s
  | .take core f => Sys2Proof.Machine.execTake core f s
  | .waitge core f => Sys2Proof.Machine.execWaitge core f s
  | .semrd core f => Sys2Proof.Machine.execSemrd core f s
  | .seminit core f => Sys2Proof.Machine.execSeminit core f s
  | .mark core f => Sys2Proof.Machine.execMark core f s
  | .getwork core f => Sys2Proof.Machine.execGetwork core f s
  | .endwork core f => Sys2Proof.Machine.execEndwork core f s
  | .semaphoreCycle sem arriving => Sys2Proof.Machine.execSemaphoreCycle sem arriving s
  | .semaphoreRelease core queue => Sys2Proof.Machine.execSemaphoreRelease core queue s
  | .waitWatchdogFire core queue => Sys2Proof.Machine.execWaitWatchdogFire core queue s
  | .waitTimeout node => Sys2Proof.Machine.execWaitTimeout node s
  | .bind record => Sys2Proof.Machine.execBind record s
  | .unbind value => Sys2Proof.Machine.execUnbind value s
  | .remoteSignal flow m => Sys2Proof.Machine.execRemoteSignal flow m s
  | .signalAck flow m => Sys2Proof.Machine.execSignalAck flow m s
  | .flowOpen record => Sys2Proof.Machine.execFlowOpen record s
  | .flowClose value => Sys2Proof.Machine.execFlowClose value s
  | .markRelease record => Sys2Proof.Machine.execMarkRelease record s
  | .openRetryTimer flow => Sys2Proof.Machine.execOpenRetryTimer flow s
  | .data port p => Sys2Proof.Machine.execData port p s
  | .ack port p => Sys2Proof.Machine.execAck port p s
  | .nak port p => Sys2Proof.Machine.execNak port p s
  | .openPacket port p => Sys2Proof.Machine.execOpenPacket port p s
  | .openAck port p => Sys2Proof.Machine.execOpenAck port p s
  | .closePacket port p => Sys2Proof.Machine.execClosePacket port p s
  | .closed port p => Sys2Proof.Machine.execClosed port p s
  | .ackTimer flow => Sys2Proof.Machine.execAckTimer flow s
  | .nakTimer flow => Sys2Proof.Machine.execNakTimer flow s
  | .rtoExpiry flow => Sys2Proof.Machine.execRtoExpiry flow s
  | .syncReq port p => Sys2Proof.Machine.execSyncReq port p s
  | .sync port p => Sys2Proof.Machine.execSync port p s
  | .delayReq port p => Sys2Proof.Machine.execDelayReq port p s
  | .delayResp port p => Sys2Proof.Machine.execDelayResp port p s
  | .syncIntervalTimer => Sys2Proof.Machine.execSyncIntervalTimer s
  | .ppsEdge tod todValid => Sys2Proof.Machine.execPpsEdge tod todValid s
  | .macLinkChange port up => Sys2Proof.Machine.execMacLinkChange port up s
  | .macFault port => Sys2Proof.Machine.execMacFault port s
  | .macLaneFail port dir lane => Sys2Proof.Machine.execMacLaneFail port dir lane s
  | .exchangeLaneTest port failed => Sys2Proof.Machine.execExchangeLaneTest port failed s
  | .delivery flow h tokenBytes resultBytes entries => Sys2Proof.Machine.execDelivery flow h tokenBytes resultBytes entries s
  | .deliveryAllocate half => Sys2Proof.Machine.execDeliveryAllocate half s
  | .tokens flow h entries => Sys2Proof.Machine.execTokens flow h entries s
  | .answers flow h entries => Sys2Proof.Machine.execAnswers flow h entries s
  | .cancel flow h => Sys2Proof.Machine.execCancel flow h s
  | .cancelAck flow h => Sys2Proof.Machine.execCancelAck flow h s
  | .stepTimeoutExpiry node => Sys2Proof.Machine.execStepTimeoutExpiry node s
  | .layerCancel half layer value => Sys2Proof.Machine.execLayerCancel half layer value s
  | .descriptorWrite half layer bytes => Sys2Proof.Machine.execDescriptorWrite half layer bytes s
  | .biasWindowEnd half layer => Sys2Proof.Machine.execBiasWindowEnd half layer s
  | .deviceSideEnable half d => Sys2Proof.Machine.execDeviceSideEnable half d s
  | .deviceSideDisable half d => Sys2Proof.Machine.execDeviceSideDisable half d s
  | .regionsWrite c bytes => Sys2Proof.Machine.execRegionsWrite c bytes s
  | .tableRegister bytes => Sys2Proof.Machine.execTableRegister bytes s
  | .tableUnregister id => Sys2Proof.Machine.execTableUnregister id s
  | .tableRestoreDone table => Sys2Proof.Machine.execTableRestoreDone table s
  | .epochDrainEnd table => Sys2Proof.Machine.execEpochDrainEnd table s
  | .rdata port address consumer bytes check reply => Sys2Proof.Machine.execRdata port address consumer bytes check reply s
  | .partialWrite address bytes node block => Sys2Proof.Machine.execPartialWrite address bytes node block s
  | .wack slot => Sys2Proof.Machine.execWack slot s
  | .scrub port address bytes check reply => Sys2Proof.Machine.execScrub port address bytes check reply s
  | .laneRemapRsp port noSpare => Sys2Proof.Machine.execLaneRemapRsp port noSpare s
  | .coldFill table row bytes => Sys2Proof.Machine.execColdFill table row bytes s
  | .xltRsp tag none_ addr pageLog2 readOk writeOk => Sys2Proof.Machine.execXltRsp tag none_ addr pageLog2 readOk writeOk s
  | .pageRsp group result => Sys2Proof.Machine.execPageRsp group result s
  | .invReq itag pasid global iova sizeLog2 => Sys2Proof.Machine.execInvReq itag pasid global iova sizeLog2 s
  | .hostReadCompletion ring address error bytes => Sys2Proof.Machine.execHostReadCompletion ring address error bytes s
  | .islandEvaluation stand current temp => Sys2Proof.Machine.execIslandEvaluation stand current temp s
  | .fastDrop stand current => Sys2Proof.Machine.execFastDrop stand current s
  | .regulatorAck stand => Sys2Proof.Machine.execRegulatorAck stand s
  | .sensorFault stand => Sys2Proof.Machine.execSensorFault stand s
  | .retainEntry comp => Sys2Proof.Machine.execRetainEntry comp s
  | .telemetryRefresh powerMilliwatts compPower => Sys2Proof.Machine.execTelemetryRefresh powerMilliwatts compPower s
  | .coreProbe core => Sys2Proof.Machine.execCoreProbe core s
  | .probeTimeout core => Sys2Proof.Machine.execProbeTimeout core s
  | .fenceCore value => Sys2Proof.Machine.execFenceCore value s
  | .unfenceCore value selfTestPasses => Sys2Proof.Machine.execUnfenceCore value selfTestPasses s
  | .recallAck core => Sys2Proof.Machine.execRecallAck core s
  | .recallAckTimeout core => Sys2Proof.Machine.execRecallAckTimeout core s
  | .standDrained stand => Sys2Proof.Machine.execStandDrained stand s
  | .islandFault stand => Sys2Proof.Machine.execIslandFault stand s
  | .regulatorFault comp => Sys2Proof.Machine.execRegulatorFault comp s
  | .nodeLost node word => Sys2Proof.Machine.execNodeLost node word s
  | .unitFault mover unit => Sys2Proof.Machine.execUnitFault mover unit s
  | .meridianLaneTest dir failed => Sys2Proof.Machine.execMeridianLaneTest dir failed s
  | .heartbeatTimeout half core => Sys2Proof.Machine.execHeartbeatTimeout half core s
  | .repairLoad bytes => Sys2Proof.Machine.execRepairLoad bytes s
  | .keyWrite slot bytes => Sys2Proof.Machine.execKeyWrite slot bytes s
  | .debugLock value => Sys2Proof.Machine.execDebugLock value s
  | .dmiAccess address op data => Sys2Proof.Machine.execDmiAccess address op data s
  | .halfDrained half => Sys2Proof.Machine.execHalfDrained half s
  | .traceEnable value => Sys2Proof.Machine.execTraceEnable value s
  | .triggerNow value => Sys2Proof.Machine.execTriggerNow value s
  | .windowEnd => Sys2Proof.Machine.execWindowEnd s
  | .pcSampleTimer stand => Sys2Proof.Machine.execPcSampleTimer stand s
  | .syncRecordTimer => Sys2Proof.Machine.execSyncRecordTimer s
  | .traceReadyChange ready => Sys2Proof.Machine.execTraceReadyChange ready s
  | .gcSelect selects => Sys2Proof.Machine.execGcSelect selects s
  | .gcClear value => Sys2Proof.Machine.execGcClear value s
  | .coreEvents c events => Sys2Proof.Machine.execCoreEvents c events s
  | .eventFreeze value => Sys2Proof.Machine.execEventFreeze value s
  | .mstreamDone core => Sys2Proof.Machine.execMstreamDone core s
  | .hartBreakpoint hart => Sys2Proof.Machine.execHartBreakpoint hart s
  | .testPortAccess ir mandatory => Sys2Proof.Machine.execTestPortAccess ir mandatory s
  | .laneWordUncorrectable port dir lane => Sys2Proof.Machine.execLaneWordUncorrectable port dir lane s
  | .controlCoreMemoryError half core => Sys2Proof.Machine.execControlCoreMemoryError half core s
  | .healthTestFail => Sys2Proof.Machine.execHealthTestFail s

end Sys2Proof.Machine
end

