-- ==== Sys2Proof/Machine/Idle.lean ====
section
/-! DEFINITION. What happens when no command waits: fabric time advances (R392, R394; DESIGN CHOICE, log 11). -/
namespace Sys2Proof.Machine

/-- One nanosecond of the time reference: the counter advances by 1, by 2 or by 0 while an offset is slewed out at
MAX_SLEW parts per million. -/
def clockTick (c : Clock) : Clock :=
  if c.slew = 0 then { c with now := timeAt (c.now + 1), slewAcc := 0 }
  else if c.slewAcc + c.maxSlew < 1000000 then { c with now := timeAt (c.now + 1), slewAcc := c.slewAcc + c.maxSlew }
  else
    { c with
      now := if c.slew > 0 then timeAt (c.now + 2) else c.now
      slew := if c.slew > 0 then c.slew - 1 else c.slew + 1
      slewAcc := c.slewAcc + c.maxSlew - 1000000 }

/-- The counter runs outside reset while the time reference runs (R392, R493). -/
def clockRuns (s : State) : Bool := s.boot.stage != 0 && !s.boot.blockFault

/-- The checks of ones rows that are due by a time resolve, and a GETWORK or ENDWORK that drained for one goes on (R185, R204). -/
def State.resolveOnes (s : State) (due : Nat) : State :=
  (s.cores.filter fun p => p.2.onesUntil != 0 && decide (p.2.onesUntil ≤ due)).foldl (fun t p =>
    (t.updCore p.1 fun k => { k with onesUntil := 0 }).run p.1) s

/-- The block with no command waiting: the time since which each context has been a candidate for a compartment is noted
(R144), checks that are due resolve, and fabric time advances by one nanosecond of its reference. -/
def idle (s : State) : State :=
  if clockRuns s then
    let c := clockTick s.clock
    { s.noteCandidates.resolveOnes c.now with clock := c }
  else s

end Sys2Proof.Machine
end

