-- ==== Sys2Proof/Safety.lean ====
section
/-! DEFINITION. The terms that statements about the block use: canonical memory, cores that are ready to decode, and the
states that one completed instruction leaves. -/
namespace Sys2Proof.Machine

/-! ### Canonical memory -/

/-- Every byte memory of the block is in canonical form: device memory, the data memory of every core, every stand memory. -/
def State.canonical (s : State) : Prop :=
  Memory.wf s.mem = true ∧ (∀ c, Cells.wf (s.core c).dmem = true) ∧ ∀ t, Cells.wf (s.stand t).mem = true

/-- Every bit that DEBUG_LOCK_FUSE sets is set in DEBUG_LOCK (R458). -/
def State.locked (s : State) : Prop := s.fuses.debugLockFuse &&& s.set.debugLock = s.fuses.debugLockFuse

/-! ### Cores -/

/-- A core decodes the next instruction: it holds a grant and a kernel, its front end is free, its PC is one that R214 allows,
no instruction is in flight, and it is not fenced. -/
def State.decodes (s : State) (c : Nat) : Bool :=
  let k := s.core c
  k.grant.isSome && (match k.kernel with
    | some kn => decide (k.pc + 8 ≤ kn.imageLen)
    | none => false)
    && k.front == .decoding && k.pc % 8 == 0 && k.inflight.isEmpty && !s.fenced c

/-- The state after a core has decoded one instruction that went to a queue, started and completed with an effect on the
core (R218–R220). -/
def State.ran (s : State) (c : Nat) (u : Core → Core) : State :=
  (s.coreCount c 0x02 1).updCore c fun k => { u k with pc := k.pc + 8, nextId := k.nextId + 1 }

/-- The state after the front end of a core has executed one instruction itself and left the PC at `pc` (R218, R223). -/
def State.went (s : State) (c pc : Nat) (u : Core → Core) : State :=
  (s.coreCount c 0x02 1).updCore c fun k => { u k with pc := pc }

/-- An F32 code is a NaN. -/
def isNanF32 (x : Word) : Bool := bits x.toNat 23 8 == 255 && bits x.toNat 0 23 != 0

/-- An F32 code is ±0. -/
def isZeroF32 (x : Word) : Bool := bits x.toNat 0 31 == 0

/-- A core stopped on an exception: cause and PC are latched, nothing is in flight, and it waits for work once it has drained
(R185, R249). -/
def State.stoppedAt (s : State) (c cause pc : Nat) : Prop :=
  (s.core c).exc = BitVec.ofNat 8 cause ∧ (s.core c).excPc = pc ∧ (s.core c).grant = none ∧ (s.core c).inflight = []
    ∧ (s.core c).front = (if (s.core c).drained s.now then .waitingGrant else .draining) ∧ (s.core c).dispatchLoop = true

/-! ### The Catalogue -/

/-- The root of the Catalogue takes requests: it is ready, and its hart is not halted (R43, R54, R489). -/
def State.serves (s : State) : Prop := s.boot.ready = true ∧ s.rootHalted = false

/-- The state after a write whose whole effect is its answer. -/
def State.answers (s : State) (code : Word) : State := { s with cat := { s.cat with answer := code } }

/-- The row writes one entry of the Catalogue, which its root serves; DEBUG_LOCK, whose commit lets halted harts go on, stands apart. -/
def writesEntry : Instr → Bool
  | .bind _ | .unbind _ | .contextCreate _ | .contextDestroy _ | .contextReset _ | .reclaim _ | .flowOpen _ | .flowClose _
  | .markRelease _ | .layerCancel _ _ _ | .descriptorWrite _ _ _ | .regionsWrite _ _ | .tableRegister _ | .tableUnregister _
  | .fenceCore _ | .unfenceCore _ _ | .repairLoad _ | .ringEnable _ | .ringDisable _ | .resumeRetry _ | .resumeSkip _
  | .ringAbort _ | .deviceSideEnable _ _ | .deviceSideDisable _ _ | .traceEnable _ | .triggerNow _ | .gcSelect _ | .gcClear _
  | .coreEvents _ _ | .eventFreeze _ | .deviceIdWrite _ | .keyWrite _ _ | .sessionCloseWrite _ _ => true
  | _ => false

/-! ### Rings -/

/-- The command is a NOP of the form R94 asks for, is the next of its ring, and waits for nothing: no predecessor, no BARRIER, no
RELEASE. -/
def State.plainNext (s : State) (r : Nat) (c : Cmd) : Prop :=
  s.formOk r c = true ∧ c.seq.toNat = (s.ring r).fetch ∧ c.opcode = opNop ∧ c.npred = 0 ∧ c.indirect = 0 ∧ c.barrier = false
    ∧ c.release = 0

/-- The command at the fetch pointer was accepted into the lowest free node of its half, and is READY (R88, R114, R119). -/
def State.accepts (s t : State) (r : Nat) (c : Cmd) : Prop :=
  ∃ n d, s.freeNode (s.homeHalf r) = some n ∧ (t.ring r).fetch = (s.ring r).fetch + 1 ∧ t.node n = some d ∧ d.cmd = c
    ∧ d.ring = r ∧ d.seq = (s.ring r).fetch ∧ d.accepted = true ∧ d.state = 3

/-- No other ring is stalled, so none goes on before this ring or with it (R99, R139). -/
def State.alone (s : State) (r : Nat) : Prop := ∀ p ∈ s.rings, p.1 ≠ r → p.2.stall = 0

/-- A ring is FAULTED on an accepted command, and holds no command that it read. -/
def Ring.faultedOn (g : Ring) (f : RingFault) (n : Nat) : Prop :=
  g.enabled = true ∧ g.fault = some f ∧ f.node = some n ∧ g.keptFaults = [] ∧ g.aborting = false ∧ g.held = none
    ∧ g.fetched = [] ∧ g.skipping = none ∧ g.reread = false

/-! ### Flows -/

/-- An accepted packet of an OPEN flow from its peer (R381–R383). -/
def State.onFlow (s : State) (port : Nat) (type : Byte) (p : Packet) (f : Nat) : Prop :=
  (s.receive port type p).2 = true ∧ p.dstFlow.toNat = f ∧ (s.flow f).state = 2 ∧ (s.flow f).peer = p.srcDevice.toNat
    ∧ p.incarnation = (s.flow f).peerInc ∧ (p.peerIncarnation = 0 ∨ p.peerIncarnation = s.ecl.incarnation)

/-- Nothing of another unit hangs on a flow: no remote signal and no routing work. -/
def State.quietFlows (s : State) : Prop :=
  s.ecl.signals = [] ∧ s.exp.routes = [] ∧ s.exp.portions = [] ∧ s.exp.waiting = [] ∧ s.exp.quarantines = []

/-! ### Fences -/

/-- A core without a grant, with nothing on its way to it and in no recall. -/
def State.unworked (s : State) (c : Nat) : Prop :=
  (s.core c).grant = none ∧ (s.core c).prevNode = none ∧ s.fab.releases = [] ∧ s.fab.waiters = [] ∧ s.flt.recalls = []

/-- No core holds a grant, waits on a semaphore, is owed a release or is in a recall. -/
def State.coresIdle (s : State) : Prop :=
  (∀ c, (s.core c).grant = none) ∧ s.fab.releases = [] ∧ s.fab.waiters = [] ∧ s.flt.recalls = []

/-- The stand of a core has an unused spare that no substitution claims (R426). -/
def State.spareFree (s : State) (c : Nat) : Prop :=
  (s.stand (standOfCore c)).spareState = 0 ∧ (s.stand (standOfCore c)).substituting = none

/-- `t` is `s` after a fence of one core: the core is fenced and no other is, and a spare is committed and its stand drains, or the
core is lost to the stand and SPARE is set (R422, R426, R440, R442). -/
def State.fences (s t : State) (c cls flags : Nat) : Prop :=
  t.fenced c = true ∧ (∀ d, d ≠ c → t.fenced d = s.fenced d) ∧ (t.core c).grant = none ∧ (t.core c).inflight = []
    ∧ (∀ w ∈ (t.sector (sectorOfCore c)).waiting, w.core ≠ c) ∧ t.flt.fence = true
    ∧ t.flt.coresFenced = s.flt.coresFenced + 1
    ∧ (∃ e, t.flt.log.getLast? = some e ∧ e.cls = cls ∧ e.location = c
      ∧ (s.spareFree c → e.action = if cls = 2 then 2 else 1) ∧ (¬ s.spareFree c → e.action = 1))
    ∧ (s.spareFree c → (t.stand (standOfCore c)).spareState = 2 ∧ (t.stand (standOfCore c)).draining = true
      ∧ (t.stand (standOfCore c)).substituting = some c ∧ t.flt.sparesUsed = s.flt.sparesUsed + 1 ∧ t.flt.spare = s.flt.spare
      ∧ (s.flt.entries.length < 4092 → t.flt.entries = s.flt.entries ++
          [⟨1, flags, standOfCore c, (s.stand (standOfCore c)).position (c % 16), s.now⟩] ∧ t.flt.repair = true))
    ∧ (¬ s.spareFree c → t.flt.spare = true ∧ t.flt.sparesUsed = s.flt.sparesUsed
      ∧ (s.flt.entries.length < 4092 → t.flt.entries = s.flt.entries ++ [⟨2, flags, c, 0, s.now⟩] ∧ t.flt.repair = true))

end Sys2Proof.Machine
end

