-- ==== Sys2Proof/Certificates/Slice0/Obligations.lean ====
section
/-! DEFINITION. The statements for the provers. -/

open Sys2Proof Sys2Proof.Machine

/-! ### The block as a whole -/

/-- A step of a state with a command at the front of its queue is that command on the state with the queue's rest. -/
def Obligations.StepRunsFront : Prop :=
  ∀ (s : State) (c : Instr) (q : List Instr), s.pending = c :: q → step s = exec c { s with pending := q }

/-- With no command waiting, a step lets fabric time advance (the model's choice, log 11): by one nanosecond of the time
reference when nothing is slewed, up to the last count of 64 bits (log 141), and not at all in reset or while the time reference
is lost. -/
def Obligations.IdleAdvancesTime : Prop :=
  ∀ (s : State), s.pending = [] →
    (clockRuns s = false → step s = .next s)
    ∧ (clockRuns s = true → ∃ t, step s = .next t ∧ t.pending = [] ∧ (s.clock.now < 2 ^ 64 → s.clock.now ≤ t.clock.now)
      ∧ (s.clock.slew = 0 → t.clock.now = min (s.clock.now + 1) (2 ^ 64 - 1))
      ∧ ((∀ p ∈ s.cores, p.2.onesUntil = 0) → t.mem = s.mem ∧ t.cores = s.cores ∧ t.rings = s.rings))

/-- Every command has an effect in every state: none ends a run by a fault or a refusal. -/
def Obligations.EveryCommandRuns : Prop :=
  ∀ (c : Instr) (s : State), ∃ t, exec c s = .next t

/-- After reset every byte memory is in canonical form, nothing waits, DEBUG_LOCK holds what DEBUG_LOCK_FUSE sets, and no ring,
core or flow is in use. -/
def Obligations.ResetLeaves : Prop :=
  State.reset.canonical ∧ State.reset.locked ∧ State.reset.pending = [] ∧ State.reset.outputs = [] ∧ State.reset.mem.dev = []
    ∧ State.reset.boot.ready = false ∧ (∀ r, (State.reset.ring r).enabled = false) ∧ (∀ c, (State.reset.core c).grant = none)
    ∧ (∀ n, State.reset.node n = none) ∧ (∀ c, State.reset.ctx c = none) ∧ State.reset.clock.now = 0

/-- Every step keeps every byte memory of the block in canonical form. -/
def Obligations.CanonicalKept : Prop :=
  ∀ (s t : State), s.canonical → step s = .next t → t.canonical

/-- R458: fuse data never changes, and a bit that DEBUG_LOCK_FUSE sets in DEBUG_LOCK is never cleared: every step of the block
keeps it set. No command but BLOCK_RESET clears any bit of DEBUG_LOCK. -/
def Obligations.DebugLockKept : Prop :=
  (∀ (s t : State), step s = .next t → t.fuses = s.fuses ∧ (s.locked → t.locked))
    ∧ ∀ (c : Instr) (s t : State), exec c s = .next t → (∀ x, c ≠ .blockReset x) →
      s.set.debugLock &&& t.set.debugLock = s.set.debugLock

/-- A command acts on everything but the queue: what waits behind it waits still. -/
def Obligations.QueueKept : Prop :=
  ∀ (c : Instr) (s t : State), exec c s = .next t → t.pending = s.pending

/-! ### Cores: scalar, control flow and control -/

/-- R222: RD receives RA op B, where B is RB, or IMM when MOD[3] is 1; nothing else of the block changes but the counters that
count decoded instructions. R216: a register field that names s0 reads 0, a write to s0 is discarded, and every other register
keeps its value. -/
def Obligations.ScalarAlu : Prop :=
  (∀ (s : State) (c : Nat) (f : Fields), s.decodes c = true → fieldsOk 0x01 f = true →
     let a := (s.core c).s f.ra
     let b := if f.mod.getLsbD 3 then f.imm else (s.core c).s f.rb
     let writes (v : Word) : Host.Outcome State Fault Refusal := .next (s.ran c fun k => k.setS f.rd v)
     exec (.add c f) s = writes (a + b)
     ∧ exec (.sub c f) s = writes (a - b)
     ∧ exec (.and c f) s = writes (a &&& b)
     ∧ exec (.or c f) s = writes (a ||| b)
     ∧ exec (.xor c f) s = writes (a ^^^ b)
     ∧ exec (.sll c f) s = writes (a <<< (b &&& 31))
     ∧ exec (.srl c f) s = writes (a >>> (b &&& 31))
     ∧ exec (.sra c f) s = writes (a.sshiftRight (b &&& 31).toNat)
     ∧ exec (.mul c f) s = writes (a * b)
     ∧ exec (.mulhu c f) s = writes (((a.zeroExtend 64 * b.zeroExtend 64) >>> 32).truncate 32)
     ∧ exec (.min c f) s = writes (if a.toInt < b.toInt then a else b)
     ∧ exec (.max c f) s = writes (if a.toInt < b.toInt then b else a)
     ∧ exec (.slt c f) s = writes (if a.toInt < b.toInt then 1 else 0)
     ∧ exec (.sltu c f) s = writes (if a.toNat < b.toNat then 1 else 0))
  ∧
  (∀ (k : Core) (r q : BitVec 5) (v : Word),
     k.s 0 = 0 ∧ k.setS 0 v = k ∧ (r ≠ 0 → (k.setS r v).s r = v) ∧ (q ≠ r → (k.setS r v).s q = k.s q))

/-- R215, R216: a word of instruction memory is decoded by its fields: OP [63:56], RD [55:51], RA [50:46], RB [45:41], RC
[40:36], MOD [35:32], IMM [31:0]. The word of an ADD, of a BEQ or of an LDS runs as that instruction. An opcode that no table
lists is illegal whatever the fields. R421, R433: a corrected error of the instruction word is counted against its row and the
word decodes as it is; an uncorrectable one raises DATA and ends the grant. -/
def Obligations.InstructionsDecoded : Prop :=
  (∀ (s : State) (c : Nat) (op : Byte) (f : Fields),
     let w : BitVec 64 := op ++ f.rd ++ f.ra ++ f.rb ++ f.rc ++ f.mod ++ f.imm
     opOf w = op ∧ fieldsOf w = f
     ∧ (op = 0x01 → exec (.nop c ⟨w, .clean⟩) s = exec (.add c f) s)
     ∧ (op = 0x10 → exec (.nop c ⟨w, .clean⟩) s = exec (.beq c f) s)
     ∧ (op = 0x40 → exec (.nop c ⟨w, .clean⟩) s = exec (.lds c f .clean) s)
     ∧ (op.toNat = 0x0F ∨ (0x1C ≤ op.toNat ∧ op.toNat ≤ 0x1F) ∨ (0x36 ≤ op.toNat ∧ op.toNat ≤ 0x3F)
       ∨ (0x48 ≤ op.toNat ∧ op.toNat ≤ 0x4F) ∨ (0x53 ≤ op.toNat ∧ op.toNat ≤ 0x5F) ∨ (0x69 ≤ op.toNat ∧ op.toNat ≤ 0x6F)
       ∨ 0x72 ≤ op.toNat → fieldsOk op f = false))
  ∧
  (∀ (s : State) (c row : Nat) (w : BitVec 64), s.decodes c = true →
     exec (.nop c ⟨w, .corrected row⟩) s = exec (.nop c ⟨w, .clean⟩) (s.correctedRow (arrayInstr c) row)
     ∧ (∃ t, exec (.nop c ⟨w, .uncorrectable⟩) s = .next t ∧ (t.core c).exc = 0x09 ∧ (t.core c).grant = none ∧ (t.core c).inflight = []))

/-- R223: branches, JAL, JALR and NOP in the front end. R224–R227: CRR, CRW and CNTRD on each control register. A CRW to a read-
only register is ignored. -/
def Obligations.FrontEnd : Prop :=
  (∀ (s : State) (c : Nat) (f : Fields), s.decodes c = true →
     let pc := (s.core c).pc
     let a := (s.core c).s f.ra
     let b := (s.core c).s f.rb
     let link := BitVec.ofNat 32 (pc + 8)
     let goes (p : Bool) : Host.Outcome State Fault Refusal :=
       .next (s.went c (if p then (pc + f.imm.toNat) % 2 ^ 32 else pc + 8) fun k => k)
     (fieldsOk 0x10 f = true →
       exec (.beq c f) s = goes (a == b)
       ∧ exec (.bne c f) s = goes (a != b)
       ∧ exec (.blt c f) s = goes (decide (a.toInt < b.toInt))
       ∧ exec (.bge c f) s = goes (decide (b.toInt ≤ a.toInt))
       ∧ exec (.bltu c f) s = goes (decide (a.toNat < b.toNat))
       ∧ exec (.bgeu c f) s = goes (decide (b.toNat ≤ a.toNat)))
     ∧ (fieldsOk 0x16 f = true →
       exec (.jal c f) s = .next (s.went c ((pc + f.imm.toNat) % 2 ^ 32) fun k => k.setS f.rd link))
     ∧ (fieldsOk 0x17 f = true → (a + f.imm).toNat % 8 = 0 →
       exec (.jalr c f) s = .next (s.went c (a + f.imm).toNat fun k => k.setS f.rd link))
     ∧ exec (.nop c ⟨0, .clean⟩) s = .next (s.went c (pc + 8) fun k => k))
  ∧
  (∀ (s : State) (c : Nat) (f : Fields), s.decodes c = true →
     let k0 := (s.coreCount c 0x02 1).core c
     let a := k0.s f.ra
     let reads (v : Word) : Host.Outcome State Fault Refusal := .next (s.ran c fun k => k.setS f.rd v)
     (fieldsOk 0x18 f = true →
       (f.imm = 0 → exec (.crr c f) s = reads (BitVec.ofNat 32 c))
       ∧ (f.imm = 1 → exec (.crr c f) s = reads (BitVec.ofNat 32 s.set.deviceId))
       ∧ (∀ g d, f.imm = 2 → (s.core c).grant = some g → s.node g.node = some d →
           exec (.crr c f) s = reads (BitVec.ofNat 32 (d.ctx % 1024 + 1024 * (ringNo d.ring % 8))))
       ∧ (f.imm = 3 → exec (.crr c f) s = reads (BitVec.ofNat 32 (b2n k0.ftz * 4 + k0.round)))
       ∧ (f.imm = 4 → exec (.crr c f) s = reads k0.arithFlags)
       ∧ (f.imm = 5 → exec (.crr c f) s = .next (s.ran c fun k =>
           { k.setS f.rd (BitVec.ofNat 32 s.clock.now) with timeHi := BitVec.ofNat 32 (s.clock.now / 2 ^ 32) }))
       ∧ (f.imm = 6 → exec (.crr c f) s = reads k0.timeHi))
     ∧ (fieldsOk 0x19 f = true →
       (f.imm = 3 → a.toNat % 4 ≠ 3 → exec (.crw c f) s = .next (s.ran c fun k =>
           { k with ftz := a.getLsbD 2, round := a.toNat % 4 }))
       ∧ (f.imm = 4 → exec (.crw c f) s = .next (s.ran c fun k => { k with
           flushed := k.flushed && !a.getLsbD 31
           nanseen := k.nanseen && !a.getLsbD 30
           isat := k.isat && !a.getLsbD 29 }))
       ∧ (f.imm = 7 → exec (.crw c f) s = .next (s.ran c fun k =>
           k.updItem k.currentItem fun it => { it with key := a, ctr := 0 }))
       ∧ (f.imm = 0 ∨ f.imm = 1 ∨ f.imm = 2 ∨ f.imm = 5 ∨ f.imm = 6 → exec (.crw c f) s = .next (s.ran c fun k => k)))
     ∧ (fieldsOk 0x1A f = true → ∀ j : Fin 8, f.imm.toNat % 8 = j.val →
       exec (.cntrd c f) s = .next (s.ran c fun k =>
         if f.imm.getLsbD 3 then k.setS f.rd k.counterLatch[j]
         else { k.setS f.rd (BitVec.ofNat 32 k.counters[j].toNat) with
           counterLatch := k.counterLatch.set j (BitVec.ofNat 32 (k.counters[j].toNat / 2 ^ 32)) })))

/-- R214, R216, R223, R248, R249: TRAP, an illegal field, a PC outside the image and a misaligned JALR target end the grant with
their causes, and the task's ring enters FAULTED with cause EXEC; so does any instruction word whose opcode no table lists, or
whose fields are illegal. -/
def Obligations.CoreExceptions : Prop :=
  ∀ (s : State) (c : Nat) (f : Fields) (g : Grant) (d : Node), (s.core c).grant = some g → s.node g.node = some d →
    d.result = none → isHostRing d.ring = true → (s.ring d.ring).enabled = true → (s.ring d.ring).fault = none →
    let pc := (s.core c).pc
    let stops (i : Instr) (cause at' : Nat) : Prop := ∃ t, exec i s = .next t ∧ t.stoppedAt c cause at'
      ∧ (t.ring d.ring).fault.map (·.cause) = some 0x44 ∧ (t.ring d.ring).irqFault = true
      ∧ (t.ring d.ring).lastFault = 0x05
    (s.decodes c = true → fieldsOk 0x1B f = true → stops (.trap c f) 0x07 pc)
    ∧ (s.decodes c = true → fieldsOk 0x01 f = false → stops (.add c f) 0x01 pc)
    ∧ (s.decodes c = true → fieldsOk 0x10 f = false → stops (.beq c f) 0x01 pc)
    ∧ (s.decodes c = true → fieldsOk 0x29 f = false → stops (.vcmp c f) 0x01 pc)
    ∧ (s.decodes c = true → fieldsOk 0x68 f = false → stops (.mark c f) 0x01 pc)
    ∧ (s.decodes c = true → fieldsOk 0x17 f = true → ((s.core c).s f.ra + f.imm).toNat % 8 ≠ 0 →
        stops (.jalr c f) 0x02 ((s.core c).s f.ra + f.imm).toNat)
    ∧ (∀ kn, (s.core c).kernel = some kn → (s.core c).front = .decoding → s.fenced c = false →
        (pc % 8 ≠ 0 ∨ kn.imageLen < pc + 8) → stops (.nop c ⟨0, .clean⟩) 0x02 pc)
    ∧ (∀ w : BitVec 64, s.decodes c = true → fieldsOk (w.extractLsb' 56 8) (fieldsOf w) = false → stops (.nop c ⟨w, .clean⟩) 0x01 pc)

/-! ### Cores: vectors -/

/-- R228: VAND, VOR, VXOR, VSEL, VBCAST, VEXT and VLANE. R231: VLD and VST with format code 0 move 64 raw bytes, four to a lane,
low byte first. -/
def Obligations.VectorMovesAndRawMemory : Prop :=
  (∀ (s : State) (c : Nat) (f : Fields), s.decodes c = true →
     let a := (s.core c).v f.ra
     let b := (s.core c).v f.rb
     let m := (s.core c).v f.rc
     let writes (l : List Word) : Host.Outcome State Fault Refusal := .next (s.ran c fun k => k.setV f.rd l)
     (fieldsOk 0x26 f = true →
       exec (.vand c f) s = writes (List.zipWith (fun x y => x &&& y) a b)
       ∧ exec (.vor c f) s = writes (List.zipWith (fun x y => x ||| y) a b)
       ∧ exec (.vxor c f) s = writes (List.zipWith (fun x y => x ^^^ y) a b))
     ∧ (fieldsOk 0x2A f = true → exec (.vsel c f) s = writes ((List.range 16).map fun j =>
         (m.getD j 0 &&& a.getD j 0) ||| (~~~(m.getD j 0) &&& b.getD j 0)))
     ∧ (fieldsOk 0x2B f = true → exec (.vbcast c f) s = writes (List.replicate 16 ((s.core c).s f.ra + f.imm)))
     ∧ (fieldsOk 0x2C f = true →
         exec (.vext c f) s = .next (s.ran c fun k => k.setS f.rd (a.getD (f.imm.toNat % 16) 0)))
     ∧ (fieldsOk 0x2D f = true → exec (.vlane c f) s = writes ((List.range 16).map fun i =>
         a.getD ((b.getD i 0).toNat % 16) 0)))
  ∧
  (∀ (s : State) (c : Nat) (f : Fields), s.decodes c = true → f.imm.toNat / 2 ^ 16 = 0 →
     let k := s.core c
     let a := (k.s f.ra + (f.imm.truncate 16).signExtend 32).toNat
     mapped a 64 = true → a % 64 = 0 →
     (fieldsOk 0x42 f = true → ∃ t, exec (.vld c f .clean) s = .next t
       ∧ (t.core c).v f.rd = ((List.range 16).map fun j => BitVec.ofNat 32 (leNat (s.readLocal c (a + 4 * j) 4)))
       ∧ (∀ r, r ≠ f.rd → (t.core c).v r = k.v r) ∧ (t.core c).regs = k.regs ∧ (t.core c).dmem = k.dmem
       ∧ (t.core c).pc = k.pc + 8 ∧ (t.core c).inflight = [] ∧ t.stands = s.stands ∧ t.mem = s.mem)
     ∧ (fieldsOk 0x43 f = true → ∃ t, exec (.vst c f) s = .next t
       ∧ (s.canonical → t.readLocal c a 64 = ((k.v f.rd).map fun w => leBytes 4 w.toNat).flatten)
       ∧ (s.canonical → ∀ x, mapped x 1 = true → (x < a ∨ a + 64 ≤ x) → t.readLocal c x 1 = s.readLocal c x 1)
       ∧ (t.core c).vregs = k.vregs ∧ (t.core c).regs = k.regs
       ∧ (t.core c).pc = k.pc + 8 ∧ (t.core c).inflight = [] ∧ t.mem = s.mem))

/-- R228: elementwise arithmetic on I32 lanes wraps modulo 2^32. The model's reading that I32 lanes are signed (log 23): VMIN,
VMAX, the conditions of VCMP, and VRED of R228. -/
def Obligations.VectorIntegers : Prop :=
  (∀ (s : State) (c : Nat) (f : Fields), s.decodes c = true → f.mod = 1 →
     let a := (s.core c).v f.ra
     let b := (s.core c).v f.rb
     let m := (s.core c).v f.rc
     let writes (g : Word → Word → Word → Word) : Host.Outcome State Fault Refusal :=
       .next (s.ran c fun k => k.setV f.rd ((List.range 16).map fun j => g (a.getD j 0) (b.getD j 0) (m.getD j 0)))
     (fieldsOk 0x20 f = true →
       exec (.vadd c f) s = writes (fun x y _ => x + y)
       ∧ exec (.vsub c f) s = writes (fun x y _ => x - y)
       ∧ exec (.vmul c f) s = writes (fun x y _ => x * y))
     ∧ (fieldsOk 0x23 f = true → exec (.vfma c f) s = writes (fun x y z => x * y + z)))
  ∧
  (∀ (s : State) (c : Nat) (f : Fields), s.decodes c = true → f.mod = 1 →
     let a := (s.core c).v f.ra
     let b := (s.core c).v f.rb
     let writes (g : Word → Word → Word) : Host.Outcome State Fault Refusal :=
       .next (s.ran c fun k => k.setV f.rd ((List.range 16).map fun j => g (a.getD j 0) (b.getD j 0)))
     let every (v : Word) : Host.Outcome State Fault Refusal := .next (s.ran c fun k => k.setV f.rd (List.replicate 16 v))
     let less (x y : Word) : Word := if x.toInt ≤ y.toInt then x else y
     let more (x y : Word) : Word := if x.toInt ≤ y.toInt then y else x
     let mask (p : Bool) : Word := if p then 0xFFFFFFFF else 0
     (fieldsOk 0x24 f = true → exec (.vmin c f) s = writes less ∧ exec (.vmax c f) s = writes more)
     ∧ (fieldsOk 0x29 f = true →
       (f.imm = 0 → exec (.vcmp c f) s = writes fun x y => mask (x == y))
       ∧ (f.imm = 1 → exec (.vcmp c f) s = writes fun x y => mask (x != y))
       ∧ (f.imm = 2 → exec (.vcmp c f) s = writes fun x y => mask (decide (x.toInt < y.toInt)))
       ∧ (f.imm = 3 → exec (.vcmp c f) s = writes fun x y => mask (decide (x.toInt ≤ y.toInt)))
       ∧ (f.imm = 4 → exec (.vcmp c f) s = writes fun x y => mask (decide (y.toInt < x.toInt)))
       ∧ (f.imm = 5 → exec (.vcmp c f) s = writes fun x y => mask (decide (y.toInt ≤ x.toInt))))
     ∧ (fieldsOk 0x2E f = true →
       (f.imm = 0 → exec (.vred c f) s = every (a.foldl (fun x y => x + y) 0))
       ∧ (f.imm = 1 → exec (.vred c f) s = every (a.tail.foldl more (a.headD 0)))
       ∧ (f.imm = 2 → exec (.vred c f) s = every (a.tail.foldl less (a.headD 0)))))

/-- R208, R228: the F32 instructions of the online softmax and the reciprocals, with FTZ 0: 2^±0 lies within 2 units in the last
place of 1 and 2^−∞ is 0 under VEXP2, ±0 gives ±∞ under VRCP, a negative nonzero value gives NaN under VRSQRT, −∞ gives 0 and
equal finite operands give 1 under VEXPSUB, a divisor of ±0 gives 0 under VDIVSAFE, VRESCALE is one fused multiply and add, and
VMAXRUN sets NANSEEN when it meets a NaN, which counts as −∞. -/
def Obligations.OnlineSoftmaxLanes : Prop :=
  ∀ (s : State) (c : Nat) (f : Fields), s.decodes c = true → (s.core c).ftz = false →
    let d := (s.core c).v f.rd
    let a := (s.core c).v f.ra
    let b := (s.core c).v f.rb
    let lane (v : List Word) (j : Nat) : Word := v.getD j 0
    let gives (i : Instr) (p : (Nat → Word) → Prop) : Prop := ∃ l : List Word, l.length = 16 ∧ p (lane l) ∧
      exec i s = .next (s.ran c fun k => k.setV f.rd l)
    (fieldsOk 0x2F f = true → gives (.vexp2 c f) fun r => ∀ j < 16,
      (isZeroF32 (lane a j) = true → 0x3F7FFFFE ≤ (r j).toNat ∧ (r j).toNat ≤ 0x3F800002)
      ∧ (lane a j = 0xFF800000 → r j = 0))
    ∧ (fieldsOk 0x30 f = true → gives (.vrcp c f) fun r => ∀ j < 16,
      (lane a j = 0 → r j = 0x7F800000) ∧ (lane a j = 0x80000000 → r j = 0xFF800000))
    ∧ (fieldsOk 0x31 f = true → gives (.vrsqrt c f) fun r => ∀ j < 16,
      (lane a j).getLsbD 31 = true → isZeroF32 (lane a j) = false → isNanF32 (r j) = true)
    ∧ (fieldsOk 0x33 f = true → gives (.vexpsub c f) fun r => ∀ j < 16,
      (lane a j = 0xFF800000 → r j = 0)
      ∧ (lane a j = lane b j → bits (lane a j).toNat 23 8 ≠ 255 → r j = 0x3F800000))
    ∧ (fieldsOk 0x35 f = true → gives (.vdivsafe c f) fun r => ∀ j < 16, isZeroF32 (lane b j) = true → r j = 0)
    ∧ (fieldsOk 0x34 f = true → exec (.vrescale c f) s = .next (s.ran c fun k => k.setV f.rd ((List.range 16).map fun j =>
      BitVec.ofNat 32 (arithElem 0x23 0 false (lane d j).toNat (lane a j).toNat (lane b j).toNat).1)))
    ∧ (fieldsOk 0x32 f = true → ∃ l : List Word, l.length = 16
      ∧ (∀ j < 16, isNanF32 (lane a j) = true → isNanF32 (lane d j) = false → lane l j = lane d j)
      ∧ exec (.vmaxrun c f) s = .next (s.ran c fun k => (k.setV f.rd l).setNanSeen (a.any isNanF32)))

/-! ### Cores: memory, transfers and the matrix slice -/

/-- R230: LDS and STS on clean memory. STS writes the low bytes of RB, low byte first, and nothing else of the block changes but
the counters. What a store writes to local memory reads back, low byte first, and every other mapped byte of the core reads as
before, in memory of canonical form. -/
def Obligations.LocalMemory : Prop :=
  (∀ (s : State) (c : Nat) (f : Fields), s.decodes c = true →
     let k := s.core c
     let a := (k.s f.ra + f.imm).toNat
     let n := 2 ^ (f.mod.toNat % 4)
     let raw := BitVec.ofNat (8 * n) (leNat (s.readLocal c a n))
     mapped a n = true → a % n = 0 →
     (fieldsOk 0x40 f = true → exec (.lds c f .clean) s = .next (s.ran c fun x =>
         x.setS f.rd (if f.mod.getLsbD 2 then raw.signExtend 32 else raw.zeroExtend 32)))
     ∧ (fieldsOk 0x41 f = true →
         exec (.sts c f .clean) s = .next ((s.ran c fun x => x).writeLocal c a (leBytes n (k.s f.rb).toNat))))
  ∧
  (∀ (s : State) (c a x : Nat) (bs : List Byte), s.canonical → mapped a bs.length = true → mapped x 1 = true →
     (s.writeLocal c a bs).readLocal c a bs.length = bs
     ∧ ((x < a ∨ a + bs.length ≤ x) → (s.writeLocal c a bs).readLocal c x 1 = s.readLocal c x 1)
     ∧ (∀ y n, (s.writeLocal c a bs).dev y n = s.dev y n))

/-- R230, R248: a local access outside the mapped ranges raises ADDRESS, and a misaligned one raises ALIGN; both end the grant.
-/
def Obligations.LocalAccessTraps : Prop :=
  ∀ (s : State) (c : Nat) (f : Fields) (g : Grant) (d : Node), s.decodes c = true → (s.core c).grant = some g →
    s.node g.node = some d → d.result = none → isHostRing d.ring = true → (s.ring d.ring).enabled = true →
    (s.ring d.ring).fault = none →
    let a := ((s.core c).s f.ra + f.imm).toNat
    let n := 2 ^ (f.mod.toNat % 4)
    let stops (i : Instr) (cause : Nat) : Prop := ∃ t, exec i s = .next t ∧ t.stoppedAt c cause (s.core c).pc
    (fieldsOk 0x40 f = true → mapped a n = false → stops (.lds c f .clean) 0x03)
    ∧ (fieldsOk 0x40 f = true → mapped a n = true → a % n ≠ 0 → stops (.lds c f .clean) 0x04)
    ∧ (fieldsOk 0x41 f = true → mapped a n = false → stops (.sts c f .clean) 0x03)
    ∧ (fieldsOk 0x41 f = true → mapped a n = true → a % n ≠ 0 → stops (.sts c f .clean) 0x04)

/-- R232, R233, R235: a legal XLD, XST or XMV takes a free transfer slot at issue with its tag, addresses and descriptor, and
the core decodes on; an XST to device memory owes an acknowledgement for each line that it writes. R232, R235: when a transfer
of one raw row is done its bytes are at the destination and its slot is free; an XLD reads device memory, an XMV local memory.
WACK takes one acknowledgement off the slot that it names; an XST whose last line is acknowledged ends and frees the slot, and
one that still owes a line does not. -/
def Obligations.Transfers : Prop :=
  (∀ (s : State) (c : Nat) (f : Fields), s.decodes c = true → (s.core c).slots.length < 16 →
     let k := s.core c
     let da := (k.s f.rd).toNat
     let d := Descriptor.ofBytes (s.readLocal c da 32)
     let dev := pairAddr (k.s f.ra) (k.s f.rb)
     let loc := (k.s f.rc).toNat
     let src := (k.s f.ra).toNat
     let may (w : Bool) (a n : Nat) : Bool := s.regionCheck (s.grantCtx c) a n w == 0
     let takes (i : Instr) (op : Byte) (device from' dst acks : Nat) : Prop := ∃ t x, exec i s = .next t
       ∧ (t.core c).slots = Map.put k.slots k.freeSlot x ∧ x.op = op ∧ x.tag = f.mod.toNat % 8 ∧ x.device = device ∧ x.src = from' ∧ x.dst = dst
       ∧ x.desc = d ∧ x.acks = acks ∧ x.ctx = s.grantCtx c ∧ (t.core c).pc = k.pc + 8 ∧ (t.core c).regs = k.regs
       ∧ (t.core c).inflight = []
     inData da 32 = true → da % 8 = 0 → d.bad = false →
     (fieldsOk 0x44 f = true → d.dstOk loc mapped = true → d.srcOk dev (may false) = true →
       rowAligned d.srcFmt dev d.srcStride d.rows = true → rowAligned d.dstFmt loc d.dstStride d.dstRows = true →
       takes (.xld c ⟨f, .clean⟩) 0x44 dev dev loc 0)
     ∧ (fieldsOk 0x45 f = true → d.srcOk loc mapped = true → d.dstOk dev (may true) = true →
       rowAligned d.srcFmt loc d.srcStride d.rows = true → rowAligned d.dstFmt dev d.dstStride d.dstRows = true →
       takes (.xst c ⟨f, .clean⟩) 0x45 dev loc dev (if inAperture dev then 0 else (d.dstLines dev).length))
     ∧ (fieldsOk 0x46 f = true → d.srcOk src mapped = true → d.dstOk loc mapped = true →
       rowAligned d.srcFmt src d.srcStride d.rows = true → rowAligned d.dstFmt loc d.dstStride d.dstRows = true →
       takes (.xmv c ⟨f, .clean⟩) 0x46 (pairAddr (k.s f.ra) 0) src loc 0))
  ∧
  (∀ (s : State) (c slot : Nat) (x : TransferSlot), s.canonical → s.mem.invWaiting = [] → (s.core c).slots = [(slot, x)] →
     (s.core c).inflight = [] → (s.core c).front = .waitingGrant → x.desc.rows = 1 → x.desc.srcFmt = 0 →
     x.desc.dstFmt = 0 → x.desc.flags = 0 → mapped x.dst x.desc.cols = true →
     (x.op = 0x44 → x.acks = 0 → inAperture x.src = false → ∃ t, exec (.transferDone c slot false []) s = .next t
       ∧ t.readLocal c x.dst x.desc.cols = s.dev x.src x.desc.cols ∧ (t.core c).slots = [] ∧ t.mem = s.mem)
     ∧ (x.op = 0x46 → x.acks = 0 → mapped x.src x.desc.cols = true → ∃ t, exec (.transferDone c slot false []) s = .next t
       ∧ t.readLocal c x.dst x.desc.cols = s.readLocal c x.src x.desc.cols ∧ (t.core c).slots = [] ∧ t.mem = s.mem)
     ∧ (x.op = 0x45 → 0 < x.acks → ∃ t, exec (.wack ⟨c, slot⟩) s = .next t ∧ (t.core c).slots = [(slot, { x with acks := x.acks - 1 })]
       ∧ (x.acks = 1 → ∃ u, exec (.transferDone c slot false []) t = .next u ∧ (u.core c).slots = [] ∧ u.mem = s.mem))
     ∧ (x.op = 0x45 → 0 < x.acks → ∃ t, exec (.transferDone c slot false []) s = .next t ∧ (t.core c).slots = [(slot, x)]))

/-- R196, R197, R220, R236: the shadow loader, MSWAP, and a digest with digests off. MLOAD reads the element bytes its format
takes and holds the loader until LOADER_DONE; MSWAP streams the ones row, whose check the core waits for (R201). R238: MSTREAM
on a stationary operand streams H rows, whose checks pass; the last output row, one I32 or F32 element per column, stays with
the slice until MSTREAM_DONE writes it and completes the instruction. -/
def Obligations.MatrixSlice : Prop :=
  (∀ (s : State) (c : Nat) (f : Fields),
     let k := s.core c
     (s.decodes c = true → fieldsOk 0x50 f = true → k.loaderBusy = false → (sliceBytes f.imm.toNat).1 ≠ 0 →
       mapped (k.s f.ra).toNat (sliceBytes f.imm.toNat).1 = true → (k.s f.ra).toNat % 64 = 0 →
       ((sliceBytes f.imm.toNat).2 = 0 ∨ mapped (k.s f.rb).toNat (sliceBytes f.imm.toNat).2 = true) →
       ∃ t w, exec (.mload c ⟨f, .clean⟩) s = .next t ∧ (t.core c).shadow = some w ∧ w.format = f.imm.toNat
         ∧ (t.core c).stationary = k.stationary ∧ (t.core c).loaderBusy = true ∧ (t.core c).pc = k.pc + 8
         ∧ (t.core c).inflight.length = 1)
     ∧ (k.loaderBusy = true → k.inflight = [] → k.front = .decoding → (∀ w, k.shadow = some w → w.loadCheck = true) →
         ∃ t, exec (.loaderDone c) s = .next t ∧ (t.core c).loaderBusy = false ∧ (t.core c).shadow = k.shadow
           ∧ t.flt = s.flt)
     ∧ (∀ w, s.decodes c = true → fieldsOk 0x51 f = true → k.loaderBusy = false → k.shadow = some w → w.passCheck = true →
         exec (.mswap c f) s = .next (s.ran c fun x => { x with stationary := some w, onesUntil := s.now + s.cycles c 8 }))
     ∧ (s.decodes c = true → fieldsOk 0x47 f = true → s.digestsOn = false →
         exec (.tdigest c f) s = .next (s.ran c fun x => x)))
  ∧
  (∀ (s : State) (c : Nat) (f : Fields) (w : Operand) (kk nn g : Nat),
     let k := s.core c
     let h := f.imm.toNat % 2 ^ 16
     let stride := (k.s f.rb).toNat % 2 ^ 16
     let accStride := (k.s f.rb).toNat / 2 ^ 16
     let acc := (k.s f.rc).toNat
     (s.decodes c = true → fieldsOk 0x52 f = true → k.stationary = some w → sliceMode w.format = some (kk, nn, g) →
       fmtGrouped w.format = false → f.rd = 0 → f.imm.getLsbD 17 = false → k.lastRows = [] → h ≠ 0 →
       inData acc ((h - 1) * accStride + 4 * nn) = true → mapped (k.s f.ra).toNat ((h - 1) * stride + 8) = true →
       stride % 8 = 0 → accStride % 4 = 0 →
       (∀ r < h, w.rowCheck kk nn g ((unpack w.format kk (s.readLocal c ((k.s f.ra).toNat + r * stride) 8)).map fun e =>
         decodeNum w.format (flushCode w.format k.ftz e)) = true) →
       ∃ t i bs, exec (.mstream c ⟨f, .clean⟩) s = .next t ∧ (t.core c).lastRows = [(i, acc + (h - 1) * accStride, bs)]
         ∧ bs.length = 4 * nn ∧ (t.core c).pc = k.pc + 8 ∧ (t.core c).stationary = k.stationary
         ∧ (t.core c).inflight.map (fun (q : QInstr) => q.id) = [i] ∧ t.mem = s.mem)
     ∧ (∀ i a bs, k.lastRows = [(i, a, bs)] → k.inflight.map (fun (q : QInstr) => q.id) = [i] → k.front = .decoding →
       inData a bs.length = true → s.canonical → ∃ t, exec (.mstreamDone c) s = .next t
         ∧ t.readLocal c a bs.length = bs ∧ (t.core c).lastRows = [] ∧ (t.core c).inflight = [] ∧ t.mem = s.mem))

/-! ### Cores: ordering, synchronisation, marking and work -/

/-- R235, R240, R241, R477: with nothing outstanding, FENCE and XWAIT are released at once, every token of a QBAR is released at
once, and a MARK completes without effect while range markers are off. R239, R243, R349: SIGNAL and SEMINIT send their operation
on a shared semaphore that is bound to the context and complete; TAKE, WAITGE and SEMRD send theirs and stay in flight, each at
the head of its queue, until a release. -/
def Obligations.CoreSynchronisation : Prop :=
  (∀ (s : State) (c : Nat) (f : Fields), s.decodes c = true → (s.core c).slots = [] →
     (fieldsOk 0x61 f = true → exec (.fence c f) s = .next (s.ran c fun k => k))
     ∧ (fieldsOk 0x62 f = true → exec (.xwait c f) s = .next (s.ran c fun k => k))
     ∧ (fieldsOk 0x68 f = true → (s.tracing && s.dbg.sampleControl.getLsbD 0) = false →
         exec (.mark c f) s = .next (s.ran c fun k => k))
     ∧ (fieldsOk 0x60 f = true → exec (.qbar c f) s = .next (s.went c ((s.core c).pc + 8) fun k =>
         { k with nextId := k.nextId + ((List.range 4).filter fun q => (f.imm.toNat / 16).testBit q).length })))
  ∧
  (∀ (s : State) (c i : Nat) (f : Fields) (g : Grant) (d : Node) (x : Context), s.decodes c = true →
     (s.core c).grant = some g → s.node g.node = some d → s.ctx d.ctx = some x → s.boundTo i d.ctx = true → i < 4096 →
     let k := s.core c
     let n := (k.s f.rb).toNat
     let sends (ins : Instr) (q : Nat) (op : SemOp) (waits : Bool) : Prop := ∃ t, exec ins s = .next t
       ∧ t.fab = { s.fab with msgs := s.fab.msgs ++
           [⟨.shared i, .core c, q, k.nextId, none, 2, d.ctx, x.resetCount % 8, s.set.waitWatchdog, op⟩] }
       ∧ (t.core c).inflight.map (fun (j : QInstr) => (j.id, j.queue, j.started)) = (if waits then [(k.nextId, q, true)] else [])
       ∧ (t.core c).regs = k.regs ∧ (t.core c).pc = k.pc + 8 ∧ t.dv = s.dv ∧ t.mem = s.mem
     (k.s f.ra).toNat = 2 ^ 31 + 64 * i →
     (fieldsOk 0x63 f = true → amountOk n = true → sends (.signal c f) 3 (.signal n) false)
     ∧ (fieldsOk 0x64 f = true → amountOk n = true → sends (.take c f) (f.mod.toNat % 4) (.take n) true)
     ∧ (fieldsOk 0x65 f = true → amountOk n = true → sends (.waitge c f) (f.mod.toNat % 4) (.waitge n) true)
     ∧ (fieldsOk 0x66 f = true → sends (.semrd c f) 3 .read true)
     ∧ (fieldsOk 0x67 f = true → sends (.seminit c f) 3 (.init (n % 2 ^ 24) (f.mod.getLsbD 0)) false))

/-- R135, R185, R242: GETWORK and ENDWORK with nothing outstanding end the grant and ask the core's sector for work: n items, or
GRANT_N for 0. After GETWORK the core goes on behind it, after ENDWORK at ENTRY. R201, R204, R205: a failed check of the slice,
and a load, a ones row or a row that fails its own, flush the queues, end the grant and report the core, the time and the mode;
the half controller counts each report, and the third of one core within 1,000,000,000 ns fences it. -/
def Obligations.WorkAndChecks : Prop :=
  (∀ (s : State) (c : Nat) (f : Fields) (kn : Kernel) (g : Grant), s.decodes c = true → (s.core c).kernel = some kn →
     (s.core c).grant = some g → (s.core c).slots = [] → (s.core c).loaderBusy = false →
     (s.core c).lastRows = [] → (s.core c).onesUntil ≤ s.now →
     let asks (i : Instr) (n : Nat) (loop : Bool) (u : Core → Prop) : Prop := ∃ t, exec i s = .next t
       ∧ (t.core c).grant = none ∧ (t.core c).items = [] ∧ (t.core c).prevNode = some g.node
       ∧ (t.core c).front = .waitingGrant ∧ (t.core c).askCount = n ∧ (t.core c).dispatchLoop = loop
       ∧ (t.sector (sectorOfCore c)).waiting = (s.sector (sectorOfCore c)).waiting.filter (fun w => w.core ≠ c) ++ [⟨c, n⟩]
       ∧ (t.core c).regs = (s.core c).regs ∧ (t.core c).dmem = (s.core c).dmem ∧ u (t.core c)
     (fieldsOk 0x70 f = true → asks (.getwork c f) (if f.imm = 0 then kn.grantN else f.imm.toNat) false fun k =>
       k.resume = (s.core c).pc + 8)
     ∧ (fieldsOk 0x71 f = true → asks (.endwork c f) kn.grantN true fun _ => True))
  ∧
  ((∀ (s : State) (c : Nat) (f : Fields) (g : Grant) (w : Operand), (s.core c).grant = some g → s.fenced c = false →
     let fails (i : Instr) : Prop := ∃ t, exec i s = .next t
       ∧ t.flt.mismatchQueue = s.flt.mismatchQueue ++ [(c, s.clock.now, w.format)] ∧ (t.core c).inflight = []
       ∧ (t.core c).grant = none
       ∧ (t.core c).front = if (t.core c).drained s.clock.now then .waitingGrant else .draining
     ((s.core c).stationary = some w → fails (.checksumMismatch ⟨c, .pass⟩) ∧ fails (.checksumMismatch ⟨c, .row⟩))
     ∧ ((s.core c).shadow = some w → fails (.checksumMismatch ⟨c, .load⟩))
     ∧ ((s.core c).shadow = some w → w.loadCheck = false → (s.core c).loaderBusy = true → fails (.loaderDone c))
     ∧ ((s.core c).shadow = some w → w.passCheck = false → s.decodes c = true → (s.core c).loaderBusy = false →
       fieldsOk 0x51 f = true → fails (.mswap c f)))
   ∧ ∀ (s : State) (c t0 m : Nat) (q : List (Nat × Nat × Nat)), s.flt.mismatchQueue = (c, t0, m) :: q →
     let near := (s.core c).reports.filter fun r => decide (t0 - r < 1000000000)
     (near.length < 2 → ∃ t, exec (.mismatchReport (halfOfCore c)) s = .next t ∧ t.flt.mismatchQueue = q
       ∧ t.flt.mismatches = s.flt.mismatches + 1 ∧ (t.core c).reports = near ++ [t0] ∧ t.fenced c = s.fenced c)
     ∧ (2 ≤ near.length → ∃ t, exec (.mismatchReport (halfOfCore c)) s = .next t ∧ t.fenced c = true
       ∧ (t.core c).reports = []))

/-! ### Bring-up, clocks and firmware -/

/-- R495, R521, R522: BLOCK_RESET, in every state and with any straps, samples the straps and keeps the fuses, the bytes of
device memory (log 8), TRACE_READY, the count of random draws, what has left the block and the commands that wait; DEBUG_LOCK is
DEBUG_LOCK_FUSE, the exchange ports have the speeds that their straps name, and every other item is as reset leaves it. Straps
of the two halves that disagree halt bring-up with STRAP_MISMATCH, a base stack of capacity 0 halts it with BASE_STACK, and
otherwise self-test follows, each stand having the spare position that fuse data gives it. -/
def Obligations.BlockResetLeaves : Prop :=
  ∀ (s : State) (straps : Straps), ∃ t, exec (.blockReset straps) s = .next t
    ∧ t.straps = straps ∧ t.fuses = s.fuses ∧ t.mem = { Memory.reset with dev := s.mem.dev }
    ∧ t.set = { Settings.reset with debugLock := s.fuses.debugLockFuse } ∧ t.ctxs = [] ∧ t.rings = [] ∧ t.cores = []
    ∧ t.dv = Dvorsor.reset ∧ t.fab = Fabric.reset ∧ t.clock = Clock.reset ∧ t.cat = Catalogue.reset ∧ t.exp = Experts.reset
    ∧ t.flt = Faults.reset ∧ t.pwr = Power.reset ∧ t.dbg = { Debug.reset with traceReady := s.dbg.traceReady }
    ∧ t.ecl = { Eclahild.reset with ports := t.ecl.ports }
    ∧ (∀ p < 8, t.xport p = { XPort.reset with
        speed := if straps.xchSpeed.getD p 0 = 1 ∨ straps.xchSpeed.getD p 0 = 2 then straps.xchSpeed.getD p 0 else 0 })
    ∧ t.outputs = s.outputs ∧ t.pending = s.pending
    ∧ (straps.build0 ≠ straps.build1 ∨ straps.meridianRev0 ≠ straps.meridianRev1 →
        t.boot = { Boot.reset with randomDraws := s.boot.randomDraws, stage := 7, haltReason := 1 })
    ∧ (straps.build0 = straps.build1 → straps.meridianRev0 = straps.meridianRev1 →
        straps.memCap.getD 0 0 = 0 ∨ straps.memCap.getD 6 0 = 0 →
        t.boot = { Boot.reset with randomDraws := s.boot.randomDraws, stage := 7, haltReason := 5 })
    ∧ (straps.build0 = straps.build1 → straps.meridianRev0 = straps.meridianRev1 → 0 < straps.memCap.getD 0 0 →
        straps.memCap.getD 0 0 ≤ 64 → 0 < straps.memCap.getD 6 0 → straps.memCap.getD 6 0 ≤ 64 →
        t.boot = { Boot.reset with randomDraws := s.boot.randomDraws, stage := 2 }
        ∧ (∀ k, t.stand k = { Stand.reset with
          sparePos := Map.at s.fuses.spares 16 k
          spareState := if Map.at s.fuses.spares 16 k = 16 then 0 else 1 }))

/-- R457, R514, R522, R523: the three parts of bring-up, in any order. A self-test that finds nothing leaves every core that is
not fenced waiting for one item, and one that finds more failing rows of a node memory than spares halts bring-up with ARRAY; a
link with 64 good lanes in each direction is trained, and one with fewer halts bring-up with MERIDIAN; entropy that passes gives
the block an incarnation. Bring-up waits for entropy (stage 3) once the link is trained and self-test has ended, and for
firmware (stage 4) once all three have ended. A health test that fails later holds the entropy back. R492–R494: a power-good
input that falls is noted for its half. A fault of a reference clock, or of the time reference, faults the block, and that of
any other clock its port, which for an exchange port is then FAILED. -/
def Obligations.BringUp : Prop :=
  ((∀ s : State, s.inBringup = true → s.boot.selfTested = false → s.flt.controlFailed = [] →
     s.boot.fwLoad = false → ∃ t, exec (.selfTestDone ⟨[], [], []⟩) s = .next t ∧ t.boot.selfTested = true
       ∧ t.boot.coresFailed = 0
       ∧ t.boot.stage = (if !s.boot.linkTrained then s.boot.stage else if s.boot.entropyOk then 4 else 3)
       ∧ (∀ k < 8, (t.sector k).waiting = (((compsOfSector k).map coresOfComp).flatten.filter fun c => !s.fenced c).map
           fun c => ⟨c, 1⟩))
   ∧ (∀ (s : State) (found : SelfTest), s.inBringup = true → s.boot.selfTested = false →
     arrayFails found (arrayNode 0) = true ∨ arrayFails found (arrayNode 1) = true →
     ∃ t, exec (.selfTestDone found) s = .next t ∧ t.boot.selfTested = true ∧ t.boot.stage = 7 ∧ t.boot.haltReason = 3)
   ∧ (∀ (s : State) (l0 l1 : List Nat), s.inBringup = true → s.boot.linkTrained = false → s.boot.fwLoad = false →
     ∃ t, exec (.meridianTrainingDone l0 l1) s = .next t
       ∧ (64 ≤ t.flt.goodLanes 0 → 64 ≤ t.flt.goodLanes 1 → t.boot.linkTrained = true ∧ t.boot.haltReason = s.boot.haltReason)
       ∧ (t.flt.goodLanes 0 < 64 ∨ t.flt.goodLanes 1 < 64 → t.boot.linkTrained = false ∧ t.boot.stage = 7 ∧ t.boot.haltReason = 2))
   ∧ (∀ s : State, s.inBringup = true → s.boot.linkTrained = false → 64 ≤ s.flt.goodLanes 0 → 64 ≤ s.flt.goodLanes 1 →
     s.boot.fwLoad = false → exec (.meridianTrainingDone [] []) s = .next { s with boot := { s.boot with
       linkTrained := true
       stage := if !s.boot.selfTested then s.boot.stage else if s.boot.entropyOk then 4 else 3 } })
   ∧ (∀ s : State, s.inBringup = true → s.boot.linkTrained = true → s.boot.selfTested = true → s.boot.fwLoad = false →
     s.cat.waiting = [] → s.rootHalted = false → ∃ t, exec .healthTestsPass s = .next t ∧ t.boot.entropyOk = true
       ∧ t.boot.stage = 4 ∧ t.ecl.incarnation ≠ 0 ∧ (s.ecl.incarnation ≠ 0 → t.ecl = s.ecl))
   ∧ (∀ s : State, exec .healthTestFail s = .next { s with boot := { s.boot with entropyOk := false } }))
  ∧
  (∀ (s : State) (h : Nat),
     exec (.pwrOkLow 0) s = .next { s with boot := { s.boot with pwrOk0 := false } }
     ∧ exec (.pwrOkLow 1) s = .next { s with boot := { s.boot with pwrOk1 := false } }
     ∧ exec (.clockFault (.refClk h)) s = .next { s with boot := { s.boot with blockFault := true } }
     ∧ exec (.clockFault .timeRef) s = .next { s with boot := { s.boot with blockFault := true } }
     ∧ (∀ c : ClockId, (c = .host ∨ c = .mgmt ∨ c = .mem h) → exec (.clockFault c) s = .next { s with boot := { s.boot with
         portFaults := s.boot.portFaults.filter (fun k => k ≠ c) ++ [c] } })
     ∧ (∃ t, exec (.clockFault (.xch h)) s = .next t ∧ (t.xport h).failed = true ∧ t.boot = { s.boot with
         portFaults := s.boot.portFaults.filter (fun k => k ≠ ClockId.xch h) ++ [.xch h] }))

/-- R112, R314, R453, R454, R455, R522: a load in EMPTY or REFUSED is refused with reason 7 when KEY_HASH is zero and is LOADING
otherwise; a fetched image that passes every check is copied to the control cores and RUNNING, and one that fails is REFUSED
with the reason of the first check it fails and copies nothing; so is a fetch that fails. R454, R455: the checks of the image
after its fetch, in order: the form of the header and the length, MIN_BLOCK, the hash of the public key, the signature, and the
security version; the reason is that of the first that fails. -/
def Obligations.Firmware : Prop :=
  ((∀ s : State, s.boot.stage = 4 → (s.boot.fwState = 0 ∨ s.boot.fwState = 3) →
     (allZero s.fuses.keyHash = true → ∃ t, exec .fwLoad s = .next t ∧ t.boot.fwState = 3 ∧ t.boot.fwReason = 7
       ∧ t.boot.fwLoad = false ∧ t.boot.fwDone = true ∧ t.boot.loadsRefused = s.boot.loadsRefused + 1 ∧ t.boot.stage = 4)
     ∧ (allZero s.fuses.keyHash = false → s.boot.addressOk = true → ∃ t, exec .fwLoad s = .next t ∧ t.boot.fwState = 1
       ∧ t.boot.fwReason = 0 ∧ t.boot.fwDone = s.boot.fwDone ∧ t.boot.controlCores = s.boot.controlCores ∧ t.boot.stage = 4))
   ∧ (∀ (s : State) (l : List Byte), s.boot.fwState = 1 →
     (s.fwCheck l = 0 → exec (.fwFetchDone true l) s = .next { s with boot := { s.boot with
         stage := 5
         fwState := 2
         fwReason := 0
         fwLoad := false
         fwDone := true
         fwDoneEvents := s.boot.fwDoneEvents + 1
         fwVersion := BitVec.ofNat 32 (field l 8 4)
         fwDigest := sha384 (fwSigned l)
         fwLoadTime := s.clock.now
         fwEntry := field l 20 4
         controlCores := (List.range 10).map fun n => (n, ⟨l.drop 512, field l 20 4,
           !s.flt.controlFailed.contains (8 * (n / 5) + n % 5)
             && (decide (n % 5 < 4) || (if n / 5 = 0 then s.flt.spareTaken0 else s.flt.spareTaken1))⟩) } })
     ∧ (s.fwCheck l ≠ 0 → ∃ t, exec (.fwFetchDone true l) s = .next t ∧ t.boot.fwState = 3
       ∧ t.boot.fwReason = s.fwCheck l ∧ t.boot.controlCores = s.boot.controlCores ∧ t.boot.stage = s.boot.stage)
     ∧ (∃ t, exec (.fwFetchDone false l) s = .next t ∧ t.boot.fwState = 3 ∧ t.boot.fwReason = 1
       ∧ t.boot.controlCores = s.boot.controlCores ∧ t.boot.stage = s.boot.stage))
   ∧ (∀ s : State, s.boot.stage = 5 → ∃ t, exec .firmwareInitDone s = .next t ∧ t.boot.ready = true ∧ t.boot.stage = 6
     ∧ t.dv.paramBase0 = s.portCapacity 0 - 0x1000000 ∧ t.dv.paramBase1 = 6 * 2 ^ 36 + s.portCapacity 6 - 0x1000000
     ∧ (t.engine 0).workspace = s.portCapacity 0 - 0x1000000 - 0x10000000
     ∧ (t.engine 1).workspace = 6 * 2 ^ 36 + s.portCapacity 6 - 0x1000000 - 0x10000000))
  ∧
  (∀ (s : State) (l : List Byte),
     let formed := field l 0 4 = 0x57484E46 ∧ field l 4 2 = 0x0301 ∧ field l 6 2 = 0 ∧ allZero (slice l 28 36) = true
       ∧ allZero (slice l 256 256) = true ∧ field l 16 4 % 8 = 0 ∧ 4096 ≤ field l 16 4 ∧ field l 16 4 ≤ 229376
       ∧ field l 20 4 % 4 = 0 ∧ field l 20 4 < field l 16 4 ∧ s.boot.fwLen.toNat = 512 + field l 16 4
       ∧ l.length = 512 + field l 16 4
     let block := field l 24 4 ≤ blockVersion
     let keyed := sha384 (slice l 64 96) = s.fuses.keyHash
     let signed := ecdsaVerify (slice l 64 96) (slice l 160 96) (sha384 (slice l 0 160 ++ l.drop 256)) = true
     let current := s.fuses.minSvn ≤ field l 12 4
     (¬ formed → s.fwCheck l = 2) ∧ (formed → ¬ block → s.fwCheck l = 3) ∧ (formed → block → ¬ keyed → s.fwCheck l = 4)
     ∧ (formed → block → keyed → ¬ signed → s.fwCheck l = 5) ∧ (formed → block → keyed → signed → ¬ current → s.fwCheck l = 6)
     ∧ (formed → block → keyed → signed → current → s.fwCheck l = 0))

/-! ### The Catalogue and CAP -/

/-- R43, R46, R56, R58, R60, R61: a window request that the root serves sets DONE and shows its outcome; `at'` is the state with
the request in CAT_REQ. A read of an entry that the view may read places its bytes from OFFSET in the data buffer and changes
nothing but the window. A write of a single segment that the entry takes commits it, and one that its type or range refuses
shows the abort code and changes nothing. A list shows, in rising order, the indices from INDEX on that are visible in the view,
as many as LENGTH has room for. R56, R60, R414: a read of TJ_CRIT (0x6000.04) in the P view gives the fused byte; a write of
CEILING_DERATE (0x6000.02) with 70, 80, 90 or 100 commits it and any other value is refused with 0x0C00_0006 and changes nothing
but the window. R47, R60: a window of a context that does not exist is answered 0x0C00_0001, and nothing but the window changes.
-/
def Obligations.Windows : Prop :=
  (∀ (s : State) (v : View) (r : CatReq), s.boot.ready = true → (s.window v).busy = false → s.rootHalted = false → r.chkgen = false →
     (∀ c, v = .ctx c → (s.ctx c).isSome = true) →
     let w := s.window v
     let n := r.length.toNat
     let at' (op : Nat) : State := s.setWindow v { w with req := reqWord op r }
     let shows (t : State) (abort : Word) : Prop := (t.window v).done = true ∧ (t.window v).busy = false
       ∧ (t.window v).doneEvents = w.doneEvents + 1 ∧ (t.window v).abort = abort
     n ≤ windowSize v →
     (∀ e, (at' 0).entry v r.index.toNat r.sub.toNat = .ok e → e.access v ≠ .wo →
       let d := (e.get.drop (bits w.aux.toNat 0 32)).take n
       ∃ t, exec (.catRead v r) s = .next t ∧ shows t 0 ∧ (t.window v).type = BitVec.ofNat 8 e.type
         ∧ (t.window v).total = BitVec.ofNat 32 e.get.length ∧ (t.window v).buffer.take d.length = d
         ∧ { t with cat := s.cat } = s)
     ∧ (∀ e value, s.windowHeld v 1 r = false →
       State.entry { at' 1 with freeCtr := s.freeCtr + 1 } v r.index.toNat r.sub.toNat = .ok e → e.access v ≠ .ro →
       w.aux = 0 → r.last = true → w.staging = none → segment e [] (slice w.buffer 0 n) 0 true false = .ok (some value, []) →
       (∀ u, e.put value = .ok u → ∃ t, exec (.catWrite v r) s = .next t ∧ { t with cat := u.cat } = u
         ∧ (t.window v).done = true ∧ (t.window v).busy = false ∧ (t.window v).abort = 0)
       ∧ (∀ code, e.put value = .error code → ∃ t, exec (.catWrite v r) s = .next t ∧ shows t code
         ∧ { t with cat := s.cat, freeCtr := s.freeCtr } = s))
     ∧ (∃ (t : State) (l : List Nat), exec (.catList v r) s = .next t ∧ shows t 0 ∧ (t.window v).total = BitVec.ofNat 32 l.length
       ∧ (t.window v).buffer.take (2 * l.length) = (l.map u16).flatten ∧ l.length ≤ n / 2 ∧ l.Pairwise (fun a b => a < b)
       ∧ (∀ i ∈ l, r.index.toNat ≤ i ∧ (at' 2).indexVisible v i = true)
       ∧ (∀ i, r.index.toNat ≤ i → (at' 2).indexVisible v i = true → i ∈ l ∨ (l.length = n / 2 ∧ ∀ j ∈ l, j < i))
       ∧ { t with cat := s.cat } = s))
  ∧
  (∀ (s : State) (r : CatReq), s.boot.ready = true → s.cat.priv.busy = false → s.rootHalted = false → r.chkgen = false →
     r.last = true →
     let w := s.cat.priv
     (r.index = 0x6000 → r.sub = 4 → 0 < r.length.toNat → r.length.toNat ≤ 1024 → w.aux = 0 →
       ∃ t, exec (.catRead .priv r) s = .next t ∧ t.cat.priv.done = true ∧ t.cat.priv.busy = false ∧ t.cat.priv.abort = 0
         ∧ t.cat.priv.type = 2 ∧ t.cat.priv.total = 1 ∧ t.cat.priv.doneEvents = w.doneEvents + 1
         ∧ t.cat.priv.buffer.head? = some (BitVec.ofNat 8 s.fuses.tjCrit) ∧ t.set = s.set ∧ t.mem = s.mem)
     ∧ (∀ v rest, r.index = 0x6000 → r.sub = 2 → r.length = 1 → w.aux = 0 → w.buffer = v :: rest →
       ∃ t, exec (.catWrite .priv r) s = .next t ∧ t.cat.priv.done = true ∧ t.mem = s.mem ∧ t.ctxs = s.ctxs
         ∧ (v = 70 ∨ v = 80 ∨ v = 90 ∨ v = 100 → t.cat.priv.abort = 0 ∧ t.set = { s.set with ceilingDerate := v.toNat })
         ∧ (v ≠ 70 ∧ v ≠ 80 ∧ v ≠ 90 ∧ v ≠ 100 → t.cat.priv.abort = 0x0C000006 ∧ t.set = s.set)))
  ∧
  (∀ (s : State) (r : CatReq) (c : Nat), s.rootHalted = false → s.boot.ready = true → s.ctx c = none →
     (s.window (.ctx c)).busy = false → ∀ i, i = .catRead (.ctx c) r ∨ i = .catWrite (.ctx c) r ∨ i = .catList (.ctx c) r →
       ∃ t, exec i s = .next t ∧ (t.window (.ctx c)).abort = 0x0C000001 ∧ (t.window (.ctx c)).done = true
         ∧ { t with cat := s.cat } = s)

/-- R54: before 0x1000.05 reads 1, the host windows answer every request but a read of 0x1000.05 with 0x0C00_000D, and no CAP
frame is answered. -/
def Obligations.BeforeReady : Prop :=
  ∀ (s : State) (v : View) (r : CatReq) (f : CapFrame), s.boot.ready = false →
    ((s.window v).busy = false → (∀ i, i = .catWrite v r ∨ i = .catList v r ∨
        (i = .catRead v r ∧ ¬ (r.index = 0x1000 ∧ r.sub = 5)) → ∃ t, exec i s = .next t ∧ (t.window v).abort = 0x0C00000D
        ∧ (t.window v).done = true ∧ { t with cat := s.cat } = s))
    ∧ (s.cat.priv.busy = false → r.index = 0x1000 → r.sub = 5 → r.length = 1 → r.chkgen = false → s.cat.priv.aux = 0 → ∃ t,
      exec (.catRead .priv r) s = .next t ∧ t.cat.priv.abort = 0 ∧ t.cat.priv.done = true ∧ t.cat.priv.total = 1
        ∧ t.cat.priv.buffer.head? = some 0)
    ∧ (∀ i op, i = .capOpen f ∨ i = .capClose f ∨ i = .capKeepalive f ∨ i = .capRead f ∨ i = .capWrite f ∨ i = .capList f
        ∨ i = .capUnknownOperation op f → exec i s = .next s)

/-- R43, R54, R489: a row that writes one entry of the Catalogue is answered 0x0C00_000D before READY and does nothing else;
while the root's hart is halted it waits behind every request that came before it. R21, R73, R456: the rows of single entries.
DEVICE_ID takes 0 to 0x3FFF while no exchange port is enabled; KEY_WRITE fills a slot; a write of 1 closes a session. R63: the
management stack answers echo requests, and neighbour solicitations for its own addresses; a fragment is discarded and counted.
Before READY it answers nothing (the model's reading, log 35). -/
def Obligations.EntriesAndManagement : Prop :=
  (∀ (s : State) (i : Instr), writesEntry i = true →
     (s.boot.ready = false → exec i s = .next { s with cat := { s.cat with answer := 0x0C00000D } })
     ∧ (s.boot.ready = true → s.rootHalted = true → exec i s = .next { s with cat := { s.cat with waiting := s.cat.waiting ++ [.row i] } }))
  ∧
  (∀ (s : State), s.boot.ready = true → s.rootHalted = false →
     (∀ v : BitVec 16, v.toNat ≤ 0x3FFF → s.portEnabled = false →
       exec (.deviceIdWrite v) s = .next { s with
         set := { s.set with deviceId := v.toNat }
         cat := { s.cat with answer := 0 } })
     ∧ (∀ v : BitVec 16, 0x3FFF < v.toNat → exec (.deviceIdWrite v) s = .next { s with
         cat := { s.cat with answer := 0x0C000006 } })
     ∧ (∀ v : BitVec 16, v.toNat ≤ 0x3FFF → s.portEnabled = true → exec (.deviceIdWrite v) s = .next { s with
         cat := { s.cat with answer := 0x0C000007 } })
     ∧ (∀ (slot : Nat) (key : List Byte), slot < 8 → key.length = 32 → ∃ t,
       exec (.keyWrite slot ([0xFF, 0xFF, 0xFF, 0xFF] ++ key)) s = .next t ∧ t.cat.answer = 0
         ∧ Map.look t.cat.keys slot = some ⟨0xFFFFFFFF, key⟩
         ∧ (∀ k, k ≠ slot → Map.look t.cat.keys k = Map.look s.cat.keys k) ∧ t.mem = s.mem ∧ t.set = s.set)
     ∧ (∀ slot x, s.cat.sessions = [(slot, x)] → exec (.sessionCloseWrite slot 1) s = .next { s with
         cat := { s.cat with sessions := [], answer := 0 } }))
  ∧
  (∀ (s : State) (src dst : List Byte),
     (s.boot.ready = false → ∀ f, exec (.mgmtIcmpv6 f) s = .next s) ∧ (s.boot.ready = true →
     exec (.mgmtIcmpv6 (.echoRequest src dst)) s = .next { s with outputs := s.outputs ++ [.echoReply src dst] }
     ∧ (s.ownAddress dst = true → exec (.mgmtIcmpv6 (.neighbourSolicitation src dst)) s =
         .next { s with outputs := s.outputs ++ [.neighbourAdvert src dst] })
     ∧ (s.ownAddress dst = false → exec (.mgmtIcmpv6 (.neighbourSolicitation src dst)) s = .next s)
     ∧ exec (.mgmtIcmpv6 .fragment) s = .next { s with cat := { s.cat with discarded := s.cat.discarded + 1 } }))

/-- R66, R68: an OPEN that verifies under a privileged key takes a free session slot and is answered with status 0; a session
that has made no authenticated request, or none within IDLE_TIMEOUT, is freed. R67: a frame of a session whose tag does not
verify is discarded and counted, and changes nothing else. -/
def Obligations.CapSessionsAndTags : Prop :=
  ((∀ (s : State) (f : CapFrame) (key : List Byte), s.boot.ready = true → s.cat.capEnable = true → s.rootHalted = false →
     s.boot.entropyOk = true → f.dstPort = s.cat.udpPort → capMalformed f 0x01 = false → f.session = 0 →
     Map.look s.cat.keys f.keyId.toNat = some ⟨0xFFFFFFFF, key⟩ → hmacSha256 key (capSigned f 0x01) = f.tag →
     f.payload.length = 20 → s.cat.sessions = [] → ∃ t x nonce tag, exec (.capOpen f) s = .next t
       ∧ t.cat.sessions = [(0, x)] ∧ x.keyId = f.keyId.toNat ∧ x.view = .priv ∧ x.last = 0 ∧ x.authenticated = false
       ∧ x.peer = f.srcAddr ∧ t.cat.usedIds = s.cat.usedIds ++ [x.id]
       ∧ t.outputs = s.outputs ++ [.capResponse f.dstPort f.srcAddr f.srcPort 0x81 x.id f.seq f.keyId 0
           (nonce ++ [0xFF, 0xFF, 0xFF, 0xFF]) tag]
       ∧ nonce.length = 16)
   ∧ (∀ (s : State) (slot : Nat) (x : Session), s.cat.sessions = [(slot, x)] →
     exec (.capIdleTimeout slot) s = .next { s with cat := { s.cat with sessions := [] } }
     ∧ (x.authenticated = false → exec (.openFirstRequestTimeout slot) s = .next { s with cat := { s.cat with sessions := [] } })
     ∧ (x.authenticated = true → exec (.openFirstRequestTimeout slot) s = .next s)))
  ∧
  (∀ (s : State) (slot : Nat) (x : Session) (f : CapFrame), s.boot.ready = true → s.cat.capEnable = true →
     s.rootHalted = false → f.dstPort = s.cat.udpPort → s.cat.sessions = [(slot, x)] → f.session = x.id → f.keyId = 0 →
     ∀ (i : Instr) (op : Nat), (i = .capClose f ∧ op = 0x02) ∨ (i = .capKeepalive f ∧ op = 0x03) ∨ (i = .capRead f ∧ op = 0x10)
       ∨ (i = .capWrite f ∧ op = 0x11) ∨ (i = .capList f ∧ op = 0x12) →
       capMalformed f op = false → hmacSha256 x.key (capSigned f op) ≠ f.tag →
       exec i s = .next { s with cat := { s.cat with authFailures := s.cat.authFailures + 1 } })

/-- R65, R69, R71: the next request of a session that verifies is run and answered: KEEPALIVE and CLOSE with status 0, READ of
TJ_CRIT with the fused byte, WRITE of CEILING_DERATE 80 with its effect, LIST, and an operation that R65 does not list with
0x0C00_000E. All but CLOSE keep the session, whose last sequence number becomes the request's. -/
def Obligations.CapRequests : Prop :=
  ∀ (s : State) (slot : Nat) (x : Session) (f : CapFrame), s.boot.ready = true → s.cat.capEnable = true →
    s.rootHalted = false → f.dstPort = s.cat.udpPort → s.cat.sessions = [(slot, x)] → f.session = x.id → f.keyId = 0 →
    x.inExecution = false → x.ending = false → x.view = .priv → f.seq.toNat = x.last + 1 →
    let meets (op : Nat) : Prop := capMalformed f op = false ∧ hmacSha256 x.key (capSigned f op) = f.tag
    let answers (i : Instr) (op : Byte) (keeps : Bool) (status : Word) (payload : List Byte → Prop) (u : State → Prop) : Prop :=
      ∃ t p tag, exec i s = .next t
        ∧ t.outputs = s.outputs ++ [.capResponse f.dstPort f.srcAddr f.srcPort op x.id f.seq 0 status p tag] ∧ payload p ∧ u t
        ∧ (if keeps then ∃ y, t.cat.sessions = [(slot, y)] ∧ y.last = f.seq.toNat ∧ y.authenticated = true
            ∧ y.inExecution = false ∧ y.key = x.key
          else t.cat.sessions = [])
    (meets 0x03 → f.payload = [] → answers (.capKeepalive f) 0x83 true 0 (fun p => p = []) fun t => t.set = s.set)
    ∧ (meets 0x02 → f.payload = [] → answers (.capClose f) 0x82 false 0 (fun p => p = []) fun t => t.set = s.set)
    ∧ (meets 0x10 → f.payload = u16 0x6000 ++ [4, 0] ++ u32 0 ++ u32 0 ++ u16 1 ++ u16 0 →
        answers (.capRead f) 0x90 true 0 (fun p => p = [2, 0, 0, 0] ++ u32 1 ++ u32 0 ++ u16 1 ++ u16 0 ++ u8 s.fuses.tjCrit)
          fun t => t.set = s.set)
    ∧ (meets 0x11 → f.payload = u16 0x6000 ++ [2, 2] ++ u32 0 ++ u32 0 ++ u16 1 ++ u16 0 ++ [80] →
        answers (.capWrite f) 0x91 true 0 (fun p => p = [2, 0, 0, 0] ++ u32 1 ++ u32 0 ++ u32 0)
          fun t => t.set = { s.set with ceilingDerate := 80 })
    ∧ (meets 0x12 → f.payload = u16 0x1000 ++ u16 1 →
        answers (.capList f) 0x92 true 0 (fun p => p = u16 0x1001 ++ u16 1 ++ u16 0x1000) fun t => t.set = s.set)
    ∧ (∀ op : BitVec 7, ¬ (op = 1 ∨ op = 2 ∨ op = 3 ∨ op = 0x10 ∨ op = 0x11 ∨ op = 0x12) → meets op.toNat →
        answers (.capUnknownOperation op f) (BitVec.ofNat 8 (op.toNat + 128)) true 0x0C00000E (fun p => p = [])
          fun t => t.set = s.set)

/-! ### Contexts, RING_CONTROL and the host window -/

/-- R75, R76: a context is created with its entries, rings and regions at their defaults and a new generation, and nothing else
changes. It is destroyed with its rings, tables, regions, marks and sessions. A context that exists cannot be created, and one
that does not exist, or has an enabled ring, or is under reset, cannot be destroyed. R142, R527, R530: CONTEXT_RESET of a
context without commands stops its rings, and RESETTING names it until the reset is complete; its completion frees the context's
nodes. RECLAIM of a context without a node quota completes its one command that is not dispatched with OVER_QUOTA, and changes
nothing within the quotas. -/
def Obligations.Contexts : Prop :=
  (∀ (s : State) (c : BitVec 16), s.serves →
     (c.toNat < 1024 → s.ctx c.toNat = none → ∃ t, exec (.contextCreate c) s = .next t
       ∧ t.ctx c.toNat = some Context.reset ∧ (∀ k, k ≠ c.toNat → t.ctx k = s.ctx k)
       ∧ (∀ k < 8, t.ring (8 * c.toNat + k) = { Ring.reset with ctx := c.toNat })
       ∧ (∀ q, q < 8 * c.toNat ∨ 8 * c.toNat + 8 ≤ q → t.ring q = s.ring q)
       ∧ Map.look t.mem.regions c.toNat = none ∧ { t.mem with regions := s.mem.regions } = s.mem
       ∧ t.cat = { s.cat with answer := 0, ctxGen := Map.put s.cat.ctxGen c.toNat (Map.at s.cat.ctxGen 0 c.toNat + 1) }
       ∧ { t with ctxs := s.ctxs, rings := s.rings, mem := s.mem, cat := s.cat } = s)
     ∧ (c.toNat < 1024 → s.ctx c.toNat ≠ none → exec (.contextCreate c) s = .next (s.answers 0x0C000007))
     ∧ (c.toNat < 1024 → s.ctx c.toNat ≠ none → s.dv.resetting ≠ some c.toNat →
       (∀ r ∈ s.ringsOf c.toNat, (s.ring r).enabled = false) → ∃ t, exec (.contextDestroy c) s = .next t ∧ t.cat.answer = 0
       ∧ t.ctx c.toNat = none ∧ (∀ p ∈ t.rings, isHostRing p.1 = true → p.2.ctx ≠ c.toNat)
       ∧ (∀ p ∈ t.mem.tables, p.2.owner ≠ c.toNat) ∧ Map.look t.mem.regions c.toNat = none
       ∧ (∀ m ∈ t.ecl.marks, m.ctx ≠ c.toNat) ∧ (∀ p ∈ t.cat.sessions, p.2.view ≠ .ctx c.toNat))
     ∧ (c.toNat < 1024 → ((∃ r ∈ s.ringsOf c.toNat, (s.ring r).enabled = true) ∨ s.ctx c.toNat = none
       ∨ s.dv.resetting = some c.toNat) → exec (.contextDestroy c) s = .next (s.answers 0x0C000007)))
  ∧
  (∀ (s : State) (c : BitVec 16), s.serves →
     (c.toNat < 1024 → s.dv.resetting = none → s.fab.waiters = [] → s.exp.portions = [] → s.exp.routes = [] →
       s.nodesOfCtx c.toNat = [] → ∀ x, s.ctx c.toNat = some x → ∃ t, exec (.contextReset c) s = .next t ∧ t.cat.answer = 0
       ∧ t.dv.resetting = some c.toNat
       ∧ t.ctx c.toNat = some { x with resetCount := x.resetCount + 1, tallyBlocked := none, tallyHostError := false }
       ∧ (∀ p ∈ t.rings, p.2.ctx = c.toNat → p.2.enabled = false ∧ p.2.fault = none ∧ p.2.fetched = [])
       ∧ t.mem.dev = s.mem.dev)
     ∧ (s.dv.resetting.isSome = true →
       exec (.contextReset c) s = .next (s.answers (if c.toNat < 1024 then 0x0C000007 else 0x0C000006)))
     ∧ (∀ k, s.dv.resetting = some k → s.resetSettled k = true → s.compsHeld k 0 ++ s.compsHeld k 1 = [] → s.flt.unfences = [] →
       s.cat.waiting = [] → ∃ t, exec .contextResetComplete s = .next t ∧ t.dv.resetting = none
       ∧ t.dv.nodes = s.dv.nodes.filter (fun p => p.2.ctx ≠ k) ∧ t.flt.resetCores = []
       ∧ { t.mem with partials := s.mem.partials } = s.mem ∧ { t with dv := s.dv, flt := s.flt, mem := s.mem } = s)
     ∧ (∀ k, s.dv.resetting = some k → s.resetSettled k = false → s.cat.waiting = [] →
       exec .contextResetComplete s = .next s)
     ∧ (∀ x, s.ctx c.toNat = some x → s.nodesHeld c.toNat ≤ x.nodeQuota → s.edgesHeld c.toNat ≤ x.edgeQuota →
       (∀ h < 2, (s.compsHeld c.toNat h).length ≤ s.compMax c.toNat h) → exec (.reclaim c) s = .next (s.answers 0))
     ∧ (∀ x n d, s.ctx c.toNat = some x → s.dv.nodes = [(n, d)] → d.ctx = c.toNat → 1 ≤ d.state → d.state ≤ 3 →
       x.nodeQuota = 0 → ∃ t e, exec (.reclaim c) s = .next t ∧ t.cat.answer = 0 ∧ t.node n = some e ∧ e.state = 5
         ∧ e.status = stOverQuota ∧ e.cmd = d.cmd))

/-- R78, R80, R106, R346: ENABLE starts a ring at its next sequence number, DISABLE of a ring with nothing left to retire makes
it DISABLED and of another leaves it DRAINING. They leave every other ring as it was, and a ring in another state is refused. -/
def Obligations.RingEnableDisable : Prop :=
  ∀ (s : State) (r : Nat), s.serves →
    (r < 8192 → s.ctx (r / 8) ≠ none → s.dv.resetting ≠ some (r / 8) → (s.ring r).enabled = false →
      { s.ring r with ctx := r / 8 }.buffersOk = true → s.completionOk { s.ring r with ctx := r / 8 } = true →
      ((s.ring r).mode.getLsbD 1 = false ∨ s.steeredRings < 16) → ∃ t, exec (.ringEnable r) s = .next t ∧ t.cat.answer = 0
      ∧ (t.ring r).enabled = true ∧ (t.ring r).fetch = (s.ring r).nextSeq ∧ (t.ring r).tail = (s.ring r).nextSeq
      ∧ (t.ring r).completedThrough = (s.ring r).nextSeq - 1 ∧ (t.ring r).fault = none ∧ (t.ring r).draining = false
      ∧ (∀ q, q ≠ r → t.ring q = s.ring q) ∧ t.dv = s.dv ∧ t.mem.dev = s.mem.dev ∧ t.set = s.set)
    ∧ (r < 8192 → s.ctx (r / 8) ≠ none → (s.ring r).enabled = true → exec (.ringEnable r) s = .next (s.answers 0x0C000007))
    ∧ (∀ (i : Instr), (i = .ringDisable r ∨ ∃ h d, h < 2 ∧ d < 32 ∧ r = 8192 + 32 * h + d ∧ i = .deviceSideDisable h d) →
      (s.ringState r = 1 ∨ s.ringState r = 2 ∨ s.ringState r = 3 → (s.ring r).aborting = false → ∃ t, exec i s = .next t
        ∧ t.cat.answer = 0 ∧ (∀ q, q ≠ r → t.ring q = s.ring q) ∧ { t with rings := s.rings, cat := s.cat } = s
        ∧ (t.ring r).fetched = [] ∧ (t.ring r).held = none ∧ (t.ring r).fetch = (s.ring r).fetch
        ∧ ((s.ring r).skipping = none ∧ (s.ring r).completedThrough + 1 = (s.ring r).fetch ∧ (s.ring r).backlog = [] →
          (t.ring r).enabled = false ∧ (t.ring r).nextSeq = (s.ring r).fetch)
        ∧ (¬ ((s.ring r).skipping = none ∧ (s.ring r).completedThrough + 1 = (s.ring r).fetch ∧ (s.ring r).backlog = []) →
          (t.ring r).enabled = true ∧ (t.ring r).draining = true))
      ∧ (s.ringState r = 0 ∨ s.ringState r = 4 ∨ s.ringState r = 5 ∨ s.ringState r = 6 →
        exec i s = .next (s.answers 0x0C000007)))
    ∧ (∀ h d, h < 2 → d < 32 → r = 8192 + 32 * h + d → (s.ring r).enabled = false → s.ctx (s.ring r).ctx ≠ none →
      s.dv.resetting ≠ some (s.ring r).ctx → ((s.ring r).buffers.headD 0).toNat % 4096 = 0 →
      (s.ring r).complBase.toNat % 4096 = 0 →
      s.onPort ((s.ring r).buffers.headD 0).toNat (128 * 2 ^ (s.ring r).sizeLog2) = true →
      s.onPort (s.ring r).complBase.toNat (32 * 2 ^ (s.ring r).sizeLog2) = true → s.exp.portions = [] →
      ∃ t, exec (.deviceSideEnable h d) s = .next t ∧ t.cat.answer = 0
        ∧ t.ring r = { (s.ring r).start 1 with complSizeLog2 := (s.ring r).sizeLog2 }
        ∧ (∀ q, q ≠ r → t.ring q = s.ring q) ∧ t.dv = s.dv ∧ t.mem = s.mem)

/-- R83: a doorbell at or below the latched tail, or to a DISABLED ring, has no effect; one beyond completed-through + N + 1 is
refused and sets OVERRUN; any other is latched, in every other state of the ring, and nothing of it is fetched while the ring
drains. -/
def Obligations.Doorbells : Prop :=
  ∀ (s : State) (r : Nat) (tail : BitVec 64), r < 8192 →
    ((s.ring r).enabled = false ∨ tail.toNat ≤ (s.ring r).tail → exec (.doorbell r tail) s = .next s)
    ∧ ((s.ring r).enabled = true → (s.ring r).tail < tail.toNat →
      ((s.ring r).completedThrough + 2 ^ (s.ring r).sizeLog2 + 1 < tail.toNat → exec (.doorbell r tail) s =
        .next (s.updRing r fun g => { g with overrun := true, overrunEvents := g.overrunEvents + 1 }))
      ∧ (tail.toNat ≤ (s.ring r).completedThrough + 2 ^ (s.ring r).sizeLog2 + 1 → ∃ t, exec (.doorbell r tail) s = .next t
        ∧ t.ring r = { s.ring r with tail := tail.toNat } ∧ (∀ q, q ≠ r → t.ring q = s.ring q) ∧ t.dv = s.dv
        ∧ t.mem.dev = s.mem.dev ∧ t.ctxs = s.ctxs))
    ∧ ((s.ring r).draining = true → ∀ cmds b, exec (.commandFetch r cmds b) s = .next s)

/-- R86, R108, R531: RESUME_RETRY of a COPY that faulted with HANG runs it again; RESUME_SKIP and ABORT complete it with FAULTED
and the fault's cause; each ends the fault. After SEQ_GAP, RESUME_RETRY ends the fault with nothing accepted, and RESUME_SKIP
and ABORT accept the sequence number through a node that is DONE with SEQ_GAP. Each is refused for a ring that is not FAULTED,
and RESUME_RETRY after NODE_LOST or QUEUE_LOST. -/
def Obligations.FaultControls : Prop :=
  ∀ (s : State) (r n : Nat) (f : RingFault) (d : Node), r < 8192 → s.serves →
    ((s.ring r).faultedOn f n → s.alone r → s.dv.nodes = [(n, d)] → d.ring = r → d.state = 4 → d.cmd.opcode = opCopy →
      (f.cause = fcHang → ∃ t, exec (.resumeRetry r) s = .next t ∧ t.cat.answer = 0 ∧ (t.ring r).fault = none
        ∧ t.node n = some { d with result := none, signalState := 0, dispatchedAt := some s.now })
      ∧ (∀ i, i = .resumeSkip r ∨ i = .ringAbort r → ∃ t e, exec i s = .next t ∧ t.cat.answer = 0
        ∧ (t.ring r).fault = none ∧ (t.ring r).aborting = false ∧ t.node n = some e ∧ e.state = 5 ∧ e.status = stFaulted
        ∧ e.detail = f.cause ∧ e.cmd = d.cmd)
      ∧ (f.cause = fcNodeLost ∨ f.cause = fcQueueLost → exec (.resumeRetry r) s = .next (s.answers 0x0C000007)))
    ∧ ((s.ring r).enabled = true → (s.ring r).fault = some f → f.node = none → f.cause = fcSeqGap → (s.ring r).keptFaults = [] →
      (s.ring r).aborting = false → (s.ring r).fetched = [] → (s.ring r).skipping = none → s.alone r →
      (∃ t, exec (.resumeRetry r) s = .next t ∧ t.cat.answer = 0 ∧ (t.ring r).fault = none
        ∧ (t.ring r).fetch = (s.ring r).fetch ∧ (t.ring r).held = none)
      ∧ (∀ i, i = .resumeSkip r ∨ i = .ringAbort r → s.dv.nodes = [] → s.creditCause r [] = 0 → s.tallyMissing r 0 = none →
        (s.ring r).backlog.length < 256 → ∃ t m e, exec i s = .next t ∧ t.cat.answer = 0 ∧ (t.ring r).fault = none
        ∧ (t.ring r).skipping = none ∧ (t.ring r).fetch = (s.ring r).fetch + 1 ∧ t.node m = some e ∧ e.state = 5
        ∧ e.status = stSeqGap ∧ e.ring = r ∧ e.seq = (s.ring r).fetch))
    ∧ (∀ i, i = .resumeRetry r ∨ i = .resumeSkip r ∨ i = .ringAbort r → s.ringState r ≠ 4 →
      exec i s = .next (s.answers 0x0C000007))

/-- R13, R38, R81, R82, R164, R342, R441, R453, R488, R499: writes of the host window. The doorbell, IRQ_MASK and STEP_REPLY
registers of a ring in the page of its context act as their rows, CAT_REQ with GO as the row of its operation and FW_CONTROL
with LOAD as FW_LOAD; OVERRUN, the interrupt flags, STEP_STATUS and the block fault flags clear where 1 is written; FW_ADDR and
FW_LEN take the value without its reserved bits. A write that lies in no page, in a page whose context is absent, is not
aligned, or is not 8 bytes wide to a register, has no effect. -/
def Obligations.RegisterWrites : Prop :=
  ∀ (s : State) (c k o size : Nat) (w : BitVec 64) (v : BitVec 512), c < 1024 →
    let page := 0x100000 + 0x1000 * c
    let wr (x : Nat) : Host.Outcome State Fault Refusal := exec (.registerWrite (x / 0x1000) (x % 0x1000) 8 (w.setWidth 512)) s
    (s.ctx c ≠ none → k < 8 →
      wr (page + 0x40 * k) = exec (.doorbell (8 * c + k) w) s
      ∧ wr (page + 0x200 + 0x20 * k + 0x10) = exec (.irqMaskWrite (8 * c + k) w) s
      ∧ wr (page + 0x400 + 0x20 * k + 0x18) = exec (.stepReply (8 * c + k) w) s
      ∧ wr (page + 0x40 * k + 8) = .next (s.updRing (8 * c + k) fun g => { g with overrun := g.overrun && !w.getLsbD 47 })
      ∧ wr (page + 0x200 + 0x20 * k + 8) = .next (s.updRing (8 * c + k) fun g => { g with
          irqFault := g.irqFault && !w.getLsbD 63
          irqNotify := g.irqNotify && !w.getLsbD 62 })
      ∧ wr (page + 0x400 + 0x20 * k + 0x10) = .next (s.updRing (8 * c + k) fun g => { g with stepFlag := g.stepFlag && !w.getLsbD 63 }))
    ∧ (w.getLsbD 63 = true →
      let r := CatReq.ofWord w.toNat
      let go (x : Nat) (u : View) : Prop := (bits w.toNat 56 2 = 0 → wr x = exec (.catRead u r) s)
        ∧ (bits w.toNat 56 2 = 1 → wr x = exec (.catWrite u r) s) ∧ (bits w.toNat 56 2 = 2 → wr x = exec (.catList u r) s)
      go (page + 0xC00) (.ctx c) ∧ go 0xF000 .priv ∧ wr 0x210 = exec .fwLoad s)
    ∧ wr 0x100 = .next { s with flt := { s.flt with
        repair := s.flt.repair && !w.getLsbD 63
        fence := s.flt.fence && !w.getLsbD 62
        spare := s.flt.spare && !w.getLsbD 61
        degraded := s.flt.degraded && !w.getLsbD 60 } }
    ∧ wr 0x200 = .next { s with boot := { s.boot with fwAddr := BitVec.ofNat 64 (blockAddrOf w.toNat) } }
    ∧ wr 0x208 = .next { s with boot := { s.boot with fwLen := w } }
    ∧ ((0x10000 ≤ o ∧ o < 0x100000) ∨ 0x500000 ≤ o → exec (.registerWrite (o / 0x1000) (o % 0x1000) size v) s = .next s)
    ∧ (s.ctx c = none → o < 0xC00 → exec (.registerWrite ((page + o) / 0x1000) ((page + o) % 0x1000) size v) s = .next s)
    ∧ (size ≠ 8 ∨ o % 8 ≠ 0 → o < 0xC00 →
      exec (.registerWrite ((page + o) / 0x1000) ((page + o) % 0x1000) size v) s = .next s ∧ exec (.registerWrite (o / 0x1000) (o % 0x1000) size v) s = .next s)

/-! ### Acceptance -/

/-- R86, R88, R99, R100, R139: a NOP that is next in its ring and waits for nothing is accepted into a node, which is READY: as
its fetch block arrives, as its overflow chain is read, or as a stall for credits ends. One with another sequence number faults
its ring with SEQ_GAP, a block of device memory that could not be read with COMMAND_READ, and a hold that REF_HOLD_LIMIT ends
faults it with REF_HOLD. -/
def Obligations.Acceptance : Prop :=
  ∀ (s : State) (r : Nat) (c : Cmd), r < 8192 → s.mayAccept r = true → (s.ring r).skipping = none → s.alone r →
    (s.ring r).fetched = [] → (s.ring r).reread = false →
    ((s.ring r).held = none → (s.ring r).fetch < (s.ring r).tail → isHostAddr ((s.ring r).slotAddr (s.ring r).fetch) = true →
      s.slotsTranslated r (s.ring r).fetch 1 = none →
      (s.plainNext r c → c.overflow = 0 → s.creditCause r [] = 0 → s.tallyMissing r 0 = none → ∃ t,
        exec (.commandFetch r [c] false) s = .next t ∧ s.accepts t r c)
      ∧ (c.seq.toNat ≠ (s.ring r).fetch → ∃ t f, exec (.commandFetch r [c] false) s = .next t
        ∧ (t.ring r).fault = some f ∧ f.cause = fcSeqGap ∧ (t.ring r).fetch = (s.ring r).fetch))
    ∧ ((s.ring r).held = none → (s.ring r).fetch < (s.ring r).tail → isHostAddr ((s.ring r).slotAddr (s.ring r).fetch) = false →
      devOf ((s.ring r).slotAddr (s.ring r).fetch) / 2 ^ 36 < 12 → ∃ t f, exec (.commandFetch r [c] true) s = .next t
        ∧ (t.ring r).fault = some f ∧ f.cause = fcCommandRead ∧ (t.ring r).fetch = (s.ring r).fetch)
    ∧ (∀ since b l, (s.ring r).held = some ⟨c, 3, since, none⟩ → s.plainNext r c →
      readChain s (s.ring r).ctx r 16 c.overflow.toNat b [] = .refs l → (l.all fun w => s.refOk r c.seq.toNat w) = true →
      s.predNodes r c l = some [] → s.creditCause r [] = 0 → s.tallyMissing r 0 = none → ∃ t,
        exec (.overflowChainRead r b false) s = .next t ∧ s.accepts t r c)
    ∧ (∀ since l, (s.ring r).held = some ⟨c, 3, since, some l⟩ → (s.ring r).stall = slRefWait → s.predNodes r c l = none →
      s.timersHeld (s.homeHalf r) = false → ∃ t f, exec (.refHoldTimeout r) s = .next t ∧ (t.ring r).fault = some f
        ∧ f.cause = fcRefHold ∧ f.cmd = some c ∧ (t.ring r).fetch = (s.ring r).fetch)
    ∧ (∀ since h, (s.ring r).held = some ⟨c, 5, since, some []⟩ → s.rings = [(r, s.ring r)] → s.homeHalf r = h → s.plainNext r c →
      c.overflow = 0 → s.creditCause r [] = 0 → s.tallyMissing r 0 = none → ∃ t,
        exec (.ringStallResume h) s = .next t ∧ s.accepts t r c)

/-- R102, R120: a node whose predecessors are satisfied reads its shape words. With values in range its command holds them and
it is READY, or DELAYED until its RELEASE; with a value out of range it ends in STATE_REJECT, and with a failed read in
UNCORRECTABLE. R119, R126: a delayed node whose RELEASE is at or before the tick boundary becomes READY, and no other is
released; a notification satisfies one unit of its successor, which is READY when that was its last, or fails it with
PRED_FAILED. -/
def Obligations.ReadyTimes : Prop :=
  (∀ (s : State) (n : Nat) (d : Node), s.dv.nodes = [(n, d)] → d.state = 1 → d.accepted = true → d.pendingUnits = 0 →
     d.cmd.indirect ≠ 0 →
     let c := s.substitute d.ctx d.cmd
     (variableOk c = true → ∃ t e, exec (.shapeSubstitution n false) s = .next t ∧ t.node n = some e ∧ e.cmd = c
       ∧ e.state = (if s.tickNow < c.release.toNat then 2 else 3))
     ∧ (variableOk c = false → ∃ t e, exec (.shapeSubstitution n false) s = .next t ∧ t.node n = some e ∧ e.state = 5
       ∧ e.status = stStateReject)
     ∧ (∃ t e, exec (.shapeSubstitution n true) s = .next t ∧ t.node n = some e ∧ e.state = 5 ∧ e.status = stUncorrectable))
  ∧
  ((∀ s : State, ∃ t, exec .tick s = .next t ∧ (∀ n d, s.node n = some d → d.state = 2 → d.cmd.release.toNat ≤ s.tickNow →
       ∃ e, t.node n = some e ∧ e.state = 3 ∧ e.cmd = d.cmd ∧ e.delayList = none)
     ∧ ((∀ p ∈ s.dv.nodes, p.2.state ≠ 2 ∨ s.tickNow < p.2.cmd.release.toNat) → t = s))
   ∧ (∀ (s : State) (h st : Nat) (e : Edge) (rest : List (Edge × Nat)) (d : Node), h < 2 →
     (if h = 0 then s.dv.sched0 else s.dv.sched1) = (e, st) :: rest → s.node e.node = some d → d.state = 1 →
     d.acceptOrder = e.order → (∀ p ∈ s.dv.nodes, p.1 = e.node → p.2 = d) → ∃ t, exec (.schedNotification h) s = .next t
       ∧ (st = stOk → 2 ≤ d.units → s.dv.walks = [] → (∀ p ∈ s.dv.nodes, p.2.barrier = false ∧ p.2.fenceOn = []) →
         (if h = 0 then t.dv.sched0 else t.dv.sched1) = rest ∧ t.node e.node = some { d with units := d.units - 1 })
       ∧ (st = stOk → d.units = 1 → d.barrier = false → d.fenceOn = [] → d.accepted = true → d.cmd.indirect = 0 →
         d.cmd.release.toNat ≤ s.tickNow → ∃ x, t.node e.node = some x ∧ x.units = 0 ∧ x.state = 3 ∧ x.cmd = d.cmd)
       ∧ (st ≠ stOk → d.isFence = false → ∃ x, t.node e.node = some x ∧ x.state = 5 ∧ x.status = stPredFailed))
   ∧ (∀ (s : State) (h : Nat), (if h = 0 then s.dv.sched0 else s.dv.sched1) = [] → exec (.schedNotification h) s = .next s))

/-! ### Dvorsor -/

/-- R103, R122, R129, R131, R489: a sector selects its one READY node that may be selected: what the block's state refuses ends
in STATE_REJECT, a LAUNCH of no items completes OK, and any other command is dispatched by the sector. A node that may not be
selected stays, and so does every node while the half is drained. -/
def Obligations.Selection : Prop :=
  ∀ (s : State) (k n : Nat) (d : Node), k < 8 → s.dv.nodes = [(n, d)] → d.state = 3 →
    (s.timersHeld (halfOfSector k) = true ∨ s.selectable k n d = false → exec (.sectorSelect k) s = .next s)
    ∧ (s.timersHeld (halfOfSector k) = false → s.selectable k n d = true → ∃ t e, exec (.sectorSelect k) s = .next t
      ∧ t.node n = some e ∧ e.cmd = d.cmd ∧ e.sector = some k
      ∧ (s.rejects n d = true → e.state = 5 ∧ e.status = stStateReject)
      ∧ (s.rejects n d = false → d.isLaunch = true → d.grid = 0 → e.state = 5 ∧ e.status = stOk)
      ∧ (s.rejects n d = false → d.isLaunch = false ∨ d.grid ≠ 0 → e.state = 4 ∧ e.dispatchedAt = some s.now
        ∧ e.landing = d.isLaunch))

/-- R133–R135, R420: the sector serves its first waiting request that a task of its open set may serve: a task without a
requeued item for the core grants the next items of its grid, at most the number asked for, and one that has such an item grants
it alone; the core is probed. With none to serve, only the open sets are filled. R191–R193: the steps of a grant at its core.
With the kernel resident and the task unchanged the grant starts at once; a new task reads its parameters first, and a kernel
that is not resident is loaded. A kernel table entry that breaks R191 ends the grant with KERNEL, and a parameter read that
fails with DATA. -/
def Obligations.GrantsOfWork : Prop :=
  (∀ (s : State) (k : Nat), k < 8 →
     let s1 := s.rejoin (halfOfSector k)
     (s1.served k = none → exec (.grantIssue k) s = .next s1)
     ∧ (∀ w n d, s1.served k = some (w, n, d) → s1.node n = some d → ∃ t e, exec (.grantIssue k) s = .next t
       ∧ t.node n = some e ∧ w.core ∈ e.workers ∧ (t.sector k).waiting = (s1.sector k).waiting.erase w
       ∧ (t.core w.core).probing = true
       ∧ (d.requeue.find? (ReqItem.for · w.core) = none →
         (t.core w.core).grant = some ⟨n, d.cmd.kernelId.toNat, d.nextItem, min w.count (d.grid - d.nextItem), false, false, 0⟩
         ∧ e.nextItem = d.nextItem + min w.count (d.grid - d.nextItem)
         ∧ e.outstanding = d.outstanding + min w.count (d.grid - d.nextItem) ∧ e.requeue = d.requeue)
       ∧ (∀ x, d.requeue.find? (ReqItem.for · w.core) = some x →
         (t.core w.core).grant = some ⟨n, d.cmd.kernelId.toNat, x.item, 1, x.alt, x.reissue, 0⟩
         ∧ e.nextItem = d.nextItem ∧ e.outstanding = d.outstanding + 1 ∧ e.requeue = d.requeue.erase x)))
  ∧
  (∀ (s : State) (c : Nat) (g : Grant) (d : Node), (s.core c).grant = some g → s.node g.node = some d →
     let starts (t : State) : Prop := (t.core c).front = .decoding ∧ (t.core c).grant = some { g with firstInstr := (s.core c).nextId }
       ∧ (t.core c).s 1 = BitVec.ofNat 32 g.first ∧ (t.core c).s 2 = BitVec.ofNat 32 g.count
       ∧ (t.core c).s 3 = BitVec.ofNat 32 (b2n g.alt + 2 * b2n g.reissue)
       ∧ (t.core c).s 4 = BitVec.ofNat 32 (g.node % 131072 + 131072 * halfOfNode g.node)
     ((s.core c).front = .waitingGrant →
       (∀ kn, (s.core c).kernel = some kn → kn.ctx = d.ctx → kn.id = g.kernelId → (s.core c).prevNode = some g.node →
         ∃ t, exec (.grantWord c) s = .next t ∧ starts t
           ∧ (t.core c).pc = (if (s.core c).dispatchLoop then kn.entry else (s.core c).resume) ∧ t.mem = s.mem ∧ t.dv = s.dv)
       ∧ (∀ kn, (s.core c).kernel = some kn → kn.ctx = d.ctx → kn.id = g.kernelId → (s.core c).prevNode ≠ some g.node →
         ∃ t, exec (.grantWord c) s = .next t ∧ (t.core c).front = .paramRead ∧ t.mem = s.mem ∧ t.dv = s.dv)
       ∧ ((s.core c).kernel = none ∨ (∃ kn, (s.core c).kernel = some kn ∧ (kn.ctx ≠ d.ctx ∨ kn.id ≠ g.kernelId)) →
         ∃ t, exec (.grantWord c) s = .next t ∧ (t.core c).front = .kernelLoad
           ∧ (t.core c).pc = field (s.dev (s.kernelEntry d.ctx g.kernelId) 32) 10 2 ∧ t.mem = s.mem ∧ t.dv = s.dv))
     ∧ ((s.core c).front = .kernelLoad →
       let e := s.dev (s.kernelEntry d.ctx g.kernelId) 32
       (kernelBad e = true → ∃ t, exec (.kernelLoad c false) s = .next t ∧ t.stoppedAt c exKernel 0xFFFFFFFF
         ∧ (t.core c).kernel = none)
       ∧ (∀ u, u = true → ∃ t, exec (.kernelLoad c u) s = .next t ∧ t.stoppedAt c exData 0xFFFFFFFF ∧ (t.core c).kernel = none)
       ∧ (kernelBad e = false → ∃ t, exec (.kernelLoad c false) s = .next t
         ∧ (t.core c).imem = s.dev (field e 0 8) (field e 8 2) ∧ (t.core c).pc = field e 10 2
         ∧ (∃ kn, (t.core c).kernel = some kn ∧ kn.ctx = d.ctx ∧ kn.id = g.kernelId ∧ kn.imageLen = field e 8 2
           ∧ kn.entry = field e 10 2 ∧ kn.grantN = field e 12 1)
         ∧ ((s.core c).prevNode ≠ some g.node → (t.core c).front = .paramRead ∧ ∀ i : BitVec 5, (t.core c).s i = 0)
         ∧ ((s.core c).prevNode = some g.node → starts t) ∧ t.mem = s.mem ∧ t.dv = s.dv))
     ∧ ((s.core c).front = .paramRead →
       (∀ kn, (s.core c).kernel = some kn → Cells.wf (s.core c).dmem = true → ∃ t, exec (.parameterRead c false) s = .next t ∧ starts t
         ∧ Cells.bytes (t.core c).dmem 0x7F80 128 = s.dev (s.paramAddr g.node) 128 ∧ t.mem = s.mem ∧ t.dv = s.dv)
       ∧ (∃ t, exec (.parameterRead c true) s = .next t ∧ t.stoppedAt c exData 0xFFFFFFFF ∧ (t.core c).prevNode = none)))

/-- R144–R147, R410, R425: a quantum that has passed leaves 0, and the compartment yields when a candidate waits for which its
holder yields; a quiescent yielding compartment is cleared and goes to its best candidate or becomes FREE; a FREE one goes to
its best candidate, and is ordered to wake when it is in RETAIN. One whose cores are all fenced goes to none. -/
def Obligations.Compartments : Prop :=
  ∀ (s : State) (i : Nat),
    (∀ c, (s.comp i).holder = some c → s.timersHeld (halfOfComp i) = false → ∃ t, exec (.quantumExpiry i) s = .next t
      ∧ (t.comp i).quantum = 0 ∧ (t.comp i).holder = some c
      ∧ (t.comp i).yielding = ((s.comp i).yielding || s.noteCandidates.yieldsTo i c) ∧ t.cores = s.cores ∧ t.mem = s.mem)
    ∧ ((s.comp i).holder = none → exec (.quantumExpiry i) s = .next s)
    ∧ (∀ c, (s.comp i).holder = some c → (s.comp i).yielding = true → s.quiescent i = true →
      (s.compDead i = true ∨ s.noteCandidates.candidates i = [] → ∃ t, exec (.compartmentSwitch i) s = .next t
        ∧ (t.comp i).holder = none
        ∧ (t.comp i).yielding = false ∧ (∀ x, compOfCore x = i → t.core x = (s.core x).cleared)
        ∧ (∀ x, compOfCore x ≠ i → t.core x = s.core x) ∧ (∀ x, compOfStand x = i → (t.stand x).mem = []))
      ∧ (∀ b l, s.compDead i = false → s.noteCandidates.candidates i = b :: l → ∃ t, exec (.compartmentSwitch i) s = .next t
        ∧ (t.comp i).holder = some b ∧ (t.comp i).yielding = false ∧ (t.comp i).quantum = s.set.quantum
        ∧ (t.comp i).engaged = [] ∧ (∀ x, compOfCore x = i → t.core x = (s.core x).cleared)
        ∧ (∀ x, compOfStand x = i → (t.stand x).mem = [])))
    ∧ (i < 64 → (s.comp i).holder = none →
      (s.compDead i = true ∨ s.noteCandidates.candidates i = [] → exec (.compartmentAssign i) s = .next s.noteCandidates)
      ∧ (∀ b l, s.compDead i = false → s.noteCandidates.candidates i = b :: l → ∃ t, exec (.compartmentAssign i) s = .next t
        ∧ (t.comp i).holder = some b ∧ (t.comp i).yielding = false ∧ (t.comp i).quantum = s.set.quantum
        ∧ (t.comp i).assignedAt = s.now ∧ t.mem = s.mem ∧ t.cores = s.cores
        ∧ ((s.comp i).gating = 2 → (t.comp i).gating = 1 ∧ t.outputs = s.outputs ++ [.regulatorRequest i (s.stepVolts i 4)])
        ∧ ((s.comp i).gating ≠ 2 → (t.comp i).gating = (s.comp i).gating ∧ t.outputs = s.outputs)))

/-! ### Completion and executors -/

/-- R123, R158, R162–R168, R174: an executor's result completes its node; the record of the next command of a ring is written to
the completion ring and to the Tally, and its node is freed, or retained when it failed; notifications, IRQ_MASK and the read of
EPOCH_CONSUMED; TASK_LIMIT faults the ring with HANG. R174, R181, R182: while a context's Tally is blocked by a host port error
the block reads EPOCH_CONSUMED each time its timer passes; a read of it while the journal is full shows what the host has
consumed, and one that nothing waits for has no effect. -/
def Obligations.CompletionAndTally : Prop :=
  (∀ (s : State) (r n : Nat) (d : Node), r < 8192 →
     (s.node n = some d → d.ring = r → d.state = 4 → d.isLaunch = false → s.isFaulting n d = false → ∀ st, d.result = some st → ∃ t e,
       exec (.executorFinish n) s = .next t ∧ t.node n = some e ∧ e.state = 5
         ∧ e.status = (if st = stOk ∧ d.writeLost = true then stUncorrectable else st) ∧ e.detail = d.detail ∧ e.endTime = s.now)
     ∧ (s.dv.nodes = [(n, d)] → d.ring = r → d.state = 5 → (s.ring r).enabled = true → (s.ring r).draining = false →
       (s.ring r).handedThrough = (s.ring r).completedThrough → d.seq = (s.ring r).completedThrough + 1 →
       s.isFaulting n d = false → s.ringBlocked r = false → (s.ring r).complSignal = 0 → (s.ring r).fetch ≤ d.seq + 2 ^ (s.ring r).sizeLog2 →
       s.translated (s.ring r).ctx ((s.ring r).recordAddr d.seq) 32 true 4 r = none → s.tallyMissing r 8 = none →
       ∃ t, exec (.recordRetire r) s = .next t ∧ (t.ring r).completedThrough = d.seq ∧ (t.ring r).handedThrough = d.seq
         ∧ Output.hostWrite (s.pasid (s.ring r).ctx) (BitVec.ofNat 64 ((s.ring r).recordAddr d.seq)) (recordOf d).bytes ∈ t.outputs
         ∧ t.node n = if d.status = stOk then none else some { d with state := 6 })
     ∧ ((s.ring r).pendingNotes = 0 → exec (.maxDelayExpiry r) s = .next s)
     ∧ ((s.ring r).pendingNotes ≠ 0 → ∃ t, exec (.maxDelayExpiry r) s = .next t
       ∧ t.ring r = { s.ring r with irqNotify := true, notifyEvents := (s.ring r).notifyEvents + 1, pendingNotes := 0 }
       ∧ t.outputs = s.outputs ++ (if (s.ring r).maskNotify ∨ bits (s.ring r).vectors.toNat 0 16 = 0xFFFF then []
           else [Output.msix (bits (s.ring r).vectors.toNat 0 16)]))
     ∧ (∀ v : BitVec 64, ∃ t, exec (.irqMaskWrite r v) s = .next t
       ∧ t.ring r = { s.ring r with maskFault := v.getLsbD 1, maskNotify := v.getLsbD 0 } ∧ (∀ q, q ≠ r → t.ring q = s.ring q)
       ∧ t.outputs = s.outputs
         ++ (if v.getLsbD 1 = false ∧ (s.ring r).irqFault = true ∧ bits (s.ring r).vectors.toNat 16 16 ≠ 0xFFFF then
             [Output.msix (bits (s.ring r).vectors.toNat 16 16)] else [])
         ++ (if v.getLsbD 0 = false ∧ (s.ring r).irqNotify = true ∧ bits (s.ring r).vectors.toNat 0 16 ≠ 0xFFFF then
             [Output.msix (bits (s.ring r).vectors.toNat 0 16)] else []))
     ∧ (s.node n = some d → d.ring = r → d.state = 4 → d.result = none → s.set.taskLimit ≠ 0 →
       s.timersHeld (halfOfNode n) = false → (s.ring r).enabled = true → (s.ring r).fault = none → (s.ring r).keptFaults = [] →
       (s.ring r).aborting = false → ∃ t f, exec (.taskLimitExpiry n) s = .next t ∧ (t.ring r).fault = some f
         ∧ f.cause = fcHang ∧ f.node = some n ∧ f.seq = d.seq ∧ (t.ring r).irqFault = true)
     ∧ (s.set.taskLimit = 0 → exec (.taskLimitExpiry n) s = .next s))
  ∧
  (∀ (s : State) (c : Nat) (x : Context), s.ctx c = some x →
     (∀ a, x.tallyBlocked = some a → x.tallyHostError = true → (∀ r ∈ s.ringsOf c, (s.ring r).blocked = false) →
       exec (.completionRetryTimer c) s = .next { s with
         outputs := s.outputs ++ [.hostRead (s.pasid c) (BitVec.ofNat 64 (s.tallyAddr c 0x10)) 8] })
     ∧ (x.tallyBlocked = none → (∀ r ∈ s.ringsOf c, (s.ring r).blocked = false) → exec (.completionRetryTimer c) s = .next s)
     ∧ (∀ w : BitVec 64, x.tallyBlocked = none → x.tallyHostError = false → x.epochConsumed + 512 ≤ x.epochNext →
       s.translated c (s.tallyAddr c 0x10) 8 false 2 c = none → ∃ t, exec (.epochConsumedPoll c (some w)) s = .next t
       ∧ t.ctx c = some { x with epochConsumed := w.toNat } ∧ (∀ k, k ≠ c → t.ctx k = s.ctx k) ∧ t.rings = s.rings
       ∧ t.mem = s.mem)
     ∧ (∀ v, x.tallyBlocked = none → x.tallyHostError = false → x.epochNext < x.epochConsumed + 512 →
       exec (.epochConsumedPoll c v) s = .next s))

/-- R95, R97, R132, R477: NOP, FENCE and MARK end OK at their executor; a dispatched LAUNCH with items left holds a landing and
stays dispatched. R266, R285, R287: a COPY of raw bytes within device memory writes them whole, ends OK, and leaves the rest of
device memory; one whose range fails the region check faults its ring with TRANSLATION. -/
def Obligations.ExecutorsAndCopies : Prop :=
  (∀ (s : State) (n : Nat) (d : Node), s.node n = some d → d.state = 4 → d.result = none → s.isFaulting n d = false →
     d.stopped = false →
     (d.cmd.opcode = opNop → ∃ t, exec (.nopCommand n) s = .next t ∧ t.node n = some { d with result := some 0 })
     ∧ (d.cmd.opcode = opFence → d.pendingUnits = 0 → ∃ t, exec (.fenceCommand n) s = .next t
       ∧ t.node n = some { d with result := some 0 } ∧ t.mem = s.mem ∧ t.rings = s.rings)
     ∧ (d.cmd.opcode = opFence → d.pendingUnits ≠ 0 → exec (.fenceCommand n) s = .next s)
     ∧ (d.cmd.opcode = opMark → ∃ t, exec (.markCommand n) s = .next t ∧ t.node n = some { d with result := some 0 }
       ∧ t.rings = s.rings ∧ t.cores = s.cores)
     ∧ (d.cmd.opcode = opLaunch → d.hasItems = true → ∃ t, exec (.launchCommand n) s = .next t
       ∧ t.node n = some { d with landing := true } ∧ t.rings = s.rings ∧ t.cores = s.cores ∧ t.mem = s.mem))
  ∧
  (∀ (s : State) (n : Nat) (d : Node), s.node n = some d → d.state = 4 → d.result = none → s.isFaulting n d = false →
     d.stopped = false → d.uncorrectable = false → d.cmd.opcode = opCopy → s.moversLost (halfOfNode n) = false → d.cmd.wide 0 < 2 ^ 40 →
     d.cmd.wide 2 < 2 ^ 40 → inAperture (d.cmd.wide 0) = false → inAperture (d.cmd.wide 2) = false →
     bits (d.cmd.slot 6) 0 8 = 0 → bits (d.cmd.slot 6) 8 8 = 0 → Memory.wf s.mem = true →
     ((s.checkRanges d.ctx (deviceRanges (copyRanges d))).1 = 0 → ∃ t, exec (.copyCommand n [] false) s = .next t
       ∧ t.node n = some { d with result := some 0 }
       ∧ (∀ a, (a < d.cmd.wide 2 ∨ d.cmd.wide 2 + d.cmd.wide 4 ≤ a) → Cells.read t.mem.dev a = Cells.read s.mem.dev a)
       ∧ (∀ j < d.cmd.wide 4,
         Cells.read t.mem.dev (d.cmd.wide 2 + j) = Cells.read s.mem.dev (d.cmd.wide 0 + j)))
     ∧ ((s.checkRanges d.ctx (deviceRanges (copyRanges d))).1 = 2 → isHostRing d.ring = true → (s.ring d.ring).enabled = true →
       (s.ring d.ring).fault = none → ∃ t f, exec (.copyCommand n [] false) s = .next t ∧ (t.ring d.ring).fault = some f
       ∧ f.cause = fcTranslation ∧ f.node = some n))

/-! ### Tables, GATHER, UPDATE and EPOCH -/

/-- R296, R298, R299: an UPDATE of one row, its index in host memory and its data in device memory, writes it into the slot that
the current bitmap does not name and points the next bitmap at it, or counts an index past the table; an EPOCH raises the
table's epoch and drains it, or is rejected while the table is not OPEN; the end of a drain or of a restore copies the current
bitmap over the other one and opens the table. R291, R292, R302, R303: a GATHER of one bag of a table that is not cold writes
the pooled row of the bag at its place in the stand that OUT names, ends OK, and changes no other stand memory and no device
memory; a cold-tier fetch puts its row into a line of the table's cache. -/
def Obligations.Tables : Prop :=
  (∀ (s : State) (n id : Nat) (d : Node) (x : Table), s.table id = some x → Memory.wf s.mem = true →
     (s.node n = some d → d.state = 4 → d.result = none → s.isFaulting n d = false → d.stopped = false → d.uncorrectable = false →
       d.cmd.slot 0 = id →
       (d.cmd.opcode = opUpdate → x.state = 1 → s.earlierOn d opUpdate id = false → s.earlierOn d opEpoch id = false →
         s.moversLost (halfOfNode n) = false → (s.checkRanges d.ctx (deviceRanges (updateRanges d x))).1 = 0 →
         s.rangesTranslated d.ctx (s.hostRanges d.cmd) 5 n = none → d.cmd.slot 1 = 1 → isHostAddr (d.cmd.wide 2) = true →
         isHostAddr (d.cmd.wide 4) = false → inAperture (devOf (d.cmd.wide 4)) = false → ∀ r : Nat,
         let slot := 1 - s.rowSlot x x.epoch r
         let a := x.base + (2 * r + slot) * x.stride
         let b := x.bitmap (x.epoch + 1) + r / 8
         (x.rows ≤ r → ∃ t, exec (.updateCommand n [r] [] none) s = .next t ∧ t.node n = some { d with result := some 0 }
           ∧ t.table id = some { x with invalidIds := x.invalidIds + 1 } ∧ t.mem.dev = s.mem.dev)
         ∧ (r < x.rows → b < a ∨ a + x.stride ≤ b → ∃ t, exec (.updateCommand n [r] [] none) s = .next t
           ∧ t.node n = some { d with result := some 0 } ∧ t.table id = some x
           ∧ (∀ j < x.stride, Cells.read t.mem.dev (a + j) = Cells.read s.mem.dev (devOf (d.cmd.wide 4) + j))
           ∧ b2n (bit (Cells.read t.mem.dev b).toNat (r % 8)) = slot
           ∧ (∀ q, q ≠ b → (q < a ∨ a + x.stride ≤ q) → Cells.read t.mem.dev q = Cells.read s.mem.dev q)))
       ∧ (d.cmd.opcode = opEpoch → s.earlierOn d opUpdate id = false →
         (x.state ≠ 1 → ∃ t, exec (.epochCommand n) s = .next t ∧ t.node n = some { d with result := some stStateReject }
           ∧ t.table id = some x ∧ t.mem = s.mem ∧ t.outputs = s.outputs)
         ∧ (x.state = 1 → (s.context d.ctx).epochNext < (s.context d.ctx).epochConsumed + 512 →
           s.tallyOpen d.ctx (0x1000 + 32 * ((s.context d.ctx).epochNext % 512) + 8) 24 = none → s.tallyOpen d.ctx 8 8 = none →
           ∃ t, exec (.epochCommand n) s = .next t ∧ t.node n = some { d with result := some 0 }
           ∧ t.table id = some { x with epoch := (x.epoch + 1) % 2 ^ 32, state := 2 } ∧ t.mem.dev = s.mem.dev
           ∧ t.outputs = s.outputs ++
               [.hostWrite (s.pasid d.ctx) (BitVec.ofNat 64 (s.tallyAddr d.ctx (0x1000 + 32 * ((s.context d.ctx).epochNext % 512) + 8)))
                 (commitBytes d.seq id (ringNo d.ring % 8) 0 ((x.epoch + 1) % 2 ^ 32) s.now),
                .hostWrite (s.pasid d.ctx) (BitVec.ofNat 64 (s.tallyAddr d.ctx (0x1000 + 32 * ((s.context d.ctx).epochNext % 512))))
                 (u64 (s.context d.ctx).epochNext),
                .hostWrite (s.pasid d.ctx) (BitVec.ofNat 64 (s.tallyAddr d.ctx 8)) (u64 ((s.context d.ctx).epochNext + 1))])))
     ∧ (∀ i, (i = .epochDrainEnd id ∧ x.state = 2 ∧ (∀ g ∈ s.mem.gathers, g.table = id → g.epoch = x.epoch))
         ∨ (i = .tableRestoreDone id ∧ x.state = 3) → ∃ t, exec i s = .next t ∧ t.table id = some { x with state := 1 }
         ∧ Cells.bytes t.mem.dev (x.bitmap (x.epoch + 1)) (ceilDiv x.rows 8) = s.dev (x.bitmap x.epoch) (ceilDiv x.rows 8)
         ∧ (∀ q, (q < x.bitmap (x.epoch + 1) ∨ x.bitmap (x.epoch + 1) + ceilDiv x.rows 8 ≤ q) →
             Cells.read t.mem.dev q = Cells.read s.mem.dev q) ∧ t.dv = s.dv ∧ t.rings = s.rings)
     ∧ (x.state = 1 → exec (.epochDrainEnd id) s = .next s ∧ exec (.tableRestoreDone id) s = .next s))
  ∧
  (∀ (s : State) (n id : Nat) (d : Node) (x : Table), s.table id = some x →
     (s.node n = some d → d.state = 4 → d.result = none → s.isFaulting n d = false → d.stopped = false → d.uncorrectable = false →
       d.cmd.opcode = opGather → d.cmd.slot 0 = id → d.cmd.slot 1 = 1 → x.cold = false → s.mem.gathers = [] →
       s.gatherUnits (x.gatherPort (halfOfNode n)) ≠ [] → (s.checkRanges d.ctx [(devOf (d.cmd.wide 2), 16, false)]).1 = 0 →
       (s.checkRanges d.ctx (s.gatherRanges d)).1 = 0 → ∀ l k, s.bag d 0 = some (l, k) →
       Cells.wf (s.stand (outStand d.cmd)).mem = true →
       let g : Gather := ⟨n, id, x.epoch, x.gatherPort (halfOfNode n), [], []⟩
       let row := (pooledRow (bits (d.cmd.slot 5) 8 8) (s.poolBag d g x (s.bagRows d l k)).1).1
       let off := bits (d.cmd.slot 4) 0 19
       off + row.length ≤ 0x80000 → ∃ t, exec (.gatherCommand n false) s = .next t
         ∧ t.node n = some { d with result := some 0 } ∧ t.mem.gathers = [g]
         ∧ Cells.bytes (t.stand (outStand d.cmd)).mem off row.length = row
         ∧ (∀ q, (q < off ∨ off + row.length ≤ q) →
             Cells.read (t.stand (outStand d.cmd)).mem q = Cells.read (s.stand (outStand d.cmd)).mem q)
         ∧ (∀ y, y ≠ outStand d.cmd → (t.stand y).mem = (s.stand y).mem) ∧ t.mem.dev = s.mem.dev)
     ∧ (∀ r bytes, x.fills.contains r = true → s.mem.gathers = [] → Memory.wf s.mem = true → bytes.length = x.stride →
       x.victim r < x.cacheRows → ∃ t y,
       exec (.coldFill id r bytes) s = .next t ∧ t.table id = some y ∧ y.fills = x.fills.filter (fun q => q ≠ r)
         ∧ (⟨r, x.victim r, x.fillOrder⟩ : CacheLine) ∈ y.cache
         ∧ Cells.bytes t.mem.dev (x.base + x.victim r * x.stride) x.stride = bytes)
     ∧ (∀ r bytes, x.fills.contains r = false → exec (.coldFill id r bytes) s = .next s))

/-! ### Semaphores and host steps -/

/-- R348–R354, R363–R365, R421: in a cycle an operation that arrives is applied: SIGNAL adds, INIT sets, SEMRD answers the word,
TAKE and WAITGE are released when the value gives their amount and wait otherwise. One that is stale, or meets a fenced core,
changes no semaphore and is counted; a completion signal that is stale is dropped instead (R168). A corrected error of the word
is counted before its cycle (R421); a shared word with an uncorrectable one starts again as 0 (R427; the model's reading, log
14). R169, R175, R349, R359: SIGNAL and WAIT commands send their operation to a semaphore of this device, and a SIGNAL to
another device joins the order of its ring, and leaves at once on an open flow. -/
def Obligations.SemaphoreFabric : Prop :=
  (∀ (s : State) (id : SemId) (m : SemMsg), s.fab.msgs = [m] → m.sem = id → s.fab.waiters = [] → (∀ f, m.source ≠ .remote f) →
     (∀ c k, id = .core c k → s.standDrained (standOfCore c) = false) →
     (∀ row, exec (.semaphoreCycle ⟨id, .corrected row⟩ [m.source]) s
       = exec (.semaphoreCycle ⟨id, .clean⟩ [m.source]) (s.correctedRow (semRow id).1 (semRow id).2))
     ∧ (∀ i, id = .shared i → ∃ t, exec (.semaphoreCycle ⟨id, .uncorrectable⟩ []) s = .next t ∧ t.sem id = 0
       ∧ (∀ j, j ≠ id → t.sem j = s.sem j) ∧ t.fab.msgs = [m] ∧ t.mem = s.mem ∧ t.cores = s.cores)
     ∧ ∃ t, exec (.semaphoreCycle ⟨id, .clean⟩ [m.source]) s = .next t
     ∧ t.fab.msgs = [] ∧ (∀ j, j ≠ id → t.sem j = s.sem j)
     ∧ (s.arrival m = 0 →
       (∀ a, m.op = .signal a → t.sem id = (semAdd (s.sem id) a).1 ∧ t.fab.waiters = [])
       ∧ (∀ v mono, m.op = .init v mono → t.sem id = mkSem mono false false v ∧ t.fab.waiters = [])
       ∧ (∀ c, m.source = .core c → m.op = .read → t.sem id = s.sem id
         ∧ t.fab.releases = s.fab.releases ++ [⟨c, m.queue, m.instr, s.sem id, id, m.ctx, m.resetCount, 0⟩])
       ∧ (∀ c a, m.source = .core c → m.op = .take a →
         (semFits (s.sem id) a = false → t.sem id = s.sem id ∧ t.fab.releases = s.fab.releases
           ∧ t.fab.waiters = [⟨id, some c, m.queue, m.instr, m.node, m.ctx, m.resetCount, m.watchdog, a, true⟩])
         ∧ (semFits (s.sem id) a = true → semMono (s.sem id) = false →
           t.sem id = mkSem false (semOverflow (s.sem id)) (semUnderflow (s.sem id)) (semValue (s.sem id) - a)
           ∧ t.fab.waiters = []
           ∧ t.fab.releases = s.fab.releases ++ [⟨c, m.queue, m.instr, 0, id, m.ctx, m.resetCount, a⟩]))
       ∧ (∀ c a, m.source = .core c → m.op = .waitge a → t.sem id = s.sem id
         ∧ (semFits (s.sem id) a = false → t.fab.releases = s.fab.releases
           ∧ t.fab.waiters = [⟨id, some c, m.queue, m.instr, m.node, m.ctx, m.resetCount, m.watchdog, a, false⟩])
         ∧ (semFits (s.sem id) a = true → t.fab.waiters = []
           ∧ t.fab.releases = s.fab.releases ++ [⟨c, m.queue, m.instr, 0, id, m.ctx, m.resetCount, 0⟩])))
     ∧ (s.arrival m ≠ 0 → t.sem id = s.sem id)
     ∧ (m.kind ≠ 1 ∨ m.node = none → (s.arrival m = 1 → t.fab.stale = s.fab.stale + 1)
       ∧ (s.arrival m = 2 → t.fab.fencedOps = s.fab.fencedOps + 1))
     ∧ (∀ n d, m.kind = 1 → m.node = some n → s.node n = some d → s.arrival m ≠ 0 → t.fab.stale = s.fab.stale
       ∧ t.node n = some { d with signalState := 2, signalDropped := true }))
  ∧
  (∀ (s : State) (n : Nat) (d : Node), s.node n = some d → d.state = 4 → d.result = none → s.isFaulting n d = false →
     d.stopped = false → d.signalState = 0 →
     (∀ id, targetOf (d.cmd.wide 0) = some (id, none) →
       (d.cmd.opcode = opSignal → s.journals d.ctx id = false → ∃ t, exec (.signalCommand n) s = .next t
         ∧ t.node n = some { d with signalState := 2 }
         ∧ t.fab = { s.fab with msgs := s.fab.msgs ++
             [⟨id, .command d.ring, 0, 0, some n, 0, d.ctx, (s.context d.ctx).resetCount % 8, 0, .signal (d.cmd.slot 2)⟩] }
         ∧ t.ecl = s.ecl ∧ t.mem = s.mem)
       ∧ (d.cmd.opcode = opWait → ∃ t, exec (.waitCommand n) s = .next t ∧ t.node n = some { d with signalState := 1 }
         ∧ t.fab = { s.fab with msgs := s.fab.msgs ++
             [⟨id, .command d.ring, 0, 0, some n, 0, d.ctx, (s.context d.ctx).resetCount % 8, 0,
               if (d.cmd.slot 3).testBit 0 then .take (d.cmd.slot 2) else .waitge (d.cmd.slot 2)⟩] }
         ∧ t.ecl = s.ecl ∧ t.mem = s.mem))
     ∧ (∀ id dev, targetOf (d.cmd.wide 0) = some (id, some dev) → d.cmd.opcode = opSignal → s.ecl.signals = [] →
       let flow := s.openFlow (s.ring d.ring).ctx dev
       ∃ t, exec (.signalCommand n) s = .next t ∧ t.fab = s.fab
         ∧ t.ecl.signals = [⟨d.ring, 0, d.seq, n, dev, BitVec.ofNat 64 (d.cmd.wide 0), d.cmd.slot 2, flow.isSome,
             flow.map fun f => (s.flow f).peerCtx⟩]
         ∧ t.node n = some { d with signalState := if flow.isSome then 2 else 1 }))

/-- R351, R357–R360, R363, R373: a release writes RD and ends its wait, or gives its amount back when the wait was flushed,
unless it has become stale; the watchdog, of a wait that started under one, and the TIMEOUT of a WAIT release the waiter with
TIMEOUT and consume nothing, and a TAKE among them sets UNDERFLOW. R366, R367, R374: BIND binds an unbound shared semaphore at
value 0 to its owner and guests; UNBIND ends a binding that nothing waits on; either is refused, with nothing changed, for a
semaphore in the other state. -/
def Obligations.WaitsAndBindings : Prop :=
  (∀ (s : State) (c q n : Nat),
     (∀ r, s.fab.releases = [r] → r.core = c → r.queue = q →
       (∀ i, (s.core c).inflight = [i] → i.id = r.instr → i.started = true → (s.core c).front = .decoding → ∃ t,
         exec (.semaphoreRelease c q) s = .next t ∧ t.fab.releases = [] ∧ (t.core c).inflight = []
           ∧ (t.core c).s i.f.rd = (if i.f.rd = 0 then 0 else r.value) ∧ (t.core c).pc = (s.core c).pc ∧ t.fab.shared = s.fab.shared)
       ∧ ((s.core c).inflight = [] → s.fab.waiters = [] →
         (r.returns = 0 → exec (.semaphoreRelease c q) s = .next { s with fab := { s.fab with releases := [] } })
         ∧ (r.returns ≠ 0 →
           let m : SemMsg := ⟨r.sem, .core c, q, r.instr, none, 2, r.ctx, r.resetCount, 0, .signal r.returns⟩
           ∃ t, exec (.semaphoreRelease c q) s = .next t ∧ t.fab.releases = []
           ∧ (s.arrival m = 0 → t.sem r.sem = (semAdd (s.sem r.sem) r.returns).1 ∧ t.fab.returns = s.fab.returns + 1)
           ∧ (s.arrival m = 1 → t.sem r.sem = s.sem r.sem ∧ t.fab.stale = s.fab.stale + 1)
           ∧ (s.arrival m = 2 → t.sem r.sem = s.sem r.sem ∧ t.fab.fencedOps = s.fab.fencedOps + 1))))
     ∧ (∀ w, s.fab.waiters = [w] → w.core = some c → w.queue = q → w.watchdog ≠ 0 → s.timersHeld (halfOfCore c) = false →
       ∃ t, exec (.waitWatchdogFire c q) s = .next t ∧ t.fab.waiters = []
         ∧ t.fab.releases = s.fab.releases ++ [⟨c, q, w.instr, BitVec.ofNat 32 stTimeout, w.sem, w.ctx, w.resetCount, 0⟩]
         ∧ t.fab.watchdogFires = s.fab.watchdogFires + 1 ∧ semValue (t.sem w.sem) = semValue (s.sem w.sem)
         ∧ semUnderflow (t.sem w.sem) = (semUnderflow (s.sem w.sem) || w.take))
     ∧ ((∀ w ∈ s.fab.waiters, w.core = some c → w.queue = q → w.watchdog = 0) → exec (.waitWatchdogFire c q) s = .next s)
     ∧ (∀ w d, s.fab.waiters = [w] → w.core = none → w.node = some n → s.node n = some d →
       (d.cmd.slot 4 = 0 → exec (.waitTimeout n) s = .next s)
       ∧ (d.cmd.slot 4 ≠ 0 → s.timersHeld (halfOfNode n) = false → ∃ t, exec (.waitTimeout n) s = .next t ∧ t.fab.waiters = []
         ∧ t.node n = some { d with result := some stTimeout } ∧ semValue (t.sem w.sem) = semValue (s.sem w.sem))))
  ∧
  (∀ (s : State) (l : List Byte) (v : BitVec 16), s.serves →
     (l.length = 12 → field l 0 2 < 4096 → field l 2 2 < 1024 → field l 4 2 = 0 → field l 6 2 = 0 → field l 8 2 = 0 →
       field l 10 2 < 2 → s.ctx (field l 2 2) ≠ none →
       ((s.shared (field l 0 2)).bound = false → ∃ t, exec (.bind l) s = .next t ∧ t.cat.answer = 0
         ∧ t.shared (field l 0 2) = ⟨mkSem (field l 10 2 == 1) false false 0, true, BitVec.ofNat 16 (field l 2 2), [0, 0, 0]⟩
         ∧ (∀ k, k ≠ field l 0 2 → t.shared k = s.shared k) ∧ t.cores = s.cores ∧ t.mem = s.mem ∧ t.dv = s.dv)
       ∧ ((s.shared (field l 0 2)).bound = true →
         exec (.bind l) s = .next (s.answers 0x0C000007)))
     ∧ (l.length ≠ 12 → exec (.bind l) s = .next (s.answers 0x0C000005))
     ∧ (v.toNat < 4096 → (s.shared v.toNat).bound = true → s.fab.waiters = [] → s.dv.nodes = [] → ∃ t,
       exec (.unbind v) s = .next t ∧ t.cat.answer = 0 ∧ t.shared v.toNat = { s.shared v.toNat with bound := false }
         ∧ (∀ k, k ≠ v.toNat → t.shared k = s.shared k) ∧ t.cores = s.cores)
     ∧ (v.toNat < 4096 → (s.shared v.toNat).bound = false → exec (.unbind v) s = .next (s.answers 0x0C000007))
     ∧ (4096 ≤ v.toNat → exec (.unbind v) s = .next (s.answers 0x0C000006)))

/-- R370, R387–R390: a SIGNAL message that its flow delivers next is taken and applied to its semaphore once: one at or below
its mark is a duplicate and one that its context may not signal is refused, both counted and neither applied. The
acknowledgement of a SIGNAL command gives it its result. A message that its flow does not deliver next has no effect. -/
def Obligations.RemoteSignals : Prop :=
  ∀ (s : State) (f : Nat) (m : SignalMsg), (s.flow f).state = 2 → m.flags.toNat < 3 →
    (s.delivers f (signalBytes m) = false → exec (.remoteSignal f m) s = .next s)
    ∧ (s.delivers f (ackBytes m) = false → exec (.signalAck f m) s = .next s)
    ∧ (s.delivers f (signalBytes m) = true →
      ∀ id dv, targetOf m.target.toNat = some (id, dv) → m.ring.toNat < 8 → m.result = 0 → 0 < m.amount.toNat →
      m.amount.toNat < 2 ^ 24 → (∀ c k, id = .core c k → s.standDrained (standOfCore c) = false) → s.fab.waiters = [] →
      let old := m.flags.toNat ≠ 2 ∧ m.seq.toNat ≤ (s.flowMarks f).getD (2 * m.ring.toNat + m.flags.toNat) 0
      ∃ t, exec (.remoteSignal f m) s = .next t ∧ (t.flow f).inbox = (s.flow f).inbox.drop 1
        ∧ (old → t.sem id = s.sem id ∧ t.fab = { s.fab with remoteDuplicates := s.fab.remoteDuplicates + 1 })
        ∧ (¬ old → s.remoteAllowed (s.flow f).ctx id = false → t.sem id = s.sem id
          ∧ t.fab = { s.fab with remoteRefused := s.fab.remoteRefused + 1 })
        ∧ (¬ old → s.remoteAllowed (s.flow f).ctx id = true → t.sem id = (semAdd (s.sem id) m.amount.toNat).1
          ∧ t.fab.remoteDuplicates = s.fab.remoteDuplicates ∧ t.fab.remoteRefused = s.fab.remoteRefused))
    ∧ (∀ g d, s.delivers f (ackBytes m) = true → s.ecl.signals = [g] → g.sent = true → g.kind = m.flags.toNat → ringNo g.ring % 8 = m.ring.toNat →
      g.seq = m.seq.toNat → g.device = (s.flow f).peer → (s.ring g.ring).ctx = (s.flow f).ctx → m.amount = 0 →
      s.node g.node = some d → ∃ t, exec (.signalAck f m) s = .next t ∧ t.ecl.signals = []
        ∧ t.node g.node = some (if g.kind = 0 then { d with result := some 0 } else { d with signalState := 2 }))

/-- R341–R343: a HOSTSTEP presents its step to the host, one at a time in a ring, and a reply that names it completes it; any
other reply has no effect. -/
def Obligations.HostSteps : Prop :=
  ∀ (s : State) (n : Nat) (d : Node), s.node n = some d → d.state = 4 → d.result = none → s.isFaulting n d = false →
    d.stopped = false → d.cmd.opcode = opHostStep →
    let g := s.ring d.ring
    (g.stepSeq = 0 → s.earlierStep d = false →
      (g.mailbox = 0 ∨ s.rangesTranslated d.ctx [(iovaOf g.mailbox.toNat, 64, true)] 5 n = none) → ∃ t,
      exec (.hostStepCommand n) s = .next t ∧ t.node n = some d
        ∧ t.ring d.ring = { g with
            stepSeq := d.seq
            stepCookie := BitVec.ofNat 64 (d.cmd.wide 2)
            stepId := BitVec.ofNat 32 (d.cmd.slot 0)
            stepFlag := true
            stepEvents := g.stepEvents + 1 }
        ∧ t.outputs = s.outputs
          ++ (if g.mailbox = 0 then [] else
            [Output.hostWrite (s.pasid d.ctx) (BitVec.ofNat 64 (iovaOf g.mailbox.toNat)) (s.stepRecord d)])
          ++ (if g.maskNotify = true ∨ bits g.vectors.toNat 0 16 = 0xFFFF then [] else
            [Output.msix (bits g.vectors.toNat 0 16)]))
    ∧ (g.stepSeq ≠ 0 → exec (.hostStepCommand n) s = .next s)
    ∧ (∀ v : BitVec 64, g.stepSeq ≠ 0 → s.nodeOf d.ring g.stepSeq = some n →
      (v.toNat ≠ g.stepSeq → exec (.stepReply d.ring v) s = .next s)
      ∧ (v.toNat = g.stepSeq → ∃ t, exec (.stepReply d.ring v) s = .next t ∧ t.ring d.ring = { g with stepSeq := 0 }
        ∧ t.node n = some { d with result := some 0 } ∧ t.mem = s.mem ∧ t.outputs = s.outputs))

/-! ### Eclahild, fabric time and exchange ports -/

/-- R379–R382, R390, R397: FLOW_OPEN makes a flow OPENING and sends OPEN on each of its planes that is UP, as its timer does
again; a matching OPEN or OPEN_ACK opens it; FLOW_CLOSE, CLOSE and CLOSED close it with their reasons; MARK_RELEASE frees a mark
set. R383, R385, R386: an in-order packet that ends a message delivers it and is owed an ACK; an ACK frees the packets below its
ACK_PSN; a NAK and a retransmission timeout send their packet again on the next UP plane; the timers of the receiver send ACK
and NAK. A packet whose CRC fails is counted and changes nothing else, and a frame with another EtherType changes nothing. -/
def Obligations.Flows : Prop :=
  (∀ (s : State) (l : List Byte) (f port : Nat) (p : Packet), s.serves → s.quietFlows →
     (l.length = 16 → field l 0 2 = f → f ≤ 16382 → field l 2 2 < 1024 → field l 4 2 < 16384 → field l 6 2 < 1024 →
       field l 8 1 ≠ 0 → allZero (slice l 9 7) = true → (s.flow f).state = 0 → s.ctx (field l 2 2) ≠ none →
       field l 4 2 ≠ s.set.deviceId →
       (∀ q ∈ s.ecl.flows, q.2.state = 0 ∨ q.2.ctx ≠ field l 2 2 ∨ q.2.peer ≠ field l 4 2) →
       (∃ i < 8, (field l 8 1).testBit i = true ∧ (s.xport i).enable = true) → s.ecl.marks.length < 16384 → ∃ t,
       exec (.flowOpen l) s = .next t ∧ t.cat.answer = 0 ∧ t.flow f = { Flow.reset with
           ctx := field l 2 2
           peer := field l 4 2
           peerCtx := field l 6 2
           planes := BitVec.ofNat 8 (field l 8 1)
           state := 1
           openSentAt := s.now
           inbox := if (s.flow f).ctx = field l 2 2 ∧ (s.flow f).peer = field l 4 2 ∧ (s.flow f).peerCtx = field l 6 2 then
             (s.flow f).inbox else [] }
         ∧ (∀ k, k ≠ f → t.flow k = s.flow k) ∧ t.hasMarks (field l 2 2) (field l 4 2) (field l 6 2) = true
         ∧ t.outputs.length = s.outputs.length + (s.upPlanes (BitVec.ofNat 8 (field l 8 1))).length)
     ∧ ((s.flow f).state = 1 → ∃ t, exec (.openRetryTimer f) s = .next t ∧ t.flow f = { s.flow f with openSentAt := s.now }
       ∧ t.outputs.length = s.outputs.length + (s.upPlanes (s.flow f).planes).length)
     ∧ ((s.flow f).state ≠ 1 → exec (.openRetryTimer f) s = .next s)
     ∧ ((s.receive port typeOpen p).2 = true → s.matchOpen p = some f → (s.flow f).state = 1 → ∃ t x,
       exec (.openPacket port p) s = .next t ∧ (t.flow f).state = 2 ∧ (t.flow f).remote = p.srcFlow.toNat
         ∧ (t.flow f).peerInc = p.incarnation ∧ t.outputs = s.outputs ++ [.packet port 5 x] ∧ x.dstFlow = p.srcFlow)
     ∧ ((s.receive port typeOpen p).2 = true → s.matchOpen p = none → ∃ t, exec (.openPacket port p) s = .next t
       ∧ t.ecl.unmatchedOpens = s.ecl.unmatchedOpens + 1 ∧ t.outputs = s.outputs)
     ∧ ((s.receive port typeOpenAck p).2 = true → s.matchOpen p = some f → (s.flow f).state = 1 → ∃ t,
       exec (.openAck port p) s = .next t ∧ (t.flow f).state = 2 ∧ (t.flow f).remote = p.srcFlow.toNat
         ∧ (t.flow f).peerInc = p.incarnation ∧ t.outputs = s.outputs)
     ∧ (f ≤ 16382 → (s.flow f).state ≠ 0 → ∃ t, exec (.flowClose (BitVec.ofNat 16 f)) s = .next t ∧ t.cat.answer = 0
       ∧ (t.flow f).state = 0 ∧ (t.flow f).reason = 1 ∧ (t.flow f).unacked = [] ∧ (t.flow f).unsent = []
       ∧ (∀ k, k ≠ f → t.flow k = s.flow k))
     ∧ (f ≤ 16382 → (s.flow f).state = 0 →
       exec (.flowClose (BitVec.ofNat 16 f)) s = .next (s.answers 0x0C000007))
     ∧ (s.onFlow port typeClose p f → ∃ t, exec (.closePacket port p) s = .next t ∧ (t.flow f).state = 0
       ∧ (t.flow f).reason = 2 ∧ t.outputs = s.outputs ∧ (∀ k, k ≠ f → t.flow k = s.flow k))
     ∧ (s.onFlow port typeClosed p f → ∃ t, exec (.closed port p) s = .next t ∧ (t.flow f).state = 0
       ∧ (t.flow f).reason = 3 ∧ t.outputs = s.outputs ∧ (∀ k, k ≠ f → t.flow k = s.flow k))
     ∧ (l.length = 6 → field l 0 2 < 1024 → field l 2 2 < 16384 → field l 4 2 < 1024 →
       s.hasMarks (field l 0 2) (field l 2 2) (field l 4 2) = true → (∀ q ∈ s.ecl.flows, q.2.state = 0) → ∃ t,
       exec (.markRelease l) s = .next t ∧ t.cat.answer = 0 ∧ t.hasMarks (field l 0 2) (field l 2 2) (field l 4 2) = false
         ∧ t.ecl.flows = s.ecl.flows))
  ∧
  (∀ (s : State) (f port : Nat) (p : Packet),
     (s.onFlow port typeData p f → (s.flow f).unacked = [] → (s.flow f).rxBuffer = [] → (s.flow f).rxMessage = [] →
       p.psn.toNat = (s.flow f).expected → p.flags.getLsbD 0 = true → p.segment.head? = some 0x10 → (s.flow f).ackOwed < 15 →
       ∃ t, exec (.data port p) s = .next t ∧ (t.flow f).expected = ((s.flow f).expected + 1) % 2 ^ 32
         ∧ (t.flow f).inbox = (s.flow f).inbox ++ [p.segment] ∧ (t.flow f).messages = (s.flow f).messages + 1
         ∧ (t.flow f).ackOwed = (s.flow f).ackOwed + 1 ∧ t.outputs = s.outputs ∧ (∀ k, k ≠ f → t.flow k = s.flow k))
     ∧ (s.onFlow port typeAck p f → (s.flow f).unsent = [] → ∃ t, exec (.ack port p) s = .next t
       ∧ t.flow f = { s.flow f with unacked := (s.flow f).unacked.filter fun u => !psnBelow u.psn p.ackPsn.toNat }
       ∧ t.outputs = s.outputs ∧ t.exp = s.exp ∧ t.dv = s.dv)
     ∧ (∀ u q, (s.flow f).unacked = [u] → (s.flow f).state = 2 → u.retries + 1 < s.set.maxRetries →
       nextPlane (s.upPlanes (s.flow f).planes) u.plane = some q →
       let again (t : State) : Prop :=
         (t.flow f).unacked = [{ u with plane := q, sentAt := s.now, retries := u.retries + 1 }]
         ∧ (t.flow f).retransmits = (s.flow f).retransmits + 1 ∧ (∃ x, t.outputs = s.outputs ++ [.packet q 1 x] ∧ x.segment = u.segment
           ∧ x.psn = BitVec.ofNat 32 u.psn)
       (s.onFlow port typeNak p f → u.psn = p.psn.toNat → psnBelow u.psn p.ackPsn.toNat = false → u.retries = 0 →
         ∃ t, exec (.nak port p) s = .next t ∧ again t)
       ∧ (∃ t, exec (.rtoExpiry f) s = .next t ∧ again t))
     ∧ ((s.flow f).unacked = [] → exec (.rtoExpiry f) s = .next s)
     ∧ (∀ q, (s.flow f).state = 2 → nextPlane (s.upPlanes (s.flow f).planes) (s.flow f).lastPlane = some q →
       ((s.flow f).ackOwed ≠ 0 → ∃ t x, exec (.ackTimer f) s = .next t
         ∧ t.flow f = { s.flow f with ackOwed := 0, lastPlane := q } ∧ t.outputs = s.outputs ++ [.packet q 2 x]
         ∧ x.ackPsn = BitVec.ofNat 32 (s.flow f).expected)
       ∧ ((s.flow f).gapSince.isSome = true → ∃ t x, exec (.nakTimer f) s = .next t
         ∧ t.flow f = { s.flow f with gapSince := some s.now, lastPlane := q } ∧ t.outputs = s.outputs ++ [.packet q 3 x]
         ∧ x.psn = BitVec.ofNat 32 (s.flow f).expected))
     ∧ ((s.flow f).ackOwed = 0 → exec (.ackTimer f) s = .next s) ∧ ((s.flow f).gapSince = none → exec (.nakTimer f) s = .next s)
     ∧ (s.ours p = false → exec (.data port p) s = .next s)
     ∧ ((s.xport port).state = 2 → s.ours p = true → p.crc ≠ packetCrc typeData p →
       exec (.data port p) s = .next (s.updXport port fun x => { x with crcErrors := x.crcErrors + 1 })))

/-- R393, R394, R511: the exchanges of fabric time. A device answers SYNC_REQ and DELAY_REQ with their times; a slave opens an
exchange each interval on its lowest UP plane, answers SYNC, and takes the offset and path delay that DELAY_RESP gives; a pulse
that passes its test gives the offset of the supplied time, and another counts as missed. R378, R429, R507: a link change moves
the state of a port; a fault of its MAC removes it and degrades the block; the first lane of a direction that fails is spared,
and a second one removes the port. -/
def Obligations.TimeAndPorts : Prop :=
  (∀ (s : State) (port : Nat) (p : Packet),
     ((s.receive port typeTime p).2 = true →
       (field p.segment 0 1 = 4 → ∃ t x, exec (.syncReq port p) s = .next t ∧ t.outputs = s.outputs ++ [.packet port 8 x]
         ∧ x.dstDevice = p.srcDevice ∧ x.segment = timeBody 1 (stampField (s.txStamp port)) (field p.segment 24 8) ∧ t.clock = s.clock)
       ∧ (field p.segment 0 1 = 2 → ∃ t x, exec (.delayReq port p) s = .next t ∧ t.outputs = s.outputs ++ [.packet port 8 x]
         ∧ x.dstDevice = p.srcDevice ∧ x.segment = timeBody 3 (stampField (s.rxStamp port)) (field p.segment 24 8) ∧ t.clock = s.clock)
       ∧ (∀ e, s.clock.exchange = some e → s.timeMaster = some p.srcDevice.toNat → e.number = field p.segment 24 8 →
         (field p.segment 0 1 = 1 → e.step = 1 → ∃ t x, exec (.sync port p) s = .next t
           ∧ t.clock = { s.clock with exchange :=
               (some ⟨e.number, port, field p.segment 8 8, s.rxStamp port, s.txStamp port, 2⟩ : Option TimeExchange) }
           ∧ t.outputs = s.outputs ++ [.packet port 8 x] ∧ x.segment = timeBody 2 0 e.number)
         ∧ (field p.segment 0 1 = 3 → e.step = 2 → s.clock.delays = [] → ∃ t, exec (.delayResp port p) s = .next t
           ∧ t.clock.exchange = none ∧ t.outputs = s.outputs
           ∧ t.clock.offset = ((e.t1 - e.t2) + ((field p.segment 8 8 : Int) - e.t3)) / 2
           ∧ t.clock.pathDelay = (((e.t2 - e.t1) + ((field p.segment 8 8 : Int) - e.t3)) / 2).toNat % 2 ^ 32)))
     ∧ (s.timeMaster = none → exec .syncIntervalTimer s = .next s)
     ∧ (∀ m, s.timeMaster = some m → s.upPlanes 0xFF = [] → ∃ t, exec .syncIntervalTimer s = .next t
       ∧ t.clock.exchange = none ∧ t.clock.missed = s.clock.missed + 1 ∧ t.outputs = s.outputs)
     ∧ (∀ m q r, s.timeMaster = some m → s.upPlanes 0xFF = q :: r → ∃ t x, exec .syncIntervalTimer s = .next t
       ∧ t.clock.exchange = some ⟨s.clock.nextExchange, q, 0, 0, 0, 1⟩ ∧ t.clock.nextExchange = s.clock.nextExchange + 1
       ∧ t.outputs = s.outputs ++ [.packet q 8 x] ∧ x.segment = timeBody 4 0 s.clock.nextExchange)
     ∧ (∀ (v : BitVec 64) (b : Bool), s.clock.source ≠ 0xFFFE → exec (.ppsEdge v b) s = .next s)
     ∧ (∀ v : BitVec 64, s.clock.source = 0xFFFE → s.clock.lastPps = none → ∃ t, exec (.ppsEdge v true) s = .next t
       ∧ t.clock.offset = (v.toNat : Int) - s.now ∧ t.clock.missed = 0 ∧ t.mem = s.mem)
     ∧ (∀ v : BitVec 64, s.clock.source = 0xFFFE → ∃ t, exec (.ppsEdge v false) s = .next t
       ∧ t.clock.missed = s.clock.missed + 1 ∧ t.clock.offset = s.clock.offset ∧ t.clock.now = s.clock.now))
  ∧
  (∀ (s : State) (port lane : Nat) (up : Bool),
     (∃ t, exec (.macLinkChange port up) s = .next t ∧ t.xport port = { s.xport port with linkUp := up }
       ∧ (∀ k, k ≠ port → t.xport k = s.xport k) ∧ t.flt = s.flt ∧ t.outputs = s.outputs)
     ∧ ((s.xport port).failed = false → s.flt.entries.length < 4092 → ∃ t, exec (.macFault port) s = .next t
       ∧ t.xport port = { s.xport port with failed := true } ∧ t.flt.degraded = true ∧ t.flt.repair = true
       ∧ t.flt.generation = s.flt.generation + 1 ∧ t.flt.logNext = s.flt.logNext + 1)
     ∧ ((s.xport port).failed = true → exec (.macFault port) s = .next s)
     ∧ ((s.xport port).failed = false → s.flt.entries.length < 4092 → (s.xport port).enable = true →
       ∀ i, i = .macLaneFail port 0 lane ∨ i = .exchangeLaneTest port [(0, lane)] ∨ i = .laneWordUncorrectable port 0 lane →
         ((s.xport port).lanesFailed0 = [] → ∃ t, exec i s = .next t ∧ t.xport port = { s.xport port with lanesFailed0 := [lane] }
           ∧ t.flt.lanesSpared = s.flt.lanesSpared + 1 ∧ t.flt.degraded = s.flt.degraded ∧ t.flt.repair = true)
         ∧ (∀ k, k ≠ lane → (s.xport port).lanesFailed0 = [k] → ∃ t, exec i s = .next t
           ∧ t.xport port = { s.xport port with failed := true } ∧ t.flt.degraded = true))
     ∧ ((s.xport port).enable = false → exec (.laneWordUncorrectable port 0 lane) s = .next s))

/-! ### Experts -/

/-- R310, R315, R320, R323, R324, R332, R338, R344: a ROUTE waits for those dispatched before it, for its generation and for the
bias lock; one that starts selects and caps its tokens; an answer that its flow delivers and that ends it gives OK, or CANCELLED
when an assignment is missing, and one that no ROUTE waits for is late; STEP_TIMEOUT and CANCEL of a layer end it with
CANCELLED. -/
def Obligations.RoutingSteps : Prop :=
  ∀ (s : State) (n : Nat) (d : Node), s.serves → s.node n = some d → d.state = 4 → d.result = none → d.stopped = false →
    d.cmd.opcode = opRoute → d.uncorrectable = false → d.writeLost = false →
    let h := halfOfNode n
    let ln := d.cmd.slot 0 % 256
    let l := s.layer h ln
    let ranges := [(d.cmd.wide 4, d.cmd.slot 1 * l.nexp * (fmtWidth l.scoreFmt / 8), false),
      (d.cmd.wide 6, d.cmd.slot 1 * l.tokenBytes, false),
      (d.cmd.wide 8, 64 * d.cmd.slot 1 + d.cmd.slot 1 * l.maxK * l.resultBytes, true)]
    (s.isFaulting n d = false →
      (s.routeBehind n d = true ∨ s.generationBusy h (d.cmd.slot 2 % 4096) = true ∨ l.locked = true →
        exec (.routeCommand n false) s = .next s)
      ∧ (s.exp.routes = [] → s.routeBehind n d = false → s.generationBusy h (d.cmd.slot 2 % 4096) = false → l.locked = false → (s.checkRanges d.ctx ranges).1 = 0 →
        (∃ t, exec (.routeCommand n true) s = .next t ∧ t.node n = some { d with result := some stUncorrectable }
          ∧ t.layer h ln = { l with steps := l.steps + 1 } ∧ t.mem.dev = s.mem.dev)
        ∧ (∃ t x, exec (.routeCommand n false) s = .next t ∧ t.exp.routes = [x] ∧ x.node = n ∧ x.ctx = d.ctx ∧ x.half = h
          ∧ x.layer = ln ∧ x.generation = d.cmd.slot 2 % 4096
          ∧ (x.demand, x.tokens) = capStep l.capacity (s.selectStep d.ctx l (d.cmd.wide 4) (d.cmd.slot 1)).1
          ∧ (t.layer h ln).tokens = l.tokens + BitVec.ofNat 64 (d.cmd.slot 1) ∧ t.node n = some d)))
    ∧ (∀ x tk f hd e, s.delivers f (answersBytes hd [e]) = true → s.exp.routes = [x] → x.node = n → x.tokens = [tk] → (∀ y ∈ x.deliveries, y.sent = true) → tk.k = 1 →
      tk.owes 0 = true → tk.missing = 0 → (s.flow f).state = 2 → x.half = hd.originHalf →
      bits e.tag.toNat 38 12 = x.generation → bits e.tag.toNat 18 20 = 0 → bits e.tag.toNat 14 4 = 0 → ∃ t,
      exec (.answers (some f) hd [e]) s = .next t ∧ t.exp.routes = []
        ∧ t.node n = some { d with result := some (if e.status = 0 ∨ e.status = 1 then stOk else stCancelled) })
    ∧ (∀ f hd e, s.delivers f (answersBytes hd [e]) = true → s.exp.routes = [] → (s.flow f).state = 2 → ∃ t, exec (.answers (some f) hd [e]) s = .next t
      ∧ (t.engine hd.originHalf).lateAnswers = (s.engine hd.originHalf).lateAnswers + 1 ∧ t.dv = s.dv ∧ t.mem = s.mem)
    ∧ (s.exp.routes = [] → s.dv.nodes = [(n, d)] → h < 2 → ∀ i,
      (i = .stepTimeoutExpiry n ∧ l.stepTimeout ≠ 0 ∧ s.timersHeld h = false)
        ∨ (i = .layerCancel h ln (BitVec.ofNat 16 (d.cmd.slot 2 % 4096))) → ∃ t, exec i s = .next t
        ∧ t.node n = some { d with result := some stCancelled }
        ∧ t.layer h ln = { l with steps := l.steps + 1, cancelled := l.cancelled + 1 } ∧ t.mem = s.mem)
    ∧ (∀ x, s.exp.routes = [x] → x.node = n → l.stepTimeout ≠ 0 → s.timersHeld h = false → ∃ t,
      exec (.stepTimeoutExpiry n) s = .next t ∧ t.exp.routes = [] ∧ t.node n = some { d with result := some stCancelled })
    ∧ (l.stepTimeout = 0 → exec (.stepTimeoutExpiry n) s = .next s)
    ∧ (∀ v : BitVec 16, 4096 ≤ v.toNat → exec (.layerCancel h ln v) s = .next (s.answers 0x0C000006))

/-- R326–R329, R332, R333: a DELIVERY that its flow delivers next and that finds room takes its place at the first fit of the
pool, at once or when it is tried again, and one larger than the pool is refused, and one behind a waiting one of its flow
waits; a token's row goes to its place in the portion; a CANCEL frees the portions that have no LAUNCH and is acknowledged, and
the acknowledgement ends a quarantine. -/
def Obligations.ReceivePools : Prop :=
  ∀ (s : State) (f : Nat) (hd : RouteHdr) (tb rb loc cnt : Nat), (s.flow f).state = 2 →
    let h := hd.destHalf
    let size := portionSize cnt tb rb
    let w : WaitingDelivery := ⟨(s.flow f).ctx, some f, h, (s.flow f).peer, hd, tb, rb, [(loc, cnt)]⟩
    let placed (t : State) : Prop := ∃ p, t.exp.portions = [p] ∧ p.base = (s.engine h).poolBase ∧ p.size = size ∧ p.loc = loc
      ∧ p.count = cnt ∧ p.refused = 0 ∧ p.tags = [] ∧ p.flow = some f ∧ p.generation = hd.generation ∧ t.mem = s.mem
    (s.exp.portions = [] → s.portionRefused h (s.flow f).ctx loc tb rb = false → size ≤ (s.engine h).poolSize → 0 < size →
      (s.exp.waiting = [] → s.delivers f (deliveryBytes hd tb rb [(loc, cnt)]) = true → ∃ t,
        exec (.delivery (some f) hd tb rb [(loc, cnt)]) s = .next t ∧ placed t ∧ t.exp.waiting = [])
      ∧ (s.exp.waiting = [w] → ∃ t, exec (.deliveryAllocate h) s = .next t ∧ placed t ∧ t.exp.waiting = [])
      ∧ (s.exp.waiting = [w] → s.delivers f (deliveryBytes hd tb rb [(loc, cnt)]) = true → ∃ t,
        exec (.delivery (some f) hd tb rb [(loc, cnt)]) s = .next t ∧ t.exp.waiting = [w, w] ∧ t.exp.portions = []))
    ∧ (s.delivers f (deliveryBytes hd tb rb [(loc, cnt)]) = false → exec (.delivery (some f) hd tb rb [(loc, cnt)]) s = .next s)
    ∧ (s.delivers f (deliveryBytes hd tb rb [(loc, cnt)]) = true → s.exp.portions = [] → s.exp.waiting = [] →
      (s.engine h).poolSize < size → ∃ t p,
      exec (.delivery (some f) hd tb rb [(loc, cnt)]) s = .next t ∧ t.exp.portions = [p] ∧ p.refused = 1 ∧ p.size = 0
        ∧ (t.engine h).poolRefused = (s.engine h).poolRefused + 1)
    ∧ (∀ p e, s.delivers f (tokensBytes hd [e]) = true → s.exp.portions = [p] → s.exp.waiting = [] → p.half = h → p.flow = some f → p.originHalf = hd.originHalf →
      p.generation = hd.generation → p.hb = hd.hb → p.loc = e.loc → p.cancelled = false → p.refused = 0 → p.tags = [] →
      1 < p.count → e.row.length = p.tokenBytes → Memory.wf s.mem = true → ∃ t, exec (.tokens (some f) hd [e]) s = .next t
      ∧ t.exp.portions = [{ p with tags := [e.tag] }]
      ∧ Cells.bytes t.mem.dev p.base p.tokenBytes = e.row
      ∧ Cells.bytes t.mem.dev (p.base + p.count * p.tokenBytes) 8 = u64 e.tag.toNat)
    ∧ (∀ p c, s.exp.localMsgs = [⟨h, c, hdrBytes 4 hd⟩] → s.exp.portions = [p] → p.half = h → p.flow = none →
      p.originHalf = hd.originHalf → p.generation = hd.generation → s.exp.waiting = [] → ∃ t,
      exec (.cancel none hd) s = .next t ∧ t.exp.localMsgs = [⟨hd.originHalf, c, hdrBytes 5 hd⟩]
        ∧ t.exp.portions = (if p.launch = none then [] else [{ p with cancelled := true }]))
    ∧ (∀ c, s.exp.localMsgs = [⟨hd.originHalf, c, hdrBytes 5 hd⟩] →
      s.exp.quarantines = [⟨hd.originHalf, hd.generation, [⟨s.set.deviceId, h, none⟩]⟩] → ∃ t,
      exec (.cancelAck none hd) s = .next t ∧ t.exp.localMsgs = [] ∧ t.exp.quarantines = [] ∧ t.exp.routes = s.exp.routes)

/-- R312, R337, R344: a descriptor in range of a layer without ROUTEs is written and its counters start again; the end of a
window of even demand ends the streak, and without BIAS_LOOP a window has no effect. -/
def Obligations.Layers : Prop :=
  ∀ (s : State) (h ln : Nat) (b : List Byte), s.serves →
    (b.length = 64 → s.layerBad b = false → s.ctx (field b 0 2 % 1024) ≠ none → s.layerRoutes h ln = [] → ∃ t,
      exec (.descriptorWrite h ln b) s = .next t ∧ t.cat.answer = 0
        ∧ t.layer h ln = { Layer.reset with bytes := b, streak := if (field b 2 1).testBit 1 then (s.layer h ln).streak else 0 }
        ∧ t.mem = s.mem ∧ t.dv = s.dv)
    ∧ (b.length ≠ 64 → exec (.descriptorWrite h ln b) s = .next (s.answers 0x0C000005))
    ∧ (b.length = 64 → s.layerBad b = true → exec (.descriptorWrite h ln b) s = .next (s.answers 0x0C000006))
    ∧ ((s.layer h ln).ended = [] → exec (.biasWindowEnd h ln) s = .next s)
    ∧ (∀ w r, (s.layer h ln).ended = w :: r → ∃ t, exec (.biasWindowEnd h ln) s = .next t ∧ (t.layer h ln).ended = r
      ∧ ((s.layer h ln).biasLoop = false → t.mem = s.mem ∧ t.layer h ln = { s.layer h ln with ended := r })
      ∧ ((s.layer h ln).biasLoop = true → w = [] → 1 ≤ (s.layer h ln).biasWindows → t.mem = s.mem ∧ (t.layer h ln).streak = 0
        ∧ (t.layer h ln).biasUpdates = (s.layer h ln).biasUpdates)
      ∧ (∀ e v, (s.layer h ln).biasLoop = true → w = [(e, v)] → 0 < v →
        ((s.layer h ln).imbalance.mul (.fin false v 0)).lt (.fin false (v * (s.layer h ln).nexp) 0) = true →
        (t.layer h ln).streak = (s.layer h ln).streak + 1 ∧ (t.layer h ln).imbalanced = (s.layer h ln).imbalanced + 1
        ∧ (t.layer h ln).biasUpdates = (s.layer h ln).biasUpdates
            + (if (s.layer h ln).biasWindows ≤ (s.layer h ln).streak + 1 then 1 else 0)))

/-! ### Device memory, regions, tables and translation -/

/-- R282–R285, R505: a block that decodes clean changes no memory and no node; a corrected one is counted, and written back when
no newer write reached its sub-port; an uncorrectable one is counted, logged and fails its consumer. The scrubber reads nothing
while it is off or outside the capacity of a port; a partial write merges its bytes into the corrected block, encodes it and
writes it back, and is not made when the block is uncorrectable; a lane that the controller remapped enters the repair table,
unless the table holds it (the model's choice, log 130). -/
def Obligations.MemoryBlocks : Prop :=
  ∀ (s : State) (port a : Nat) (raw check : List Byte) (rerr newer : Bool),
    let covered := s.onPort (a / 64 * 64) 64 = true
    (∀ (w : Consumer) (i : Instr), i = .rdata port a w raw check ⟨rerr, newer⟩
        ∨ (w = .scrubber ∧ s.set.scrubHours ≠ 0 ∧ covered ∧ i = .scrub port a raw check ⟨rerr, newer⟩) →
      (rerr = false → ∀ fixed, rsDecode (slice raw 0 64) (slice check 0 8) = some (fixed, []) → ∃ t, exec i s = .next t
        ∧ { t with dbg := s.dbg } = s)
      ∧ (rerr = false → ∀ fixed q qs, rsDecode (slice raw 0 64) (slice check 0 8) = some (fixed, q :: qs) → ∃ t, exec i s = .next t
        ∧ t.mem.dev = s.mem.dev ∧ t.dv = s.dv ∧ t.flt = s.flt ∧ (t.port port).corrected = (s.port port).corrected + 1
        ∧ (t.port port).uncorrectable = (s.port port).uncorrectable
        ∧ (newer = false → (t.port port).writebacks = (s.port port).writebacks + 1
          ∧ t.outputs.getLast? = some (.blockWrite (a / 64 * 64) (fixed.take 64) (rsCheck (fixed.take 64))))
        ∧ (newer = true →
          (t.port port).writebacksDropped = (s.port port).writebacksDropped + 1)))
    ∧ (rerr = true ∨ rsDecode (slice raw 0 64) (slice check 0 8) = none →
      (∀ n d, s.node n = some d → ∃ t e, exec (.rdata port a (.unit n) raw check ⟨rerr, newer⟩) s = .next t
        ∧ t.node n = some { d with uncorrectable := true
                                   result := if !d.isLaunch && d.result = some stOk then some stUncorrectable else d.result }
        ∧ (t.port port).uncorrectable = (s.port port).uncorrectable + 1 ∧ t.flt.log.getLast? = some e ∧ e.cls = 0x0A
        ∧ e.action = 7 ∧ e.location = port ∧ e.address = a ∧ t.mem.dev = s.mem.dev)
      ∧ (∀ n d, s.node n = some d → s.mem.partials = [] → ∃ t, exec (.rdata port a (.partialWrite n) raw check ⟨rerr, newer⟩) s = .next t
        ∧ t.node n = some { d with writeLost := true } ∧ (t.port port).uncorrectable = (s.port port).uncorrectable + 1
        ∧ t.mem.dev = s.mem.dev)
      ∧ (s.set.scrubHours ≠ 0 → covered → ∃ t e, exec (.scrub port a raw check ⟨rerr, newer⟩) s = .next t ∧ t.dv = s.dv ∧ t.mem.dev = s.mem.dev
        ∧ (t.port port).uncorrectable = (s.port port).uncorrectable + 1 ∧ t.flt.log.getLast? = some e ∧ e.cls = 0x0A
        ∧ e.action = 0))
    ∧ (s.set.scrubHours = 0 ∨ ¬ covered → exec (.scrub port a raw check ⟨rerr, newer⟩) s = .next s)
    ∧ (∀ n d, s.node n = some d →
      (rerr = true ∨ rsDecode (slice raw 0 64) (slice check 0 8) = none → ∀ bytes : List Byte,
        (s.mem.partials = [] → ∃ t e, exec (.partialWrite a bytes n ⟨raw, check, rerr⟩) s = .next t ∧ t.mem.dev = s.mem.dev
          ∧ t.node n = some { d with writeLost := true } ∧ (t.port (a / 2 ^ 36)).uncorrectable
            = (s.port (a / 2 ^ 36)).uncorrectable + 1 ∧ t.flt.log.getLast? = some e ∧ e.cls = 0x0A ∧ e.action = 7
          ∧ e.location = a / 2 ^ 36 ∧ e.address = a ∧ t.outputs = s.outputs)
        ∧ (∀ was : List Byte, s.mem.partials = [⟨n, a, was, bytes, none⟩] → was.length = bytes.length → s.dev a bytes.length = bytes →
          ∃ t, exec (.partialWrite a bytes n ⟨raw, check, rerr⟩) s = .next t ∧ t.mem.dev = Cells.store s.mem.dev a was
            ∧ t.mem.partials = [] ∧ t.node n = some { d with writeLost := true }))
      ∧ (rerr = false → ∀ fixed, rsDecode (slice raw 0 64) (slice check 0 8) = some (fixed, []) → ∀ bytes : List Byte,
        let blk := mergeBlock (fixed.take 64) (a % 64) bytes
        ∃ t, exec (.partialWrite a bytes n ⟨raw, check, rerr⟩) s = .next t ∧ t.mem.dev = Cells.store s.mem.dev a bytes
          ∧ t.dv = s.dv ∧ t.flt = s.flt ∧ t.mem.ports = s.mem.ports ∧ (s.mem.partials = [] → t.mem.partials = [])
          ∧ (∀ was : List Byte, s.mem.partials = [⟨n, a, was, bytes, none⟩] → t.mem.partials = [])
          ∧ t.outputs = s.outputs ++ [.blockWrite (a / 64 * 64) blk (rsCheck blk)])
      ∧ (rerr = false → ∀ fixed q qs, rsDecode (slice raw 0 64) (slice check 0 8) = some (fixed, q :: qs) → ∀ bytes : List Byte,
        let blk := mergeBlock (fixed.take 64) (a % 64) bytes
        ∃ t, exec (.partialWrite a bytes n ⟨raw, check, rerr⟩) s = .next t ∧ t.mem.dev = Cells.store s.mem.dev a bytes
          ∧ t.dv = s.dv ∧ (t.port (a / 2 ^ 36)).corrected = (s.port (a / 2 ^ 36)).corrected + 1
          ∧ t.outputs.getLast? = some (.blockWrite (a / 64 * 64) blk (rsCheck blk))))
    ∧ (∀ b, (s.port port).remap = none → exec (.laneRemapRsp port b) s = .next s)
    ∧ (∀ sub lane, (s.port port).remap = some (sub, lane) →
      (∃ t, exec (.laneRemapRsp port true) s = .next t ∧ t.flt.spare = true ∧ t.flt.lanesSpared = s.flt.lanesSpared
        ∧ (t.port port).remap = (s.port port).remapWaiting.head? ∧ (t.port port).lanesFailed = (s.port port).lanesFailed
        ∧ t.mem.dev = s.mem.dev)
      ∧ ((∀ e ∈ s.flt.entries, ¬ (e.kind = 0x0A ∧ e.a = port + 16 * sub ∧ e.b = lane)) →
        ∃ t, exec (.laneRemapRsp port false) s = .next t ∧ t.flt.lanesSpared = s.flt.lanesSpared + 1
        ∧ (t.port port).remap = (s.port port).remapWaiting.head?
        ∧ (t.port port).lanesFailed = (s.port port).lanesFailed.erase (sub, lane) ∧ t.mem.dev = s.mem.dev
        ∧ (s.flt.entries.length < 4092 → t.flt.entries = s.flt.entries ++ [⟨0x0A, 0, port + 16 * sub, lane, s.now⟩]))
      ∧ ((∃ e ∈ s.flt.entries, e.kind = 0x0A ∧ e.a = port + 16 * sub ∧ e.b = lane) →
        ∃ t, exec (.laneRemapRsp port false) s = .next t ∧ t.flt = s.flt ∧ t.mem.dev = s.mem.dev
        ∧ (t.port port).lanesFailed = (s.port port).lanesFailed.erase (sub, lane)))

/-- R286, R288, R295, R448: a region set in range replaces the context's whole set, and a region of the aperture is PENDING and
asks for its first page; a table of one owner is registered, and unregistered when it is OPEN and no command uses it. Each is
refused as its rule says. Here the Catalogue's root serves requests. -/
def Obligations.RegionsAndTables : Prop :=
  ∀ (s : State) (c : Nat) (b : List Byte) (id : BitVec 16), s.serves →
    let rs := (List.range 16).map fun i => Region.ofBytes (slice b (32 * i) 32)
    let bad := decide (1024 ≤ c) || rs.any s.regionBad || s.regionTaken c rs
      || (List.range 16).any fun i => !allZero (slice b (32 * i + 26) 6)
    (b.length ≠ 512 → exec (.regionsWrite c b) s = .next (s.answers 0x0C000005))
    ∧ (b.length = 512 → bad = true → exec (.regionsWrite c b) s = .next (s.answers 0x0C000006))
    ∧ (b.length = 512 → bad = false → s.ctx c = none ∨ s.dv.resetting = some c →
      exec (.regionsWrite c b) s = .next (s.answers 0x0C000007))
    ∧ (b.length = 512 → bad = false → s.ctx c ≠ none → s.dv.resetting ≠ some c →
      ((∀ r ∈ rs, r.valid = true → inAperture r.base = false) → ∃ t, exec (.regionsWrite c b) s = .next t ∧ t.cat.answer = 0
        ∧ t.mem.regions = Map.put s.mem.regions c (rs.map Region.start) ∧ t.mem.dev = s.mem.dev ∧ t.dv = s.dv ∧ t.rings = s.rings)
      ∧ (∀ g gs, rs = g :: gs → g.valid = true → inAperture g.base = true → (∀ r ∈ gs, r.valid = false) → s.mem.requests = [] →
        s.mem.xltWaiting = [] → s.mem.records = [] → s.mem.pageWaiters = [] → s.mem.pinned = [] → s.mem.nextTag < 512 → ∃ t,
        exec (.regionsWrite c b) s = .next t ∧ t.cat.answer = 0 ∧ Map.look t.mem.regions c = some (rs.map Region.start)
          ∧ t.mem.requests = [⟨s.mem.nextTag, s.pasid c, c, g.iova / 4096 * 4096, g.flags.getLsbD 2, 1, c, g.iova / 4096 * 4096⟩]))
    ∧ (b.length ≠ 96 → exec (.tableRegister b) s = .next (s.answers 0x0C000005))
    ∧ (let tb := Table.ofBytes b
      let wrong := Table.bad b tb || (tb.ranges.any fun r => !s.onPort r.1 r.2 || s.meetsParams r.1 r.2)
        || (s.set.exclusiveRegions && tb.flags.getLsbD 1)
        || (tb.ranges.any fun r => s.mem.tables.any fun p => p.1 != field b 0 2 && p.2.ranges.any fun q =>
          rangesMeet r.1 r.2 q.1 q.2)
      b.length = 96 →
        (wrong = true → exec (.tableRegister b) s = .next (s.answers 0x0C000006))
        ∧ (wrong = false → s.table (field b 0 2) ≠ none ∨ s.ctx tb.owner = none →
          exec (.tableRegister b) s = .next (s.answers 0x0C000007))
        ∧ (wrong = false → s.table (field b 0 2) = none → s.ctx tb.owner ≠ none → exec (.tableRegister b) s = .next
          { s with mem := { s.mem with tables := Map.put s.mem.tables (field b 0 2) tb }, cat := { s.cat with answer := 0 } }))
    ∧ (s.table id.toNat = none → exec (.tableUnregister id) s = .next (s.answers 0x0C000006))
    ∧ (∀ tb, s.table id.toNat = some tb → (tb.state ≠ 1 → exec (.tableUnregister id) s = .next (s.answers 0x0C000007))
      ∧ (tb.state = 1 → s.dv.nodes = [] → ∃ t, exec (.tableUnregister id) s = .next t ∧ t.cat.answer = 0
        ∧ t.table id.toNat = none ∧ t.mem.dev = s.mem.dev ∧ t.ctxs = s.ctxs))

/-- R306–R309, R500, R501: an unusable translation for a ring starts a fault record, sends one page request and stalls the ring;
a page response has its requesters translate again, or faults their rings with TRANSLATION; an invalidation drops every
translation that meets it, and is answered when no access that used one of them is under way; a host read that completes is
counted, and one in error faults its ring. -/
def Obligations.Translations : Prop :=
  ∀ (s : State) (tag addr page : Nat) (no rd wr : Bool),
    ((∀ q ∈ s.mem.requests, q.tag ≠ tag) → exec (.xltRsp tag no addr page rd wr) s = .next s)
    ∧ (∀ q, s.mem.requests = [q] → s.mem.xltWaiting = [] → q.tag = tag → (no = true ∨ (q.write = true ∧ wr = false) ∨ (q.write = false ∧ rd = false)) →
      (q.purpose = 6 → exec (.xltRsp tag no addr page rd wr) s = .next { s with mem := { s.mem with requests := [] } })
      ∧ (q.purpose = 0 → s.mem.records = [] → (s.ring q.who).stall = 0 → ∃ t k, exec (.xltRsp tag no addr page rd wr) s = .next t
        ∧ t.mem.requests = [] ∧ t.mem.records = [(k, ⟨q.iova, q.pasid, q.ctx, q.write, false, 1, [⟨0, q.who, q.target, q.write⟩], 1, s.now⟩)]
        ∧ t.mem.pageRequests = s.mem.pageRequests + 1 ∧ Output.pageReq k q.pasid q.iova q.write ∈ t.outputs
        ∧ (t.ring q.who).stall = slPageRequest ∧ t.mem.dev = s.mem.dev)
      ∧ (q.purpose = 3 → ∃ t, exec (.xltRsp tag no addr page rd wr) s = .next t ∧ t.boot.fwState = 3 ∧ t.boot.fwReason = 1
        ∧ t.boot.loadsRefused = s.boot.loadsRefused + 1 ∧ t.mem.requests = []))
    ∧ (∀ q, s.mem.requests = [q] → s.mem.xltWaiting = [] → q.tag = tag → no = false → rd = true → wr = true → q.purpose = 6 → ∃ t,
      exec (.xltRsp tag no addr page rd wr) s = .next t ∧ t.mem.requests = []
        ∧ t.mem.xlat = s.mem.xlat.filter (fun x => !x.covers q.pasid q.iova)
          ++ [⟨q.pasid, q.iova / 2 ^ page * 2 ^ page, page, addr / 2 ^ page * 2 ^ page, true, true⟩])
    ∧ (∀ group result, Map.look s.mem.records group = none → exec (.pageRsp group result) s = .next s)
    ∧ (∀ group result x r tgt need, s.mem.records = [(group, x)] → x.requesters = [⟨0, r, tgt, need⟩] → s.mem.pageWaiters = [] →
      (result = 0 → s.mem.requests = [] → s.mem.xltWaiting = [] → s.mem.nextTag < 512 → ∃ t, exec (.pageRsp group result) s = .next t ∧ t.mem.records = []
        ∧ t.mem.requests = [⟨s.mem.nextTag, x.pasid, x.ctx, x.page, need, 0, r, tgt⟩] ∧ t.rings = s.rings ∧ t.dv = s.dv)
      ∧ (result ≠ 0 → r < 8192 → s.mayAccept r = true → (s.ring r).skipping = none → s.alone r → ∃ t f, exec (.pageRsp group result) s = .next t
        ∧ (t.ring r).fault = some f ∧ f.cause = fcTranslation ∧ f.address = hostAddr x.page ∧ f.node = none
        ∧ (t.ring r).fetch = (s.ring r).fetch))
    ∧ (∀ itag pasid glob iova size,
      let hit (p : Option Nat) (b n : Nat) : Bool := (glob || p == pasid) && invMeets iova size b n
      ∃ t, exec (.invReq itag pasid glob iova size) s = .next t
      ∧ (s.fillsHit hit = [] → s.slotsHit hit = [] → t.outputs.getLast? = some (.invCpl itag))
      ∧ ((∃ x ∈ s.slotsHit hit, ∃ p ∈ (s.core x.1).slots, p.2.instr = x.2) → ∃ w ∈ t.mem.invWaiting, w.itag = itag)
      ∧ t.mem.xlat = s.mem.xlat.filter (fun x =>
          !((glob || x.pasid == pasid) && invMeets iova size x.iova (2 ^ x.pageLog2)))
      ∧ t.mem.pinned = s.mem.pinned.filter (fun x =>
          !((glob || x.pasid == pasid) && invMeets iova size x.iova (2 ^ x.pageLog2)))
      ∧ t.mem.dev = s.mem.dev ∧ t.dv.nodes = s.dv.nodes)
    ∧ (∀ r (a : BitVec 64) data, (s.context (s.ring r).ctx).tallyBase = 0 →
      (∃ t, exec (.hostReadCompletion r a false data) s = .next t ∧ { t with dbg := s.dbg } = s)
      ∧ (s.nodeReading r (iovaOf a.toNat) = none → s.alone r → (s.mayAccept r = false →
          exec (.hostReadCompletion r a true data) s = .next s)
        ∧ (r < 8192 → s.mayAccept r = true → (s.ring r).skipping = none → ∃ t f, exec (.hostReadCompletion r a true data) s = .next t ∧ (t.ring r).fault = some f
          ∧ f.cause = fcTranslation ∧ f.address = hostAddr (iovaOf a.toNat / 4096 * 4096))))

/-! ### Power and clock islands -/

/-- R404–R406, R408, R412: an evaluation moves its island's step by the readings: to step 4 on a trip, one step down above the
ceiling or the throttle temperature, one step up when the predicted current fits and the island is cool (at once, or once its
regulator holds the voltage), and not otherwise; it publishes the headroom, and the CEILING_DERATE at its start comes into
force. An island in RETAIN or waking, or that has run for less than 100 ns, makes none. A regulator falls to the highest request
that remains, and no lower. An acknowledgement of the regulator ends a raise; in a waking compartment it ends the wake, at step
4. R408–R410, R414: a sensor fault is shown and logged once; a FREE compartment enters RETAIN with its regulator at 450 mV and
every core and memory kept, and one that is held or in RETAIN is left as it is; a refresh of telemetry gives the last power and
temperature and adds the energy. -/
def Obligations.Islands : Prop :=
  (∀ (s : State) (k i reading : Nat),
     let x := s.stand k
     let c := compOfStand k
     let temp := if x.sensorFault then s.fuses.tjCrit else reading
     let trip := s.fuses.tjCrit ≤ temp ∨ (x.trip = true ∧ s.fuses.tjCrit < temp + 10)
     let ceil := Map.at s.fuses.ceilings 0 k * s.set.ceilingDerate / 100
     let pressed := ceil < i ∨ s.fuses.tjThrottle < temp
     let up := 0 < x.step ∧ x.lastChange + 8000 ≤ s.now ∧ temp + 5 ≤ s.fuses.tjThrottle ∧ s.currentFits c x.step i ceil = true
     let moved (t : State) (j : Nat) : Prop := (t.stand k).step = j ∧ t.outputs = s.outputs
       ∧ (j ≠ x.step → (t.stand k).pendingStep = none ∧ (t.stand k).lastChange = s.now ∧ t.pwr.stepChanges = s.pwr.stepChanges + 1
         ∧ (t.comp c).supply = min (s.comp c).supply (t.requested c))
     let frame (t : State) : Prop := (∀ u, u ≠ k → t.stand u = s.stand u) ∧ (∀ u, u ≠ c → t.comp u = s.comp u)
       ∧ t.comp c = { s.comp c with supply := (t.comp c).supply } ∧ t.mem = s.mem ∧ t.cores = s.cores ∧ t.rings = s.rings ∧ t.flt = s.flt
     (s.islandsOff c = true ∨ s.now < x.runSince + 100 → exec (.islandEvaluation k i reading) s = .next s)
     ∧ (s.islandsOff c = false → x.runSince + 100 ≤ s.now → ∃ t, exec (.islandEvaluation k i reading) s = .next t ∧ frame t
       ∧ (t.stand k).current = i ∧ (t.stand k).temp = temp ∧ (t.stand k).headroomAt = some s.now
       ∧ (t.stand k).fastDropped = (x.fastDropped && decide (x.lastChange = s.now)) ∧ (t.stand k).derate = s.set.ceilingDerate
       ∧ (trip → moved t 4 ∧ (t.stand k).trip = true ∧ (t.stand k).headroom = 0 ∧ t.blockHot = true
         ∧ (t.stand k).thermalLimited = true ∧ (t.stand k).pendingStep = none
         ∧ (x.trip = false → t.pwr.trips = s.pwr.trips + 1))
       ∧ (¬ trip → (t.stand k).trip = false ∧ t.pwr.trips = s.pwr.trips
         ∧ (x.sensorFault = false → (t.stand k).headroom =
             min (if ceil = 0 then 0 else 255 * (ceil - i) / ceil)
               (min 255 (255 * (s.fuses.tjThrottle - temp) / 60)))
         ∧ (pressed → moved t (min (x.step + 1) 4) ∧ (t.stand k).pendingStep = none)
         ∧ (¬ pressed → up → s.stepVolts c (x.step - 1) ≤ (s.comp c).supply → moved t (x.step - 1))
         ∧ (¬ pressed → up → (s.comp c).supply < s.stepVolts c (x.step - 1) → x.pendingStep = none → (t.stand k).step = x.step
           ∧ (t.stand k).pendingStep = some (x.step - 1)
           ∧ t.outputs = s.outputs ++ [.regulatorRequest c (s.stepVolts c (x.step - 1))])
         ∧ (¬ pressed → ¬ up → moved t x.step)))
     ∧ ((s.comp c).gating ≠ 1 → x.pendingStep = none → exec (.regulatorAck k) s = .next s)
     ∧ (∀ j, (s.comp c).gating ≠ 1 → x.pendingStep = some j → ∃ t, exec (.regulatorAck k) s = .next t ∧ frame t ∧ (t.stand k).step = j
       ∧ (t.stand k).pendingStep = none ∧ t.outputs = s.outputs
       ∧ (t.comp c).supply = min (max (s.comp c).supply (s.stepVolts c j)) (t.requested c)
       ∧ (j ≠ x.step → (t.stand k).lastChange = s.now ∧ t.pwr.stepChanges = s.pwr.stepChanges + 1))
     ∧ ((s.comp c).gating = 1 → ∃ t, exec (.regulatorAck k) s = .next t
       ∧ t.comp c = { s.comp c with gating := 0, supply := max (s.comp c).supply (s.stepVolts c 4) }
       ∧ (∀ j < 16, t.stand (16 * c + j) = { s.stand (16 * c + j) with
           step := 4, pendingStep := none, lastChange := s.now, runSince := s.now, headroomAt := none })
       ∧ (∀ d, compOfCore d = c → s.fenced d = false → (t.core d).dispatchLoop = true
         ∧ (t.core d).front = if (s.core d).drained s.now then .waitingGrant else .draining)
       ∧ t.mem = s.mem ∧ t.rings = s.rings ∧ t.outputs = s.outputs))
  ∧
  (∀ (s : State) (k p : Nat) (l : List Nat),
     ((s.stand k).sensorFault = true → exec (.sensorFault k) s = .next s)
     ∧ ((s.stand k).sensorFault = false → ∃ t e, exec (.sensorFault k) s = .next t
       ∧ t.stand k = { s.stand k with sensorFault := true } ∧ t.flt.log.getLast? = some e ∧ e.cls = 6 ∧ e.location = k
       ∧ e.action = 0 ∧ t.flt.logNext = s.flt.logNext + 1 ∧ t.mem = s.mem ∧ t.rings = s.rings ∧ t.dv = s.dv ∧ t.outputs = s.outputs)
     ∧ ((s.comp k).holder.isSome = true ∨ s.retained k = true → exec (.retainEntry k) s = .next s)
     ∧ ((s.comp k).holder = none → s.retained k = false → ∃ t, exec (.retainEntry k) s = .next t ∧ t.retained k = true
       ∧ t.comp k = { s.comp k with gating := 2, supply := 450 } ∧ (∀ u, u ≠ k → t.comp u = s.comp u) ∧ t.cores = s.cores ∧ t.mem = s.mem
       ∧ (∀ w ∈ (t.sector (sectorOfComp k)).waiting, compOfCore w.core ≠ k)
       ∧ (∀ u, (t.stand u).mem = (s.stand u).mem ∧ (t.stand u).step = (s.stand u).step)
       ∧ (∀ j < 16, (t.stand (16 * k + j)).headroomAt = none))
     ∧ (∃ t, exec (.telemetryRefresh p l) s = .next t ∧ t.pwr.now = p ∧ t.pwr.peak = max s.pwr.peak p
       ∧ t.pwr.energy = s.pwr.energy + BitVec.ofNat 64 p ∧ t.pwr.tempMax = s.pwr.hottest ∧ t.pwr.trips = s.pwr.trips
       ∧ t.pwr.stepChanges = s.pwr.stepChanges ∧ (∀ i v, i < 64 → l[i]? = some v → (t.comp i).power = v)
       ∧ t.cores = s.cores ∧ t.stands = s.stands ∧ t.mem = s.mem))

/-- R407: an island above 110 % of its effective ceiling lowers its step by one at once, at most once in an evaluation period,
and each drop counts in FAST_DROPS. An evaluation starts the next period; a drop in its own cycle stands for that one. -/
def Obligations.FastPath : Prop :=
  ∀ (s : State) (k i : Nat),
    let x := s.stand k
    let c := compOfStand k
    (s.islandsOff c = true ∨ x.fastDropped = true ∨ 4 ≤ x.step ∨ 10 * i ≤ 11 * s.ceilOf k → exec (.fastDrop k i) s = .next s)
    ∧ (s.islandsOff c = false → x.fastDropped = false → x.step < 4 → 11 * s.ceilOf k < 10 * i → ∃ t, exec (.fastDrop k i) s = .next t
      ∧ t.stand k = { x with step := x.step + 1, fastDropped := true, pendingStep := none, lastChange := s.now }
      ∧ (∀ u, u ≠ k → t.stand u = s.stand u) ∧ (∀ u, u ≠ c → t.comp u = s.comp u) ∧ (t.comp c).supply = min (s.comp c).supply (t.requested c)
      ∧ t.pwr.fastDrops = s.pwr.fastDrops + 1 ∧ t.pwr.stepChanges = s.pwr.stepChanges + 1 ∧ t.mem = s.mem ∧ t.cores = s.cores
      ∧ t.outputs = s.outputs)
    ∧ (∀ reading, s.islandsOff c = false → x.runSince + 100 ≤ s.now → ∃ t, exec (.islandEvaluation k i reading) s = .next t
      ∧ (x.lastChange ≠ s.now → (t.stand k).fastDropped = false)
      ∧ (x.lastChange = s.now → (t.stand k).fastDropped = x.fastDropped))

/-! ### Faults, fencing and repair -/

/-- R420, R422, R423, R435, R440, R530: a working core is probed; one that does not answer a probe or a recall, or that the
manager names, is fenced; UNFENCE_CORE returns a core that was fenced alone and passes its self-test to service as after reset,
and waits while a context reset recalls the core's grants. A recalled core answers with nothing requeued. Each has no effect, or
is refused, otherwise. Here the Catalogue's root serves requests, and no invalidation waits for a core. R425, R426: a stand that
is drained takes its new map: the spare is in use and the fenced core restarts as after reset. A fault of an island fences its
stand and one of a regulator its compartment, once, with every core of it and no other. Here no invalidation waits for a core.
-/
def Obligations.Fences : Prop :=
  (∀ (s : State) (c : Nat) (v : BitVec 16), s.serves → s.mem.invWaiting = [] →
     (s.fenced c = false → (s.core c).grant ≠ none ∨ (∃ n, (s.sector (sectorOfCore c)).waiting = [⟨c, n⟩]) →
       exec (.coreProbe c) s = .next (s.setCore c { s.core c with probing := true }))
     ∧ (s.fenced c = true ∨ ((s.core c).grant = none ∧ ∀ w ∈ (s.sector (sectorOfCore c)).waiting, w.core ≠ c) →
       exec (.coreProbe c) s = .next s)
     ∧ ((s.core c).probing = false → exec (.probeTimeout c) s = .next s)
     ∧ ((s.core c).recalling = none → exec (.recallAck c) s = .next s ∧ exec (.recallAckTimeout c) s = .next s)
     ∧ (s.unworked c → s.fenced c = false →
       ((s.core c).probing = true → ∃ t, exec (.probeTimeout c) s = .next t ∧ s.fences t c 2 0 ∧ t.mem = s.mem
         ∧ t.dv.nodes = s.dv.nodes)
       ∧ ((s.core c).recalling.isSome = true → ∃ t, exec (.recallAckTimeout c) s = .next t ∧ s.fences t c 2 0 ∧ t.mem = s.mem
         ∧ (t.core c).recalling = none)
       ∧ (c = v.toNat → c < 16384 → ∃ t, exec (.fenceCore v) s = .next t ∧ t.cat.answer = 0 ∧ s.fences t c 0x12 1
         ∧ t.mem = s.mem ∧ t.dv.nodes = s.dv.nodes))
     ∧ (∀ g d, (s.core c).grant = some g → (s.core c).prevNode = none → (s.core c).recalling = none → g.count = 1 →
       s.node g.node = some d → d.stopped = false → d.isLaunch = true → (s.ring d.ring).aborting = false →
       Map.at d.reissues 0 g.first < s.set.reissueLimit → s.fab.releases = [] → s.fab.waiters = [] → s.flt.recalls = [] → s.fenced c = false →
       (s.core c).probing = true → ∃ t e, exec (.probeTimeout c) s = .next t ∧ s.fences t c 2 0 ∧ t.node g.node = some e
         ∧ e.requeue = d.requeue ++ [⟨g.first, g.alt, true, d.barredFrom g.first⟩] ∧ e.outstanding = d.outstanding - 1
         ∧ e.reissues = Map.put d.reissues g.first (Map.at d.reissues 0 g.first + 1) ∧ t.mem = s.mem)
     ∧ (16384 ≤ v.toNat → ∀ b, exec (.fenceCore v) s = .next (s.answers 0x0C000006)
       ∧ exec (.unfenceCore v b) s = .next (s.answers 0x0C000006))
     ∧ (c = v.toNat → c < 16384 →
       (s.fenced c = true → exec (.fenceCore v) s = .next (s.answers 0x0C000007))
       ∧ (s.dv.resetting = none → s.fenced c = false ∨ (s.stand (standOfCore c)).draining = true
           ∨ (s.stand (standOfCore c)).standFenced = true ∨ (s.comp (compOfCore c)).fenced = true →
         ∀ b, exec (.unfenceCore v b) s = .next (s.answers 0x0C000007))
       ∧ (s.dv.resetting = none → exec (.unfenceCore v false) s = .next (s.answers 0x0C000007))
       ∧ (s.dv.resetting.isSome = true → c ∈ s.flt.resetCores → s.fenced c = true → ∀ b, exec (.unfenceCore v b) s =
         .next { s with flt := { s.flt with unfences := s.flt.unfences ++ [(c, b)] } })
       ∧ (s.dv.resetting = none → s.fenced c = true → (s.stand (standOfCore c)).draining = false →
         (s.stand (standOfCore c)).standFenced = false → (s.comp (compOfCore c)).fenced = false → ∃ t,
         exec (.unfenceCore v true) s = .next t ∧ t.cat.answer = 0 ∧ t.fenced c = false ∧ (∀ d, d ≠ c → t.fenced d = s.fenced d)
           ∧ t.core c = { Core.reset with dispatchLoop := true, front := .waitingGrant, askCount := 1 }
           ∧ (∀ d, d ≠ c → t.core d = s.core d) ∧ ⟨c, 1⟩ ∈ (t.sector (sectorOfCore c)).waiting
           ∧ t.flt.entries = s.flt.entries.filter (fun e => !(e.kind == 2 && e.a == c)) ∧ t.mem = s.mem ∧ t.dv.nodes = s.dv.nodes))
     ∧ (∀ g d n, (s.core c).recalling = some n → (s.core c).grant = some g → s.fab.waiters = [] →
       s.node g.node = some d →
       (∀ x, s.flt.recalls = [⟨n, [c, x], false⟩] → x ≠ c → ∃ t, exec (.recallAck c) s = .next t ∧ t.flt.recalls = [⟨n, [x], false⟩]
         ∧ (t.core c).grant = none ∧ (t.core c).recalling = none ∧ (t.core c).dispatchLoop = true
         ∧ (t.core c).front = (if (t.core c).drained t.now then .waitingGrant else .draining)
         ∧ t.node g.node = some { d with outstanding := d.outstanding - g.count } ∧ t.mem = s.mem)
       ∧ (s.flt.recalls = [⟨n, [c], true⟩] → n = g.node → s.dv.resetting = none → 0 < d.nextItem → d.isLaunch = true →
         ∃ t e, exec (.recallAck c) s = .next t ∧ t.flt.recalls = [] ∧ (t.core c).grant = none
         ∧ t.node n = some e ∧ e.requeue = (List.range d.nextItem).map (fun i => ⟨i, false, true, d.barredFrom i⟩) ∧ e.outstanding = 0
         ∧ e.stopped = false ∧ t.mem = s.mem)))
  ∧
  (∀ (s : State) (k : Nat), s.mem.invWaiting = [] →
     (s.standDrained k = false ∨ (s.stand k).substituting = none → exec (.standDrained k) s = .next s)
     ∧ (∀ c, (s.stand k).substituting = some c → standOfCore c = k → s.standDrained k = true → (s.stand k).standFenced = false →
       (s.comp (compOfCore c)).fenced = false → ∃ t, exec (.standDrained k) s = .next t ∧ t.fenced c = false
       ∧ (t.stand k).sparePos = (s.stand k).position (c % 16) ∧ (t.stand k).spareState = 1 ∧ (t.stand k).draining = false
       ∧ (t.stand k).substituting = none ∧ (t.stand k).mem = (s.stand k).mem ∧ (∀ d, d ≠ c → t.core d = s.core d)
       ∧ t.core c = { Core.reset with dispatchLoop := true, front := .waitingGrant, askCount := 1 }
       ∧ (∀ u, u ≠ k → t.stand u = s.stand u) ∧ t.mem = s.mem ∧ t.flt = s.flt)
     ∧ ((s.stand k).standFenced = true → exec (.islandFault k) s = .next s)
     ∧ ((s.stand k).standFenced = false → ∃ t e, exec (.islandFault k) s = .next t ∧ (t.stand k).standFenced = true
       ∧ (∀ c, standOfCore c = k → t.fenced c = true) ∧ (s.coresIdle → ∀ c, standOfCore c ≠ k → t.fenced c = s.fenced c) ∧ t.flt.fence = true
       ∧ t.flt.log.getLast? = some e ∧ e.cls = 5 ∧ e.action = 1 ∧ e.location = k)
     ∧ ((s.comp k).fenced = true → exec (.regulatorFault k) s = .next s)
     ∧ ((s.comp k).fenced = false → ∃ t e, exec (.regulatorFault k) s = .next t ∧ (t.comp k).fenced = true
       ∧ (∀ c, compOfCore c = k → t.fenced c = true) ∧ (s.coresIdle → ∀ c, compOfCore c ≠ k → t.fenced c = s.fenced c) ∧ t.flt.fence = true
       ∧ t.flt.log.getLast? = some e ∧ e.cls = 7 ∧ e.action = 1 ∧ e.location = k))

/-- R421, R428, R431–R434: a lost word of a node or a command queue faults its ring, and a lost row is mapped out; a corrected
one is counted, and its row is repaired at the limit; a failing mover or gather unit is fenced once; a Meridian lane that fails
two tests is replaced by the next spare, narrows its direction when none is left, and a link below 64 good lanes faults the
rings; a control core that fails is held in reset and the half's spare takes its roles, unless it is halted for debug.
R438–R440: a repair table is loaded only with the block's UIDs, its own CHECK and entries that R439 lays out, and while no ring
is enabled; its entries become the table and take effect, and GENERATION is the loaded one when nothing is added to it. Here the
Catalogue's root serves requests. -/
def Obligations.Repairs : Prop :=
  (∀ (s : State) (n : Nat) (queueWord : Bool),
     ((∀ d, s.node n = some d → d.live = false) → exec (.nodeLost n ⟨queueWord, .uncorrectable⟩) s = .next s)
     ∧ exec (.nodeLost n ⟨queueWord, .clean⟩) s = .next s
     ∧ (∀ row, s.flt.rowErrors = [] → ∃ t, exec (.nodeLost n ⟨queueWord, .corrected row⟩) s = .next t
       ∧ (queueWord = false → t.flt.memoryCe = s.flt.memoryCe + 1 ∧ t.flt.queueCe = s.flt.queueCe)
       ∧ (queueWord = true → t.flt.queueCe = s.flt.queueCe + 1 ∧ t.flt.memoryCe = s.flt.memoryCe) ∧ t.dv = s.dv ∧ t.rings = s.rings ∧ t.mem = s.mem ∧ t.cores = s.cores
       ∧ (1 < s.set.ceRowLimit → t.flt.rowErrors = [(if queueWord then arrayQueue (halfOfNode n) else arrayNode (halfOfNode n), row,
         [s.now])] ∧ t.flt.rowsRepaired = s.flt.rowsRepaired)
       ∧ (s.set.ceRowLimit ≤ 1 → queueWord = false → Map.at s.flt.sparesRows 0 (arrayNode (halfOfNode n)) < 64 →
         t.flt.rowErrors = [] ∧ t.flt.rowsRepaired = s.flt.rowsRepaired + 1))
     ∧ (∀ d, s.node n = some d → d.live = true → d.ring < 8192 → (s.ring d.ring).enabled = true → (s.ring d.ring).fault = none → ∃ t f,
       exec (.nodeLost n ⟨queueWord, .uncorrectable⟩) s = .next t ∧ (t.ring d.ring).fault = some f ∧ f.node = some n ∧ f.seq = d.seq
         ∧ f.cause = (if queueWord then fcQueueLost else fcNodeLost) ∧ t.dv.nodes = s.dv.nodes
         ∧ (queueWord = true → t.flt.rowsRepaired = s.flt.rowsRepaired)
         ∧ (queueWord = false → Map.at s.flt.sparesRows 0 (arrayNode (halfOfNode n)) < 64 → t.flt.rowsRepaired = s.flt.rowsRepaired + 1))
     ∧ (∀ b u, (b2n b, u) ∈ s.flt.unitsFenced → exec (.unitFault b u) s = .next s)
     ∧ (∀ b u, (b2n b, u) ∉ s.flt.unitsFenced → ∃ t e, exec (.unitFault b u) s = .next t
       ∧ t.flt.unitsFenced = s.flt.unitsFenced ++ [(b2n b, u)] ∧ t.flt.fence = true ∧ t.flt.log.getLast? = some e ∧ e.cls = 0x10
       ∧ (s.flt.entries.length < 4092 → t.flt.entries = s.flt.entries ++ [⟨11, 0, b2n b + 2 * (u % 256), 0, s.now⟩])
       ∧ t.dv = s.dv ∧ t.mem = s.mem)
     ∧ (∀ dir l, dir < 2 → l < 136 →
       let old := if dir = 0 then s.flt.meridianSuspect0 else s.flt.meridianSuspect1
       (s.flt.meridianDown = false → 64 ≤ s.flt.goodLanes 0 → 64 ≤ s.flt.goodLanes 1 → l ∉ old → ∃ t,
         exec (.meridianLaneTest dir [l]) s = .next t ∧ { t with flt := s.flt } = s
           ∧ (if dir = 0 then t.flt.meridianSuspect0 else t.flt.meridianSuspect1) = [l] ∧ t.flt.meridianFailed dir = s.flt.meridianFailed dir)
       ∧ (l ∈ old → l ∉ s.flt.meridianFailed dir → l < 128 + s.flt.meridianSpares dir → s.flt.meridianDown = false →
         65 ≤ s.flt.goodLanes dir → 64 ≤ s.flt.goodLanes (1 - dir) → ∃ t, exec (.meridianLaneTest dir [l]) s = .next t
           ∧ t.flt.meridianFailed dir = s.flt.meridianFailed dir ++ [l] ∧ t.rings = s.rings ∧ t.mem = s.mem
           ∧ (∀ j, nextSpare (s.flt.meridianFailed dir ++ [l]) (s.flt.meridianSpares dir) = some j →
             t.flt.meridianSpares dir = j + 1 ∧ t.flt.lanesSpared = s.flt.lanesSpared + 1
             ∧ t.flt.meridianNarrow dir = s.flt.meridianNarrow dir)
           ∧ (nextSpare (s.flt.meridianFailed dir ++ [l]) (s.flt.meridianSpares dir) = none →
             t.flt.meridianNarrow dir = true ∧ t.flt.lanesSpared = s.flt.lanesSpared
             ∧ (s.flt.meridianNarrow dir = false → t.flt.spare = true ∧ t.flt.degraded = true)))
       ∧ (∀ r g, s.flt.meridianDown = false → s.flt.goodLanes dir < 64 → l ∉ old → s.rings = [(r, g)] → r < 8192 → g.enabled = true →
         g.fault = none → ∃ t f, exec (.meridianLaneTest dir [l]) s = .next t ∧ t.flt.meridianDown = true ∧ (t.ring r).fault = some f
           ∧ f.cause = fcMeridianDown))
     ∧ (∀ h k, h < 2 → k < 5 →
       (5 * h + k ∈ s.dbg.halted → exec (.heartbeatTimeout h k) s = .next s)
       ∧ (8 * h + k ∈ s.flt.controlFailed → s.cat.waiting = [] → exec (.controlCoreMemoryError h k) s = .next s)
       ∧ (∀ i, i = .controlCoreMemoryError h k ∨ (i = .heartbeatTimeout h k ∧ 5 * h + k ∉ s.dbg.halted) →
         8 * h + k ∉ s.flt.controlFailed → s.cat.waiting = [] → ∃ t, exec i s = .next t
         ∧ t.flt.controlFailed = s.flt.controlFailed ++ [8 * h + k] ∧ t.mem = s.mem ∧ t.rings = s.rings ∧ t.dv = s.dv
         ∧ (k < 4 → (if h = 0 then s.flt.spareTaken0 else s.flt.spareTaken1) = false → 8 * h + 4 ∉ s.flt.controlFailed →
           (if h = 0 then t.flt.spareTaken0 else t.flt.spareTaken1) = true ∧ t.flt.takeovers = s.flt.takeovers + 1)
         ∧ ((if h = 0 then s.flt.spareTaken0 else s.flt.spareTaken1) = true → t.flt.degraded = true
           ∧ t.flt.takeovers = s.flt.takeovers))))
  ∧
  (∀ (s : State) (b : List Byte), s.serves →
     let es := (List.range (field b 2 2)).map fun i => RepairEntry.ofBytes (slice b (48 + 16 * i) 16)
     let good := 48 ≤ b.length ∧ field b 0 2 = 0x0301 ∧ field b 2 2 ≤ 4092 ∧ b.length = 48 + 16 * field b 2 2
       ∧ slice b 8 16 = s.fuses.uid0 ∧ slice b 24 16 = s.fuses.uid1 ∧ field b 40 4 = (crc32c (tableChecked b)).toNat
       ∧ ∀ e ∈ es, e.ok = true
     (¬ good → exec (.repairLoad b) s = .next (s.answers 0x0C000006))
     ∧ (good → (∃ p ∈ s.rings, p.2.enabled = true) →
       exec (.repairLoad b) s = .next (s.answers 0x0C000007))
     ∧ (good → (∀ p ∈ s.rings, p.2.enabled = false) → s.boot.findings = [] → s.boot.rowFindings = [] →
       (∀ e ∈ s.flt.entries, e.kind < 3) → s.coresIdle → ∃ t, exec (.repairLoad b) s = .next t ∧ t.cat.answer = 0 ∧ t.flt.entries = es
       ∧ t.flt.generation = BitVec.ofNat 32 (field b 4 4) ∧ t.fuses = s.fuses
       ∧ (∀ e, es = [e] → (e.kind = 1 → (t.stand e.a).sparePos = e.b ∧ (t.stand e.a).spareState = 1)
         ∧ (e.kind = 2 → t.fenced e.a = true) ∧ (e.kind = 3 → (t.stand e.a).standFenced = true)
         ∧ (e.kind = 4 → (t.comp e.a).fenced = true) ∧ (e.kind = 8 → (t.xport e.a).failed = true)
         ∧ (e.kind = 11 → (e.a % 2, e.a / 2) ∈ t.flt.unitsFenced))))

/-! ### Debug, trace and counters -/

/-- R458, R459, R488, R489, R512: DEBUG_LOCK only sets bits; CC_DEBUG resumes every halted hart and fails every access of the
debug module, and SCAN leaves the mandatory instructions of the test port. A hart that halts at a breakpoint or by dmcontrol
makes the halves drain that HALT_MODE names, and the resume of the last ends it. A write of DEBUG_LOCK is one that the
Catalogue's root serves. -/
def Obligations.DebugPort : Prop :=
  ∀ (s : State) (v : Byte) (n : Nat) (data : Word), s.cat.waiting = [] →
    let old := s.set.debugLock
    let done (t : State) (result : Nat) : Prop := t.dbg.dbgDone = true ∧ t.dbg.dbgBusy = false ∧ t.dbg.dbgResult = result
      ∧ t.dbg.dbgDoneEvents = s.dbg.dbgDoneEvents + 1 ∧ t.mem = s.mem ∧ t.cores = s.cores ∧ t.set = s.set
    (s.serves → old &&& (v &&& 7) ≠ old &&& 7 → exec (.debugLock v) s = .next (s.answers 0x0C000007))
    ∧ (s.serves → old &&& (v &&& 7) = old &&& 7 → ∃ t, exec (.debugLock v) s = .next t ∧ t.cat.answer = 0
      ∧ t.set = { s.set with debugLock := old ||| (v &&& 7) } ∧ t.mem = s.mem ∧ t.cores = s.cores
      ∧ (v.getLsbD 0 = true → old.getLsbD 0 = false → t.dbg.halted = [])
      ∧ (v.getLsbD 1 = true → old.getLsbD 1 = false → t.tracing = false ∧ t.dbg.fifo = []
        ∧ t.dbg.traceState = if s.dbg.traceEnable then 3 else s.dbg.traceState))
    ∧ (n < 10 → n ∉ s.dbg.halted → s.flt.controlFailed.contains (8 * (n / 5) + n % 5) = false →
      let halts (t : State) : Prop := n ∈ t.dbg.halted ∧ t.mem = s.mem ∧ t.rings = s.rings
        ∧ (∀ h < 2, t.timersHeld h = (s.timersHeld h || s.dbg.haltMode == 2 || (s.dbg.haltMode != 0 && n / 5 == h)))
      (old.getLsbD 0 = true → exec (.hartBreakpoint n) s = .next s)
      ∧ (old.getLsbD 0 = false → s.dbg.haltMode ≤ 2 → (∃ t, exec (.hartBreakpoint n) s = .next t ∧ halts t)
        ∧ (s.dbg.dmactive = true → data = BitVec.ofNat 32 (0x80000001 + 65536 * n) →
          ∃ t, exec (.dmiAccess 0x10 2 data) s = .next t ∧ halts t ∧ done t 0)))
    ∧ (10 ≤ n ∨ n ∈ s.dbg.halted → exec (.hartBreakpoint n) s = .next s)
    ∧ (n < 10 → s.dbg.halted = [n] → old.getLsbD 0 = false → s.dbg.dmactive = true →
      data = BitVec.ofNat 32 (0x40000001 + 65536 * n) → ∃ t, exec (.dmiAccess 0x10 2 data) s = .next t ∧ t.dbg.halted = []
        ∧ t.timersHeld 0 = false ∧ t.timersHeld 1 = false ∧ t.dbg.dbgResult = 0 ∧ t.dbg.dbgDone = true ∧ t.mem = s.mem)
    ∧ (∀ a op, old.getLsbD 0 = true ∨ (op ≠ 1 ∧ op ≠ 2) → ∃ t, exec (.dmiAccess a op data) s = .next t ∧ done t 2
      ∧ t.dbg.dbgData = 0 ∧ t.dbg.halted = s.dbg.halted)
    ∧ (∀ a, old.getLsbD 0 = false → ∃ t, exec (.dmiAccess a 1 data) s = .next t ∧ done t 0 ∧ t.dbg.halted = s.dbg.halted
      ∧ t.dbg.dbgData = Config.debugRead s.freeCtr a ∧ t.freeCtr = s.freeCtr + 1)
    ∧ (∀ h, (s.timersHeld h = true → s.isDrained h = true → h ∉ s.dbg.drained →
        exec (.halfDrained h) s = .next { s with dbg := { s.dbg with drained := s.dbg.drained ++ [h] } })
      ∧ (s.timersHeld h = false ∨ s.isDrained h = false ∨ h ∈ s.dbg.drained → exec (.halfDrained h) s = .next s))
    ∧ (∀ ir, (old.getLsbD 2 = true → exec (.testPortAccess ir false) s = .next s)
      ∧ (∀ m, old.getLsbD 2 = false ∨ m = true → ∃ t, exec (.testPortAccess ir m) s = .next t ∧ t.dbg.tapIr = ir
        ∧ t.outputs = s.outputs ++ [.testPort ir (Config.tapOut s.freeCtr ir)] ∧ t.freeCtr = s.freeCtr + 1 ∧ t.mem = s.mem
        ∧ t.cores = s.cores))

/-- R473, R476, R480–R484: TRACE_ENABLE starts the stream with a SYNC record and its indices at 0, or stops it; a trigger
inserts a TRIGGER record and fixes the window, whose end stops the stream. Each has no effect, or is refused, when its rule says
so. The PC sample of a stand takes every core of it that is not fenced (R411). The sink is the trace port, ready and with empty
FIFOs, and the Catalogue's root serves requests. -/
def Obligations.TraceStream : Prop :=
  ∀ (s : State), s.dbg.sink = 0 → s.dbg.traceReady = true → s.dbg.fifo = [] → s.dbg.lost0 = 0 → s.dbg.lost1 = 0 →
    s.dbg.traceBlock = [] → s.serves →
    let d := s.dbg
    let sync : List Byte := [0x0A] ++ List.replicate 7 0 ++ u64 s.now
    (∀ v : Byte, 2 ≤ v.toNat → exec (.traceEnable v) s = .next (s.answers 0x0C000006)
      ∧ exec (.triggerNow v) s = .next (s.answers 0x0C000006))
    ∧ (s.set.debugLock.getLsbD 1 = true ∨ d.traceMode = 1 →
      exec (.traceEnable 1) s = .next (s.answers 0x0C000007))
    ∧ (s.set.debugLock.getLsbD 1 = false → d.traceMode ≠ 1 → ∃ t, exec (.traceEnable 1) s = .next t ∧ t.cat.answer = 0
      ∧ t.tracing = true ∧ t.dbg.traceState = 1 ∧ t.dbg.writeIndex = 1 ∧ t.dbg.triggerIndex = 0 ∧ t.dbg.wrapped = false
      ∧ t.dbg.armed = true ∧ t.outputs = s.outputs ++ [.traceRecord sync] ∧ t.mem = s.mem ∧ t.rings = s.rings)
    ∧ (d.traceEnable = true → ∃ t, exec (.traceEnable 0) s = .next t ∧ t.cat.answer = 0 ∧ t.dbg.traceEnable = false
      ∧ t.dbg.armed = false ∧ t.dbg.traceState = (if d.traceMode = 2 ∧ d.traceState = 2 then 3 else 0)
      ∧ t.outputs = s.outputs ∧ t.mem = s.mem)
    ∧ (d.traceEnable = false ∨ s.set.debugLock.getLsbD 1 = true ∨ d.armed = false ∨ d.triggerSelect.getLsbD 5 = false
        ∨ d.traceState ≠ 1 → exec (.triggerNow 1) s = .next (s.answers 0))
    ∧ (s.tracing = true → d.traceMode ≠ 1 → d.traceState = 1 → d.armed = true → d.triggerSelect.getLsbD 5 = true → ∃ t,
      exec (.triggerNow 1) s = .next t ∧ t.cat.answer = 0 ∧ t.dbg.armed = false ∧ t.dbg.traceState = 2
        ∧ t.dbg.triggerIndex = d.writeIndex ∧ t.dbg.writeIndex = d.writeIndex + 1 ∧ t.dbg.windowLeft = d.triggerPost
        ∧ t.outputs = s.outputs ++ [.traceRecord ([0x0E, 5] ++ u16 0 ++ u32 0 ++ u64 s.now)]
        ∧ t.dbg.eventFreeze = (d.eventFreeze || d.freezeOn.getLsbD 0) ∧ t.mem = s.mem)
    ∧ (d.traceMode = 2 ∧ d.traceState = 2 ∧ d.windowLeft = 0 →
      exec .windowEnd s = .next { s with dbg := { d with traceState := 3 } })
    ∧ (d.traceMode ≠ 2 ∨ d.traceState ≠ 2 ∨ d.windowLeft ≠ 0 → exec .windowEnd s = .next s)
    ∧ (s.tracing = false ∨ d.streamClosed = true → exec .syncRecordTimer s = .next s)
    ∧ (s.tracing = true → d.streamClosed = false → ∃ t, exec .syncRecordTimer s = .next t
      ∧ t.outputs = s.outputs ++ [.traceRecord sync] ∧ t.dbg.writeIndex = d.writeIndex + 1 ∧ t.mem = s.mem)
    ∧ (∀ k, s.tracing = false ∨ bits d.sampleControl.toNat 8 5 = 0 ∨ bit d.sampleComps.toNat (compOfStand k) = false
        ∨ s.islandsOff (compOfStand k) = true → exec (.pcSampleTimer k) s = .next s)
    ∧ (∀ k, s.tracing = true → bits d.sampleControl.toNat 8 5 ≠ 0 → bit d.sampleComps.toNat (compOfStand k) = true →
      s.islandsOff (compOfStand k) = false → d.sampleControl.getLsbD 2 = false → d.streamClosed = false → d.traceMode = 0 → ∃ t,
      exec (.pcSampleTimer k) s = .next t ∧ (t.stand k).sampleTag = (s.stand k).sampleTag + 1 ∧ t.mem = s.mem ∧ t.cores = s.cores
        ∧ t.dbg.writeIndex = d.writeIndex + ((coresOfStand k).filter fun c => !s.fenced c).length
        ∧ t.outputs = s.outputs ++ (((coresOfStand k).filter fun c => !s.fenced c).map fun c => s.pcGroup c (s.stand k).sampleTag.toNat).flatten.map .traceRecord)
    ∧ (∀ b, exec (.traceReadyChange b) s = .next { s with dbg := { d with traceReady := b } })
    ∧ (∀ h rec, h < 2 → d.streamClosed = false → ∃ t,
      exec (.traceReadyChange true) { s with dbg := { d with traceReady := false, fifo := [(h, rec)] } } = .next t
        ∧ t.dbg.fifo = [] ∧ t.outputs = s.outputs ++ [.traceRecord rec] ∧ t.dbg.writeIndex = d.writeIndex + 1 ∧ t.mem = s.mem)

/-- R468, R470–R472, R487, R490: GC_SELECT sets the selects and clears the counters whose select changed; GC_CLEAR clears all;
CORE_EVENTS selects the events of a context, and the cores it holds reset their counters at their next grant; EVENT_FREEZE
freezes the event rings. Each is refused as its rule says. Here the Catalogue's root serves requests. -/
def Obligations.Counters : Prop :=
  ∀ (s : State) (l : List Word) (v : Byte) (c : Nat) (ev : List (BitVec 16)), s.serves →
    (l.length ≠ 256 → exec (.gcSelect l) s = .next (s.answers 0x0C000005))
    ∧ (l.length = 256 → (∃ w ∈ l, selectOk w.toNat = false) →
      exec (.gcSelect l) s = .next (s.answers 0x0C000006))
    ∧ (l.length = 256 → (∀ w ∈ l, selectOk w.toNat = true) → s.dbg.gcSelect.length = 256 → s.dbg.gcValues.length = 256 → ∃ t,
      exec (.gcSelect l) s = .next t ∧ t.cat.answer = 0 ∧ t.dbg.gcSelect = l ∧ t.dbg.gcValues.length = 256
        ∧ (∀ i, i < 256 → (s.dbg.gcSelect[i]? = l[i]? → t.dbg.gcValues[i]? = s.dbg.gcValues[i]?)
          ∧ (s.dbg.gcSelect[i]? ≠ l[i]? → t.dbg.gcValues[i]? = some 0))
        ∧ { t with dbg := s.dbg, cat := s.cat } = s)
    ∧ (v ≠ 1 → exec (.gcClear v) s = .next (s.answers 0x0C000006))
    ∧ exec (.gcClear 1) s = .next { s with
        dbg := { s.dbg with gcValues := List.replicate 256 0 }
        cat := { s.cat with answer := 0 } }
    ∧ (2 ≤ v.toNat → exec (.eventFreeze v) s = .next (s.answers 0x0C000006))
    ∧ (v.toNat < 2 → exec (.eventFreeze v) s = .next { s with
        dbg := { s.dbg with eventFreeze := v == 1 }
        cat := { s.cat with answer := 0 } })
    ∧ (let bad := ev.any fun w => bits w.toNat 8 7 != 0 || !coreEventOk (w.toNat % 256)
      (ev.length ≠ 8 → exec (.coreEvents c ev) s = .next (s.answers 0x0C000005))
      ∧ (ev.length = 8 → bad = true → exec (.coreEvents c ev) s = .next (s.answers 0x0C000006))
      ∧ (ev.length = 8 → bad = false → s.ctx c = none →
        exec (.coreEvents c ev) s = .next (s.answers 0x0C000007))
      ∧ (∀ x, ev.length = 8 → bad = false → s.ctx c = some x → ∃ t, exec (.coreEvents c ev) s = .next t ∧ t.cat.answer = 0
        ∧ t.ctx c = some { x with coreEvents := ev } ∧ (∀ k, k ≠ c → t.ctx k = s.ctx k) ∧ t.mem = s.mem ∧ t.dv = s.dv
        ∧ ∀ k, k < 16384 → t.core k = if (s.comp (compOfCore k)).holder = some c then { s.core k with counterReset := true }
            else s.core k))
end

