-- ==== Sys2Proof/Laws/Maps.lean ====
section
/-! SUPPORT. Laws of the sparse maps and of the byte memories: what an entry or a byte reads as after a write, and that every
memory operation keeps the canonical form. -/
namespace Sys2Proof.Machine

/-! ### Sparse maps -/

section
variable {α : Type}

@[simp] theorem Map.look_nil (a : Nat) : Map.look ([] : Map α) a = none := rfl

@[simp] theorem Map.look_put_self (m : Map α) (a : Nat) (x : α) : Map.look (Map.put m a x) a = some x := by
  induction m with
  | nil => simp [Map.put, Map.look]
  | cons p m ih =>
    simp only [Map.put]
    split
    · simp [Map.look]
    · split
      · simp [Map.look]
      · simp_all [Map.look]

theorem Map.look_put_ne (m : Map α) {a b : Nat} (x : α) (h : b ≠ a) : Map.look (Map.put m a x) b = Map.look m b := by
  induction m with
  | nil => simp [Map.put, Map.look, h]
  | cons p m ih =>
    simp only [Map.put]
    split
    · simp [Map.look, h]
    · split
      · subst_vars; simp [Map.look, h]
      · simp [Map.look, ih]

theorem Map.look_put (m : Map α) (a b : Nat) (x : α) :
    Map.look (Map.put m a x) b = if b = a then some x else Map.look m b := by
  split
  · subst_vars; simp
  · exact Map.look_put_ne m x ‹_›

@[simp] theorem Map.look_del_self (m : Map α) (a : Nat) : Map.look (Map.del m a) a = none := by
  induction m with
  | nil => rfl
  | cons p m ih =>
    simp only [Map.del]
    split
    · exact ih
    · simp [Map.look, *]

theorem Map.look_del_ne (m : Map α) {a b : Nat} (h : b ≠ a) : Map.look (Map.del m a) b = Map.look m b := by
  induction m with
  | nil => rfl
  | cons p m ih =>
    simp only [Map.del]
    split
    · subst_vars; simp [Map.look, h, ih]
    · simp [Map.look, ih]

theorem Map.look_del (m : Map α) (a b : Nat) : Map.look (Map.del m a) b = if b = a then none else Map.look m b := by
  split
  · subst_vars; simp
  · exact Map.look_del_ne m ‹_›

@[simp] theorem Map.put_put (m : Map α) (a : Nat) (x y : α) : Map.put (Map.put m a x) a y = Map.put m a y := by
  induction m with
  | nil => simp [Map.put]
  | cons p m ih =>
    simp only [Map.put]
    split
    · simp [Map.put]
    · split
      · simp [Map.put]
      · simp [Map.put, *]

@[simp] theorem Map.at_nil (d : α) (a : Nat) : Map.at [] d a = d := rfl

@[simp] theorem Map.at_put_self (m : Map α) (d : α) (a : Nat) (x : α) : Map.at (Map.put m a x) d a = x := by simp [Map.at]

theorem Map.at_put_ne (m : Map α) (d : α) {a b : Nat} (x : α) (h : b ≠ a) : Map.at (Map.put m a x) d b = Map.at m d b := by
  simp [Map.at, Map.look_put_ne m x h]

theorem Map.at_put (m : Map α) (d : α) (a b : Nat) (x : α) :
    Map.at (Map.put m a x) d b = if b = a then x else Map.at m d b := by
  simp only [Map.at, Map.look_put]
  split <;> rfl

theorem Map.at_del (m : Map α) (d : α) (a b : Nat) : Map.at (Map.del m a) d b = if b = a then d else Map.at m d b := by
  simp only [Map.at, Map.look_del]
  split <;> rfl

theorem Map.look_each {β : Type} (m : Map α) (f : Nat → α → β) (a : Nat) :
    Map.look (Map.each m f) a = (Map.look m a).map (f a) := by
  induction m with
  | nil => rfl
  | cons p m ih =>
    simp only [Map.each, List.map_cons, Map.look] at *
    split
    · subst_vars; rfl
    · exact ih

end

/-! ### Byte memories -/

@[simp] theorem Cells.wf_nil : Cells.wf [] = true := rfl

/-- The canonical form of a memory that is not empty: no zero in front, a lower address than what follows, and so on. -/
theorem Cells.wf_cons (a : Nat) (v : Byte) (m : List Host.Cell) :
    Cells.wf ((a, v) :: m) = true ↔ v ≠ 0 ∧ (∀ p ∈ m.head?, a < p.1) ∧ Cells.wf m = true := by
  cases m with
  | nil => simp [Cells.wf]
  | cons q m => obtain ⟨b, w⟩ := q; simp [Cells.wf, and_assoc]

theorem Cells.head_write (m : List Host.Cell) (a b : Nat) (v : Byte) (hb : b < a) (hm : ∀ p ∈ m.head?, b < p.1)
    (hs : ∀ p ∈ m.tail.head?, b < p.1) : ∀ p ∈ (Cells.write m a v).head?, b < p.1 := by
  cases m with
  | nil => simp only [Cells.write]; split <;> simp_all
  | cons q m =>
    obtain ⟨c, w⟩ := q
    simp only [Cells.write]
    split
    · split <;> simp_all
    · split
      · split <;> simp_all
      · simp_all

/-- A write keeps the canonical form. -/
theorem Cells.wf_write (m : List Host.Cell) (a : Nat) (v : Byte) (h : Cells.wf m = true) :
    Cells.wf (Cells.write m a v) = true := by
  induction m with
  | nil => simp only [Cells.write]; split <;> simp_all [Cells.wf]
  | cons q m ih =>
    obtain ⟨b, w⟩ := q
    have hh := (Cells.wf_cons b w m).1 h
    obtain ⟨hw, hb, hm⟩ := hh
    have hs : ∀ p ∈ m.tail.head?, b < p.1 := by
      cases m with
      | nil => simp
      | cons r m =>
        obtain ⟨c, x⟩ := r
        have h2 := ((Cells.wf_cons c x m).1 hm).2.1
        simp only [List.head?_cons, Option.mem_def, Option.some.injEq, forall_eq'] at hb
        intro p hp
        exact Nat.lt_trans hb (h2 p hp)
    simp only [Cells.write]
    split
    · split
      · exact h
      · rw [Cells.wf_cons]; exact ⟨‹_›, by simpa, h⟩
    · split
      · subst_vars
        split
        · exact hm
        · rw [Cells.wf_cons]; exact ⟨‹_›, hb, hm⟩
      · rw [Cells.wf_cons]
        exact ⟨hw, Cells.head_write m a b v (by omega) hb hs, ih hm⟩

/-- A store keeps the canonical form. -/
theorem Cells.wf_store (m : List Host.Cell) (a : Nat) (bs : List Byte) (h : Cells.wf m = true) :
    Cells.wf (Cells.store m a bs) = true := by
  induction bs generalizing m a with
  | nil => exact h
  | cons v vs ih => exact ih _ _ (Cells.wf_write m a v h)

/-- Below the first listed address every byte reads 0. -/
theorem Cells.read_below (m : List Host.Cell) (a : Nat) (h : Cells.wf m = true) (hb : ∀ p ∈ m.head?, a < p.1) :
    Cells.read m a = 0 := by
  induction m with
  | nil => rfl
  | cons q m ih =>
    obtain ⟨b, w⟩ := q
    obtain ⟨-, h1, hm⟩ := (Cells.wf_cons b w m).1 h
    simp only [List.head?_cons, Option.mem_def, Option.some.injEq, forall_eq'] at hb
    simp only [Cells.read, if_neg (Nat.ne_of_lt hb)]
    exact ih hm fun p hp => Nat.lt_trans hb (h1 p hp)

/-- A byte reads as it was written. -/
theorem Cells.read_write_self (m : List Host.Cell) (a : Nat) (v : Byte) (h : Cells.wf m = true) :
    Cells.read (Cells.write m a v) a = v := by
  induction m with
  | nil => simp only [Cells.write]; split <;> simp_all [Cells.read]
  | cons q m ih =>
    obtain ⟨b, w⟩ := q
    obtain ⟨-, h1, hm⟩ := (Cells.wf_cons b w m).1 h
    simp only [Cells.write]
    split
    · split
      · rw [Cells.read_below _ _ h (by simpa)]; simp_all
      · simp [Cells.read]
    · split
      · subst_vars
        split
        · rw [Cells.read_below _ _ hm h1]; simp_all
        · simp [Cells.read]
      · simp_all [Cells.read]

/-- A write leaves every other byte as it was. -/
theorem Cells.read_write_ne (m : List Host.Cell) {a b : Nat} (v : Byte) (h : b ≠ a) :
    Cells.read (Cells.write m a v) b = Cells.read m b := by
  induction m with
  | nil => simp only [Cells.write]; split <;> simp_all [Cells.read]
  | cons q m ih =>
    simp only [Cells.write]
    split
    · split <;> simp_all [Cells.read]
    · split
      · split <;> simp_all [Cells.read]
      · simp_all [Cells.read]

/-- A store leaves every byte outside the stored ones as it was. -/
theorem Cells.read_store_outside (m : List Host.Cell) (a b : Nat) (bs : List Byte) (h : b < a ∨ a + bs.length ≤ b) :
    Cells.read (Cells.store m a bs) b = Cells.read m b := by
  induction bs generalizing m a with
  | nil => rfl
  | cons v vs ih =>
    simp only [List.length_cons] at h
    simp only [Cells.store]
    rw [ih _ _ (by omega), Cells.read_write_ne _ _ (by omega)]

/-- A stored byte reads as it was stored. -/
theorem Cells.read_store_inside (m : List Host.Cell) (a i : Nat) (bs : List Byte) (h : Cells.wf m = true) (hi : i < bs.length) :
    Cells.read (Cells.store m a bs) (a + i) = bs[i] := by
  induction bs generalizing m a i with
  | nil => simp at hi
  | cons v vs ih =>
    simp only [Cells.store]
    cases i with
    | zero => rw [Cells.read_store_outside _ _ _ _ (by omega)]; simpa using Cells.read_write_self m a v h
    | succ i =>
      have := ih (Cells.write m a v) (a + 1) i (Cells.wf_write m a v h) (by simpa using hi)
      simpa [Nat.add_assoc, Nat.add_comm 1 i] using this

@[simp] theorem Cells.length_bytes (m : List Host.Cell) (a n : Nat) : (Cells.bytes m a n).length = n := by
  induction n generalizing a with
  | zero => rfl
  | succ n ih => simp [Cells.bytes, ih]

theorem Cells.getElem_bytes (m : List Host.Cell) (a n i : Nat) (h : i < (Cells.bytes m a n).length) :
    (Cells.bytes m a n)[i] = Cells.read m (a + i) := by
  induction n generalizing a i with
  | zero => simp at h
  | succ n ih =>
    cases i with
    | zero => rfl
    | succ i =>
      simp only [Cells.bytes, List.getElem_cons_succ]
      rw [ih (a + 1) i (by simpa using h)]
      congr 1
      omega

theorem Cells.bytes_congr (m m' : List Host.Cell) (a n : Nat) (h : ∀ i, i < n → Cells.read m (a + i) = Cells.read m' (a + i)) :
    Cells.bytes m a n = Cells.bytes m' a n := by
  apply List.ext_getElem
  · simp
  · intro i h1 h2
    rw [Cells.getElem_bytes, Cells.getElem_bytes]
    exact h i (by simpa using h1)

/-- The stored bytes read back. -/
theorem Cells.bytes_store (m : List Host.Cell) (a : Nat) (bs : List Byte) (h : Cells.wf m = true) :
    Cells.bytes (Cells.store m a bs) a bs.length = bs := by
  apply List.ext_getElem
  · simp
  · intro i h1 h2
    rw [Cells.getElem_bytes, Cells.read_store_inside m a i bs h h2]

/-- Bytes outside the stored ones read as before. -/
theorem Cells.bytes_store_outside (m : List Host.Cell) (a b n : Nat) (bs : List Byte) (h : b + n ≤ a ∨ a + bs.length ≤ b) :
    Cells.bytes (Cells.store m a bs) b n = Cells.bytes m b n :=
  Cells.bytes_congr _ _ _ _ fun i hi => Cells.read_store_outside m a (b + i) bs (by omega)

/-- Canonical memories that read alike are equal. -/
theorem Cells.ext (m m' : List Host.Cell) (h : Cells.wf m = true) (h' : Cells.wf m' = true)
    (hr : ∀ a, Cells.read m a = Cells.read m' a) : m = m' := by
  induction m generalizing m' with
  | nil =>
    cases m' with
    | nil => rfl
    | cons q m' =>
      obtain ⟨b, w⟩ := q
      have := hr b
      simp [Cells.read] at this
      exact absurd this.symm ((Cells.wf_cons b w m').1 h').1
  | cons q m ih =>
    obtain ⟨b, w⟩ := q
    obtain ⟨hw, hb, hm⟩ := (Cells.wf_cons b w m).1 h
    cases m' with
    | nil =>
      have := hr b
      simp [Cells.read] at this
      exact absurd this hw
    | cons r m' =>
      obtain ⟨c, x⟩ := r
      obtain ⟨hx, hc, hm'⟩ := (Cells.wf_cons c x m').1 h'
      have hbc : b = c := by
        rcases Nat.lt_trichotomy b c with hlt | heq | hgt
        · have e := hr b
          rw [Cells.read_below ((c, x) :: m') b h' (by simpa using hlt)] at e
          simp [Cells.read] at e
          exact absurd e hw
        · exact heq
        · have e := hr c
          rw [Cells.read_below ((b, w) :: m) c h (by simpa using hgt)] at e
          simp [Cells.read] at e
          exact absurd e.symm hx
      subst hbc
      have hwx : w = x := by simpa [Cells.read] using hr b
      subst hwx
      congr 1
      refine ih m' hm hm' fun a => ?_
      by_cases e : a = b
      · subst e
        rw [Cells.read_below m a hm hb, Cells.read_below m' a hm' hc]
      · simpa [Cells.read, e] using hr a

end Sys2Proof.Machine
end

