-- ==== Sys2Proof/Laws/State.lean ====
section
/-! SUPPORT. Laws of the parts of the state: what an update of one part leaves of every other part, and what the updated part
reads as. -/
namespace Sys2Proof.Machine

/-! ### setCore -/

@[simp] theorem State.setCore_straps (s : State) (c : Nat) (k : Core) : (s.setCore c k).straps = s.straps := rfl
@[simp] theorem State.setCore_fuses (s : State) (c : Nat) (k : Core) : (s.setCore c k).fuses = s.fuses := rfl
@[simp] theorem State.setCore_boot (s : State) (c : Nat) (k : Core) : (s.setCore c k).boot = s.boot := rfl
@[simp] theorem State.setCore_cat (s : State) (c : Nat) (k : Core) : (s.setCore c k).cat = s.cat := rfl
@[simp] theorem State.setCore_set (s : State) (c : Nat) (k : Core) : (s.setCore c k).set = s.set := rfl
@[simp] theorem State.setCore_ctxs (s : State) (c : Nat) (k : Core) : (s.setCore c k).ctxs = s.ctxs := rfl
@[simp] theorem State.setCore_rings (s : State) (c : Nat) (k : Core) : (s.setCore c k).rings = s.rings := rfl
@[simp] theorem State.setCore_dv (s : State) (c : Nat) (k : Core) : (s.setCore c k).dv = s.dv := rfl
@[simp] theorem State.setCore_stands (s : State) (c : Nat) (k : Core) : (s.setCore c k).stands = s.stands := rfl
@[simp] theorem State.setCore_fab (s : State) (c : Nat) (k : Core) : (s.setCore c k).fab = s.fab := rfl
@[simp] theorem State.setCore_ecl (s : State) (c : Nat) (k : Core) : (s.setCore c k).ecl = s.ecl := rfl
@[simp] theorem State.setCore_clock (s : State) (c : Nat) (k : Core) : (s.setCore c k).clock = s.clock := rfl
@[simp] theorem State.setCore_mem (s : State) (c : Nat) (k : Core) : (s.setCore c k).mem = s.mem := rfl
@[simp] theorem State.setCore_exp (s : State) (c : Nat) (k : Core) : (s.setCore c k).exp = s.exp := rfl
@[simp] theorem State.setCore_flt (s : State) (c : Nat) (k : Core) : (s.setCore c k).flt = s.flt := rfl
@[simp] theorem State.setCore_dbg (s : State) (c : Nat) (k : Core) : (s.setCore c k).dbg = s.dbg := rfl
@[simp] theorem State.setCore_pwr (s : State) (c : Nat) (k : Core) : (s.setCore c k).pwr = s.pwr := rfl
@[simp] theorem State.setCore_outputs (s : State) (c : Nat) (k : Core) : (s.setCore c k).outputs = s.outputs := rfl
@[simp] theorem State.setCore_freeCtr (s : State) (c : Nat) (k : Core) : (s.setCore c k).freeCtr = s.freeCtr := rfl
@[simp] theorem State.setCore_pending (s : State) (c : Nat) (k : Core) : (s.setCore c k).pending = s.pending := rfl
@[simp] theorem State.setCore_now_eq (s : State) (c : Nat) (k : Core) : (s.setCore c k).now = s.now := rfl
@[simp] theorem State.setCore_ring_eq (s : State) (c : Nat) (k : Core) (i : Nat) : (s.setCore c k).ring i = s.ring i := rfl
@[simp] theorem State.setCore_node_eq (s : State) (c : Nat) (k : Core) (i : Nat) : (s.setCore c k).node i = s.node i := rfl
@[simp] theorem State.setCore_sector_eq (s : State) (c : Nat) (k : Core) (i : Nat) : (s.setCore c k).sector i = s.sector i := rfl
@[simp] theorem State.setCore_comp_eq (s : State) (c : Nat) (k : Core) (i : Nat) : (s.setCore c k).comp i = s.comp i := rfl
@[simp] theorem State.setCore_stand_eq (s : State) (c : Nat) (k : Core) (i : Nat) : (s.setCore c k).stand i = s.stand i := rfl
@[simp] theorem State.setCore_ctx_eq (s : State) (c : Nat) (k : Core) (i : Nat) : (s.setCore c k).ctx i = s.ctx i := rfl
@[simp] theorem State.setCore_context_eq (s : State) (c : Nat) (k : Core) (i : Nat) : (s.setCore c k).context i = s.context i := rfl
@[simp] theorem State.setCore_port_eq (s : State) (c : Nat) (k : Core) (i : Nat) : (s.setCore c k).port i = s.port i := rfl
@[simp] theorem State.setCore_xport_eq (s : State) (c : Nat) (k : Core) (i : Nat) : (s.setCore c k).xport i = s.xport i := rfl
@[simp] theorem State.setCore_layer_eq (s : State) (c : Nat) (k : Core) (i j : Nat) : (s.setCore c k).layer i j = s.layer i j := rfl
@[simp] theorem State.setCore_engine_eq (s : State) (c : Nat) (k : Core) (i : Nat) : (s.setCore c k).engine i = s.engine i := rfl
@[simp] theorem State.setCore_homeHalf_eq (s : State) (c : Nat) (k : Core) (i : Nat) : (s.setCore c k).homeHalf i = s.homeHalf i := rfl
@[simp] theorem State.setCore_homeSector_eq (s : State) (c : Nat) (k : Core) (i : Nat) : (s.setCore c k).homeSector i = s.homeSector i := rfl
@[simp] theorem State.setCore_fenced_eq (s : State) (c : Nat) (k : Core) (i : Nat) : (s.setCore c k).fenced i = s.fenced i := rfl
@[simp] theorem State.setCore_ringsOf_eq (s : State) (c : Nat) (k : Core) (i : Nat) : (s.setCore c k).ringsOf i = s.ringsOf i := rfl
@[simp] theorem State.setCore_nodesOfRing_eq (s : State) (c : Nat) (k : Core) (i : Nat) : (s.setCore c k).nodesOfRing i = s.nodesOfRing i := rfl
@[simp] theorem State.setCore_nodesOfCtx_eq (s : State) (c : Nat) (k : Core) (i : Nat) : (s.setCore c k).nodesOfCtx i = s.nodesOfCtx i := rfl
@[simp] theorem State.setCore_dev_eq (s : State) (c : Nat) (k : Core) (i j : Nat) : (s.setCore c k).dev i j = s.dev i j := rfl
@[simp] theorem State.setCore_pasid_eq (s : State) (c : Nat) (k : Core) (i : Nat) : (s.setCore c k).pasid i = s.pasid i := rfl
@[simp] theorem State.setCore_tracing_eq (s : State) (c : Nat) (k : Core) : (s.setCore c k).tracing = s.tracing := rfl

/-! ### updCore -/

@[simp] theorem State.updCore_straps (s : State) (c : Nat) (u : Core → Core) : (s.updCore c u).straps = s.straps := rfl
@[simp] theorem State.updCore_fuses (s : State) (c : Nat) (u : Core → Core) : (s.updCore c u).fuses = s.fuses := rfl
@[simp] theorem State.updCore_boot (s : State) (c : Nat) (u : Core → Core) : (s.updCore c u).boot = s.boot := rfl
@[simp] theorem State.updCore_cat (s : State) (c : Nat) (u : Core → Core) : (s.updCore c u).cat = s.cat := rfl
@[simp] theorem State.updCore_set (s : State) (c : Nat) (u : Core → Core) : (s.updCore c u).set = s.set := rfl
@[simp] theorem State.updCore_ctxs (s : State) (c : Nat) (u : Core → Core) : (s.updCore c u).ctxs = s.ctxs := rfl
@[simp] theorem State.updCore_rings (s : State) (c : Nat) (u : Core → Core) : (s.updCore c u).rings = s.rings := rfl
@[simp] theorem State.updCore_dv (s : State) (c : Nat) (u : Core → Core) : (s.updCore c u).dv = s.dv := rfl
@[simp] theorem State.updCore_stands (s : State) (c : Nat) (u : Core → Core) : (s.updCore c u).stands = s.stands := rfl
@[simp] theorem State.updCore_fab (s : State) (c : Nat) (u : Core → Core) : (s.updCore c u).fab = s.fab := rfl
@[simp] theorem State.updCore_ecl (s : State) (c : Nat) (u : Core → Core) : (s.updCore c u).ecl = s.ecl := rfl
@[simp] theorem State.updCore_clock (s : State) (c : Nat) (u : Core → Core) : (s.updCore c u).clock = s.clock := rfl
@[simp] theorem State.updCore_mem (s : State) (c : Nat) (u : Core → Core) : (s.updCore c u).mem = s.mem := rfl
@[simp] theorem State.updCore_exp (s : State) (c : Nat) (u : Core → Core) : (s.updCore c u).exp = s.exp := rfl
@[simp] theorem State.updCore_flt (s : State) (c : Nat) (u : Core → Core) : (s.updCore c u).flt = s.flt := rfl
@[simp] theorem State.updCore_dbg (s : State) (c : Nat) (u : Core → Core) : (s.updCore c u).dbg = s.dbg := rfl
@[simp] theorem State.updCore_pwr (s : State) (c : Nat) (u : Core → Core) : (s.updCore c u).pwr = s.pwr := rfl
@[simp] theorem State.updCore_outputs (s : State) (c : Nat) (u : Core → Core) : (s.updCore c u).outputs = s.outputs := rfl
@[simp] theorem State.updCore_freeCtr (s : State) (c : Nat) (u : Core → Core) : (s.updCore c u).freeCtr = s.freeCtr := rfl
@[simp] theorem State.updCore_pending (s : State) (c : Nat) (u : Core → Core) : (s.updCore c u).pending = s.pending := rfl
@[simp] theorem State.updCore_now_eq (s : State) (c : Nat) (u : Core → Core) : (s.updCore c u).now = s.now := rfl
@[simp] theorem State.updCore_ring_eq (s : State) (c : Nat) (u : Core → Core) (i : Nat) : (s.updCore c u).ring i = s.ring i := rfl
@[simp] theorem State.updCore_node_eq (s : State) (c : Nat) (u : Core → Core) (i : Nat) : (s.updCore c u).node i = s.node i := rfl
@[simp] theorem State.updCore_sector_eq (s : State) (c : Nat) (u : Core → Core) (i : Nat) : (s.updCore c u).sector i = s.sector i := rfl
@[simp] theorem State.updCore_comp_eq (s : State) (c : Nat) (u : Core → Core) (i : Nat) : (s.updCore c u).comp i = s.comp i := rfl
@[simp] theorem State.updCore_stand_eq (s : State) (c : Nat) (u : Core → Core) (i : Nat) : (s.updCore c u).stand i = s.stand i := rfl
@[simp] theorem State.updCore_ctx_eq (s : State) (c : Nat) (u : Core → Core) (i : Nat) : (s.updCore c u).ctx i = s.ctx i := rfl
@[simp] theorem State.updCore_context_eq (s : State) (c : Nat) (u : Core → Core) (i : Nat) : (s.updCore c u).context i = s.context i := rfl
@[simp] theorem State.updCore_port_eq (s : State) (c : Nat) (u : Core → Core) (i : Nat) : (s.updCore c u).port i = s.port i := rfl
@[simp] theorem State.updCore_xport_eq (s : State) (c : Nat) (u : Core → Core) (i : Nat) : (s.updCore c u).xport i = s.xport i := rfl
@[simp] theorem State.updCore_layer_eq (s : State) (c : Nat) (u : Core → Core) (i j : Nat) : (s.updCore c u).layer i j = s.layer i j := rfl
@[simp] theorem State.updCore_engine_eq (s : State) (c : Nat) (u : Core → Core) (i : Nat) : (s.updCore c u).engine i = s.engine i := rfl
@[simp] theorem State.updCore_homeHalf_eq (s : State) (c : Nat) (u : Core → Core) (i : Nat) : (s.updCore c u).homeHalf i = s.homeHalf i := rfl
@[simp] theorem State.updCore_homeSector_eq (s : State) (c : Nat) (u : Core → Core) (i : Nat) : (s.updCore c u).homeSector i = s.homeSector i := rfl
@[simp] theorem State.updCore_fenced_eq (s : State) (c : Nat) (u : Core → Core) (i : Nat) : (s.updCore c u).fenced i = s.fenced i := rfl
@[simp] theorem State.updCore_ringsOf_eq (s : State) (c : Nat) (u : Core → Core) (i : Nat) : (s.updCore c u).ringsOf i = s.ringsOf i := rfl
@[simp] theorem State.updCore_nodesOfRing_eq (s : State) (c : Nat) (u : Core → Core) (i : Nat) : (s.updCore c u).nodesOfRing i = s.nodesOfRing i := rfl
@[simp] theorem State.updCore_nodesOfCtx_eq (s : State) (c : Nat) (u : Core → Core) (i : Nat) : (s.updCore c u).nodesOfCtx i = s.nodesOfCtx i := rfl
@[simp] theorem State.updCore_dev_eq (s : State) (c : Nat) (u : Core → Core) (i j : Nat) : (s.updCore c u).dev i j = s.dev i j := rfl
@[simp] theorem State.updCore_pasid_eq (s : State) (c : Nat) (u : Core → Core) (i : Nat) : (s.updCore c u).pasid i = s.pasid i := rfl
@[simp] theorem State.updCore_tracing_eq (s : State) (c : Nat) (u : Core → Core) : (s.updCore c u).tracing = s.tracing := rfl

/-! ### setRing -/

@[simp] theorem State.setRing_straps (s : State) (r : Nat) (g : Ring) : (s.setRing r g).straps = s.straps := rfl
@[simp] theorem State.setRing_fuses (s : State) (r : Nat) (g : Ring) : (s.setRing r g).fuses = s.fuses := rfl
@[simp] theorem State.setRing_boot (s : State) (r : Nat) (g : Ring) : (s.setRing r g).boot = s.boot := rfl
@[simp] theorem State.setRing_cat (s : State) (r : Nat) (g : Ring) : (s.setRing r g).cat = s.cat := rfl
@[simp] theorem State.setRing_set (s : State) (r : Nat) (g : Ring) : (s.setRing r g).set = s.set := rfl
@[simp] theorem State.setRing_ctxs (s : State) (r : Nat) (g : Ring) : (s.setRing r g).ctxs = s.ctxs := rfl
@[simp] theorem State.setRing_dv (s : State) (r : Nat) (g : Ring) : (s.setRing r g).dv = s.dv := rfl
@[simp] theorem State.setRing_stands (s : State) (r : Nat) (g : Ring) : (s.setRing r g).stands = s.stands := rfl
@[simp] theorem State.setRing_cores (s : State) (r : Nat) (g : Ring) : (s.setRing r g).cores = s.cores := rfl
@[simp] theorem State.setRing_fab (s : State) (r : Nat) (g : Ring) : (s.setRing r g).fab = s.fab := rfl
@[simp] theorem State.setRing_ecl (s : State) (r : Nat) (g : Ring) : (s.setRing r g).ecl = s.ecl := rfl
@[simp] theorem State.setRing_clock (s : State) (r : Nat) (g : Ring) : (s.setRing r g).clock = s.clock := rfl
@[simp] theorem State.setRing_mem (s : State) (r : Nat) (g : Ring) : (s.setRing r g).mem = s.mem := rfl
@[simp] theorem State.setRing_exp (s : State) (r : Nat) (g : Ring) : (s.setRing r g).exp = s.exp := rfl
@[simp] theorem State.setRing_flt (s : State) (r : Nat) (g : Ring) : (s.setRing r g).flt = s.flt := rfl
@[simp] theorem State.setRing_dbg (s : State) (r : Nat) (g : Ring) : (s.setRing r g).dbg = s.dbg := rfl
@[simp] theorem State.setRing_pwr (s : State) (r : Nat) (g : Ring) : (s.setRing r g).pwr = s.pwr := rfl
@[simp] theorem State.setRing_outputs (s : State) (r : Nat) (g : Ring) : (s.setRing r g).outputs = s.outputs := rfl
@[simp] theorem State.setRing_freeCtr (s : State) (r : Nat) (g : Ring) : (s.setRing r g).freeCtr = s.freeCtr := rfl
@[simp] theorem State.setRing_pending (s : State) (r : Nat) (g : Ring) : (s.setRing r g).pending = s.pending := rfl
@[simp] theorem State.setRing_now_eq (s : State) (r : Nat) (g : Ring) : (s.setRing r g).now = s.now := rfl
@[simp] theorem State.setRing_core_eq (s : State) (r : Nat) (g : Ring) (i : Nat) : (s.setRing r g).core i = s.core i := rfl
@[simp] theorem State.setRing_node_eq (s : State) (r : Nat) (g : Ring) (i : Nat) : (s.setRing r g).node i = s.node i := rfl
@[simp] theorem State.setRing_sector_eq (s : State) (r : Nat) (g : Ring) (i : Nat) : (s.setRing r g).sector i = s.sector i := rfl
@[simp] theorem State.setRing_comp_eq (s : State) (r : Nat) (g : Ring) (i : Nat) : (s.setRing r g).comp i = s.comp i := rfl
@[simp] theorem State.setRing_stand_eq (s : State) (r : Nat) (g : Ring) (i : Nat) : (s.setRing r g).stand i = s.stand i := rfl
@[simp] theorem State.setRing_ctx_eq (s : State) (r : Nat) (g : Ring) (i : Nat) : (s.setRing r g).ctx i = s.ctx i := rfl
@[simp] theorem State.setRing_context_eq (s : State) (r : Nat) (g : Ring) (i : Nat) : (s.setRing r g).context i = s.context i := rfl
@[simp] theorem State.setRing_port_eq (s : State) (r : Nat) (g : Ring) (i : Nat) : (s.setRing r g).port i = s.port i := rfl
@[simp] theorem State.setRing_xport_eq (s : State) (r : Nat) (g : Ring) (i : Nat) : (s.setRing r g).xport i = s.xport i := rfl
@[simp] theorem State.setRing_layer_eq (s : State) (r : Nat) (g : Ring) (i j : Nat) : (s.setRing r g).layer i j = s.layer i j := rfl
@[simp] theorem State.setRing_engine_eq (s : State) (r : Nat) (g : Ring) (i : Nat) : (s.setRing r g).engine i = s.engine i := rfl
@[simp] theorem State.setRing_fenced_eq (s : State) (r : Nat) (g : Ring) (i : Nat) : (s.setRing r g).fenced i = s.fenced i := rfl
@[simp] theorem State.setRing_nodesOfRing_eq (s : State) (r : Nat) (g : Ring) (i : Nat) : (s.setRing r g).nodesOfRing i = s.nodesOfRing i := rfl
@[simp] theorem State.setRing_nodesOfCtx_eq (s : State) (r : Nat) (g : Ring) (i : Nat) : (s.setRing r g).nodesOfCtx i = s.nodesOfCtx i := rfl
@[simp] theorem State.setRing_dev_eq (s : State) (r : Nat) (g : Ring) (i j : Nat) : (s.setRing r g).dev i j = s.dev i j := rfl
@[simp] theorem State.setRing_pasid_eq (s : State) (r : Nat) (g : Ring) (i : Nat) : (s.setRing r g).pasid i = s.pasid i := rfl
@[simp] theorem State.setRing_tracing_eq (s : State) (r : Nat) (g : Ring) : (s.setRing r g).tracing = s.tracing := rfl

/-! ### updRing -/

@[simp] theorem State.updRing_straps (s : State) (r : Nat) (u : Ring → Ring) : (s.updRing r u).straps = s.straps := rfl
@[simp] theorem State.updRing_fuses (s : State) (r : Nat) (u : Ring → Ring) : (s.updRing r u).fuses = s.fuses := rfl
@[simp] theorem State.updRing_boot (s : State) (r : Nat) (u : Ring → Ring) : (s.updRing r u).boot = s.boot := rfl
@[simp] theorem State.updRing_cat (s : State) (r : Nat) (u : Ring → Ring) : (s.updRing r u).cat = s.cat := rfl
@[simp] theorem State.updRing_set (s : State) (r : Nat) (u : Ring → Ring) : (s.updRing r u).set = s.set := rfl
@[simp] theorem State.updRing_ctxs (s : State) (r : Nat) (u : Ring → Ring) : (s.updRing r u).ctxs = s.ctxs := rfl
@[simp] theorem State.updRing_dv (s : State) (r : Nat) (u : Ring → Ring) : (s.updRing r u).dv = s.dv := rfl
@[simp] theorem State.updRing_stands (s : State) (r : Nat) (u : Ring → Ring) : (s.updRing r u).stands = s.stands := rfl
@[simp] theorem State.updRing_cores (s : State) (r : Nat) (u : Ring → Ring) : (s.updRing r u).cores = s.cores := rfl
@[simp] theorem State.updRing_fab (s : State) (r : Nat) (u : Ring → Ring) : (s.updRing r u).fab = s.fab := rfl
@[simp] theorem State.updRing_ecl (s : State) (r : Nat) (u : Ring → Ring) : (s.updRing r u).ecl = s.ecl := rfl
@[simp] theorem State.updRing_clock (s : State) (r : Nat) (u : Ring → Ring) : (s.updRing r u).clock = s.clock := rfl
@[simp] theorem State.updRing_mem (s : State) (r : Nat) (u : Ring → Ring) : (s.updRing r u).mem = s.mem := rfl
@[simp] theorem State.updRing_exp (s : State) (r : Nat) (u : Ring → Ring) : (s.updRing r u).exp = s.exp := rfl
@[simp] theorem State.updRing_flt (s : State) (r : Nat) (u : Ring → Ring) : (s.updRing r u).flt = s.flt := rfl
@[simp] theorem State.updRing_dbg (s : State) (r : Nat) (u : Ring → Ring) : (s.updRing r u).dbg = s.dbg := rfl
@[simp] theorem State.updRing_pwr (s : State) (r : Nat) (u : Ring → Ring) : (s.updRing r u).pwr = s.pwr := rfl
@[simp] theorem State.updRing_outputs (s : State) (r : Nat) (u : Ring → Ring) : (s.updRing r u).outputs = s.outputs := rfl
@[simp] theorem State.updRing_freeCtr (s : State) (r : Nat) (u : Ring → Ring) : (s.updRing r u).freeCtr = s.freeCtr := rfl
@[simp] theorem State.updRing_pending (s : State) (r : Nat) (u : Ring → Ring) : (s.updRing r u).pending = s.pending := rfl
@[simp] theorem State.updRing_now_eq (s : State) (r : Nat) (u : Ring → Ring) : (s.updRing r u).now = s.now := rfl
@[simp] theorem State.updRing_core_eq (s : State) (r : Nat) (u : Ring → Ring) (i : Nat) : (s.updRing r u).core i = s.core i := rfl
@[simp] theorem State.updRing_node_eq (s : State) (r : Nat) (u : Ring → Ring) (i : Nat) : (s.updRing r u).node i = s.node i := rfl
@[simp] theorem State.updRing_sector_eq (s : State) (r : Nat) (u : Ring → Ring) (i : Nat) : (s.updRing r u).sector i = s.sector i := rfl
@[simp] theorem State.updRing_comp_eq (s : State) (r : Nat) (u : Ring → Ring) (i : Nat) : (s.updRing r u).comp i = s.comp i := rfl
@[simp] theorem State.updRing_stand_eq (s : State) (r : Nat) (u : Ring → Ring) (i : Nat) : (s.updRing r u).stand i = s.stand i := rfl
@[simp] theorem State.updRing_ctx_eq (s : State) (r : Nat) (u : Ring → Ring) (i : Nat) : (s.updRing r u).ctx i = s.ctx i := rfl
@[simp] theorem State.updRing_context_eq (s : State) (r : Nat) (u : Ring → Ring) (i : Nat) : (s.updRing r u).context i = s.context i := rfl
@[simp] theorem State.updRing_port_eq (s : State) (r : Nat) (u : Ring → Ring) (i : Nat) : (s.updRing r u).port i = s.port i := rfl
@[simp] theorem State.updRing_xport_eq (s : State) (r : Nat) (u : Ring → Ring) (i : Nat) : (s.updRing r u).xport i = s.xport i := rfl
@[simp] theorem State.updRing_layer_eq (s : State) (r : Nat) (u : Ring → Ring) (i j : Nat) : (s.updRing r u).layer i j = s.layer i j := rfl
@[simp] theorem State.updRing_engine_eq (s : State) (r : Nat) (u : Ring → Ring) (i : Nat) : (s.updRing r u).engine i = s.engine i := rfl
@[simp] theorem State.updRing_fenced_eq (s : State) (r : Nat) (u : Ring → Ring) (i : Nat) : (s.updRing r u).fenced i = s.fenced i := rfl
@[simp] theorem State.updRing_nodesOfRing_eq (s : State) (r : Nat) (u : Ring → Ring) (i : Nat) : (s.updRing r u).nodesOfRing i = s.nodesOfRing i := rfl
@[simp] theorem State.updRing_nodesOfCtx_eq (s : State) (r : Nat) (u : Ring → Ring) (i : Nat) : (s.updRing r u).nodesOfCtx i = s.nodesOfCtx i := rfl
@[simp] theorem State.updRing_dev_eq (s : State) (r : Nat) (u : Ring → Ring) (i j : Nat) : (s.updRing r u).dev i j = s.dev i j := rfl
@[simp] theorem State.updRing_pasid_eq (s : State) (r : Nat) (u : Ring → Ring) (i : Nat) : (s.updRing r u).pasid i = s.pasid i := rfl
@[simp] theorem State.updRing_tracing_eq (s : State) (r : Nat) (u : Ring → Ring) : (s.updRing r u).tracing = s.tracing := rfl

/-! ### setNode -/

@[simp] theorem State.setNode_straps (s : State) (n : Nat) (d : Node) : (s.setNode n d).straps = s.straps := rfl
@[simp] theorem State.setNode_fuses (s : State) (n : Nat) (d : Node) : (s.setNode n d).fuses = s.fuses := rfl
@[simp] theorem State.setNode_boot (s : State) (n : Nat) (d : Node) : (s.setNode n d).boot = s.boot := rfl
@[simp] theorem State.setNode_cat (s : State) (n : Nat) (d : Node) : (s.setNode n d).cat = s.cat := rfl
@[simp] theorem State.setNode_set (s : State) (n : Nat) (d : Node) : (s.setNode n d).set = s.set := rfl
@[simp] theorem State.setNode_ctxs (s : State) (n : Nat) (d : Node) : (s.setNode n d).ctxs = s.ctxs := rfl
@[simp] theorem State.setNode_rings (s : State) (n : Nat) (d : Node) : (s.setNode n d).rings = s.rings := rfl
@[simp] theorem State.setNode_dv_sectors (s : State) (n : Nat) (d : Node) : (s.setNode n d).dv.sectors = s.dv.sectors := rfl
@[simp] theorem State.setNode_dv_comps (s : State) (n : Nat) (d : Node) : (s.setNode n d).dv.comps = s.dv.comps := rfl
@[simp] theorem State.setNode_dv_sched0 (s : State) (n : Nat) (d : Node) : (s.setNode n d).dv.sched0 = s.dv.sched0 := rfl
@[simp] theorem State.setNode_dv_sched1 (s : State) (n : Nat) (d : Node) : (s.setNode n d).dv.sched1 = s.dv.sched1 := rfl
@[simp] theorem State.setNode_dv_walks (s : State) (n : Nat) (d : Node) : (s.setNode n d).dv.walks = s.dv.walks := rfl
@[simp] theorem State.setNode_dv_crossSent0 (s : State) (n : Nat) (d : Node) : (s.setNode n d).dv.crossSent0 = s.dv.crossSent0 := rfl
@[simp] theorem State.setNode_dv_crossSent1 (s : State) (n : Nat) (d : Node) : (s.setNode n d).dv.crossSent1 = s.dv.crossSent1 := rfl
@[simp] theorem State.setNode_dv_paramBase0 (s : State) (n : Nat) (d : Node) : (s.setNode n d).dv.paramBase0 = s.dv.paramBase0 := rfl
@[simp] theorem State.setNode_dv_paramBase1 (s : State) (n : Nat) (d : Node) : (s.setNode n d).dv.paramBase1 = s.dv.paramBase1 := rfl
@[simp] theorem State.setNode_dv_nextOrder (s : State) (n : Nat) (d : Node) : (s.setNode n d).dv.nextOrder = s.dv.nextOrder := rfl
@[simp] theorem State.setNode_dv_resetting (s : State) (n : Nat) (d : Node) : (s.setNode n d).dv.resetting = s.dv.resetting := rfl
@[simp] theorem State.setNode_dv_resetFabric (s : State) (n : Nat) (d : Node) : (s.setNode n d).dv.resetFabric = s.dv.resetFabric := rfl
@[simp] theorem State.setNode_stands (s : State) (n : Nat) (d : Node) : (s.setNode n d).stands = s.stands := rfl
@[simp] theorem State.setNode_cores (s : State) (n : Nat) (d : Node) : (s.setNode n d).cores = s.cores := rfl
@[simp] theorem State.setNode_fab (s : State) (n : Nat) (d : Node) : (s.setNode n d).fab = s.fab := rfl
@[simp] theorem State.setNode_ecl (s : State) (n : Nat) (d : Node) : (s.setNode n d).ecl = s.ecl := rfl
@[simp] theorem State.setNode_clock (s : State) (n : Nat) (d : Node) : (s.setNode n d).clock = s.clock := rfl
@[simp] theorem State.setNode_mem (s : State) (n : Nat) (d : Node) : (s.setNode n d).mem = s.mem := rfl
@[simp] theorem State.setNode_exp (s : State) (n : Nat) (d : Node) : (s.setNode n d).exp = s.exp := rfl
@[simp] theorem State.setNode_flt (s : State) (n : Nat) (d : Node) : (s.setNode n d).flt = s.flt := rfl
@[simp] theorem State.setNode_dbg (s : State) (n : Nat) (d : Node) : (s.setNode n d).dbg = s.dbg := rfl
@[simp] theorem State.setNode_pwr (s : State) (n : Nat) (d : Node) : (s.setNode n d).pwr = s.pwr := rfl
@[simp] theorem State.setNode_outputs (s : State) (n : Nat) (d : Node) : (s.setNode n d).outputs = s.outputs := rfl
@[simp] theorem State.setNode_freeCtr (s : State) (n : Nat) (d : Node) : (s.setNode n d).freeCtr = s.freeCtr := rfl
@[simp] theorem State.setNode_pending (s : State) (n : Nat) (d : Node) : (s.setNode n d).pending = s.pending := rfl
@[simp] theorem State.setNode_now_eq (s : State) (n : Nat) (d : Node) : (s.setNode n d).now = s.now := rfl
@[simp] theorem State.setNode_core_eq (s : State) (n : Nat) (d : Node) (i : Nat) : (s.setNode n d).core i = s.core i := rfl
@[simp] theorem State.setNode_ring_eq (s : State) (n : Nat) (d : Node) (i : Nat) : (s.setNode n d).ring i = s.ring i := rfl
@[simp] theorem State.setNode_sector_eq (s : State) (n : Nat) (d : Node) (i : Nat) : (s.setNode n d).sector i = s.sector i := rfl
@[simp] theorem State.setNode_comp_eq (s : State) (n : Nat) (d : Node) (i : Nat) : (s.setNode n d).comp i = s.comp i := rfl
@[simp] theorem State.setNode_stand_eq (s : State) (n : Nat) (d : Node) (i : Nat) : (s.setNode n d).stand i = s.stand i := rfl
@[simp] theorem State.setNode_ctx_eq (s : State) (n : Nat) (d : Node) (i : Nat) : (s.setNode n d).ctx i = s.ctx i := rfl
@[simp] theorem State.setNode_context_eq (s : State) (n : Nat) (d : Node) (i : Nat) : (s.setNode n d).context i = s.context i := rfl
@[simp] theorem State.setNode_port_eq (s : State) (n : Nat) (d : Node) (i : Nat) : (s.setNode n d).port i = s.port i := rfl
@[simp] theorem State.setNode_xport_eq (s : State) (n : Nat) (d : Node) (i : Nat) : (s.setNode n d).xport i = s.xport i := rfl
@[simp] theorem State.setNode_layer_eq (s : State) (n : Nat) (d : Node) (i j : Nat) : (s.setNode n d).layer i j = s.layer i j := rfl
@[simp] theorem State.setNode_engine_eq (s : State) (n : Nat) (d : Node) (i : Nat) : (s.setNode n d).engine i = s.engine i := rfl
@[simp] theorem State.setNode_homeHalf_eq (s : State) (n : Nat) (d : Node) (i : Nat) : (s.setNode n d).homeHalf i = s.homeHalf i := rfl
@[simp] theorem State.setNode_homeSector_eq (s : State) (n : Nat) (d : Node) (i : Nat) : (s.setNode n d).homeSector i = s.homeSector i := rfl
@[simp] theorem State.setNode_fenced_eq (s : State) (n : Nat) (d : Node) (i : Nat) : (s.setNode n d).fenced i = s.fenced i := rfl
@[simp] theorem State.setNode_ringsOf_eq (s : State) (n : Nat) (d : Node) (i : Nat) : (s.setNode n d).ringsOf i = s.ringsOf i := rfl
@[simp] theorem State.setNode_dev_eq (s : State) (n : Nat) (d : Node) (i j : Nat) : (s.setNode n d).dev i j = s.dev i j := rfl
@[simp] theorem State.setNode_pasid_eq (s : State) (n : Nat) (d : Node) (i : Nat) : (s.setNode n d).pasid i = s.pasid i := rfl
@[simp] theorem State.setNode_tracing_eq (s : State) (n : Nat) (d : Node) : (s.setNode n d).tracing = s.tracing := rfl

/-! ### delNode -/

@[simp] theorem State.delNode_straps (s : State) (n : Nat) : (s.delNode n).straps = s.straps := rfl
@[simp] theorem State.delNode_fuses (s : State) (n : Nat) : (s.delNode n).fuses = s.fuses := rfl
@[simp] theorem State.delNode_boot (s : State) (n : Nat) : (s.delNode n).boot = s.boot := rfl
@[simp] theorem State.delNode_cat (s : State) (n : Nat) : (s.delNode n).cat = s.cat := rfl
@[simp] theorem State.delNode_set (s : State) (n : Nat) : (s.delNode n).set = s.set := rfl
@[simp] theorem State.delNode_ctxs (s : State) (n : Nat) : (s.delNode n).ctxs = s.ctxs := rfl
@[simp] theorem State.delNode_rings (s : State) (n : Nat) : (s.delNode n).rings = s.rings := rfl
@[simp] theorem State.delNode_dv_sectors (s : State) (n : Nat) : (s.delNode n).dv.sectors = s.dv.sectors := rfl
@[simp] theorem State.delNode_dv_comps (s : State) (n : Nat) : (s.delNode n).dv.comps = s.dv.comps := rfl
@[simp] theorem State.delNode_dv_sched0 (s : State) (n : Nat) : (s.delNode n).dv.sched0 = s.dv.sched0 := rfl
@[simp] theorem State.delNode_dv_sched1 (s : State) (n : Nat) : (s.delNode n).dv.sched1 = s.dv.sched1 := rfl
@[simp] theorem State.delNode_dv_walks (s : State) (n : Nat) : (s.delNode n).dv.walks = s.dv.walks := rfl
@[simp] theorem State.delNode_dv_crossSent0 (s : State) (n : Nat) : (s.delNode n).dv.crossSent0 = s.dv.crossSent0 := rfl
@[simp] theorem State.delNode_dv_crossSent1 (s : State) (n : Nat) : (s.delNode n).dv.crossSent1 = s.dv.crossSent1 := rfl
@[simp] theorem State.delNode_dv_paramBase0 (s : State) (n : Nat) : (s.delNode n).dv.paramBase0 = s.dv.paramBase0 := rfl
@[simp] theorem State.delNode_dv_paramBase1 (s : State) (n : Nat) : (s.delNode n).dv.paramBase1 = s.dv.paramBase1 := rfl
@[simp] theorem State.delNode_dv_nextOrder (s : State) (n : Nat) : (s.delNode n).dv.nextOrder = s.dv.nextOrder := rfl
@[simp] theorem State.delNode_dv_resetting (s : State) (n : Nat) : (s.delNode n).dv.resetting = s.dv.resetting := rfl
@[simp] theorem State.delNode_dv_resetFabric (s : State) (n : Nat) : (s.delNode n).dv.resetFabric = s.dv.resetFabric := rfl
@[simp] theorem State.delNode_stands (s : State) (n : Nat) : (s.delNode n).stands = s.stands := rfl
@[simp] theorem State.delNode_cores (s : State) (n : Nat) : (s.delNode n).cores = s.cores := rfl
@[simp] theorem State.delNode_fab (s : State) (n : Nat) : (s.delNode n).fab = s.fab := rfl
@[simp] theorem State.delNode_ecl (s : State) (n : Nat) : (s.delNode n).ecl = s.ecl := rfl
@[simp] theorem State.delNode_clock (s : State) (n : Nat) : (s.delNode n).clock = s.clock := rfl
@[simp] theorem State.delNode_mem (s : State) (n : Nat) : (s.delNode n).mem = s.mem := rfl
@[simp] theorem State.delNode_exp (s : State) (n : Nat) : (s.delNode n).exp = s.exp := rfl
@[simp] theorem State.delNode_flt (s : State) (n : Nat) : (s.delNode n).flt = s.flt := rfl
@[simp] theorem State.delNode_dbg (s : State) (n : Nat) : (s.delNode n).dbg = s.dbg := rfl
@[simp] theorem State.delNode_pwr (s : State) (n : Nat) : (s.delNode n).pwr = s.pwr := rfl
@[simp] theorem State.delNode_outputs (s : State) (n : Nat) : (s.delNode n).outputs = s.outputs := rfl
@[simp] theorem State.delNode_freeCtr (s : State) (n : Nat) : (s.delNode n).freeCtr = s.freeCtr := rfl
@[simp] theorem State.delNode_pending (s : State) (n : Nat) : (s.delNode n).pending = s.pending := rfl
@[simp] theorem State.delNode_now_eq (s : State) (n : Nat) : (s.delNode n).now = s.now := rfl
@[simp] theorem State.delNode_core_eq (s : State) (n : Nat) (i : Nat) : (s.delNode n).core i = s.core i := rfl
@[simp] theorem State.delNode_ring_eq (s : State) (n : Nat) (i : Nat) : (s.delNode n).ring i = s.ring i := rfl
@[simp] theorem State.delNode_sector_eq (s : State) (n : Nat) (i : Nat) : (s.delNode n).sector i = s.sector i := rfl
@[simp] theorem State.delNode_comp_eq (s : State) (n : Nat) (i : Nat) : (s.delNode n).comp i = s.comp i := rfl
@[simp] theorem State.delNode_stand_eq (s : State) (n : Nat) (i : Nat) : (s.delNode n).stand i = s.stand i := rfl
@[simp] theorem State.delNode_ctx_eq (s : State) (n : Nat) (i : Nat) : (s.delNode n).ctx i = s.ctx i := rfl
@[simp] theorem State.delNode_context_eq (s : State) (n : Nat) (i : Nat) : (s.delNode n).context i = s.context i := rfl
@[simp] theorem State.delNode_port_eq (s : State) (n : Nat) (i : Nat) : (s.delNode n).port i = s.port i := rfl
@[simp] theorem State.delNode_xport_eq (s : State) (n : Nat) (i : Nat) : (s.delNode n).xport i = s.xport i := rfl
@[simp] theorem State.delNode_layer_eq (s : State) (n : Nat) (i j : Nat) : (s.delNode n).layer i j = s.layer i j := rfl
@[simp] theorem State.delNode_engine_eq (s : State) (n : Nat) (i : Nat) : (s.delNode n).engine i = s.engine i := rfl
@[simp] theorem State.delNode_homeHalf_eq (s : State) (n : Nat) (i : Nat) : (s.delNode n).homeHalf i = s.homeHalf i := rfl
@[simp] theorem State.delNode_homeSector_eq (s : State) (n : Nat) (i : Nat) : (s.delNode n).homeSector i = s.homeSector i := rfl
@[simp] theorem State.delNode_fenced_eq (s : State) (n : Nat) (i : Nat) : (s.delNode n).fenced i = s.fenced i := rfl
@[simp] theorem State.delNode_ringsOf_eq (s : State) (n : Nat) (i : Nat) : (s.delNode n).ringsOf i = s.ringsOf i := rfl
@[simp] theorem State.delNode_dev_eq (s : State) (n : Nat) (i j : Nat) : (s.delNode n).dev i j = s.dev i j := rfl
@[simp] theorem State.delNode_pasid_eq (s : State) (n : Nat) (i : Nat) : (s.delNode n).pasid i = s.pasid i := rfl
@[simp] theorem State.delNode_tracing_eq (s : State) (n : Nat) : (s.delNode n).tracing = s.tracing := rfl

/-! ### updNode -/

@[simp] theorem State.updNode_straps (s : State) (n : Nat) (u : Node → Node) : (s.updNode n u).straps = s.straps := by unfold State.updNode; split <;> rfl
@[simp] theorem State.updNode_fuses (s : State) (n : Nat) (u : Node → Node) : (s.updNode n u).fuses = s.fuses := by unfold State.updNode; split <;> rfl
@[simp] theorem State.updNode_boot (s : State) (n : Nat) (u : Node → Node) : (s.updNode n u).boot = s.boot := by unfold State.updNode; split <;> rfl
@[simp] theorem State.updNode_cat (s : State) (n : Nat) (u : Node → Node) : (s.updNode n u).cat = s.cat := by unfold State.updNode; split <;> rfl
@[simp] theorem State.updNode_set (s : State) (n : Nat) (u : Node → Node) : (s.updNode n u).set = s.set := by unfold State.updNode; split <;> rfl
@[simp] theorem State.updNode_ctxs (s : State) (n : Nat) (u : Node → Node) : (s.updNode n u).ctxs = s.ctxs := by unfold State.updNode; split <;> rfl
@[simp] theorem State.updNode_rings (s : State) (n : Nat) (u : Node → Node) : (s.updNode n u).rings = s.rings := by unfold State.updNode; split <;> rfl
@[simp] theorem State.updNode_dv_sectors (s : State) (n : Nat) (u : Node → Node) : (s.updNode n u).dv.sectors = s.dv.sectors := by unfold State.updNode; split <;> rfl
@[simp] theorem State.updNode_dv_comps (s : State) (n : Nat) (u : Node → Node) : (s.updNode n u).dv.comps = s.dv.comps := by unfold State.updNode; split <;> rfl
@[simp] theorem State.updNode_dv_sched0 (s : State) (n : Nat) (u : Node → Node) : (s.updNode n u).dv.sched0 = s.dv.sched0 := by unfold State.updNode; split <;> rfl
@[simp] theorem State.updNode_dv_sched1 (s : State) (n : Nat) (u : Node → Node) : (s.updNode n u).dv.sched1 = s.dv.sched1 := by unfold State.updNode; split <;> rfl
@[simp] theorem State.updNode_dv_walks (s : State) (n : Nat) (u : Node → Node) : (s.updNode n u).dv.walks = s.dv.walks := by unfold State.updNode; split <;> rfl
@[simp] theorem State.updNode_dv_crossSent0 (s : State) (n : Nat) (u : Node → Node) : (s.updNode n u).dv.crossSent0 = s.dv.crossSent0 := by unfold State.updNode; split <;> rfl
@[simp] theorem State.updNode_dv_crossSent1 (s : State) (n : Nat) (u : Node → Node) : (s.updNode n u).dv.crossSent1 = s.dv.crossSent1 := by unfold State.updNode; split <;> rfl
@[simp] theorem State.updNode_dv_paramBase0 (s : State) (n : Nat) (u : Node → Node) : (s.updNode n u).dv.paramBase0 = s.dv.paramBase0 := by unfold State.updNode; split <;> rfl
@[simp] theorem State.updNode_dv_paramBase1 (s : State) (n : Nat) (u : Node → Node) : (s.updNode n u).dv.paramBase1 = s.dv.paramBase1 := by unfold State.updNode; split <;> rfl
@[simp] theorem State.updNode_dv_nextOrder (s : State) (n : Nat) (u : Node → Node) : (s.updNode n u).dv.nextOrder = s.dv.nextOrder := by unfold State.updNode; split <;> rfl
@[simp] theorem State.updNode_dv_resetting (s : State) (n : Nat) (u : Node → Node) : (s.updNode n u).dv.resetting = s.dv.resetting := by unfold State.updNode; split <;> rfl
@[simp] theorem State.updNode_dv_resetFabric (s : State) (n : Nat) (u : Node → Node) : (s.updNode n u).dv.resetFabric = s.dv.resetFabric := by unfold State.updNode; split <;> rfl
@[simp] theorem State.updNode_stands (s : State) (n : Nat) (u : Node → Node) : (s.updNode n u).stands = s.stands := by unfold State.updNode; split <;> rfl
@[simp] theorem State.updNode_cores (s : State) (n : Nat) (u : Node → Node) : (s.updNode n u).cores = s.cores := by unfold State.updNode; split <;> rfl
@[simp] theorem State.updNode_fab (s : State) (n : Nat) (u : Node → Node) : (s.updNode n u).fab = s.fab := by unfold State.updNode; split <;> rfl
@[simp] theorem State.updNode_ecl (s : State) (n : Nat) (u : Node → Node) : (s.updNode n u).ecl = s.ecl := by unfold State.updNode; split <;> rfl
@[simp] theorem State.updNode_clock (s : State) (n : Nat) (u : Node → Node) : (s.updNode n u).clock = s.clock := by unfold State.updNode; split <;> rfl
@[simp] theorem State.updNode_mem (s : State) (n : Nat) (u : Node → Node) : (s.updNode n u).mem = s.mem := by unfold State.updNode; split <;> rfl
@[simp] theorem State.updNode_exp (s : State) (n : Nat) (u : Node → Node) : (s.updNode n u).exp = s.exp := by unfold State.updNode; split <;> rfl
@[simp] theorem State.updNode_flt (s : State) (n : Nat) (u : Node → Node) : (s.updNode n u).flt = s.flt := by unfold State.updNode; split <;> rfl
@[simp] theorem State.updNode_dbg (s : State) (n : Nat) (u : Node → Node) : (s.updNode n u).dbg = s.dbg := by unfold State.updNode; split <;> rfl
@[simp] theorem State.updNode_pwr (s : State) (n : Nat) (u : Node → Node) : (s.updNode n u).pwr = s.pwr := by unfold State.updNode; split <;> rfl
@[simp] theorem State.updNode_outputs (s : State) (n : Nat) (u : Node → Node) : (s.updNode n u).outputs = s.outputs := by unfold State.updNode; split <;> rfl
@[simp] theorem State.updNode_freeCtr (s : State) (n : Nat) (u : Node → Node) : (s.updNode n u).freeCtr = s.freeCtr := by unfold State.updNode; split <;> rfl
@[simp] theorem State.updNode_pending (s : State) (n : Nat) (u : Node → Node) : (s.updNode n u).pending = s.pending := by unfold State.updNode; split <;> rfl
@[simp] theorem State.updNode_now_eq (s : State) (n : Nat) (u : Node → Node) : (s.updNode n u).now = s.now := by simp [State.now]
@[simp] theorem State.updNode_core_eq (s : State) (n : Nat) (u : Node → Node) (i : Nat) : (s.updNode n u).core i = s.core i := by simp [State.core]
@[simp] theorem State.updNode_ring_eq (s : State) (n : Nat) (u : Node → Node) (i : Nat) : (s.updNode n u).ring i = s.ring i := by simp [State.ring]
@[simp] theorem State.updNode_sector_eq (s : State) (n : Nat) (u : Node → Node) (i : Nat) : (s.updNode n u).sector i = s.sector i := by simp [State.sector]
@[simp] theorem State.updNode_comp_eq (s : State) (n : Nat) (u : Node → Node) (i : Nat) : (s.updNode n u).comp i = s.comp i := by simp [State.comp]
@[simp] theorem State.updNode_stand_eq (s : State) (n : Nat) (u : Node → Node) (i : Nat) : (s.updNode n u).stand i = s.stand i := by simp [State.stand]
@[simp] theorem State.updNode_ctx_eq (s : State) (n : Nat) (u : Node → Node) (i : Nat) : (s.updNode n u).ctx i = s.ctx i := by simp [State.ctx]
@[simp] theorem State.updNode_context_eq (s : State) (n : Nat) (u : Node → Node) (i : Nat) : (s.updNode n u).context i = s.context i := by simp [State.context]
@[simp] theorem State.updNode_port_eq (s : State) (n : Nat) (u : Node → Node) (i : Nat) : (s.updNode n u).port i = s.port i := by simp [State.port]
@[simp] theorem State.updNode_xport_eq (s : State) (n : Nat) (u : Node → Node) (i : Nat) : (s.updNode n u).xport i = s.xport i := by simp [State.xport]
@[simp] theorem State.updNode_layer_eq (s : State) (n : Nat) (u : Node → Node) (i j : Nat) : (s.updNode n u).layer i j = s.layer i j := by simp [State.layer]
@[simp] theorem State.updNode_engine_eq (s : State) (n : Nat) (u : Node → Node) (i : Nat) : (s.updNode n u).engine i = s.engine i := by simp [State.engine]
@[simp] theorem State.updNode_homeHalf_eq (s : State) (n : Nat) (u : Node → Node) (i : Nat) : (s.updNode n u).homeHalf i = s.homeHalf i := by simp [State.homeHalf, State.ring]
@[simp] theorem State.updNode_homeSector_eq (s : State) (n : Nat) (u : Node → Node) (i : Nat) : (s.updNode n u).homeSector i = s.homeSector i := by simp [State.homeSector, State.ring]
@[simp] theorem State.updNode_fenced_eq (s : State) (n : Nat) (u : Node → Node) (i : Nat) : (s.updNode n u).fenced i = s.fenced i := by simp [State.fenced]
@[simp] theorem State.updNode_ringsOf_eq (s : State) (n : Nat) (u : Node → Node) (i : Nat) : (s.updNode n u).ringsOf i = s.ringsOf i := by simp [State.ringsOf]
@[simp] theorem State.updNode_dev_eq (s : State) (n : Nat) (u : Node → Node) (i j : Nat) : (s.updNode n u).dev i j = s.dev i j := by simp [State.dev]
@[simp] theorem State.updNode_pasid_eq (s : State) (n : Nat) (u : Node → Node) (i : Nat) : (s.updNode n u).pasid i = s.pasid i := by simp [State.pasid]
@[simp] theorem State.updNode_tracing_eq (s : State) (n : Nat) (u : Node → Node) : (s.updNode n u).tracing = s.tracing := by simp [State.tracing]

/-! ### setSector -/

@[simp] theorem State.setSector_straps (s : State) (k : Nat) (x : Sector) : (s.setSector k x).straps = s.straps := rfl
@[simp] theorem State.setSector_fuses (s : State) (k : Nat) (x : Sector) : (s.setSector k x).fuses = s.fuses := rfl
@[simp] theorem State.setSector_boot (s : State) (k : Nat) (x : Sector) : (s.setSector k x).boot = s.boot := rfl
@[simp] theorem State.setSector_cat (s : State) (k : Nat) (x : Sector) : (s.setSector k x).cat = s.cat := rfl
@[simp] theorem State.setSector_set (s : State) (k : Nat) (x : Sector) : (s.setSector k x).set = s.set := rfl
@[simp] theorem State.setSector_ctxs (s : State) (k : Nat) (x : Sector) : (s.setSector k x).ctxs = s.ctxs := rfl
@[simp] theorem State.setSector_rings (s : State) (k : Nat) (x : Sector) : (s.setSector k x).rings = s.rings := rfl
@[simp] theorem State.setSector_dv_nodes (s : State) (k : Nat) (x : Sector) : (s.setSector k x).dv.nodes = s.dv.nodes := rfl
@[simp] theorem State.setSector_dv_comps (s : State) (k : Nat) (x : Sector) : (s.setSector k x).dv.comps = s.dv.comps := rfl
@[simp] theorem State.setSector_dv_sched0 (s : State) (k : Nat) (x : Sector) : (s.setSector k x).dv.sched0 = s.dv.sched0 := rfl
@[simp] theorem State.setSector_dv_sched1 (s : State) (k : Nat) (x : Sector) : (s.setSector k x).dv.sched1 = s.dv.sched1 := rfl
@[simp] theorem State.setSector_dv_walks (s : State) (k : Nat) (x : Sector) : (s.setSector k x).dv.walks = s.dv.walks := rfl
@[simp] theorem State.setSector_dv_crossSent0 (s : State) (k : Nat) (x : Sector) : (s.setSector k x).dv.crossSent0 = s.dv.crossSent0 := rfl
@[simp] theorem State.setSector_dv_crossSent1 (s : State) (k : Nat) (x : Sector) : (s.setSector k x).dv.crossSent1 = s.dv.crossSent1 := rfl
@[simp] theorem State.setSector_dv_paramBase0 (s : State) (k : Nat) (x : Sector) : (s.setSector k x).dv.paramBase0 = s.dv.paramBase0 := rfl
@[simp] theorem State.setSector_dv_paramBase1 (s : State) (k : Nat) (x : Sector) : (s.setSector k x).dv.paramBase1 = s.dv.paramBase1 := rfl
@[simp] theorem State.setSector_dv_nextOrder (s : State) (k : Nat) (x : Sector) : (s.setSector k x).dv.nextOrder = s.dv.nextOrder := rfl
@[simp] theorem State.setSector_dv_resetting (s : State) (k : Nat) (x : Sector) : (s.setSector k x).dv.resetting = s.dv.resetting := rfl
@[simp] theorem State.setSector_dv_resetFabric (s : State) (k : Nat) (x : Sector) : (s.setSector k x).dv.resetFabric = s.dv.resetFabric := rfl
@[simp] theorem State.setSector_stands (s : State) (k : Nat) (x : Sector) : (s.setSector k x).stands = s.stands := rfl
@[simp] theorem State.setSector_cores (s : State) (k : Nat) (x : Sector) : (s.setSector k x).cores = s.cores := rfl
@[simp] theorem State.setSector_fab (s : State) (k : Nat) (x : Sector) : (s.setSector k x).fab = s.fab := rfl
@[simp] theorem State.setSector_ecl (s : State) (k : Nat) (x : Sector) : (s.setSector k x).ecl = s.ecl := rfl
@[simp] theorem State.setSector_clock (s : State) (k : Nat) (x : Sector) : (s.setSector k x).clock = s.clock := rfl
@[simp] theorem State.setSector_mem (s : State) (k : Nat) (x : Sector) : (s.setSector k x).mem = s.mem := rfl
@[simp] theorem State.setSector_exp (s : State) (k : Nat) (x : Sector) : (s.setSector k x).exp = s.exp := rfl
@[simp] theorem State.setSector_flt (s : State) (k : Nat) (x : Sector) : (s.setSector k x).flt = s.flt := rfl
@[simp] theorem State.setSector_dbg (s : State) (k : Nat) (x : Sector) : (s.setSector k x).dbg = s.dbg := rfl
@[simp] theorem State.setSector_pwr (s : State) (k : Nat) (x : Sector) : (s.setSector k x).pwr = s.pwr := rfl
@[simp] theorem State.setSector_outputs (s : State) (k : Nat) (x : Sector) : (s.setSector k x).outputs = s.outputs := rfl
@[simp] theorem State.setSector_freeCtr (s : State) (k : Nat) (x : Sector) : (s.setSector k x).freeCtr = s.freeCtr := rfl
@[simp] theorem State.setSector_pending (s : State) (k : Nat) (x : Sector) : (s.setSector k x).pending = s.pending := rfl
@[simp] theorem State.setSector_now_eq (s : State) (k : Nat) (x : Sector) : (s.setSector k x).now = s.now := rfl
@[simp] theorem State.setSector_core_eq (s : State) (k : Nat) (x : Sector) (i : Nat) : (s.setSector k x).core i = s.core i := rfl
@[simp] theorem State.setSector_ring_eq (s : State) (k : Nat) (x : Sector) (i : Nat) : (s.setSector k x).ring i = s.ring i := rfl
@[simp] theorem State.setSector_node_eq (s : State) (k : Nat) (x : Sector) (i : Nat) : (s.setSector k x).node i = s.node i := rfl
@[simp] theorem State.setSector_comp_eq (s : State) (k : Nat) (x : Sector) (i : Nat) : (s.setSector k x).comp i = s.comp i := rfl
@[simp] theorem State.setSector_stand_eq (s : State) (k : Nat) (x : Sector) (i : Nat) : (s.setSector k x).stand i = s.stand i := rfl
@[simp] theorem State.setSector_ctx_eq (s : State) (k : Nat) (x : Sector) (i : Nat) : (s.setSector k x).ctx i = s.ctx i := rfl
@[simp] theorem State.setSector_context_eq (s : State) (k : Nat) (x : Sector) (i : Nat) : (s.setSector k x).context i = s.context i := rfl
@[simp] theorem State.setSector_port_eq (s : State) (k : Nat) (x : Sector) (i : Nat) : (s.setSector k x).port i = s.port i := rfl
@[simp] theorem State.setSector_xport_eq (s : State) (k : Nat) (x : Sector) (i : Nat) : (s.setSector k x).xport i = s.xport i := rfl
@[simp] theorem State.setSector_layer_eq (s : State) (k : Nat) (x : Sector) (i j : Nat) : (s.setSector k x).layer i j = s.layer i j := rfl
@[simp] theorem State.setSector_engine_eq (s : State) (k : Nat) (x : Sector) (i : Nat) : (s.setSector k x).engine i = s.engine i := rfl
@[simp] theorem State.setSector_homeHalf_eq (s : State) (k : Nat) (x : Sector) (i : Nat) : (s.setSector k x).homeHalf i = s.homeHalf i := rfl
@[simp] theorem State.setSector_homeSector_eq (s : State) (k : Nat) (x : Sector) (i : Nat) : (s.setSector k x).homeSector i = s.homeSector i := rfl
@[simp] theorem State.setSector_fenced_eq (s : State) (k : Nat) (x : Sector) (i : Nat) : (s.setSector k x).fenced i = s.fenced i := rfl
@[simp] theorem State.setSector_ringsOf_eq (s : State) (k : Nat) (x : Sector) (i : Nat) : (s.setSector k x).ringsOf i = s.ringsOf i := rfl
@[simp] theorem State.setSector_nodesOfRing_eq (s : State) (k : Nat) (x : Sector) (i : Nat) : (s.setSector k x).nodesOfRing i = s.nodesOfRing i := rfl
@[simp] theorem State.setSector_nodesOfCtx_eq (s : State) (k : Nat) (x : Sector) (i : Nat) : (s.setSector k x).nodesOfCtx i = s.nodesOfCtx i := rfl
@[simp] theorem State.setSector_dev_eq (s : State) (k : Nat) (x : Sector) (i j : Nat) : (s.setSector k x).dev i j = s.dev i j := rfl
@[simp] theorem State.setSector_pasid_eq (s : State) (k : Nat) (x : Sector) (i : Nat) : (s.setSector k x).pasid i = s.pasid i := rfl
@[simp] theorem State.setSector_tracing_eq (s : State) (k : Nat) (x : Sector) : (s.setSector k x).tracing = s.tracing := rfl

/-! ### updSector -/

@[simp] theorem State.updSector_straps (s : State) (k : Nat) (u : Sector → Sector) : (s.updSector k u).straps = s.straps := rfl
@[simp] theorem State.updSector_fuses (s : State) (k : Nat) (u : Sector → Sector) : (s.updSector k u).fuses = s.fuses := rfl
@[simp] theorem State.updSector_boot (s : State) (k : Nat) (u : Sector → Sector) : (s.updSector k u).boot = s.boot := rfl
@[simp] theorem State.updSector_cat (s : State) (k : Nat) (u : Sector → Sector) : (s.updSector k u).cat = s.cat := rfl
@[simp] theorem State.updSector_set (s : State) (k : Nat) (u : Sector → Sector) : (s.updSector k u).set = s.set := rfl
@[simp] theorem State.updSector_ctxs (s : State) (k : Nat) (u : Sector → Sector) : (s.updSector k u).ctxs = s.ctxs := rfl
@[simp] theorem State.updSector_rings (s : State) (k : Nat) (u : Sector → Sector) : (s.updSector k u).rings = s.rings := rfl
@[simp] theorem State.updSector_dv_nodes (s : State) (k : Nat) (u : Sector → Sector) : (s.updSector k u).dv.nodes = s.dv.nodes := rfl
@[simp] theorem State.updSector_dv_comps (s : State) (k : Nat) (u : Sector → Sector) : (s.updSector k u).dv.comps = s.dv.comps := rfl
@[simp] theorem State.updSector_dv_sched0 (s : State) (k : Nat) (u : Sector → Sector) : (s.updSector k u).dv.sched0 = s.dv.sched0 := rfl
@[simp] theorem State.updSector_dv_sched1 (s : State) (k : Nat) (u : Sector → Sector) : (s.updSector k u).dv.sched1 = s.dv.sched1 := rfl
@[simp] theorem State.updSector_dv_walks (s : State) (k : Nat) (u : Sector → Sector) : (s.updSector k u).dv.walks = s.dv.walks := rfl
@[simp] theorem State.updSector_dv_crossSent0 (s : State) (k : Nat) (u : Sector → Sector) : (s.updSector k u).dv.crossSent0 = s.dv.crossSent0 := rfl
@[simp] theorem State.updSector_dv_crossSent1 (s : State) (k : Nat) (u : Sector → Sector) : (s.updSector k u).dv.crossSent1 = s.dv.crossSent1 := rfl
@[simp] theorem State.updSector_dv_paramBase0 (s : State) (k : Nat) (u : Sector → Sector) : (s.updSector k u).dv.paramBase0 = s.dv.paramBase0 := rfl
@[simp] theorem State.updSector_dv_paramBase1 (s : State) (k : Nat) (u : Sector → Sector) : (s.updSector k u).dv.paramBase1 = s.dv.paramBase1 := rfl
@[simp] theorem State.updSector_dv_nextOrder (s : State) (k : Nat) (u : Sector → Sector) : (s.updSector k u).dv.nextOrder = s.dv.nextOrder := rfl
@[simp] theorem State.updSector_dv_resetting (s : State) (k : Nat) (u : Sector → Sector) : (s.updSector k u).dv.resetting = s.dv.resetting := rfl
@[simp] theorem State.updSector_dv_resetFabric (s : State) (k : Nat) (u : Sector → Sector) : (s.updSector k u).dv.resetFabric = s.dv.resetFabric := rfl
@[simp] theorem State.updSector_stands (s : State) (k : Nat) (u : Sector → Sector) : (s.updSector k u).stands = s.stands := rfl
@[simp] theorem State.updSector_cores (s : State) (k : Nat) (u : Sector → Sector) : (s.updSector k u).cores = s.cores := rfl
@[simp] theorem State.updSector_fab (s : State) (k : Nat) (u : Sector → Sector) : (s.updSector k u).fab = s.fab := rfl
@[simp] theorem State.updSector_ecl (s : State) (k : Nat) (u : Sector → Sector) : (s.updSector k u).ecl = s.ecl := rfl
@[simp] theorem State.updSector_clock (s : State) (k : Nat) (u : Sector → Sector) : (s.updSector k u).clock = s.clock := rfl
@[simp] theorem State.updSector_mem (s : State) (k : Nat) (u : Sector → Sector) : (s.updSector k u).mem = s.mem := rfl
@[simp] theorem State.updSector_exp (s : State) (k : Nat) (u : Sector → Sector) : (s.updSector k u).exp = s.exp := rfl
@[simp] theorem State.updSector_flt (s : State) (k : Nat) (u : Sector → Sector) : (s.updSector k u).flt = s.flt := rfl
@[simp] theorem State.updSector_dbg (s : State) (k : Nat) (u : Sector → Sector) : (s.updSector k u).dbg = s.dbg := rfl
@[simp] theorem State.updSector_pwr (s : State) (k : Nat) (u : Sector → Sector) : (s.updSector k u).pwr = s.pwr := rfl
@[simp] theorem State.updSector_outputs (s : State) (k : Nat) (u : Sector → Sector) : (s.updSector k u).outputs = s.outputs := rfl
@[simp] theorem State.updSector_freeCtr (s : State) (k : Nat) (u : Sector → Sector) : (s.updSector k u).freeCtr = s.freeCtr := rfl
@[simp] theorem State.updSector_pending (s : State) (k : Nat) (u : Sector → Sector) : (s.updSector k u).pending = s.pending := rfl
@[simp] theorem State.updSector_now_eq (s : State) (k : Nat) (u : Sector → Sector) : (s.updSector k u).now = s.now := rfl
@[simp] theorem State.updSector_core_eq (s : State) (k : Nat) (u : Sector → Sector) (i : Nat) : (s.updSector k u).core i = s.core i := rfl
@[simp] theorem State.updSector_ring_eq (s : State) (k : Nat) (u : Sector → Sector) (i : Nat) : (s.updSector k u).ring i = s.ring i := rfl
@[simp] theorem State.updSector_node_eq (s : State) (k : Nat) (u : Sector → Sector) (i : Nat) : (s.updSector k u).node i = s.node i := rfl
@[simp] theorem State.updSector_comp_eq (s : State) (k : Nat) (u : Sector → Sector) (i : Nat) : (s.updSector k u).comp i = s.comp i := rfl
@[simp] theorem State.updSector_stand_eq (s : State) (k : Nat) (u : Sector → Sector) (i : Nat) : (s.updSector k u).stand i = s.stand i := rfl
@[simp] theorem State.updSector_ctx_eq (s : State) (k : Nat) (u : Sector → Sector) (i : Nat) : (s.updSector k u).ctx i = s.ctx i := rfl
@[simp] theorem State.updSector_context_eq (s : State) (k : Nat) (u : Sector → Sector) (i : Nat) : (s.updSector k u).context i = s.context i := rfl
@[simp] theorem State.updSector_port_eq (s : State) (k : Nat) (u : Sector → Sector) (i : Nat) : (s.updSector k u).port i = s.port i := rfl
@[simp] theorem State.updSector_xport_eq (s : State) (k : Nat) (u : Sector → Sector) (i : Nat) : (s.updSector k u).xport i = s.xport i := rfl
@[simp] theorem State.updSector_layer_eq (s : State) (k : Nat) (u : Sector → Sector) (i j : Nat) : (s.updSector k u).layer i j = s.layer i j := rfl
@[simp] theorem State.updSector_engine_eq (s : State) (k : Nat) (u : Sector → Sector) (i : Nat) : (s.updSector k u).engine i = s.engine i := rfl
@[simp] theorem State.updSector_homeHalf_eq (s : State) (k : Nat) (u : Sector → Sector) (i : Nat) : (s.updSector k u).homeHalf i = s.homeHalf i := rfl
@[simp] theorem State.updSector_homeSector_eq (s : State) (k : Nat) (u : Sector → Sector) (i : Nat) : (s.updSector k u).homeSector i = s.homeSector i := rfl
@[simp] theorem State.updSector_fenced_eq (s : State) (k : Nat) (u : Sector → Sector) (i : Nat) : (s.updSector k u).fenced i = s.fenced i := rfl
@[simp] theorem State.updSector_ringsOf_eq (s : State) (k : Nat) (u : Sector → Sector) (i : Nat) : (s.updSector k u).ringsOf i = s.ringsOf i := rfl
@[simp] theorem State.updSector_nodesOfRing_eq (s : State) (k : Nat) (u : Sector → Sector) (i : Nat) : (s.updSector k u).nodesOfRing i = s.nodesOfRing i := rfl
@[simp] theorem State.updSector_nodesOfCtx_eq (s : State) (k : Nat) (u : Sector → Sector) (i : Nat) : (s.updSector k u).nodesOfCtx i = s.nodesOfCtx i := rfl
@[simp] theorem State.updSector_dev_eq (s : State) (k : Nat) (u : Sector → Sector) (i j : Nat) : (s.updSector k u).dev i j = s.dev i j := rfl
@[simp] theorem State.updSector_pasid_eq (s : State) (k : Nat) (u : Sector → Sector) (i : Nat) : (s.updSector k u).pasid i = s.pasid i := rfl
@[simp] theorem State.updSector_tracing_eq (s : State) (k : Nat) (u : Sector → Sector) : (s.updSector k u).tracing = s.tracing := rfl

/-! ### setComp -/

@[simp] theorem State.setComp_straps (s : State) (n : Nat) (x : Compartment) : (s.setComp n x).straps = s.straps := rfl
@[simp] theorem State.setComp_fuses (s : State) (n : Nat) (x : Compartment) : (s.setComp n x).fuses = s.fuses := rfl
@[simp] theorem State.setComp_boot (s : State) (n : Nat) (x : Compartment) : (s.setComp n x).boot = s.boot := rfl
@[simp] theorem State.setComp_cat (s : State) (n : Nat) (x : Compartment) : (s.setComp n x).cat = s.cat := rfl
@[simp] theorem State.setComp_set (s : State) (n : Nat) (x : Compartment) : (s.setComp n x).set = s.set := rfl
@[simp] theorem State.setComp_ctxs (s : State) (n : Nat) (x : Compartment) : (s.setComp n x).ctxs = s.ctxs := rfl
@[simp] theorem State.setComp_rings (s : State) (n : Nat) (x : Compartment) : (s.setComp n x).rings = s.rings := rfl
@[simp] theorem State.setComp_dv_nodes (s : State) (n : Nat) (x : Compartment) : (s.setComp n x).dv.nodes = s.dv.nodes := rfl
@[simp] theorem State.setComp_dv_sectors (s : State) (n : Nat) (x : Compartment) : (s.setComp n x).dv.sectors = s.dv.sectors := rfl
@[simp] theorem State.setComp_dv_sched0 (s : State) (n : Nat) (x : Compartment) : (s.setComp n x).dv.sched0 = s.dv.sched0 := rfl
@[simp] theorem State.setComp_dv_sched1 (s : State) (n : Nat) (x : Compartment) : (s.setComp n x).dv.sched1 = s.dv.sched1 := rfl
@[simp] theorem State.setComp_dv_walks (s : State) (n : Nat) (x : Compartment) : (s.setComp n x).dv.walks = s.dv.walks := rfl
@[simp] theorem State.setComp_dv_crossSent0 (s : State) (n : Nat) (x : Compartment) : (s.setComp n x).dv.crossSent0 = s.dv.crossSent0 := rfl
@[simp] theorem State.setComp_dv_crossSent1 (s : State) (n : Nat) (x : Compartment) : (s.setComp n x).dv.crossSent1 = s.dv.crossSent1 := rfl
@[simp] theorem State.setComp_dv_paramBase0 (s : State) (n : Nat) (x : Compartment) : (s.setComp n x).dv.paramBase0 = s.dv.paramBase0 := rfl
@[simp] theorem State.setComp_dv_paramBase1 (s : State) (n : Nat) (x : Compartment) : (s.setComp n x).dv.paramBase1 = s.dv.paramBase1 := rfl
@[simp] theorem State.setComp_dv_nextOrder (s : State) (n : Nat) (x : Compartment) : (s.setComp n x).dv.nextOrder = s.dv.nextOrder := rfl
@[simp] theorem State.setComp_dv_resetting (s : State) (n : Nat) (x : Compartment) : (s.setComp n x).dv.resetting = s.dv.resetting := rfl
@[simp] theorem State.setComp_dv_resetFabric (s : State) (n : Nat) (x : Compartment) : (s.setComp n x).dv.resetFabric = s.dv.resetFabric := rfl
@[simp] theorem State.setComp_stands (s : State) (n : Nat) (x : Compartment) : (s.setComp n x).stands = s.stands := rfl
@[simp] theorem State.setComp_cores (s : State) (n : Nat) (x : Compartment) : (s.setComp n x).cores = s.cores := rfl
@[simp] theorem State.setComp_fab (s : State) (n : Nat) (x : Compartment) : (s.setComp n x).fab = s.fab := rfl
@[simp] theorem State.setComp_ecl (s : State) (n : Nat) (x : Compartment) : (s.setComp n x).ecl = s.ecl := rfl
@[simp] theorem State.setComp_clock (s : State) (n : Nat) (x : Compartment) : (s.setComp n x).clock = s.clock := rfl
@[simp] theorem State.setComp_mem (s : State) (n : Nat) (x : Compartment) : (s.setComp n x).mem = s.mem := rfl
@[simp] theorem State.setComp_exp (s : State) (n : Nat) (x : Compartment) : (s.setComp n x).exp = s.exp := rfl
@[simp] theorem State.setComp_flt (s : State) (n : Nat) (x : Compartment) : (s.setComp n x).flt = s.flt := rfl
@[simp] theorem State.setComp_dbg (s : State) (n : Nat) (x : Compartment) : (s.setComp n x).dbg = s.dbg := rfl
@[simp] theorem State.setComp_pwr (s : State) (n : Nat) (x : Compartment) : (s.setComp n x).pwr = s.pwr := rfl
@[simp] theorem State.setComp_outputs (s : State) (n : Nat) (x : Compartment) : (s.setComp n x).outputs = s.outputs := rfl
@[simp] theorem State.setComp_freeCtr (s : State) (n : Nat) (x : Compartment) : (s.setComp n x).freeCtr = s.freeCtr := rfl
@[simp] theorem State.setComp_pending (s : State) (n : Nat) (x : Compartment) : (s.setComp n x).pending = s.pending := rfl
@[simp] theorem State.setComp_now_eq (s : State) (n : Nat) (x : Compartment) : (s.setComp n x).now = s.now := rfl
@[simp] theorem State.setComp_core_eq (s : State) (n : Nat) (x : Compartment) (i : Nat) : (s.setComp n x).core i = s.core i := rfl
@[simp] theorem State.setComp_ring_eq (s : State) (n : Nat) (x : Compartment) (i : Nat) : (s.setComp n x).ring i = s.ring i := rfl
@[simp] theorem State.setComp_node_eq (s : State) (n : Nat) (x : Compartment) (i : Nat) : (s.setComp n x).node i = s.node i := rfl
@[simp] theorem State.setComp_sector_eq (s : State) (n : Nat) (x : Compartment) (i : Nat) : (s.setComp n x).sector i = s.sector i := rfl
@[simp] theorem State.setComp_stand_eq (s : State) (n : Nat) (x : Compartment) (i : Nat) : (s.setComp n x).stand i = s.stand i := rfl
@[simp] theorem State.setComp_ctx_eq (s : State) (n : Nat) (x : Compartment) (i : Nat) : (s.setComp n x).ctx i = s.ctx i := rfl
@[simp] theorem State.setComp_context_eq (s : State) (n : Nat) (x : Compartment) (i : Nat) : (s.setComp n x).context i = s.context i := rfl
@[simp] theorem State.setComp_port_eq (s : State) (n : Nat) (x : Compartment) (i : Nat) : (s.setComp n x).port i = s.port i := rfl
@[simp] theorem State.setComp_xport_eq (s : State) (n : Nat) (x : Compartment) (i : Nat) : (s.setComp n x).xport i = s.xport i := rfl
@[simp] theorem State.setComp_layer_eq (s : State) (n : Nat) (x : Compartment) (i j : Nat) : (s.setComp n x).layer i j = s.layer i j := rfl
@[simp] theorem State.setComp_engine_eq (s : State) (n : Nat) (x : Compartment) (i : Nat) : (s.setComp n x).engine i = s.engine i := rfl
@[simp] theorem State.setComp_homeHalf_eq (s : State) (n : Nat) (x : Compartment) (i : Nat) : (s.setComp n x).homeHalf i = s.homeHalf i := rfl
@[simp] theorem State.setComp_homeSector_eq (s : State) (n : Nat) (x : Compartment) (i : Nat) : (s.setComp n x).homeSector i = s.homeSector i := rfl
@[simp] theorem State.setComp_ringsOf_eq (s : State) (n : Nat) (x : Compartment) (i : Nat) : (s.setComp n x).ringsOf i = s.ringsOf i := rfl
@[simp] theorem State.setComp_nodesOfRing_eq (s : State) (n : Nat) (x : Compartment) (i : Nat) : (s.setComp n x).nodesOfRing i = s.nodesOfRing i := rfl
@[simp] theorem State.setComp_nodesOfCtx_eq (s : State) (n : Nat) (x : Compartment) (i : Nat) : (s.setComp n x).nodesOfCtx i = s.nodesOfCtx i := rfl
@[simp] theorem State.setComp_dev_eq (s : State) (n : Nat) (x : Compartment) (i j : Nat) : (s.setComp n x).dev i j = s.dev i j := rfl
@[simp] theorem State.setComp_pasid_eq (s : State) (n : Nat) (x : Compartment) (i : Nat) : (s.setComp n x).pasid i = s.pasid i := rfl
@[simp] theorem State.setComp_tracing_eq (s : State) (n : Nat) (x : Compartment) : (s.setComp n x).tracing = s.tracing := rfl

/-! ### updComp -/

@[simp] theorem State.updComp_straps (s : State) (n : Nat) (u : Compartment → Compartment) : (s.updComp n u).straps = s.straps := rfl
@[simp] theorem State.updComp_fuses (s : State) (n : Nat) (u : Compartment → Compartment) : (s.updComp n u).fuses = s.fuses := rfl
@[simp] theorem State.updComp_boot (s : State) (n : Nat) (u : Compartment → Compartment) : (s.updComp n u).boot = s.boot := rfl
@[simp] theorem State.updComp_cat (s : State) (n : Nat) (u : Compartment → Compartment) : (s.updComp n u).cat = s.cat := rfl
@[simp] theorem State.updComp_set (s : State) (n : Nat) (u : Compartment → Compartment) : (s.updComp n u).set = s.set := rfl
@[simp] theorem State.updComp_ctxs (s : State) (n : Nat) (u : Compartment → Compartment) : (s.updComp n u).ctxs = s.ctxs := rfl
@[simp] theorem State.updComp_rings (s : State) (n : Nat) (u : Compartment → Compartment) : (s.updComp n u).rings = s.rings := rfl
@[simp] theorem State.updComp_dv_nodes (s : State) (n : Nat) (u : Compartment → Compartment) : (s.updComp n u).dv.nodes = s.dv.nodes := rfl
@[simp] theorem State.updComp_dv_sectors (s : State) (n : Nat) (u : Compartment → Compartment) : (s.updComp n u).dv.sectors = s.dv.sectors := rfl
@[simp] theorem State.updComp_dv_sched0 (s : State) (n : Nat) (u : Compartment → Compartment) : (s.updComp n u).dv.sched0 = s.dv.sched0 := rfl
@[simp] theorem State.updComp_dv_sched1 (s : State) (n : Nat) (u : Compartment → Compartment) : (s.updComp n u).dv.sched1 = s.dv.sched1 := rfl
@[simp] theorem State.updComp_dv_walks (s : State) (n : Nat) (u : Compartment → Compartment) : (s.updComp n u).dv.walks = s.dv.walks := rfl
@[simp] theorem State.updComp_dv_crossSent0 (s : State) (n : Nat) (u : Compartment → Compartment) : (s.updComp n u).dv.crossSent0 = s.dv.crossSent0 := rfl
@[simp] theorem State.updComp_dv_crossSent1 (s : State) (n : Nat) (u : Compartment → Compartment) : (s.updComp n u).dv.crossSent1 = s.dv.crossSent1 := rfl
@[simp] theorem State.updComp_dv_paramBase0 (s : State) (n : Nat) (u : Compartment → Compartment) : (s.updComp n u).dv.paramBase0 = s.dv.paramBase0 := rfl
@[simp] theorem State.updComp_dv_paramBase1 (s : State) (n : Nat) (u : Compartment → Compartment) : (s.updComp n u).dv.paramBase1 = s.dv.paramBase1 := rfl
@[simp] theorem State.updComp_dv_nextOrder (s : State) (n : Nat) (u : Compartment → Compartment) : (s.updComp n u).dv.nextOrder = s.dv.nextOrder := rfl
@[simp] theorem State.updComp_dv_resetting (s : State) (n : Nat) (u : Compartment → Compartment) : (s.updComp n u).dv.resetting = s.dv.resetting := rfl
@[simp] theorem State.updComp_dv_resetFabric (s : State) (n : Nat) (u : Compartment → Compartment) : (s.updComp n u).dv.resetFabric = s.dv.resetFabric := rfl
@[simp] theorem State.updComp_stands (s : State) (n : Nat) (u : Compartment → Compartment) : (s.updComp n u).stands = s.stands := rfl
@[simp] theorem State.updComp_cores (s : State) (n : Nat) (u : Compartment → Compartment) : (s.updComp n u).cores = s.cores := rfl
@[simp] theorem State.updComp_fab (s : State) (n : Nat) (u : Compartment → Compartment) : (s.updComp n u).fab = s.fab := rfl
@[simp] theorem State.updComp_ecl (s : State) (n : Nat) (u : Compartment → Compartment) : (s.updComp n u).ecl = s.ecl := rfl
@[simp] theorem State.updComp_clock (s : State) (n : Nat) (u : Compartment → Compartment) : (s.updComp n u).clock = s.clock := rfl
@[simp] theorem State.updComp_mem (s : State) (n : Nat) (u : Compartment → Compartment) : (s.updComp n u).mem = s.mem := rfl
@[simp] theorem State.updComp_exp (s : State) (n : Nat) (u : Compartment → Compartment) : (s.updComp n u).exp = s.exp := rfl
@[simp] theorem State.updComp_flt (s : State) (n : Nat) (u : Compartment → Compartment) : (s.updComp n u).flt = s.flt := rfl
@[simp] theorem State.updComp_dbg (s : State) (n : Nat) (u : Compartment → Compartment) : (s.updComp n u).dbg = s.dbg := rfl
@[simp] theorem State.updComp_pwr (s : State) (n : Nat) (u : Compartment → Compartment) : (s.updComp n u).pwr = s.pwr := rfl
@[simp] theorem State.updComp_outputs (s : State) (n : Nat) (u : Compartment → Compartment) : (s.updComp n u).outputs = s.outputs := rfl
@[simp] theorem State.updComp_freeCtr (s : State) (n : Nat) (u : Compartment → Compartment) : (s.updComp n u).freeCtr = s.freeCtr := rfl
@[simp] theorem State.updComp_pending (s : State) (n : Nat) (u : Compartment → Compartment) : (s.updComp n u).pending = s.pending := rfl
@[simp] theorem State.updComp_now_eq (s : State) (n : Nat) (u : Compartment → Compartment) : (s.updComp n u).now = s.now := rfl
@[simp] theorem State.updComp_core_eq (s : State) (n : Nat) (u : Compartment → Compartment) (i : Nat) : (s.updComp n u).core i = s.core i := rfl
@[simp] theorem State.updComp_ring_eq (s : State) (n : Nat) (u : Compartment → Compartment) (i : Nat) : (s.updComp n u).ring i = s.ring i := rfl
@[simp] theorem State.updComp_node_eq (s : State) (n : Nat) (u : Compartment → Compartment) (i : Nat) : (s.updComp n u).node i = s.node i := rfl
@[simp] theorem State.updComp_sector_eq (s : State) (n : Nat) (u : Compartment → Compartment) (i : Nat) : (s.updComp n u).sector i = s.sector i := rfl
@[simp] theorem State.updComp_stand_eq (s : State) (n : Nat) (u : Compartment → Compartment) (i : Nat) : (s.updComp n u).stand i = s.stand i := rfl
@[simp] theorem State.updComp_ctx_eq (s : State) (n : Nat) (u : Compartment → Compartment) (i : Nat) : (s.updComp n u).ctx i = s.ctx i := rfl
@[simp] theorem State.updComp_context_eq (s : State) (n : Nat) (u : Compartment → Compartment) (i : Nat) : (s.updComp n u).context i = s.context i := rfl
@[simp] theorem State.updComp_port_eq (s : State) (n : Nat) (u : Compartment → Compartment) (i : Nat) : (s.updComp n u).port i = s.port i := rfl
@[simp] theorem State.updComp_xport_eq (s : State) (n : Nat) (u : Compartment → Compartment) (i : Nat) : (s.updComp n u).xport i = s.xport i := rfl
@[simp] theorem State.updComp_layer_eq (s : State) (n : Nat) (u : Compartment → Compartment) (i j : Nat) : (s.updComp n u).layer i j = s.layer i j := rfl
@[simp] theorem State.updComp_engine_eq (s : State) (n : Nat) (u : Compartment → Compartment) (i : Nat) : (s.updComp n u).engine i = s.engine i := rfl
@[simp] theorem State.updComp_homeHalf_eq (s : State) (n : Nat) (u : Compartment → Compartment) (i : Nat) : (s.updComp n u).homeHalf i = s.homeHalf i := rfl
@[simp] theorem State.updComp_homeSector_eq (s : State) (n : Nat) (u : Compartment → Compartment) (i : Nat) : (s.updComp n u).homeSector i = s.homeSector i := rfl
@[simp] theorem State.updComp_ringsOf_eq (s : State) (n : Nat) (u : Compartment → Compartment) (i : Nat) : (s.updComp n u).ringsOf i = s.ringsOf i := rfl
@[simp] theorem State.updComp_nodesOfRing_eq (s : State) (n : Nat) (u : Compartment → Compartment) (i : Nat) : (s.updComp n u).nodesOfRing i = s.nodesOfRing i := rfl
@[simp] theorem State.updComp_nodesOfCtx_eq (s : State) (n : Nat) (u : Compartment → Compartment) (i : Nat) : (s.updComp n u).nodesOfCtx i = s.nodesOfCtx i := rfl
@[simp] theorem State.updComp_dev_eq (s : State) (n : Nat) (u : Compartment → Compartment) (i j : Nat) : (s.updComp n u).dev i j = s.dev i j := rfl
@[simp] theorem State.updComp_pasid_eq (s : State) (n : Nat) (u : Compartment → Compartment) (i : Nat) : (s.updComp n u).pasid i = s.pasid i := rfl
@[simp] theorem State.updComp_tracing_eq (s : State) (n : Nat) (u : Compartment → Compartment) : (s.updComp n u).tracing = s.tracing := rfl

/-! ### setStand -/

@[simp] theorem State.setStand_straps (s : State) (n : Nat) (x : Stand) : (s.setStand n x).straps = s.straps := rfl
@[simp] theorem State.setStand_fuses (s : State) (n : Nat) (x : Stand) : (s.setStand n x).fuses = s.fuses := rfl
@[simp] theorem State.setStand_boot (s : State) (n : Nat) (x : Stand) : (s.setStand n x).boot = s.boot := rfl
@[simp] theorem State.setStand_cat (s : State) (n : Nat) (x : Stand) : (s.setStand n x).cat = s.cat := rfl
@[simp] theorem State.setStand_set (s : State) (n : Nat) (x : Stand) : (s.setStand n x).set = s.set := rfl
@[simp] theorem State.setStand_ctxs (s : State) (n : Nat) (x : Stand) : (s.setStand n x).ctxs = s.ctxs := rfl
@[simp] theorem State.setStand_rings (s : State) (n : Nat) (x : Stand) : (s.setStand n x).rings = s.rings := rfl
@[simp] theorem State.setStand_dv (s : State) (n : Nat) (x : Stand) : (s.setStand n x).dv = s.dv := rfl
@[simp] theorem State.setStand_cores (s : State) (n : Nat) (x : Stand) : (s.setStand n x).cores = s.cores := rfl
@[simp] theorem State.setStand_fab (s : State) (n : Nat) (x : Stand) : (s.setStand n x).fab = s.fab := rfl
@[simp] theorem State.setStand_ecl (s : State) (n : Nat) (x : Stand) : (s.setStand n x).ecl = s.ecl := rfl
@[simp] theorem State.setStand_clock (s : State) (n : Nat) (x : Stand) : (s.setStand n x).clock = s.clock := rfl
@[simp] theorem State.setStand_mem (s : State) (n : Nat) (x : Stand) : (s.setStand n x).mem = s.mem := rfl
@[simp] theorem State.setStand_exp (s : State) (n : Nat) (x : Stand) : (s.setStand n x).exp = s.exp := rfl
@[simp] theorem State.setStand_flt (s : State) (n : Nat) (x : Stand) : (s.setStand n x).flt = s.flt := rfl
@[simp] theorem State.setStand_dbg (s : State) (n : Nat) (x : Stand) : (s.setStand n x).dbg = s.dbg := rfl
@[simp] theorem State.setStand_pwr (s : State) (n : Nat) (x : Stand) : (s.setStand n x).pwr = s.pwr := rfl
@[simp] theorem State.setStand_outputs (s : State) (n : Nat) (x : Stand) : (s.setStand n x).outputs = s.outputs := rfl
@[simp] theorem State.setStand_freeCtr (s : State) (n : Nat) (x : Stand) : (s.setStand n x).freeCtr = s.freeCtr := rfl
@[simp] theorem State.setStand_pending (s : State) (n : Nat) (x : Stand) : (s.setStand n x).pending = s.pending := rfl
@[simp] theorem State.setStand_now_eq (s : State) (n : Nat) (x : Stand) : (s.setStand n x).now = s.now := rfl
@[simp] theorem State.setStand_core_eq (s : State) (n : Nat) (x : Stand) (i : Nat) : (s.setStand n x).core i = s.core i := rfl
@[simp] theorem State.setStand_ring_eq (s : State) (n : Nat) (x : Stand) (i : Nat) : (s.setStand n x).ring i = s.ring i := rfl
@[simp] theorem State.setStand_node_eq (s : State) (n : Nat) (x : Stand) (i : Nat) : (s.setStand n x).node i = s.node i := rfl
@[simp] theorem State.setStand_sector_eq (s : State) (n : Nat) (x : Stand) (i : Nat) : (s.setStand n x).sector i = s.sector i := rfl
@[simp] theorem State.setStand_comp_eq (s : State) (n : Nat) (x : Stand) (i : Nat) : (s.setStand n x).comp i = s.comp i := rfl
@[simp] theorem State.setStand_ctx_eq (s : State) (n : Nat) (x : Stand) (i : Nat) : (s.setStand n x).ctx i = s.ctx i := rfl
@[simp] theorem State.setStand_context_eq (s : State) (n : Nat) (x : Stand) (i : Nat) : (s.setStand n x).context i = s.context i := rfl
@[simp] theorem State.setStand_port_eq (s : State) (n : Nat) (x : Stand) (i : Nat) : (s.setStand n x).port i = s.port i := rfl
@[simp] theorem State.setStand_xport_eq (s : State) (n : Nat) (x : Stand) (i : Nat) : (s.setStand n x).xport i = s.xport i := rfl
@[simp] theorem State.setStand_layer_eq (s : State) (n : Nat) (x : Stand) (i j : Nat) : (s.setStand n x).layer i j = s.layer i j := rfl
@[simp] theorem State.setStand_engine_eq (s : State) (n : Nat) (x : Stand) (i : Nat) : (s.setStand n x).engine i = s.engine i := rfl
@[simp] theorem State.setStand_homeHalf_eq (s : State) (n : Nat) (x : Stand) (i : Nat) : (s.setStand n x).homeHalf i = s.homeHalf i := rfl
@[simp] theorem State.setStand_homeSector_eq (s : State) (n : Nat) (x : Stand) (i : Nat) : (s.setStand n x).homeSector i = s.homeSector i := rfl
@[simp] theorem State.setStand_ringsOf_eq (s : State) (n : Nat) (x : Stand) (i : Nat) : (s.setStand n x).ringsOf i = s.ringsOf i := rfl
@[simp] theorem State.setStand_nodesOfRing_eq (s : State) (n : Nat) (x : Stand) (i : Nat) : (s.setStand n x).nodesOfRing i = s.nodesOfRing i := rfl
@[simp] theorem State.setStand_nodesOfCtx_eq (s : State) (n : Nat) (x : Stand) (i : Nat) : (s.setStand n x).nodesOfCtx i = s.nodesOfCtx i := rfl
@[simp] theorem State.setStand_dev_eq (s : State) (n : Nat) (x : Stand) (i j : Nat) : (s.setStand n x).dev i j = s.dev i j := rfl
@[simp] theorem State.setStand_pasid_eq (s : State) (n : Nat) (x : Stand) (i : Nat) : (s.setStand n x).pasid i = s.pasid i := rfl
@[simp] theorem State.setStand_tracing_eq (s : State) (n : Nat) (x : Stand) : (s.setStand n x).tracing = s.tracing := rfl

/-! ### updStand -/

@[simp] theorem State.updStand_straps (s : State) (n : Nat) (u : Stand → Stand) : (s.updStand n u).straps = s.straps := rfl
@[simp] theorem State.updStand_fuses (s : State) (n : Nat) (u : Stand → Stand) : (s.updStand n u).fuses = s.fuses := rfl
@[simp] theorem State.updStand_boot (s : State) (n : Nat) (u : Stand → Stand) : (s.updStand n u).boot = s.boot := rfl
@[simp] theorem State.updStand_cat (s : State) (n : Nat) (u : Stand → Stand) : (s.updStand n u).cat = s.cat := rfl
@[simp] theorem State.updStand_set (s : State) (n : Nat) (u : Stand → Stand) : (s.updStand n u).set = s.set := rfl
@[simp] theorem State.updStand_ctxs (s : State) (n : Nat) (u : Stand → Stand) : (s.updStand n u).ctxs = s.ctxs := rfl
@[simp] theorem State.updStand_rings (s : State) (n : Nat) (u : Stand → Stand) : (s.updStand n u).rings = s.rings := rfl
@[simp] theorem State.updStand_dv (s : State) (n : Nat) (u : Stand → Stand) : (s.updStand n u).dv = s.dv := rfl
@[simp] theorem State.updStand_cores (s : State) (n : Nat) (u : Stand → Stand) : (s.updStand n u).cores = s.cores := rfl
@[simp] theorem State.updStand_fab (s : State) (n : Nat) (u : Stand → Stand) : (s.updStand n u).fab = s.fab := rfl
@[simp] theorem State.updStand_ecl (s : State) (n : Nat) (u : Stand → Stand) : (s.updStand n u).ecl = s.ecl := rfl
@[simp] theorem State.updStand_clock (s : State) (n : Nat) (u : Stand → Stand) : (s.updStand n u).clock = s.clock := rfl
@[simp] theorem State.updStand_mem (s : State) (n : Nat) (u : Stand → Stand) : (s.updStand n u).mem = s.mem := rfl
@[simp] theorem State.updStand_exp (s : State) (n : Nat) (u : Stand → Stand) : (s.updStand n u).exp = s.exp := rfl
@[simp] theorem State.updStand_flt (s : State) (n : Nat) (u : Stand → Stand) : (s.updStand n u).flt = s.flt := rfl
@[simp] theorem State.updStand_dbg (s : State) (n : Nat) (u : Stand → Stand) : (s.updStand n u).dbg = s.dbg := rfl
@[simp] theorem State.updStand_pwr (s : State) (n : Nat) (u : Stand → Stand) : (s.updStand n u).pwr = s.pwr := rfl
@[simp] theorem State.updStand_outputs (s : State) (n : Nat) (u : Stand → Stand) : (s.updStand n u).outputs = s.outputs := rfl
@[simp] theorem State.updStand_freeCtr (s : State) (n : Nat) (u : Stand → Stand) : (s.updStand n u).freeCtr = s.freeCtr := rfl
@[simp] theorem State.updStand_pending (s : State) (n : Nat) (u : Stand → Stand) : (s.updStand n u).pending = s.pending := rfl
@[simp] theorem State.updStand_now_eq (s : State) (n : Nat) (u : Stand → Stand) : (s.updStand n u).now = s.now := rfl
@[simp] theorem State.updStand_core_eq (s : State) (n : Nat) (u : Stand → Stand) (i : Nat) : (s.updStand n u).core i = s.core i := rfl
@[simp] theorem State.updStand_ring_eq (s : State) (n : Nat) (u : Stand → Stand) (i : Nat) : (s.updStand n u).ring i = s.ring i := rfl
@[simp] theorem State.updStand_node_eq (s : State) (n : Nat) (u : Stand → Stand) (i : Nat) : (s.updStand n u).node i = s.node i := rfl
@[simp] theorem State.updStand_sector_eq (s : State) (n : Nat) (u : Stand → Stand) (i : Nat) : (s.updStand n u).sector i = s.sector i := rfl
@[simp] theorem State.updStand_comp_eq (s : State) (n : Nat) (u : Stand → Stand) (i : Nat) : (s.updStand n u).comp i = s.comp i := rfl
@[simp] theorem State.updStand_ctx_eq (s : State) (n : Nat) (u : Stand → Stand) (i : Nat) : (s.updStand n u).ctx i = s.ctx i := rfl
@[simp] theorem State.updStand_context_eq (s : State) (n : Nat) (u : Stand → Stand) (i : Nat) : (s.updStand n u).context i = s.context i := rfl
@[simp] theorem State.updStand_port_eq (s : State) (n : Nat) (u : Stand → Stand) (i : Nat) : (s.updStand n u).port i = s.port i := rfl
@[simp] theorem State.updStand_xport_eq (s : State) (n : Nat) (u : Stand → Stand) (i : Nat) : (s.updStand n u).xport i = s.xport i := rfl
@[simp] theorem State.updStand_layer_eq (s : State) (n : Nat) (u : Stand → Stand) (i j : Nat) : (s.updStand n u).layer i j = s.layer i j := rfl
@[simp] theorem State.updStand_engine_eq (s : State) (n : Nat) (u : Stand → Stand) (i : Nat) : (s.updStand n u).engine i = s.engine i := rfl
@[simp] theorem State.updStand_homeHalf_eq (s : State) (n : Nat) (u : Stand → Stand) (i : Nat) : (s.updStand n u).homeHalf i = s.homeHalf i := rfl
@[simp] theorem State.updStand_homeSector_eq (s : State) (n : Nat) (u : Stand → Stand) (i : Nat) : (s.updStand n u).homeSector i = s.homeSector i := rfl
@[simp] theorem State.updStand_ringsOf_eq (s : State) (n : Nat) (u : Stand → Stand) (i : Nat) : (s.updStand n u).ringsOf i = s.ringsOf i := rfl
@[simp] theorem State.updStand_nodesOfRing_eq (s : State) (n : Nat) (u : Stand → Stand) (i : Nat) : (s.updStand n u).nodesOfRing i = s.nodesOfRing i := rfl
@[simp] theorem State.updStand_nodesOfCtx_eq (s : State) (n : Nat) (u : Stand → Stand) (i : Nat) : (s.updStand n u).nodesOfCtx i = s.nodesOfCtx i := rfl
@[simp] theorem State.updStand_dev_eq (s : State) (n : Nat) (u : Stand → Stand) (i j : Nat) : (s.updStand n u).dev i j = s.dev i j := rfl
@[simp] theorem State.updStand_pasid_eq (s : State) (n : Nat) (u : Stand → Stand) (i : Nat) : (s.updStand n u).pasid i = s.pasid i := rfl
@[simp] theorem State.updStand_tracing_eq (s : State) (n : Nat) (u : Stand → Stand) : (s.updStand n u).tracing = s.tracing := rfl

/-! ### updCtx -/

@[simp] theorem State.updCtx_straps (s : State) (c : Nat) (u : Context → Context) : (s.updCtx c u).straps = s.straps := by unfold State.updCtx; split <;> rfl
@[simp] theorem State.updCtx_fuses (s : State) (c : Nat) (u : Context → Context) : (s.updCtx c u).fuses = s.fuses := by unfold State.updCtx; split <;> rfl
@[simp] theorem State.updCtx_boot (s : State) (c : Nat) (u : Context → Context) : (s.updCtx c u).boot = s.boot := by unfold State.updCtx; split <;> rfl
@[simp] theorem State.updCtx_cat (s : State) (c : Nat) (u : Context → Context) : (s.updCtx c u).cat = s.cat := by unfold State.updCtx; split <;> rfl
@[simp] theorem State.updCtx_set (s : State) (c : Nat) (u : Context → Context) : (s.updCtx c u).set = s.set := by unfold State.updCtx; split <;> rfl
@[simp] theorem State.updCtx_rings (s : State) (c : Nat) (u : Context → Context) : (s.updCtx c u).rings = s.rings := by unfold State.updCtx; split <;> rfl
@[simp] theorem State.updCtx_dv (s : State) (c : Nat) (u : Context → Context) : (s.updCtx c u).dv = s.dv := by unfold State.updCtx; split <;> rfl
@[simp] theorem State.updCtx_stands (s : State) (c : Nat) (u : Context → Context) : (s.updCtx c u).stands = s.stands := by unfold State.updCtx; split <;> rfl
@[simp] theorem State.updCtx_cores (s : State) (c : Nat) (u : Context → Context) : (s.updCtx c u).cores = s.cores := by unfold State.updCtx; split <;> rfl
@[simp] theorem State.updCtx_fab (s : State) (c : Nat) (u : Context → Context) : (s.updCtx c u).fab = s.fab := by unfold State.updCtx; split <;> rfl
@[simp] theorem State.updCtx_ecl (s : State) (c : Nat) (u : Context → Context) : (s.updCtx c u).ecl = s.ecl := by unfold State.updCtx; split <;> rfl
@[simp] theorem State.updCtx_clock (s : State) (c : Nat) (u : Context → Context) : (s.updCtx c u).clock = s.clock := by unfold State.updCtx; split <;> rfl
@[simp] theorem State.updCtx_mem (s : State) (c : Nat) (u : Context → Context) : (s.updCtx c u).mem = s.mem := by unfold State.updCtx; split <;> rfl
@[simp] theorem State.updCtx_exp (s : State) (c : Nat) (u : Context → Context) : (s.updCtx c u).exp = s.exp := by unfold State.updCtx; split <;> rfl
@[simp] theorem State.updCtx_flt (s : State) (c : Nat) (u : Context → Context) : (s.updCtx c u).flt = s.flt := by unfold State.updCtx; split <;> rfl
@[simp] theorem State.updCtx_dbg (s : State) (c : Nat) (u : Context → Context) : (s.updCtx c u).dbg = s.dbg := by unfold State.updCtx; split <;> rfl
@[simp] theorem State.updCtx_pwr (s : State) (c : Nat) (u : Context → Context) : (s.updCtx c u).pwr = s.pwr := by unfold State.updCtx; split <;> rfl
@[simp] theorem State.updCtx_outputs (s : State) (c : Nat) (u : Context → Context) : (s.updCtx c u).outputs = s.outputs := by unfold State.updCtx; split <;> rfl
@[simp] theorem State.updCtx_freeCtr (s : State) (c : Nat) (u : Context → Context) : (s.updCtx c u).freeCtr = s.freeCtr := by unfold State.updCtx; split <;> rfl
@[simp] theorem State.updCtx_pending (s : State) (c : Nat) (u : Context → Context) : (s.updCtx c u).pending = s.pending := by unfold State.updCtx; split <;> rfl
@[simp] theorem State.updCtx_now_eq (s : State) (c : Nat) (u : Context → Context) : (s.updCtx c u).now = s.now := by simp [State.now]
@[simp] theorem State.updCtx_core_eq (s : State) (c : Nat) (u : Context → Context) (i : Nat) : (s.updCtx c u).core i = s.core i := by simp [State.core]
@[simp] theorem State.updCtx_ring_eq (s : State) (c : Nat) (u : Context → Context) (i : Nat) : (s.updCtx c u).ring i = s.ring i := by simp [State.ring]
@[simp] theorem State.updCtx_node_eq (s : State) (c : Nat) (u : Context → Context) (i : Nat) : (s.updCtx c u).node i = s.node i := by simp [State.node]
@[simp] theorem State.updCtx_sector_eq (s : State) (c : Nat) (u : Context → Context) (i : Nat) : (s.updCtx c u).sector i = s.sector i := by simp [State.sector]
@[simp] theorem State.updCtx_comp_eq (s : State) (c : Nat) (u : Context → Context) (i : Nat) : (s.updCtx c u).comp i = s.comp i := by simp [State.comp]
@[simp] theorem State.updCtx_stand_eq (s : State) (c : Nat) (u : Context → Context) (i : Nat) : (s.updCtx c u).stand i = s.stand i := by simp [State.stand]
@[simp] theorem State.updCtx_port_eq (s : State) (c : Nat) (u : Context → Context) (i : Nat) : (s.updCtx c u).port i = s.port i := by simp [State.port]
@[simp] theorem State.updCtx_xport_eq (s : State) (c : Nat) (u : Context → Context) (i : Nat) : (s.updCtx c u).xport i = s.xport i := by simp [State.xport]
@[simp] theorem State.updCtx_layer_eq (s : State) (c : Nat) (u : Context → Context) (i j : Nat) : (s.updCtx c u).layer i j = s.layer i j := by simp [State.layer]
@[simp] theorem State.updCtx_engine_eq (s : State) (c : Nat) (u : Context → Context) (i : Nat) : (s.updCtx c u).engine i = s.engine i := by simp [State.engine]
@[simp] theorem State.updCtx_homeHalf_eq (s : State) (c : Nat) (u : Context → Context) (i : Nat) : (s.updCtx c u).homeHalf i = s.homeHalf i := by simp [State.homeHalf, State.ring]
@[simp] theorem State.updCtx_homeSector_eq (s : State) (c : Nat) (u : Context → Context) (i : Nat) : (s.updCtx c u).homeSector i = s.homeSector i := by simp [State.homeSector, State.ring]
@[simp] theorem State.updCtx_fenced_eq (s : State) (c : Nat) (u : Context → Context) (i : Nat) : (s.updCtx c u).fenced i = s.fenced i := by simp [State.fenced]
@[simp] theorem State.updCtx_ringsOf_eq (s : State) (c : Nat) (u : Context → Context) (i : Nat) : (s.updCtx c u).ringsOf i = s.ringsOf i := by simp [State.ringsOf]
@[simp] theorem State.updCtx_nodesOfRing_eq (s : State) (c : Nat) (u : Context → Context) (i : Nat) : (s.updCtx c u).nodesOfRing i = s.nodesOfRing i := by simp [State.nodesOfRing]
@[simp] theorem State.updCtx_nodesOfCtx_eq (s : State) (c : Nat) (u : Context → Context) (i : Nat) : (s.updCtx c u).nodesOfCtx i = s.nodesOfCtx i := by simp [State.nodesOfCtx]
@[simp] theorem State.updCtx_dev_eq (s : State) (c : Nat) (u : Context → Context) (i j : Nat) : (s.updCtx c u).dev i j = s.dev i j := by simp [State.dev]
@[simp] theorem State.updCtx_tracing_eq (s : State) (c : Nat) (u : Context → Context) : (s.updCtx c u).tracing = s.tracing := by simp [State.tracing]

/-! ### updPort -/

@[simp] theorem State.updPort_straps (s : State) (p : Nat) (u : MemPort → MemPort) : (s.updPort p u).straps = s.straps := rfl
@[simp] theorem State.updPort_fuses (s : State) (p : Nat) (u : MemPort → MemPort) : (s.updPort p u).fuses = s.fuses := rfl
@[simp] theorem State.updPort_boot (s : State) (p : Nat) (u : MemPort → MemPort) : (s.updPort p u).boot = s.boot := rfl
@[simp] theorem State.updPort_cat (s : State) (p : Nat) (u : MemPort → MemPort) : (s.updPort p u).cat = s.cat := rfl
@[simp] theorem State.updPort_set (s : State) (p : Nat) (u : MemPort → MemPort) : (s.updPort p u).set = s.set := rfl
@[simp] theorem State.updPort_ctxs (s : State) (p : Nat) (u : MemPort → MemPort) : (s.updPort p u).ctxs = s.ctxs := rfl
@[simp] theorem State.updPort_rings (s : State) (p : Nat) (u : MemPort → MemPort) : (s.updPort p u).rings = s.rings := rfl
@[simp] theorem State.updPort_dv (s : State) (p : Nat) (u : MemPort → MemPort) : (s.updPort p u).dv = s.dv := rfl
@[simp] theorem State.updPort_stands (s : State) (p : Nat) (u : MemPort → MemPort) : (s.updPort p u).stands = s.stands := rfl
@[simp] theorem State.updPort_cores (s : State) (p : Nat) (u : MemPort → MemPort) : (s.updPort p u).cores = s.cores := rfl
@[simp] theorem State.updPort_fab (s : State) (p : Nat) (u : MemPort → MemPort) : (s.updPort p u).fab = s.fab := rfl
@[simp] theorem State.updPort_ecl (s : State) (p : Nat) (u : MemPort → MemPort) : (s.updPort p u).ecl = s.ecl := rfl
@[simp] theorem State.updPort_clock (s : State) (p : Nat) (u : MemPort → MemPort) : (s.updPort p u).clock = s.clock := rfl
@[simp] theorem State.updPort_mem_dev (s : State) (p : Nat) (u : MemPort → MemPort) : (s.updPort p u).mem.dev = s.mem.dev := rfl
@[simp] theorem State.updPort_mem_tables (s : State) (p : Nat) (u : MemPort → MemPort) : (s.updPort p u).mem.tables = s.mem.tables := rfl
@[simp] theorem State.updPort_mem_regions (s : State) (p : Nat) (u : MemPort → MemPort) : (s.updPort p u).mem.regions = s.mem.regions := rfl
@[simp] theorem State.updPort_mem_gathers (s : State) (p : Nat) (u : MemPort → MemPort) : (s.updPort p u).mem.gathers = s.mem.gathers := rfl
@[simp] theorem State.updPort_mem_xlat (s : State) (p : Nat) (u : MemPort → MemPort) : (s.updPort p u).mem.xlat = s.mem.xlat := rfl
@[simp] theorem State.updPort_mem_pinned (s : State) (p : Nat) (u : MemPort → MemPort) : (s.updPort p u).mem.pinned = s.mem.pinned := rfl
@[simp] theorem State.updPort_mem_requests (s : State) (p : Nat) (u : MemPort → MemPort) : (s.updPort p u).mem.requests = s.mem.requests := rfl
@[simp] theorem State.updPort_mem_nextTag (s : State) (p : Nat) (u : MemPort → MemPort) : (s.updPort p u).mem.nextTag = s.mem.nextTag := rfl
@[simp] theorem State.updPort_mem_records (s : State) (p : Nat) (u : MemPort → MemPort) : (s.updPort p u).mem.records = s.mem.records := rfl
@[simp] theorem State.updPort_mem_pageRequests (s : State) (p : Nat) (u : MemPort → MemPort) : (s.updPort p u).mem.pageRequests = s.mem.pageRequests := rfl
@[simp] theorem State.updPort_mem_readData (s : State) (p : Nat) (u : MemPort → MemPort) : (s.updPort p u).mem.readData = s.mem.readData := rfl
@[simp] theorem State.updPort_mem_pageWaiters (s : State) (p : Nat) (u : MemPort → MemPort) : (s.updPort p u).mem.pageWaiters = s.mem.pageWaiters := rfl
@[simp] theorem State.updPort_mem_xltWaiting (s : State) (p : Nat) (u : MemPort → MemPort) : (s.updPort p u).mem.xltWaiting = s.mem.xltWaiting := rfl
@[simp] theorem State.updPort_mem_partials (s : State) (p : Nat) (u : MemPort → MemPort) : (s.updPort p u).mem.partials = s.mem.partials := rfl
@[simp] theorem State.updPort_mem_invWaiting (s : State) (p : Nat) (u : MemPort → MemPort) : (s.updPort p u).mem.invWaiting = s.mem.invWaiting := rfl
@[simp] theorem State.updPort_exp (s : State) (p : Nat) (u : MemPort → MemPort) : (s.updPort p u).exp = s.exp := rfl
@[simp] theorem State.updPort_flt (s : State) (p : Nat) (u : MemPort → MemPort) : (s.updPort p u).flt = s.flt := rfl
@[simp] theorem State.updPort_dbg (s : State) (p : Nat) (u : MemPort → MemPort) : (s.updPort p u).dbg = s.dbg := rfl
@[simp] theorem State.updPort_pwr (s : State) (p : Nat) (u : MemPort → MemPort) : (s.updPort p u).pwr = s.pwr := rfl
@[simp] theorem State.updPort_outputs (s : State) (p : Nat) (u : MemPort → MemPort) : (s.updPort p u).outputs = s.outputs := rfl
@[simp] theorem State.updPort_freeCtr (s : State) (p : Nat) (u : MemPort → MemPort) : (s.updPort p u).freeCtr = s.freeCtr := rfl
@[simp] theorem State.updPort_pending (s : State) (p : Nat) (u : MemPort → MemPort) : (s.updPort p u).pending = s.pending := rfl
@[simp] theorem State.updPort_now_eq (s : State) (p : Nat) (u : MemPort → MemPort) : (s.updPort p u).now = s.now := rfl
@[simp] theorem State.updPort_core_eq (s : State) (p : Nat) (u : MemPort → MemPort) (i : Nat) : (s.updPort p u).core i = s.core i := rfl
@[simp] theorem State.updPort_ring_eq (s : State) (p : Nat) (u : MemPort → MemPort) (i : Nat) : (s.updPort p u).ring i = s.ring i := rfl
@[simp] theorem State.updPort_node_eq (s : State) (p : Nat) (u : MemPort → MemPort) (i : Nat) : (s.updPort p u).node i = s.node i := rfl
@[simp] theorem State.updPort_sector_eq (s : State) (p : Nat) (u : MemPort → MemPort) (i : Nat) : (s.updPort p u).sector i = s.sector i := rfl
@[simp] theorem State.updPort_comp_eq (s : State) (p : Nat) (u : MemPort → MemPort) (i : Nat) : (s.updPort p u).comp i = s.comp i := rfl
@[simp] theorem State.updPort_stand_eq (s : State) (p : Nat) (u : MemPort → MemPort) (i : Nat) : (s.updPort p u).stand i = s.stand i := rfl
@[simp] theorem State.updPort_ctx_eq (s : State) (p : Nat) (u : MemPort → MemPort) (i : Nat) : (s.updPort p u).ctx i = s.ctx i := rfl
@[simp] theorem State.updPort_context_eq (s : State) (p : Nat) (u : MemPort → MemPort) (i : Nat) : (s.updPort p u).context i = s.context i := rfl
@[simp] theorem State.updPort_xport_eq (s : State) (p : Nat) (u : MemPort → MemPort) (i : Nat) : (s.updPort p u).xport i = s.xport i := rfl
@[simp] theorem State.updPort_layer_eq (s : State) (p : Nat) (u : MemPort → MemPort) (i j : Nat) : (s.updPort p u).layer i j = s.layer i j := rfl
@[simp] theorem State.updPort_engine_eq (s : State) (p : Nat) (u : MemPort → MemPort) (i : Nat) : (s.updPort p u).engine i = s.engine i := rfl
@[simp] theorem State.updPort_homeHalf_eq (s : State) (p : Nat) (u : MemPort → MemPort) (i : Nat) : (s.updPort p u).homeHalf i = s.homeHalf i := rfl
@[simp] theorem State.updPort_homeSector_eq (s : State) (p : Nat) (u : MemPort → MemPort) (i : Nat) : (s.updPort p u).homeSector i = s.homeSector i := rfl
@[simp] theorem State.updPort_fenced_eq (s : State) (p : Nat) (u : MemPort → MemPort) (i : Nat) : (s.updPort p u).fenced i = s.fenced i := rfl
@[simp] theorem State.updPort_ringsOf_eq (s : State) (p : Nat) (u : MemPort → MemPort) (i : Nat) : (s.updPort p u).ringsOf i = s.ringsOf i := rfl
@[simp] theorem State.updPort_nodesOfRing_eq (s : State) (p : Nat) (u : MemPort → MemPort) (i : Nat) : (s.updPort p u).nodesOfRing i = s.nodesOfRing i := rfl
@[simp] theorem State.updPort_nodesOfCtx_eq (s : State) (p : Nat) (u : MemPort → MemPort) (i : Nat) : (s.updPort p u).nodesOfCtx i = s.nodesOfCtx i := rfl
@[simp] theorem State.updPort_dev_eq (s : State) (p : Nat) (u : MemPort → MemPort) (i j : Nat) : (s.updPort p u).dev i j = s.dev i j := rfl
@[simp] theorem State.updPort_pasid_eq (s : State) (p : Nat) (u : MemPort → MemPort) (i : Nat) : (s.updPort p u).pasid i = s.pasid i := rfl
@[simp] theorem State.updPort_tracing_eq (s : State) (p : Nat) (u : MemPort → MemPort) : (s.updPort p u).tracing = s.tracing := rfl

/-! ### putDev -/

@[simp] theorem State.putDev_straps (s : State) (a : Nat) (bs : List Byte) : (s.putDev a bs).straps = s.straps := rfl
@[simp] theorem State.putDev_fuses (s : State) (a : Nat) (bs : List Byte) : (s.putDev a bs).fuses = s.fuses := rfl
@[simp] theorem State.putDev_boot (s : State) (a : Nat) (bs : List Byte) : (s.putDev a bs).boot = s.boot := rfl
@[simp] theorem State.putDev_cat (s : State) (a : Nat) (bs : List Byte) : (s.putDev a bs).cat = s.cat := rfl
@[simp] theorem State.putDev_set (s : State) (a : Nat) (bs : List Byte) : (s.putDev a bs).set = s.set := rfl
@[simp] theorem State.putDev_ctxs (s : State) (a : Nat) (bs : List Byte) : (s.putDev a bs).ctxs = s.ctxs := rfl
@[simp] theorem State.putDev_rings (s : State) (a : Nat) (bs : List Byte) : (s.putDev a bs).rings = s.rings := rfl
@[simp] theorem State.putDev_dv (s : State) (a : Nat) (bs : List Byte) : (s.putDev a bs).dv = s.dv := rfl
@[simp] theorem State.putDev_stands (s : State) (a : Nat) (bs : List Byte) : (s.putDev a bs).stands = s.stands := rfl
@[simp] theorem State.putDev_cores (s : State) (a : Nat) (bs : List Byte) : (s.putDev a bs).cores = s.cores := rfl
@[simp] theorem State.putDev_fab (s : State) (a : Nat) (bs : List Byte) : (s.putDev a bs).fab = s.fab := rfl
@[simp] theorem State.putDev_ecl (s : State) (a : Nat) (bs : List Byte) : (s.putDev a bs).ecl = s.ecl := rfl
@[simp] theorem State.putDev_clock (s : State) (a : Nat) (bs : List Byte) : (s.putDev a bs).clock = s.clock := rfl
@[simp] theorem State.putDev_mem_ports (s : State) (a : Nat) (bs : List Byte) : (s.putDev a bs).mem.ports = s.mem.ports := rfl
@[simp] theorem State.putDev_mem_tables (s : State) (a : Nat) (bs : List Byte) : (s.putDev a bs).mem.tables = s.mem.tables := rfl
@[simp] theorem State.putDev_mem_regions (s : State) (a : Nat) (bs : List Byte) : (s.putDev a bs).mem.regions = s.mem.regions := rfl
@[simp] theorem State.putDev_mem_gathers (s : State) (a : Nat) (bs : List Byte) : (s.putDev a bs).mem.gathers = s.mem.gathers := rfl
@[simp] theorem State.putDev_mem_xlat (s : State) (a : Nat) (bs : List Byte) : (s.putDev a bs).mem.xlat = s.mem.xlat := rfl
@[simp] theorem State.putDev_mem_pinned (s : State) (a : Nat) (bs : List Byte) : (s.putDev a bs).mem.pinned = s.mem.pinned := rfl
@[simp] theorem State.putDev_mem_requests (s : State) (a : Nat) (bs : List Byte) : (s.putDev a bs).mem.requests = s.mem.requests := rfl
@[simp] theorem State.putDev_mem_nextTag (s : State) (a : Nat) (bs : List Byte) : (s.putDev a bs).mem.nextTag = s.mem.nextTag := rfl
@[simp] theorem State.putDev_mem_records (s : State) (a : Nat) (bs : List Byte) : (s.putDev a bs).mem.records = s.mem.records := rfl
@[simp] theorem State.putDev_mem_pageRequests (s : State) (a : Nat) (bs : List Byte) : (s.putDev a bs).mem.pageRequests = s.mem.pageRequests := rfl
@[simp] theorem State.putDev_mem_readData (s : State) (a : Nat) (bs : List Byte) : (s.putDev a bs).mem.readData = s.mem.readData := rfl
@[simp] theorem State.putDev_mem_pageWaiters (s : State) (a : Nat) (bs : List Byte) : (s.putDev a bs).mem.pageWaiters = s.mem.pageWaiters := rfl
@[simp] theorem State.putDev_mem_xltWaiting (s : State) (a : Nat) (bs : List Byte) : (s.putDev a bs).mem.xltWaiting = s.mem.xltWaiting := rfl
@[simp] theorem State.putDev_mem_partials (s : State) (a : Nat) (bs : List Byte) : (s.putDev a bs).mem.partials = s.mem.partials := rfl
@[simp] theorem State.putDev_mem_invWaiting (s : State) (a : Nat) (bs : List Byte) : (s.putDev a bs).mem.invWaiting = s.mem.invWaiting := rfl
@[simp] theorem State.putDev_exp (s : State) (a : Nat) (bs : List Byte) : (s.putDev a bs).exp = s.exp := rfl
@[simp] theorem State.putDev_flt (s : State) (a : Nat) (bs : List Byte) : (s.putDev a bs).flt = s.flt := rfl
@[simp] theorem State.putDev_dbg (s : State) (a : Nat) (bs : List Byte) : (s.putDev a bs).dbg = s.dbg := rfl
@[simp] theorem State.putDev_pwr (s : State) (a : Nat) (bs : List Byte) : (s.putDev a bs).pwr = s.pwr := rfl
@[simp] theorem State.putDev_outputs (s : State) (a : Nat) (bs : List Byte) : (s.putDev a bs).outputs = s.outputs := rfl
@[simp] theorem State.putDev_freeCtr (s : State) (a : Nat) (bs : List Byte) : (s.putDev a bs).freeCtr = s.freeCtr := rfl
@[simp] theorem State.putDev_pending (s : State) (a : Nat) (bs : List Byte) : (s.putDev a bs).pending = s.pending := rfl
@[simp] theorem State.putDev_now_eq (s : State) (a : Nat) (bs : List Byte) : (s.putDev a bs).now = s.now := rfl
@[simp] theorem State.putDev_core_eq (s : State) (a : Nat) (bs : List Byte) (i : Nat) : (s.putDev a bs).core i = s.core i := rfl
@[simp] theorem State.putDev_ring_eq (s : State) (a : Nat) (bs : List Byte) (i : Nat) : (s.putDev a bs).ring i = s.ring i := rfl
@[simp] theorem State.putDev_node_eq (s : State) (a : Nat) (bs : List Byte) (i : Nat) : (s.putDev a bs).node i = s.node i := rfl
@[simp] theorem State.putDev_sector_eq (s : State) (a : Nat) (bs : List Byte) (i : Nat) : (s.putDev a bs).sector i = s.sector i := rfl
@[simp] theorem State.putDev_comp_eq (s : State) (a : Nat) (bs : List Byte) (i : Nat) : (s.putDev a bs).comp i = s.comp i := rfl
@[simp] theorem State.putDev_stand_eq (s : State) (a : Nat) (bs : List Byte) (i : Nat) : (s.putDev a bs).stand i = s.stand i := rfl
@[simp] theorem State.putDev_ctx_eq (s : State) (a : Nat) (bs : List Byte) (i : Nat) : (s.putDev a bs).ctx i = s.ctx i := rfl
@[simp] theorem State.putDev_context_eq (s : State) (a : Nat) (bs : List Byte) (i : Nat) : (s.putDev a bs).context i = s.context i := rfl
@[simp] theorem State.putDev_port_eq (s : State) (a : Nat) (bs : List Byte) (i : Nat) : (s.putDev a bs).port i = s.port i := rfl
@[simp] theorem State.putDev_xport_eq (s : State) (a : Nat) (bs : List Byte) (i : Nat) : (s.putDev a bs).xport i = s.xport i := rfl
@[simp] theorem State.putDev_layer_eq (s : State) (a : Nat) (bs : List Byte) (i j : Nat) : (s.putDev a bs).layer i j = s.layer i j := rfl
@[simp] theorem State.putDev_engine_eq (s : State) (a : Nat) (bs : List Byte) (i : Nat) : (s.putDev a bs).engine i = s.engine i := rfl
@[simp] theorem State.putDev_homeHalf_eq (s : State) (a : Nat) (bs : List Byte) (i : Nat) : (s.putDev a bs).homeHalf i = s.homeHalf i := rfl
@[simp] theorem State.putDev_homeSector_eq (s : State) (a : Nat) (bs : List Byte) (i : Nat) : (s.putDev a bs).homeSector i = s.homeSector i := rfl
@[simp] theorem State.putDev_fenced_eq (s : State) (a : Nat) (bs : List Byte) (i : Nat) : (s.putDev a bs).fenced i = s.fenced i := rfl
@[simp] theorem State.putDev_ringsOf_eq (s : State) (a : Nat) (bs : List Byte) (i : Nat) : (s.putDev a bs).ringsOf i = s.ringsOf i := rfl
@[simp] theorem State.putDev_nodesOfRing_eq (s : State) (a : Nat) (bs : List Byte) (i : Nat) : (s.putDev a bs).nodesOfRing i = s.nodesOfRing i := rfl
@[simp] theorem State.putDev_nodesOfCtx_eq (s : State) (a : Nat) (bs : List Byte) (i : Nat) : (s.putDev a bs).nodesOfCtx i = s.nodesOfCtx i := rfl
@[simp] theorem State.putDev_pasid_eq (s : State) (a : Nat) (bs : List Byte) (i : Nat) : (s.putDev a bs).pasid i = s.pasid i := rfl
@[simp] theorem State.putDev_tracing_eq (s : State) (a : Nat) (bs : List Byte) : (s.putDev a bs).tracing = s.tracing := rfl

/-! ### updXport -/

@[simp] theorem State.updXport_straps (s : State) (p : Nat) (u : XPort → XPort) : (s.updXport p u).straps = s.straps := rfl
@[simp] theorem State.updXport_fuses (s : State) (p : Nat) (u : XPort → XPort) : (s.updXport p u).fuses = s.fuses := rfl
@[simp] theorem State.updXport_boot (s : State) (p : Nat) (u : XPort → XPort) : (s.updXport p u).boot = s.boot := rfl
@[simp] theorem State.updXport_cat (s : State) (p : Nat) (u : XPort → XPort) : (s.updXport p u).cat = s.cat := rfl
@[simp] theorem State.updXport_set (s : State) (p : Nat) (u : XPort → XPort) : (s.updXport p u).set = s.set := rfl
@[simp] theorem State.updXport_ctxs (s : State) (p : Nat) (u : XPort → XPort) : (s.updXport p u).ctxs = s.ctxs := rfl
@[simp] theorem State.updXport_rings (s : State) (p : Nat) (u : XPort → XPort) : (s.updXport p u).rings = s.rings := rfl
@[simp] theorem State.updXport_dv (s : State) (p : Nat) (u : XPort → XPort) : (s.updXport p u).dv = s.dv := rfl
@[simp] theorem State.updXport_stands (s : State) (p : Nat) (u : XPort → XPort) : (s.updXport p u).stands = s.stands := rfl
@[simp] theorem State.updXport_cores (s : State) (p : Nat) (u : XPort → XPort) : (s.updXport p u).cores = s.cores := rfl
@[simp] theorem State.updXport_fab (s : State) (p : Nat) (u : XPort → XPort) : (s.updXport p u).fab = s.fab := rfl
@[simp] theorem State.updXport_ecl_flows (s : State) (p : Nat) (u : XPort → XPort) : (s.updXport p u).ecl.flows = s.ecl.flows := rfl
@[simp] theorem State.updXport_ecl_marks (s : State) (p : Nat) (u : XPort → XPort) : (s.updXport p u).ecl.marks = s.ecl.marks := rfl
@[simp] theorem State.updXport_ecl_peers (s : State) (p : Nat) (u : XPort → XPort) : (s.updXport p u).ecl.peers = s.ecl.peers := rfl
@[simp] theorem State.updXport_ecl_incarnation (s : State) (p : Nat) (u : XPort → XPort) : (s.updXport p u).ecl.incarnation = s.ecl.incarnation := rfl
@[simp] theorem State.updXport_ecl_unmatchedOpens (s : State) (p : Nat) (u : XPort → XPort) : (s.updXport p u).ecl.unmatchedOpens = s.ecl.unmatchedOpens := rfl
@[simp] theorem State.updXport_ecl_signals (s : State) (p : Nat) (u : XPort → XPort) : (s.updXport p u).ecl.signals = s.ecl.signals := rfl
@[simp] theorem State.updXport_clock (s : State) (p : Nat) (u : XPort → XPort) : (s.updXport p u).clock = s.clock := rfl
@[simp] theorem State.updXport_mem (s : State) (p : Nat) (u : XPort → XPort) : (s.updXport p u).mem = s.mem := rfl
@[simp] theorem State.updXport_exp (s : State) (p : Nat) (u : XPort → XPort) : (s.updXport p u).exp = s.exp := rfl
@[simp] theorem State.updXport_flt (s : State) (p : Nat) (u : XPort → XPort) : (s.updXport p u).flt = s.flt := rfl
@[simp] theorem State.updXport_dbg (s : State) (p : Nat) (u : XPort → XPort) : (s.updXport p u).dbg = s.dbg := rfl
@[simp] theorem State.updXport_pwr (s : State) (p : Nat) (u : XPort → XPort) : (s.updXport p u).pwr = s.pwr := rfl
@[simp] theorem State.updXport_outputs (s : State) (p : Nat) (u : XPort → XPort) : (s.updXport p u).outputs = s.outputs := rfl
@[simp] theorem State.updXport_freeCtr (s : State) (p : Nat) (u : XPort → XPort) : (s.updXport p u).freeCtr = s.freeCtr := rfl
@[simp] theorem State.updXport_pending (s : State) (p : Nat) (u : XPort → XPort) : (s.updXport p u).pending = s.pending := rfl
@[simp] theorem State.updXport_now_eq (s : State) (p : Nat) (u : XPort → XPort) : (s.updXport p u).now = s.now := rfl
@[simp] theorem State.updXport_core_eq (s : State) (p : Nat) (u : XPort → XPort) (i : Nat) : (s.updXport p u).core i = s.core i := rfl
@[simp] theorem State.updXport_ring_eq (s : State) (p : Nat) (u : XPort → XPort) (i : Nat) : (s.updXport p u).ring i = s.ring i := rfl
@[simp] theorem State.updXport_node_eq (s : State) (p : Nat) (u : XPort → XPort) (i : Nat) : (s.updXport p u).node i = s.node i := rfl
@[simp] theorem State.updXport_sector_eq (s : State) (p : Nat) (u : XPort → XPort) (i : Nat) : (s.updXport p u).sector i = s.sector i := rfl
@[simp] theorem State.updXport_comp_eq (s : State) (p : Nat) (u : XPort → XPort) (i : Nat) : (s.updXport p u).comp i = s.comp i := rfl
@[simp] theorem State.updXport_stand_eq (s : State) (p : Nat) (u : XPort → XPort) (i : Nat) : (s.updXport p u).stand i = s.stand i := rfl
@[simp] theorem State.updXport_ctx_eq (s : State) (p : Nat) (u : XPort → XPort) (i : Nat) : (s.updXport p u).ctx i = s.ctx i := rfl
@[simp] theorem State.updXport_context_eq (s : State) (p : Nat) (u : XPort → XPort) (i : Nat) : (s.updXport p u).context i = s.context i := rfl
@[simp] theorem State.updXport_port_eq (s : State) (p : Nat) (u : XPort → XPort) (i : Nat) : (s.updXport p u).port i = s.port i := rfl
@[simp] theorem State.updXport_layer_eq (s : State) (p : Nat) (u : XPort → XPort) (i j : Nat) : (s.updXport p u).layer i j = s.layer i j := rfl
@[simp] theorem State.updXport_engine_eq (s : State) (p : Nat) (u : XPort → XPort) (i : Nat) : (s.updXport p u).engine i = s.engine i := rfl
@[simp] theorem State.updXport_homeHalf_eq (s : State) (p : Nat) (u : XPort → XPort) (i : Nat) : (s.updXport p u).homeHalf i = s.homeHalf i := rfl
@[simp] theorem State.updXport_homeSector_eq (s : State) (p : Nat) (u : XPort → XPort) (i : Nat) : (s.updXport p u).homeSector i = s.homeSector i := rfl
@[simp] theorem State.updXport_fenced_eq (s : State) (p : Nat) (u : XPort → XPort) (i : Nat) : (s.updXport p u).fenced i = s.fenced i := rfl
@[simp] theorem State.updXport_ringsOf_eq (s : State) (p : Nat) (u : XPort → XPort) (i : Nat) : (s.updXport p u).ringsOf i = s.ringsOf i := rfl
@[simp] theorem State.updXport_nodesOfRing_eq (s : State) (p : Nat) (u : XPort → XPort) (i : Nat) : (s.updXport p u).nodesOfRing i = s.nodesOfRing i := rfl
@[simp] theorem State.updXport_nodesOfCtx_eq (s : State) (p : Nat) (u : XPort → XPort) (i : Nat) : (s.updXport p u).nodesOfCtx i = s.nodesOfCtx i := rfl
@[simp] theorem State.updXport_dev_eq (s : State) (p : Nat) (u : XPort → XPort) (i j : Nat) : (s.updXport p u).dev i j = s.dev i j := rfl
@[simp] theorem State.updXport_pasid_eq (s : State) (p : Nat) (u : XPort → XPort) (i : Nat) : (s.updXport p u).pasid i = s.pasid i := rfl
@[simp] theorem State.updXport_tracing_eq (s : State) (p : Nat) (u : XPort → XPort) : (s.updXport p u).tracing = s.tracing := rfl

/-! ### updLayer -/

@[simp] theorem State.updLayer_straps (s : State) (h l : Nat) (u : Layer → Layer) : (s.updLayer h l u).straps = s.straps := rfl
@[simp] theorem State.updLayer_fuses (s : State) (h l : Nat) (u : Layer → Layer) : (s.updLayer h l u).fuses = s.fuses := rfl
@[simp] theorem State.updLayer_boot (s : State) (h l : Nat) (u : Layer → Layer) : (s.updLayer h l u).boot = s.boot := rfl
@[simp] theorem State.updLayer_cat (s : State) (h l : Nat) (u : Layer → Layer) : (s.updLayer h l u).cat = s.cat := rfl
@[simp] theorem State.updLayer_set (s : State) (h l : Nat) (u : Layer → Layer) : (s.updLayer h l u).set = s.set := rfl
@[simp] theorem State.updLayer_ctxs (s : State) (h l : Nat) (u : Layer → Layer) : (s.updLayer h l u).ctxs = s.ctxs := rfl
@[simp] theorem State.updLayer_rings (s : State) (h l : Nat) (u : Layer → Layer) : (s.updLayer h l u).rings = s.rings := rfl
@[simp] theorem State.updLayer_dv (s : State) (h l : Nat) (u : Layer → Layer) : (s.updLayer h l u).dv = s.dv := rfl
@[simp] theorem State.updLayer_stands (s : State) (h l : Nat) (u : Layer → Layer) : (s.updLayer h l u).stands = s.stands := rfl
@[simp] theorem State.updLayer_cores (s : State) (h l : Nat) (u : Layer → Layer) : (s.updLayer h l u).cores = s.cores := rfl
@[simp] theorem State.updLayer_fab (s : State) (h l : Nat) (u : Layer → Layer) : (s.updLayer h l u).fab = s.fab := rfl
@[simp] theorem State.updLayer_ecl (s : State) (h l : Nat) (u : Layer → Layer) : (s.updLayer h l u).ecl = s.ecl := rfl
@[simp] theorem State.updLayer_clock (s : State) (h l : Nat) (u : Layer → Layer) : (s.updLayer h l u).clock = s.clock := rfl
@[simp] theorem State.updLayer_mem (s : State) (h l : Nat) (u : Layer → Layer) : (s.updLayer h l u).mem = s.mem := rfl
@[simp] theorem State.updLayer_exp_engines (s : State) (h l : Nat) (u : Layer → Layer) : (s.updLayer h l u).exp.engines = s.exp.engines := rfl
@[simp] theorem State.updLayer_exp_routes (s : State) (h l : Nat) (u : Layer → Layer) : (s.updLayer h l u).exp.routes = s.exp.routes := rfl
@[simp] theorem State.updLayer_exp_quarantines (s : State) (h l : Nat) (u : Layer → Layer) : (s.updLayer h l u).exp.quarantines = s.exp.quarantines := rfl
@[simp] theorem State.updLayer_exp_portions (s : State) (h l : Nat) (u : Layer → Layer) : (s.updLayer h l u).exp.portions = s.exp.portions := rfl
@[simp] theorem State.updLayer_exp_waiting (s : State) (h l : Nat) (u : Layer → Layer) : (s.updLayer h l u).exp.waiting = s.exp.waiting := rfl
@[simp] theorem State.updLayer_exp_coldSlots (s : State) (h l : Nat) (u : Layer → Layer) : (s.updLayer h l u).exp.coldSlots = s.exp.coldSlots := rfl
@[simp] theorem State.updLayer_exp_localMsgs (s : State) (h l : Nat) (u : Layer → Layer) : (s.updLayer h l u).exp.localMsgs = s.exp.localMsgs := rfl
@[simp] theorem State.updLayer_flt (s : State) (h l : Nat) (u : Layer → Layer) : (s.updLayer h l u).flt = s.flt := rfl
@[simp] theorem State.updLayer_dbg (s : State) (h l : Nat) (u : Layer → Layer) : (s.updLayer h l u).dbg = s.dbg := rfl
@[simp] theorem State.updLayer_pwr (s : State) (h l : Nat) (u : Layer → Layer) : (s.updLayer h l u).pwr = s.pwr := rfl
@[simp] theorem State.updLayer_outputs (s : State) (h l : Nat) (u : Layer → Layer) : (s.updLayer h l u).outputs = s.outputs := rfl
@[simp] theorem State.updLayer_freeCtr (s : State) (h l : Nat) (u : Layer → Layer) : (s.updLayer h l u).freeCtr = s.freeCtr := rfl
@[simp] theorem State.updLayer_pending (s : State) (h l : Nat) (u : Layer → Layer) : (s.updLayer h l u).pending = s.pending := rfl
@[simp] theorem State.updLayer_now_eq (s : State) (h l : Nat) (u : Layer → Layer) : (s.updLayer h l u).now = s.now := rfl
@[simp] theorem State.updLayer_core_eq (s : State) (h l : Nat) (u : Layer → Layer) (i : Nat) : (s.updLayer h l u).core i = s.core i := rfl
@[simp] theorem State.updLayer_ring_eq (s : State) (h l : Nat) (u : Layer → Layer) (i : Nat) : (s.updLayer h l u).ring i = s.ring i := rfl
@[simp] theorem State.updLayer_node_eq (s : State) (h l : Nat) (u : Layer → Layer) (i : Nat) : (s.updLayer h l u).node i = s.node i := rfl
@[simp] theorem State.updLayer_sector_eq (s : State) (h l : Nat) (u : Layer → Layer) (i : Nat) : (s.updLayer h l u).sector i = s.sector i := rfl
@[simp] theorem State.updLayer_comp_eq (s : State) (h l : Nat) (u : Layer → Layer) (i : Nat) : (s.updLayer h l u).comp i = s.comp i := rfl
@[simp] theorem State.updLayer_stand_eq (s : State) (h l : Nat) (u : Layer → Layer) (i : Nat) : (s.updLayer h l u).stand i = s.stand i := rfl
@[simp] theorem State.updLayer_ctx_eq (s : State) (h l : Nat) (u : Layer → Layer) (i : Nat) : (s.updLayer h l u).ctx i = s.ctx i := rfl
@[simp] theorem State.updLayer_context_eq (s : State) (h l : Nat) (u : Layer → Layer) (i : Nat) : (s.updLayer h l u).context i = s.context i := rfl
@[simp] theorem State.updLayer_port_eq (s : State) (h l : Nat) (u : Layer → Layer) (i : Nat) : (s.updLayer h l u).port i = s.port i := rfl
@[simp] theorem State.updLayer_xport_eq (s : State) (h l : Nat) (u : Layer → Layer) (i : Nat) : (s.updLayer h l u).xport i = s.xport i := rfl
@[simp] theorem State.updLayer_engine_eq (s : State) (h l : Nat) (u : Layer → Layer) (i : Nat) : (s.updLayer h l u).engine i = s.engine i := rfl
@[simp] theorem State.updLayer_homeHalf_eq (s : State) (h l : Nat) (u : Layer → Layer) (i : Nat) : (s.updLayer h l u).homeHalf i = s.homeHalf i := rfl
@[simp] theorem State.updLayer_homeSector_eq (s : State) (h l : Nat) (u : Layer → Layer) (i : Nat) : (s.updLayer h l u).homeSector i = s.homeSector i := rfl
@[simp] theorem State.updLayer_fenced_eq (s : State) (h l : Nat) (u : Layer → Layer) (i : Nat) : (s.updLayer h l u).fenced i = s.fenced i := rfl
@[simp] theorem State.updLayer_ringsOf_eq (s : State) (h l : Nat) (u : Layer → Layer) (i : Nat) : (s.updLayer h l u).ringsOf i = s.ringsOf i := rfl
@[simp] theorem State.updLayer_nodesOfRing_eq (s : State) (h l : Nat) (u : Layer → Layer) (i : Nat) : (s.updLayer h l u).nodesOfRing i = s.nodesOfRing i := rfl
@[simp] theorem State.updLayer_nodesOfCtx_eq (s : State) (h l : Nat) (u : Layer → Layer) (i : Nat) : (s.updLayer h l u).nodesOfCtx i = s.nodesOfCtx i := rfl
@[simp] theorem State.updLayer_dev_eq (s : State) (h l : Nat) (u : Layer → Layer) (i j : Nat) : (s.updLayer h l u).dev i j = s.dev i j := rfl
@[simp] theorem State.updLayer_pasid_eq (s : State) (h l : Nat) (u : Layer → Layer) (i : Nat) : (s.updLayer h l u).pasid i = s.pasid i := rfl
@[simp] theorem State.updLayer_tracing_eq (s : State) (h l : Nat) (u : Layer → Layer) : (s.updLayer h l u).tracing = s.tracing := rfl

/-! ### updEngine -/

@[simp] theorem State.updEngine_straps (s : State) (h : Nat) (u : Engine → Engine) : (s.updEngine h u).straps = s.straps := rfl
@[simp] theorem State.updEngine_fuses (s : State) (h : Nat) (u : Engine → Engine) : (s.updEngine h u).fuses = s.fuses := rfl
@[simp] theorem State.updEngine_boot (s : State) (h : Nat) (u : Engine → Engine) : (s.updEngine h u).boot = s.boot := rfl
@[simp] theorem State.updEngine_cat (s : State) (h : Nat) (u : Engine → Engine) : (s.updEngine h u).cat = s.cat := rfl
@[simp] theorem State.updEngine_set (s : State) (h : Nat) (u : Engine → Engine) : (s.updEngine h u).set = s.set := rfl
@[simp] theorem State.updEngine_ctxs (s : State) (h : Nat) (u : Engine → Engine) : (s.updEngine h u).ctxs = s.ctxs := rfl
@[simp] theorem State.updEngine_rings (s : State) (h : Nat) (u : Engine → Engine) : (s.updEngine h u).rings = s.rings := rfl
@[simp] theorem State.updEngine_dv (s : State) (h : Nat) (u : Engine → Engine) : (s.updEngine h u).dv = s.dv := rfl
@[simp] theorem State.updEngine_stands (s : State) (h : Nat) (u : Engine → Engine) : (s.updEngine h u).stands = s.stands := rfl
@[simp] theorem State.updEngine_cores (s : State) (h : Nat) (u : Engine → Engine) : (s.updEngine h u).cores = s.cores := rfl
@[simp] theorem State.updEngine_fab (s : State) (h : Nat) (u : Engine → Engine) : (s.updEngine h u).fab = s.fab := rfl
@[simp] theorem State.updEngine_ecl (s : State) (h : Nat) (u : Engine → Engine) : (s.updEngine h u).ecl = s.ecl := rfl
@[simp] theorem State.updEngine_clock (s : State) (h : Nat) (u : Engine → Engine) : (s.updEngine h u).clock = s.clock := rfl
@[simp] theorem State.updEngine_mem (s : State) (h : Nat) (u : Engine → Engine) : (s.updEngine h u).mem = s.mem := rfl
@[simp] theorem State.updEngine_exp_layers (s : State) (h : Nat) (u : Engine → Engine) : (s.updEngine h u).exp.layers = s.exp.layers := rfl
@[simp] theorem State.updEngine_exp_routes (s : State) (h : Nat) (u : Engine → Engine) : (s.updEngine h u).exp.routes = s.exp.routes := rfl
@[simp] theorem State.updEngine_exp_quarantines (s : State) (h : Nat) (u : Engine → Engine) : (s.updEngine h u).exp.quarantines = s.exp.quarantines := rfl
@[simp] theorem State.updEngine_exp_portions (s : State) (h : Nat) (u : Engine → Engine) : (s.updEngine h u).exp.portions = s.exp.portions := rfl
@[simp] theorem State.updEngine_exp_waiting (s : State) (h : Nat) (u : Engine → Engine) : (s.updEngine h u).exp.waiting = s.exp.waiting := rfl
@[simp] theorem State.updEngine_exp_coldSlots (s : State) (h : Nat) (u : Engine → Engine) : (s.updEngine h u).exp.coldSlots = s.exp.coldSlots := rfl
@[simp] theorem State.updEngine_exp_localMsgs (s : State) (h : Nat) (u : Engine → Engine) : (s.updEngine h u).exp.localMsgs = s.exp.localMsgs := rfl
@[simp] theorem State.updEngine_flt (s : State) (h : Nat) (u : Engine → Engine) : (s.updEngine h u).flt = s.flt := rfl
@[simp] theorem State.updEngine_dbg (s : State) (h : Nat) (u : Engine → Engine) : (s.updEngine h u).dbg = s.dbg := rfl
@[simp] theorem State.updEngine_pwr (s : State) (h : Nat) (u : Engine → Engine) : (s.updEngine h u).pwr = s.pwr := rfl
@[simp] theorem State.updEngine_outputs (s : State) (h : Nat) (u : Engine → Engine) : (s.updEngine h u).outputs = s.outputs := rfl
@[simp] theorem State.updEngine_freeCtr (s : State) (h : Nat) (u : Engine → Engine) : (s.updEngine h u).freeCtr = s.freeCtr := rfl
@[simp] theorem State.updEngine_pending (s : State) (h : Nat) (u : Engine → Engine) : (s.updEngine h u).pending = s.pending := rfl
@[simp] theorem State.updEngine_now_eq (s : State) (h : Nat) (u : Engine → Engine) : (s.updEngine h u).now = s.now := rfl
@[simp] theorem State.updEngine_core_eq (s : State) (h : Nat) (u : Engine → Engine) (i : Nat) : (s.updEngine h u).core i = s.core i := rfl
@[simp] theorem State.updEngine_ring_eq (s : State) (h : Nat) (u : Engine → Engine) (i : Nat) : (s.updEngine h u).ring i = s.ring i := rfl
@[simp] theorem State.updEngine_node_eq (s : State) (h : Nat) (u : Engine → Engine) (i : Nat) : (s.updEngine h u).node i = s.node i := rfl
@[simp] theorem State.updEngine_sector_eq (s : State) (h : Nat) (u : Engine → Engine) (i : Nat) : (s.updEngine h u).sector i = s.sector i := rfl
@[simp] theorem State.updEngine_comp_eq (s : State) (h : Nat) (u : Engine → Engine) (i : Nat) : (s.updEngine h u).comp i = s.comp i := rfl
@[simp] theorem State.updEngine_stand_eq (s : State) (h : Nat) (u : Engine → Engine) (i : Nat) : (s.updEngine h u).stand i = s.stand i := rfl
@[simp] theorem State.updEngine_ctx_eq (s : State) (h : Nat) (u : Engine → Engine) (i : Nat) : (s.updEngine h u).ctx i = s.ctx i := rfl
@[simp] theorem State.updEngine_context_eq (s : State) (h : Nat) (u : Engine → Engine) (i : Nat) : (s.updEngine h u).context i = s.context i := rfl
@[simp] theorem State.updEngine_port_eq (s : State) (h : Nat) (u : Engine → Engine) (i : Nat) : (s.updEngine h u).port i = s.port i := rfl
@[simp] theorem State.updEngine_xport_eq (s : State) (h : Nat) (u : Engine → Engine) (i : Nat) : (s.updEngine h u).xport i = s.xport i := rfl
@[simp] theorem State.updEngine_layer_eq (s : State) (h : Nat) (u : Engine → Engine) (i j : Nat) : (s.updEngine h u).layer i j = s.layer i j := rfl
@[simp] theorem State.updEngine_homeHalf_eq (s : State) (h : Nat) (u : Engine → Engine) (i : Nat) : (s.updEngine h u).homeHalf i = s.homeHalf i := rfl
@[simp] theorem State.updEngine_homeSector_eq (s : State) (h : Nat) (u : Engine → Engine) (i : Nat) : (s.updEngine h u).homeSector i = s.homeSector i := rfl
@[simp] theorem State.updEngine_fenced_eq (s : State) (h : Nat) (u : Engine → Engine) (i : Nat) : (s.updEngine h u).fenced i = s.fenced i := rfl
@[simp] theorem State.updEngine_ringsOf_eq (s : State) (h : Nat) (u : Engine → Engine) (i : Nat) : (s.updEngine h u).ringsOf i = s.ringsOf i := rfl
@[simp] theorem State.updEngine_nodesOfRing_eq (s : State) (h : Nat) (u : Engine → Engine) (i : Nat) : (s.updEngine h u).nodesOfRing i = s.nodesOfRing i := rfl
@[simp] theorem State.updEngine_nodesOfCtx_eq (s : State) (h : Nat) (u : Engine → Engine) (i : Nat) : (s.updEngine h u).nodesOfCtx i = s.nodesOfCtx i := rfl
@[simp] theorem State.updEngine_dev_eq (s : State) (h : Nat) (u : Engine → Engine) (i j : Nat) : (s.updEngine h u).dev i j = s.dev i j := rfl
@[simp] theorem State.updEngine_pasid_eq (s : State) (h : Nat) (u : Engine → Engine) (i : Nat) : (s.updEngine h u).pasid i = s.pasid i := rfl
@[simp] theorem State.updEngine_tracing_eq (s : State) (h : Nat) (u : Engine → Engine) : (s.updEngine h u).tracing = s.tracing := rfl

/-! ### emit -/

@[simp] theorem State.emit_straps (s : State) (o : Output) : (s.emit o).straps = s.straps := rfl
@[simp] theorem State.emit_fuses (s : State) (o : Output) : (s.emit o).fuses = s.fuses := rfl
@[simp] theorem State.emit_boot (s : State) (o : Output) : (s.emit o).boot = s.boot := rfl
@[simp] theorem State.emit_cat (s : State) (o : Output) : (s.emit o).cat = s.cat := rfl
@[simp] theorem State.emit_set (s : State) (o : Output) : (s.emit o).set = s.set := rfl
@[simp] theorem State.emit_ctxs (s : State) (o : Output) : (s.emit o).ctxs = s.ctxs := rfl
@[simp] theorem State.emit_rings (s : State) (o : Output) : (s.emit o).rings = s.rings := rfl
@[simp] theorem State.emit_dv (s : State) (o : Output) : (s.emit o).dv = s.dv := rfl
@[simp] theorem State.emit_stands (s : State) (o : Output) : (s.emit o).stands = s.stands := rfl
@[simp] theorem State.emit_cores (s : State) (o : Output) : (s.emit o).cores = s.cores := rfl
@[simp] theorem State.emit_fab (s : State) (o : Output) : (s.emit o).fab = s.fab := rfl
@[simp] theorem State.emit_ecl (s : State) (o : Output) : (s.emit o).ecl = s.ecl := rfl
@[simp] theorem State.emit_clock (s : State) (o : Output) : (s.emit o).clock = s.clock := rfl
@[simp] theorem State.emit_mem (s : State) (o : Output) : (s.emit o).mem = s.mem := rfl
@[simp] theorem State.emit_exp (s : State) (o : Output) : (s.emit o).exp = s.exp := rfl
@[simp] theorem State.emit_flt (s : State) (o : Output) : (s.emit o).flt = s.flt := rfl
@[simp] theorem State.emit_dbg (s : State) (o : Output) : (s.emit o).dbg = s.dbg := rfl
@[simp] theorem State.emit_pwr (s : State) (o : Output) : (s.emit o).pwr = s.pwr := rfl
@[simp] theorem State.emit_freeCtr (s : State) (o : Output) : (s.emit o).freeCtr = s.freeCtr := rfl
@[simp] theorem State.emit_pending (s : State) (o : Output) : (s.emit o).pending = s.pending := rfl
@[simp] theorem State.emit_now_eq (s : State) (o : Output) : (s.emit o).now = s.now := rfl
@[simp] theorem State.emit_core_eq (s : State) (o : Output) (i : Nat) : (s.emit o).core i = s.core i := rfl
@[simp] theorem State.emit_ring_eq (s : State) (o : Output) (i : Nat) : (s.emit o).ring i = s.ring i := rfl
@[simp] theorem State.emit_node_eq (s : State) (o : Output) (i : Nat) : (s.emit o).node i = s.node i := rfl
@[simp] theorem State.emit_sector_eq (s : State) (o : Output) (i : Nat) : (s.emit o).sector i = s.sector i := rfl
@[simp] theorem State.emit_comp_eq (s : State) (o : Output) (i : Nat) : (s.emit o).comp i = s.comp i := rfl
@[simp] theorem State.emit_stand_eq (s : State) (o : Output) (i : Nat) : (s.emit o).stand i = s.stand i := rfl
@[simp] theorem State.emit_ctx_eq (s : State) (o : Output) (i : Nat) : (s.emit o).ctx i = s.ctx i := rfl
@[simp] theorem State.emit_context_eq (s : State) (o : Output) (i : Nat) : (s.emit o).context i = s.context i := rfl
@[simp] theorem State.emit_port_eq (s : State) (o : Output) (i : Nat) : (s.emit o).port i = s.port i := rfl
@[simp] theorem State.emit_xport_eq (s : State) (o : Output) (i : Nat) : (s.emit o).xport i = s.xport i := rfl
@[simp] theorem State.emit_layer_eq (s : State) (o : Output) (i j : Nat) : (s.emit o).layer i j = s.layer i j := rfl
@[simp] theorem State.emit_engine_eq (s : State) (o : Output) (i : Nat) : (s.emit o).engine i = s.engine i := rfl
@[simp] theorem State.emit_homeHalf_eq (s : State) (o : Output) (i : Nat) : (s.emit o).homeHalf i = s.homeHalf i := rfl
@[simp] theorem State.emit_homeSector_eq (s : State) (o : Output) (i : Nat) : (s.emit o).homeSector i = s.homeSector i := rfl
@[simp] theorem State.emit_fenced_eq (s : State) (o : Output) (i : Nat) : (s.emit o).fenced i = s.fenced i := rfl
@[simp] theorem State.emit_ringsOf_eq (s : State) (o : Output) (i : Nat) : (s.emit o).ringsOf i = s.ringsOf i := rfl
@[simp] theorem State.emit_nodesOfRing_eq (s : State) (o : Output) (i : Nat) : (s.emit o).nodesOfRing i = s.nodesOfRing i := rfl
@[simp] theorem State.emit_nodesOfCtx_eq (s : State) (o : Output) (i : Nat) : (s.emit o).nodesOfCtx i = s.nodesOfCtx i := rfl
@[simp] theorem State.emit_dev_eq (s : State) (o : Output) (i j : Nat) : (s.emit o).dev i j = s.dev i j := rfl
@[simp] theorem State.emit_pasid_eq (s : State) (o : Output) (i : Nat) : (s.emit o).pasid i = s.pasid i := rfl
@[simp] theorem State.emit_tracing_eq (s : State) (o : Output) : (s.emit o).tracing = s.tracing := rfl

/-! ### What the updated part reads as -/

@[simp] theorem State.setCore_core_self (s : State) (c : Nat) (x : Core) : (s.setCore c x).core c = x := by
  simp [State.setCore, State.core]
theorem State.setCore_core_ne (s : State) {c d : Nat} (x : Core) (h : d ≠ c) : (s.setCore c x).core d = s.core d := by
  simp [State.setCore, State.core, Map.at_put_ne _ _ _ h]
theorem State.setCore_core (s : State) (c d : Nat) (x : Core) : (s.setCore c x).core d = if d = c then x else s.core d := by
  simp [State.setCore, State.core, Map.at_put]
@[simp] theorem State.setCore_setCore (s : State) (c : Nat) (x y : Core) : (s.setCore c x).setCore c y = s.setCore c y := by
  simp [State.setCore]
@[simp] theorem State.updCore_core_self (s : State) (c : Nat) (u : Core → Core) : (s.updCore c u).core c = u (s.core c) := by
  simp [State.updCore, State.core, State.setCore]
theorem State.updCore_core_ne (s : State) {c d : Nat} (u : Core → Core) (h : d ≠ c) : (s.updCore c u).core d = s.core d := by
  simp [State.updCore, State.core, State.setCore, Map.at_put_ne _ _ _ h]
theorem State.updCore_core (s : State) (c d : Nat) (u : Core → Core) :
    (s.updCore c u).core d = if d = c then u (s.core c) else s.core d := by
  simp [State.updCore, State.core, State.setCore, Map.at_put]
@[simp] theorem State.updCore_updCore (s : State) (c : Nat) (u v : Core → Core) :
    (s.updCore c u).updCore c v = s.updCore c fun x => v (u x) := by
  simp [State.updCore]
@[simp] theorem State.setRing_ring_self (s : State) (c : Nat) (x : Ring) : (s.setRing c x).ring c = x := by
  simp [State.setRing, State.ring]
theorem State.setRing_ring_ne (s : State) {c d : Nat} (x : Ring) (h : d ≠ c) : (s.setRing c x).ring d = s.ring d := by
  simp [State.setRing, State.ring, Map.at_put_ne _ _ _ h]
theorem State.setRing_ring (s : State) (c d : Nat) (x : Ring) : (s.setRing c x).ring d = if d = c then x else s.ring d := by
  simp [State.setRing, State.ring, Map.at_put]
@[simp] theorem State.setRing_setRing (s : State) (c : Nat) (x y : Ring) : (s.setRing c x).setRing c y = s.setRing c y := by
  simp [State.setRing]
@[simp] theorem State.updRing_ring_self (s : State) (c : Nat) (u : Ring → Ring) : (s.updRing c u).ring c = u (s.ring c) := by
  simp [State.updRing, State.ring, State.setRing]
theorem State.updRing_ring_ne (s : State) {c d : Nat} (u : Ring → Ring) (h : d ≠ c) : (s.updRing c u).ring d = s.ring d := by
  simp [State.updRing, State.ring, State.setRing, Map.at_put_ne _ _ _ h]
theorem State.updRing_ring (s : State) (c d : Nat) (u : Ring → Ring) :
    (s.updRing c u).ring d = if d = c then u (s.ring c) else s.ring d := by
  simp [State.updRing, State.ring, State.setRing, Map.at_put]
@[simp] theorem State.updRing_updRing (s : State) (c : Nat) (u v : Ring → Ring) :
    (s.updRing c u).updRing c v = s.updRing c fun x => v (u x) := by
  simp [State.updRing]
@[simp] theorem State.setSector_sector_self (s : State) (c : Nat) (x : Sector) : (s.setSector c x).sector c = x := by
  simp [State.setSector, State.sector]
theorem State.setSector_sector_ne (s : State) {c d : Nat} (x : Sector) (h : d ≠ c) : (s.setSector c x).sector d = s.sector d := by
  simp [State.setSector, State.sector, Map.at_put_ne _ _ _ h]
theorem State.setSector_sector (s : State) (c d : Nat) (x : Sector) : (s.setSector c x).sector d = if d = c then x else s.sector d := by
  simp [State.setSector, State.sector, Map.at_put]
@[simp] theorem State.setSector_setSector (s : State) (c : Nat) (x y : Sector) : (s.setSector c x).setSector c y = s.setSector c y := by
  simp [State.setSector]
@[simp] theorem State.updSector_sector_self (s : State) (c : Nat) (u : Sector → Sector) : (s.updSector c u).sector c = u (s.sector c) := by
  simp [State.updSector, State.sector, State.setSector]
theorem State.updSector_sector_ne (s : State) {c d : Nat} (u : Sector → Sector) (h : d ≠ c) : (s.updSector c u).sector d = s.sector d := by
  simp [State.updSector, State.sector, State.setSector, Map.at_put_ne _ _ _ h]
theorem State.updSector_sector (s : State) (c d : Nat) (u : Sector → Sector) :
    (s.updSector c u).sector d = if d = c then u (s.sector c) else s.sector d := by
  simp [State.updSector, State.sector, State.setSector, Map.at_put]
@[simp] theorem State.updSector_updSector (s : State) (c : Nat) (u v : Sector → Sector) :
    (s.updSector c u).updSector c v = s.updSector c fun x => v (u x) := by
  simp [State.updSector]
@[simp] theorem State.setComp_comp_self (s : State) (c : Nat) (x : Compartment) : (s.setComp c x).comp c = x := by
  simp [State.setComp, State.comp]
theorem State.setComp_comp_ne (s : State) {c d : Nat} (x : Compartment) (h : d ≠ c) : (s.setComp c x).comp d = s.comp d := by
  simp [State.setComp, State.comp, Map.at_put_ne _ _ _ h]
theorem State.setComp_comp (s : State) (c d : Nat) (x : Compartment) : (s.setComp c x).comp d = if d = c then x else s.comp d := by
  simp [State.setComp, State.comp, Map.at_put]
@[simp] theorem State.setComp_setComp (s : State) (c : Nat) (x y : Compartment) : (s.setComp c x).setComp c y = s.setComp c y := by
  simp [State.setComp]
@[simp] theorem State.updComp_comp_self (s : State) (c : Nat) (u : Compartment → Compartment) : (s.updComp c u).comp c = u (s.comp c) := by
  simp [State.updComp, State.comp, State.setComp]
theorem State.updComp_comp_ne (s : State) {c d : Nat} (u : Compartment → Compartment) (h : d ≠ c) : (s.updComp c u).comp d = s.comp d := by
  simp [State.updComp, State.comp, State.setComp, Map.at_put_ne _ _ _ h]
theorem State.updComp_comp (s : State) (c d : Nat) (u : Compartment → Compartment) :
    (s.updComp c u).comp d = if d = c then u (s.comp c) else s.comp d := by
  simp [State.updComp, State.comp, State.setComp, Map.at_put]
@[simp] theorem State.updComp_updComp (s : State) (c : Nat) (u v : Compartment → Compartment) :
    (s.updComp c u).updComp c v = s.updComp c fun x => v (u x) := by
  simp [State.updComp]
@[simp] theorem State.setStand_stand_self (s : State) (c : Nat) (x : Stand) : (s.setStand c x).stand c = x := by
  simp [State.setStand, State.stand]
theorem State.setStand_stand_ne (s : State) {c d : Nat} (x : Stand) (h : d ≠ c) : (s.setStand c x).stand d = s.stand d := by
  simp [State.setStand, State.stand, Map.at_put_ne _ _ _ h]
theorem State.setStand_stand (s : State) (c d : Nat) (x : Stand) : (s.setStand c x).stand d = if d = c then x else s.stand d := by
  simp [State.setStand, State.stand, Map.at_put]
@[simp] theorem State.setStand_setStand (s : State) (c : Nat) (x y : Stand) : (s.setStand c x).setStand c y = s.setStand c y := by
  simp [State.setStand]
@[simp] theorem State.updStand_stand_self (s : State) (c : Nat) (u : Stand → Stand) : (s.updStand c u).stand c = u (s.stand c) := by
  simp [State.updStand, State.stand, State.setStand]
theorem State.updStand_stand_ne (s : State) {c d : Nat} (u : Stand → Stand) (h : d ≠ c) : (s.updStand c u).stand d = s.stand d := by
  simp [State.updStand, State.stand, State.setStand, Map.at_put_ne _ _ _ h]
theorem State.updStand_stand (s : State) (c d : Nat) (u : Stand → Stand) :
    (s.updStand c u).stand d = if d = c then u (s.stand c) else s.stand d := by
  simp [State.updStand, State.stand, State.setStand, Map.at_put]
@[simp] theorem State.updStand_updStand (s : State) (c : Nat) (u v : Stand → Stand) :
    (s.updStand c u).updStand c v = s.updStand c fun x => v (u x) := by
  simp [State.updStand]
@[simp] theorem State.updPort_port_self (s : State) (c : Nat) (u : MemPort → MemPort) : (s.updPort c u).port c = u (s.port c) := by
  simp [State.updPort, State.port]
theorem State.updPort_port_ne (s : State) {c d : Nat} (u : MemPort → MemPort) (h : d ≠ c) : (s.updPort c u).port d = s.port d := by
  simp [State.updPort, State.port, Map.at_put_ne _ _ _ h]
theorem State.updPort_port (s : State) (c d : Nat) (u : MemPort → MemPort) :
    (s.updPort c u).port d = if d = c then u (s.port c) else s.port d := by
  simp [State.updPort, State.port, Map.at_put]
@[simp] theorem State.updXport_xport_self (s : State) (c : Nat) (u : XPort → XPort) : (s.updXport c u).xport c = u (s.xport c) := by
  simp [State.updXport, State.xport]
theorem State.updXport_xport_ne (s : State) {c d : Nat} (u : XPort → XPort) (h : d ≠ c) : (s.updXport c u).xport d = s.xport d := by
  simp [State.updXport, State.xport, Map.at_put_ne _ _ _ h]
theorem State.updXport_xport (s : State) (c d : Nat) (u : XPort → XPort) :
    (s.updXport c u).xport d = if d = c then u (s.xport c) else s.xport d := by
  simp [State.updXport, State.xport, Map.at_put]
@[simp] theorem State.updEngine_engine_self (s : State) (c : Nat) (u : Engine → Engine) : (s.updEngine c u).engine c = u (s.engine c) := by
  simp [State.updEngine, State.engine]
theorem State.updEngine_engine_ne (s : State) {c d : Nat} (u : Engine → Engine) (h : d ≠ c) : (s.updEngine c u).engine d = s.engine d := by
  simp [State.updEngine, State.engine, Map.at_put_ne _ _ _ h]
theorem State.updEngine_engine (s : State) (c d : Nat) (u : Engine → Engine) :
    (s.updEngine c u).engine d = if d = c then u (s.engine c) else s.engine d := by
  simp [State.updEngine, State.engine, Map.at_put]
@[simp] theorem State.updLayer_layer_self (s : State) (h l : Nat) (u : Layer → Layer) :
    (s.updLayer h l u).layer h l = u (s.layer h l) := by
  simp [State.updLayer, State.layer]
@[simp] theorem State.setNode_node_self (s : State) (n : Nat) (d : Node) : (s.setNode n d).node n = some d := by
  simp [State.setNode, State.node]
theorem State.setNode_node_ne (s : State) {n m : Nat} (d : Node) (h : m ≠ n) : (s.setNode n d).node m = s.node m := by
  simp [State.setNode, State.node, Map.look_put_ne _ _ h]
theorem State.setNode_node (s : State) (n m : Nat) (d : Node) : (s.setNode n d).node m = if m = n then some d else s.node m := by
  simp [State.setNode, State.node, Map.look_put]
@[simp] theorem State.delNode_node_self (s : State) (n : Nat) : (s.delNode n).node n = none := by
  simp [State.delNode, State.node]
theorem State.delNode_node_ne (s : State) {n m : Nat} (h : m ≠ n) : (s.delNode n).node m = s.node m := by
  simp [State.delNode, State.node, Map.look_del_ne _ h]
@[simp] theorem State.updNode_node_self (s : State) (n : Nat) (u : Node → Node) : (s.updNode n u).node n = (s.node n).map u := by
  unfold State.updNode
  split <;> simp [*]
theorem State.updNode_node_ne (s : State) {n m : Nat} (u : Node → Node) (h : m ≠ n) : (s.updNode n u).node m = s.node m := by
  unfold State.updNode
  split
  · exact State.setNode_node_ne s _ h
  · rfl
theorem State.updNode_of_some (s : State) (n : Nat) (u : Node → Node) {d : Node} (h : s.node n = some d) :
    s.updNode n u = s.setNode n (u d) := by simp [State.updNode, h]
theorem State.updNode_of_none (s : State) (n : Nat) (u : Node → Node) (h : s.node n = none) : s.updNode n u = s := by
  simp [State.updNode, h]
@[simp] theorem State.updCtx_ctx_self (s : State) (c : Nat) (u : Context → Context) : (s.updCtx c u).ctx c = (s.ctx c).map u := by
  unfold State.updCtx
  split <;> simp_all [State.ctx]
theorem State.updCtx_ctx_ne (s : State) {c d : Nat} (u : Context → Context) (h : d ≠ c) : (s.updCtx c u).ctx d = s.ctx d := by
  unfold State.updCtx
  split
  · simp [State.ctx, Map.look_put_ne _ _ h]
  · rfl
theorem State.putDev_wf (s : State) (a : Nat) (bs : List Byte) (h : Memory.wf s.mem = true) :
    Memory.wf (s.putDev a bs).mem = true := Cells.wf_store s.mem.dev a bs h
theorem State.putDev_dev_same (s : State) (a : Nat) (bs : List Byte) (h : Memory.wf s.mem = true) :
    (s.putDev a bs).dev a bs.length = bs := Cells.bytes_store s.mem.dev a bs h
theorem State.putDev_dev_outside (s : State) (a b n : Nat) (bs : List Byte) (h : b + n ≤ a ∨ a + bs.length ≤ b) :
    (s.putDev a bs).dev b n = s.dev b n := Cells.bytes_store_outside s.mem.dev a b n bs h
@[simp] theorem State.emit_outputs (s : State) (o : Output) : (s.emit o).outputs = s.outputs ++ [o] := rfl

/-- The memory keeps its canonical form over a write of device memory, and the written bytes read back. -/
theorem State.setDev_dev (s : State) (h a : Nat) (bs : List Byte) (b n : Nat) : (s.setDev h a bs).dev b n = (s.putDev a bs).dev b n := by
  unfold State.setDev State.dev State.cross State.count
  dsimp only
  repeat' split
  all_goals rfl

/-- After reset device memory is in canonical form. -/
theorem State.reset_mem_wf : Memory.wf State.reset.mem = true := rfl

end Sys2Proof.Machine
end

