-- ==== Sys2Proof/Laws/Ops.lean ====
section
/-! SUPPORT. Laws of the shared operations of Machine/Ops.lean: the parts of the state that counting, recording, tracing, raising a
vector, the block fault flags and the fault log leave as they were. -/
namespace Sys2Proof.Machine

/-! ### The trace stream writes its own state, the trace buffer and the trace port -/

/-- `t` differs from `s` in the trace and debug state, the bytes of device memory and the outputs only. -/
def State.tracedTo (s t : State) : Prop :=
  ∃ d m o, t = { s with dbg := d, mem := { s.mem with dev := m }, outputs := o }

theorem State.tracedTo_refl (s : State) : s.tracedTo s := ⟨s.dbg, s.mem.dev, s.outputs, rfl⟩

theorem State.tracedTo_trans {s t u : State} (h : s.tracedTo t) (h' : t.tracedTo u) : s.tracedTo u := by
  obtain ⟨_, _, _, rfl⟩ := h
  obtain ⟨d, m, o, rfl⟩ := h'
  exact ⟨d, m, o, rfl⟩

theorem State.tracedTo_dbg (s : State) (d : Debug) : s.tracedTo { s with dbg := d } := ⟨d, s.mem.dev, s.outputs, rfl⟩

theorem State.tracedTo_count (s : State) (cls idx ev n : Nat) : s.tracedTo (s.count cls idx ev n) := by
  unfold State.count
  split
  · exact s.tracedTo_refl
  · exact s.tracedTo_dbg _

theorem State.freezeOn_shape (s : State) (n : Nat) : s.tracedTo (s.freezeOn n) := by
  unfold State.freezeOn
  split
  · exact s.tracedTo_dbg _
  · exact s.tracedTo_refl

theorem State.tracedTo_dev (s : State) (m : List Host.Cell) (o : List Output) :
    s.tracedTo { s with mem := { s.mem with dev := m }, outputs := o } := ⟨s.dbg, m, o, rfl⟩

theorem State.crossPort_shape (s : State) (h n : Nat) : s.tracedTo (s.crossPort h n) := by
  unfold State.crossPort
  split
  · exact s.tracedTo_refl
  · exact State.tracedTo_count _ _ _ _ _

theorem State.setDev_shape (s : State) (h a : Nat) (bs : List Byte) : s.tracedTo (s.setDev h a bs) := by
  simp only [State.setDev]
  refine State.tracedTo_trans (s.tracedTo_dev (Cells.store s.mem.dev a bs)
    (s.outputs ++ (wholeBlocks a bs).map fun x => Output.blockWrite x.1 x.2 (rsCheck x.2))) ?_
  split
  · exact State.tracedTo_count _ _ _ _ _
  · exact State.tracedTo_trans (State.tracedTo_count _ _ _ _ _) (State.tracedTo_trans (State.tracedTo_count _ _ _ _ _)
      (State.tracedTo_trans (State.tracedTo_count _ _ _ _ _) (State.tracedTo_count _ _ _ _ _)))

theorem State.sinkRecord_shape (s : State) (rec : List Byte) : s.tracedTo (s.sinkRecord rec) := by
  simp only [State.sinkRecord]
  split
  · split
    · exact s.tracedTo_dbg _
    · exact State.tracedTo_trans (s.tracedTo_dbg _) (State.setDev_shape _ _ _ _)
  · exact ⟨_, s.mem.dev, _, rfl⟩

theorem State.traceLost_shape (s : State) (h n : Nat) : s.tracedTo (s.traceLost h n) := by
  simp only [State.traceLost]
  refine State.tracedTo_trans ?_ (State.tracedTo_count _ _ _ _ _)
  split <;> exact s.tracedTo_dbg _

theorem drainTrace_shape (n : Nat) (s : State) : s.tracedTo (drainTrace n s) := by
  induction n generalizing s with
  | zero => exact s.tracedTo_refl
  | succ n ih =>
    unfold drainTrace
    split
    · exact s.tracedTo_refl
    · split
      · exact s.tracedTo_refl
      · simp only []
        split
        · exact State.tracedTo_trans (s.tracedTo_dbg _) (State.tracedTo_trans (State.sinkRecord_shape _ _) (ih _))
        · split
          · exact State.tracedTo_trans (s.tracedTo_dbg _) (State.tracedTo_trans (State.traceLost_shape _ _ _) (ih _))
          · exact State.tracedTo_trans (s.tracedTo_dbg _) (ih _)

theorem State.mergeRecord_shape (s : State) (rec : List Byte) : s.tracedTo (s.mergeRecord rec) := by
  simp only [State.mergeRecord]
  exact State.tracedTo_trans (s.tracedTo_dbg _) (drainTrace_shape _ _)

theorem State.syncRecord_shape (s : State) : s.tracedTo s.syncRecord := s.mergeRecord_shape _

theorem State.trace_shape (s : State) (h : Nat) (recs : List (List Byte)) : s.tracedTo (s.trace h recs) := by
  simp only [State.trace]
  split
  · exact s.tracedTo_refl
  · split
    · exact s.traceLost_shape _ _
    · split
      · exact s.traceLost_shape _ _
      · exact State.tracedTo_trans (State.tracedTo_trans (State.tracedTo_trans (s.tracedTo_dbg _)
          (State.tracedTo_count _ _ _ _ _)) (State.crossPort_shape _ _ _)) (drainTrace_shape _ _)

theorem State.trigger_shape (s : State) (cause cx detail : Nat) : s.tracedTo (s.trigger cause cx detail) := by
  simp only [State.trigger]
  split
  · exact State.tracedTo_trans (State.tracedTo_trans (s.tracedTo_dbg _) (State.mergeRecord_shape _ _)) (State.freezeOn_shape _ _)
  · exact s.tracedTo_refl

theorem State.markPair_shape (s : State) (half kind source cx id src value : Nat) :
    s.tracedTo (s.markPair half kind source cx id src value) := by
  simp only [State.markPair]
  split
  · split
    · exact State.tracedTo_trans (s.trace_shape _ _) (State.trigger_shape _ _ _ _)
    · exact s.trace_shape _ _
  · exact s.tracedTo_refl

/-! ### count -/

@[simp] theorem State.count_straps (s : State) (cls idx ev n : Nat) : (s.count cls idx ev n).straps = s.straps := by unfold State.count; split <;> rfl
@[simp] theorem State.count_fuses (s : State) (cls idx ev n : Nat) : (s.count cls idx ev n).fuses = s.fuses := by unfold State.count; split <;> rfl
@[simp] theorem State.count_boot (s : State) (cls idx ev n : Nat) : (s.count cls idx ev n).boot = s.boot := by unfold State.count; split <;> rfl
@[simp] theorem State.count_cat (s : State) (cls idx ev n : Nat) : (s.count cls idx ev n).cat = s.cat := by unfold State.count; split <;> rfl
@[simp] theorem State.count_set (s : State) (cls idx ev n : Nat) : (s.count cls idx ev n).set = s.set := by unfold State.count; split <;> rfl
@[simp] theorem State.count_ctxs (s : State) (cls idx ev n : Nat) : (s.count cls idx ev n).ctxs = s.ctxs := by unfold State.count; split <;> rfl
@[simp] theorem State.count_rings (s : State) (cls idx ev n : Nat) : (s.count cls idx ev n).rings = s.rings := by unfold State.count; split <;> rfl
@[simp] theorem State.count_dv (s : State) (cls idx ev n : Nat) : (s.count cls idx ev n).dv = s.dv := by unfold State.count; split <;> rfl
@[simp] theorem State.count_stands (s : State) (cls idx ev n : Nat) : (s.count cls idx ev n).stands = s.stands := by unfold State.count; split <;> rfl
@[simp] theorem State.count_cores (s : State) (cls idx ev n : Nat) : (s.count cls idx ev n).cores = s.cores := by unfold State.count; split <;> rfl
@[simp] theorem State.count_fab (s : State) (cls idx ev n : Nat) : (s.count cls idx ev n).fab = s.fab := by unfold State.count; split <;> rfl
@[simp] theorem State.count_ecl (s : State) (cls idx ev n : Nat) : (s.count cls idx ev n).ecl = s.ecl := by unfold State.count; split <;> rfl
@[simp] theorem State.count_clock (s : State) (cls idx ev n : Nat) : (s.count cls idx ev n).clock = s.clock := by unfold State.count; split <;> rfl
@[simp] theorem State.count_mem (s : State) (cls idx ev n : Nat) : (s.count cls idx ev n).mem = s.mem := by unfold State.count; split <;> rfl
@[simp] theorem State.count_exp (s : State) (cls idx ev n : Nat) : (s.count cls idx ev n).exp = s.exp := by unfold State.count; split <;> rfl
@[simp] theorem State.count_flt (s : State) (cls idx ev n : Nat) : (s.count cls idx ev n).flt = s.flt := by unfold State.count; split <;> rfl
@[simp] theorem State.count_dbg_gcFreeze (s : State) (cls idx ev n : Nat) : (s.count cls idx ev n).dbg.gcFreeze = s.dbg.gcFreeze := by unfold State.count; split <;> rfl
@[simp] theorem State.count_dbg_gcSelect (s : State) (cls idx ev n : Nat) : (s.count cls idx ev n).dbg.gcSelect = s.dbg.gcSelect := by unfold State.count; split <;> rfl
@[simp] theorem State.count_dbg_eventFreeze (s : State) (cls idx ev n : Nat) : (s.count cls idx ev n).dbg.eventFreeze = s.dbg.eventFreeze := by unfold State.count; split <;> rfl
@[simp] theorem State.count_dbg_traceEnable (s : State) (cls idx ev n : Nat) : (s.count cls idx ev n).dbg.traceEnable = s.dbg.traceEnable := by unfold State.count; split <;> rfl
@[simp] theorem State.count_dbg_halted (s : State) (cls idx ev n : Nat) : (s.count cls idx ev n).dbg.halted = s.dbg.halted := by unfold State.count; split <;> rfl
@[simp] theorem State.count_pwr (s : State) (cls idx ev n : Nat) : (s.count cls idx ev n).pwr = s.pwr := by unfold State.count; split <;> rfl
@[simp] theorem State.count_outputs (s : State) (cls idx ev n : Nat) : (s.count cls idx ev n).outputs = s.outputs := by unfold State.count; split <;> rfl
@[simp] theorem State.count_freeCtr (s : State) (cls idx ev n : Nat) : (s.count cls idx ev n).freeCtr = s.freeCtr := by unfold State.count; split <;> rfl
@[simp] theorem State.count_pending (s : State) (cls idx ev n : Nat) : (s.count cls idx ev n).pending = s.pending := by unfold State.count; split <;> rfl
@[simp] theorem State.count_now_eq (s : State) (cls idx ev n : Nat) : (s.count cls idx ev n).now = s.now := by simp [State.now]
@[simp] theorem State.count_core_eq (s : State) (cls idx ev n : Nat) (i : Nat) : (s.count cls idx ev n).core i = s.core i := by simp [State.core]
@[simp] theorem State.count_ring_eq (s : State) (cls idx ev n : Nat) (i : Nat) : (s.count cls idx ev n).ring i = s.ring i := by simp [State.ring]
@[simp] theorem State.count_node_eq (s : State) (cls idx ev n : Nat) (i : Nat) : (s.count cls idx ev n).node i = s.node i := by simp [State.node]
@[simp] theorem State.count_sector_eq (s : State) (cls idx ev n : Nat) (i : Nat) : (s.count cls idx ev n).sector i = s.sector i := by simp [State.sector]
@[simp] theorem State.count_comp_eq (s : State) (cls idx ev n : Nat) (i : Nat) : (s.count cls idx ev n).comp i = s.comp i := by simp [State.comp]
@[simp] theorem State.count_stand_eq (s : State) (cls idx ev n : Nat) (i : Nat) : (s.count cls idx ev n).stand i = s.stand i := by simp [State.stand]
@[simp] theorem State.count_ctx_eq (s : State) (cls idx ev n : Nat) (i : Nat) : (s.count cls idx ev n).ctx i = s.ctx i := by simp [State.ctx]
@[simp] theorem State.count_context_eq (s : State) (cls idx ev n : Nat) (i : Nat) : (s.count cls idx ev n).context i = s.context i := by simp [State.context]
@[simp] theorem State.count_port_eq (s : State) (cls idx ev n : Nat) (i : Nat) : (s.count cls idx ev n).port i = s.port i := by simp [State.port]
@[simp] theorem State.count_xport_eq (s : State) (cls idx ev n : Nat) (i : Nat) : (s.count cls idx ev n).xport i = s.xport i := by simp [State.xport]
@[simp] theorem State.count_layer_eq (s : State) (cls idx ev n : Nat) (i j : Nat) : (s.count cls idx ev n).layer i j = s.layer i j := by simp [State.layer]
@[simp] theorem State.count_engine_eq (s : State) (cls idx ev n : Nat) (i : Nat) : (s.count cls idx ev n).engine i = s.engine i := by simp [State.engine]
@[simp] theorem State.count_homeHalf_eq (s : State) (cls idx ev n : Nat) (i : Nat) : (s.count cls idx ev n).homeHalf i = s.homeHalf i := by simp [State.homeHalf, State.ring]
@[simp] theorem State.count_homeSector_eq (s : State) (cls idx ev n : Nat) (i : Nat) : (s.count cls idx ev n).homeSector i = s.homeSector i := by simp [State.homeSector, State.ring]
@[simp] theorem State.count_fenced_eq (s : State) (cls idx ev n : Nat) (i : Nat) : (s.count cls idx ev n).fenced i = s.fenced i := by simp [State.fenced]
@[simp] theorem State.count_ringsOf_eq (s : State) (cls idx ev n : Nat) (i : Nat) : (s.count cls idx ev n).ringsOf i = s.ringsOf i := by simp [State.ringsOf]
@[simp] theorem State.count_nodesOfRing_eq (s : State) (cls idx ev n : Nat) (i : Nat) : (s.count cls idx ev n).nodesOfRing i = s.nodesOfRing i := by simp [State.nodesOfRing]
@[simp] theorem State.count_nodesOfCtx_eq (s : State) (cls idx ev n : Nat) (i : Nat) : (s.count cls idx ev n).nodesOfCtx i = s.nodesOfCtx i := by simp [State.nodesOfCtx]
@[simp] theorem State.count_dev_eq (s : State) (cls idx ev n : Nat) (i j : Nat) : (s.count cls idx ev n).dev i j = s.dev i j := by simp [State.dev]
@[simp] theorem State.count_pasid_eq (s : State) (cls idx ev n : Nat) (i : Nat) : (s.count cls idx ev n).pasid i = s.pasid i := by simp [State.pasid]
@[simp] theorem State.count_tracing_eq (s : State) (cls idx ev n : Nat) : (s.count cls idx ev n).tracing = s.tracing := by simp [State.tracing]

/-! ### coreCount -/

@[simp] theorem State.coreCount_straps (s : State) (c ev n : Nat) : (s.coreCount c ev n).straps = s.straps := by simp [State.coreCount]
@[simp] theorem State.coreCount_fuses (s : State) (c ev n : Nat) : (s.coreCount c ev n).fuses = s.fuses := by simp [State.coreCount]
@[simp] theorem State.coreCount_boot (s : State) (c ev n : Nat) : (s.coreCount c ev n).boot = s.boot := by simp [State.coreCount]
@[simp] theorem State.coreCount_cat (s : State) (c ev n : Nat) : (s.coreCount c ev n).cat = s.cat := by simp [State.coreCount]
@[simp] theorem State.coreCount_set (s : State) (c ev n : Nat) : (s.coreCount c ev n).set = s.set := by simp [State.coreCount]
@[simp] theorem State.coreCount_ctxs (s : State) (c ev n : Nat) : (s.coreCount c ev n).ctxs = s.ctxs := by simp [State.coreCount]
@[simp] theorem State.coreCount_rings (s : State) (c ev n : Nat) : (s.coreCount c ev n).rings = s.rings := by simp [State.coreCount]
@[simp] theorem State.coreCount_dv (s : State) (c ev n : Nat) : (s.coreCount c ev n).dv = s.dv := by simp [State.coreCount]
@[simp] theorem State.coreCount_stands (s : State) (c ev n : Nat) : (s.coreCount c ev n).stands = s.stands := by simp [State.coreCount]
@[simp] theorem State.coreCount_fab (s : State) (c ev n : Nat) : (s.coreCount c ev n).fab = s.fab := by simp [State.coreCount]
@[simp] theorem State.coreCount_ecl (s : State) (c ev n : Nat) : (s.coreCount c ev n).ecl = s.ecl := by simp [State.coreCount]
@[simp] theorem State.coreCount_clock (s : State) (c ev n : Nat) : (s.coreCount c ev n).clock = s.clock := by simp [State.coreCount]
@[simp] theorem State.coreCount_mem (s : State) (c ev n : Nat) : (s.coreCount c ev n).mem = s.mem := by simp [State.coreCount]
@[simp] theorem State.coreCount_exp (s : State) (c ev n : Nat) : (s.coreCount c ev n).exp = s.exp := by simp [State.coreCount]
@[simp] theorem State.coreCount_flt (s : State) (c ev n : Nat) : (s.coreCount c ev n).flt = s.flt := by simp [State.coreCount]
@[simp] theorem State.coreCount_dbg_gcFreeze (s : State) (c ev n : Nat) : (s.coreCount c ev n).dbg.gcFreeze = s.dbg.gcFreeze := by simp [State.coreCount]
@[simp] theorem State.coreCount_dbg_gcSelect (s : State) (c ev n : Nat) : (s.coreCount c ev n).dbg.gcSelect = s.dbg.gcSelect := by simp [State.coreCount]
@[simp] theorem State.coreCount_dbg_eventFreeze (s : State) (c ev n : Nat) : (s.coreCount c ev n).dbg.eventFreeze = s.dbg.eventFreeze := by simp [State.coreCount]
@[simp] theorem State.coreCount_dbg_traceEnable (s : State) (c ev n : Nat) : (s.coreCount c ev n).dbg.traceEnable = s.dbg.traceEnable := by simp [State.coreCount]
@[simp] theorem State.coreCount_dbg_halted (s : State) (c ev n : Nat) : (s.coreCount c ev n).dbg.halted = s.dbg.halted := by simp [State.coreCount]
@[simp] theorem State.coreCount_pwr (s : State) (c ev n : Nat) : (s.coreCount c ev n).pwr = s.pwr := by simp [State.coreCount]
@[simp] theorem State.coreCount_outputs (s : State) (c ev n : Nat) : (s.coreCount c ev n).outputs = s.outputs := by simp [State.coreCount]
@[simp] theorem State.coreCount_freeCtr (s : State) (c ev n : Nat) : (s.coreCount c ev n).freeCtr = s.freeCtr := by simp [State.coreCount]
@[simp] theorem State.coreCount_pending (s : State) (c ev n : Nat) : (s.coreCount c ev n).pending = s.pending := by simp [State.coreCount]
@[simp] theorem State.coreCount_now_eq (s : State) (c ev n : Nat) : (s.coreCount c ev n).now = s.now := by simp [State.now]
@[simp] theorem State.coreCount_ring_eq (s : State) (c ev n : Nat) (i : Nat) : (s.coreCount c ev n).ring i = s.ring i := by simp [State.ring]
@[simp] theorem State.coreCount_node_eq (s : State) (c ev n : Nat) (i : Nat) : (s.coreCount c ev n).node i = s.node i := by simp [State.node]
@[simp] theorem State.coreCount_sector_eq (s : State) (c ev n : Nat) (i : Nat) : (s.coreCount c ev n).sector i = s.sector i := by simp [State.sector]
@[simp] theorem State.coreCount_comp_eq (s : State) (c ev n : Nat) (i : Nat) : (s.coreCount c ev n).comp i = s.comp i := by simp [State.comp]
@[simp] theorem State.coreCount_stand_eq (s : State) (c ev n : Nat) (i : Nat) : (s.coreCount c ev n).stand i = s.stand i := by simp [State.stand]
@[simp] theorem State.coreCount_ctx_eq (s : State) (c ev n : Nat) (i : Nat) : (s.coreCount c ev n).ctx i = s.ctx i := by simp [State.ctx]
@[simp] theorem State.coreCount_context_eq (s : State) (c ev n : Nat) (i : Nat) : (s.coreCount c ev n).context i = s.context i := by simp [State.context]
@[simp] theorem State.coreCount_port_eq (s : State) (c ev n : Nat) (i : Nat) : (s.coreCount c ev n).port i = s.port i := by simp [State.port]
@[simp] theorem State.coreCount_xport_eq (s : State) (c ev n : Nat) (i : Nat) : (s.coreCount c ev n).xport i = s.xport i := by simp [State.xport]
@[simp] theorem State.coreCount_layer_eq (s : State) (c ev n : Nat) (i j : Nat) : (s.coreCount c ev n).layer i j = s.layer i j := by simp [State.layer]
@[simp] theorem State.coreCount_engine_eq (s : State) (c ev n : Nat) (i : Nat) : (s.coreCount c ev n).engine i = s.engine i := by simp [State.engine]
@[simp] theorem State.coreCount_homeHalf_eq (s : State) (c ev n : Nat) (i : Nat) : (s.coreCount c ev n).homeHalf i = s.homeHalf i := by simp [State.homeHalf, State.ring]
@[simp] theorem State.coreCount_homeSector_eq (s : State) (c ev n : Nat) (i : Nat) : (s.coreCount c ev n).homeSector i = s.homeSector i := by simp [State.homeSector, State.ring]
@[simp] theorem State.coreCount_fenced_eq (s : State) (c ev n : Nat) (i : Nat) : (s.coreCount c ev n).fenced i = s.fenced i := by simp [State.fenced]
@[simp] theorem State.coreCount_ringsOf_eq (s : State) (c ev n : Nat) (i : Nat) : (s.coreCount c ev n).ringsOf i = s.ringsOf i := by simp [State.ringsOf]
@[simp] theorem State.coreCount_nodesOfRing_eq (s : State) (c ev n : Nat) (i : Nat) : (s.coreCount c ev n).nodesOfRing i = s.nodesOfRing i := by simp [State.nodesOfRing]
@[simp] theorem State.coreCount_nodesOfCtx_eq (s : State) (c ev n : Nat) (i : Nat) : (s.coreCount c ev n).nodesOfCtx i = s.nodesOfCtx i := by simp [State.nodesOfCtx]
@[simp] theorem State.coreCount_dev_eq (s : State) (c ev n : Nat) (i j : Nat) : (s.coreCount c ev n).dev i j = s.dev i j := by simp [State.dev]
@[simp] theorem State.coreCount_pasid_eq (s : State) (c ev n : Nat) (i : Nat) : (s.coreCount c ev n).pasid i = s.pasid i := by simp [State.pasid]
@[simp] theorem State.coreCount_tracing_eq (s : State) (c ev n : Nat) : (s.coreCount c ev n).tracing = s.tracing := by simp [State.tracing]

/-! ### event -/

@[simp] theorem State.event_straps (s : State) (cls idx code arg data : Nat) : (s.event cls idx code arg data).straps = s.straps := by unfold State.event; split <;> rfl
@[simp] theorem State.event_fuses (s : State) (cls idx code arg data : Nat) : (s.event cls idx code arg data).fuses = s.fuses := by unfold State.event; split <;> rfl
@[simp] theorem State.event_boot (s : State) (cls idx code arg data : Nat) : (s.event cls idx code arg data).boot = s.boot := by unfold State.event; split <;> rfl
@[simp] theorem State.event_cat (s : State) (cls idx code arg data : Nat) : (s.event cls idx code arg data).cat = s.cat := by unfold State.event; split <;> rfl
@[simp] theorem State.event_set (s : State) (cls idx code arg data : Nat) : (s.event cls idx code arg data).set = s.set := by unfold State.event; split <;> rfl
@[simp] theorem State.event_ctxs (s : State) (cls idx code arg data : Nat) : (s.event cls idx code arg data).ctxs = s.ctxs := by unfold State.event; split <;> rfl
@[simp] theorem State.event_rings (s : State) (cls idx code arg data : Nat) : (s.event cls idx code arg data).rings = s.rings := by unfold State.event; split <;> rfl
@[simp] theorem State.event_dv (s : State) (cls idx code arg data : Nat) : (s.event cls idx code arg data).dv = s.dv := by unfold State.event; split <;> rfl
@[simp] theorem State.event_stands (s : State) (cls idx code arg data : Nat) : (s.event cls idx code arg data).stands = s.stands := by unfold State.event; split <;> rfl
@[simp] theorem State.event_cores (s : State) (cls idx code arg data : Nat) : (s.event cls idx code arg data).cores = s.cores := by unfold State.event; split <;> rfl
@[simp] theorem State.event_fab (s : State) (cls idx code arg data : Nat) : (s.event cls idx code arg data).fab = s.fab := by unfold State.event; split <;> rfl
@[simp] theorem State.event_ecl (s : State) (cls idx code arg data : Nat) : (s.event cls idx code arg data).ecl = s.ecl := by unfold State.event; split <;> rfl
@[simp] theorem State.event_clock (s : State) (cls idx code arg data : Nat) : (s.event cls idx code arg data).clock = s.clock := by unfold State.event; split <;> rfl
@[simp] theorem State.event_mem (s : State) (cls idx code arg data : Nat) : (s.event cls idx code arg data).mem = s.mem := by unfold State.event; split <;> rfl
@[simp] theorem State.event_exp (s : State) (cls idx code arg data : Nat) : (s.event cls idx code arg data).exp = s.exp := by unfold State.event; split <;> rfl
@[simp] theorem State.event_flt (s : State) (cls idx code arg data : Nat) : (s.event cls idx code arg data).flt = s.flt := by unfold State.event; split <;> rfl
@[simp] theorem State.event_dbg_gcFreeze (s : State) (cls idx code arg data : Nat) : (s.event cls idx code arg data).dbg.gcFreeze = s.dbg.gcFreeze := by unfold State.event; split <;> rfl
@[simp] theorem State.event_dbg_gcSelect (s : State) (cls idx code arg data : Nat) : (s.event cls idx code arg data).dbg.gcSelect = s.dbg.gcSelect := by unfold State.event; split <;> rfl
@[simp] theorem State.event_dbg_eventFreeze (s : State) (cls idx code arg data : Nat) : (s.event cls idx code arg data).dbg.eventFreeze = s.dbg.eventFreeze := by unfold State.event; split <;> rfl
@[simp] theorem State.event_dbg_traceEnable (s : State) (cls idx code arg data : Nat) : (s.event cls idx code arg data).dbg.traceEnable = s.dbg.traceEnable := by unfold State.event; split <;> rfl
@[simp] theorem State.event_dbg_halted (s : State) (cls idx code arg data : Nat) : (s.event cls idx code arg data).dbg.halted = s.dbg.halted := by unfold State.event; split <;> rfl
@[simp] theorem State.event_pwr (s : State) (cls idx code arg data : Nat) : (s.event cls idx code arg data).pwr = s.pwr := by unfold State.event; split <;> rfl
@[simp] theorem State.event_outputs (s : State) (cls idx code arg data : Nat) : (s.event cls idx code arg data).outputs = s.outputs := by unfold State.event; split <;> rfl
@[simp] theorem State.event_freeCtr (s : State) (cls idx code arg data : Nat) : (s.event cls idx code arg data).freeCtr = s.freeCtr := by unfold State.event; split <;> rfl
@[simp] theorem State.event_pending (s : State) (cls idx code arg data : Nat) : (s.event cls idx code arg data).pending = s.pending := by unfold State.event; split <;> rfl
@[simp] theorem State.event_now_eq (s : State) (cls idx code arg data : Nat) : (s.event cls idx code arg data).now = s.now := by simp [State.now]
@[simp] theorem State.event_core_eq (s : State) (cls idx code arg data : Nat) (i : Nat) : (s.event cls idx code arg data).core i = s.core i := by simp [State.core]
@[simp] theorem State.event_ring_eq (s : State) (cls idx code arg data : Nat) (i : Nat) : (s.event cls idx code arg data).ring i = s.ring i := by simp [State.ring]
@[simp] theorem State.event_node_eq (s : State) (cls idx code arg data : Nat) (i : Nat) : (s.event cls idx code arg data).node i = s.node i := by simp [State.node]
@[simp] theorem State.event_sector_eq (s : State) (cls idx code arg data : Nat) (i : Nat) : (s.event cls idx code arg data).sector i = s.sector i := by simp [State.sector]
@[simp] theorem State.event_comp_eq (s : State) (cls idx code arg data : Nat) (i : Nat) : (s.event cls idx code arg data).comp i = s.comp i := by simp [State.comp]
@[simp] theorem State.event_stand_eq (s : State) (cls idx code arg data : Nat) (i : Nat) : (s.event cls idx code arg data).stand i = s.stand i := by simp [State.stand]
@[simp] theorem State.event_ctx_eq (s : State) (cls idx code arg data : Nat) (i : Nat) : (s.event cls idx code arg data).ctx i = s.ctx i := by simp [State.ctx]
@[simp] theorem State.event_context_eq (s : State) (cls idx code arg data : Nat) (i : Nat) : (s.event cls idx code arg data).context i = s.context i := by simp [State.context]
@[simp] theorem State.event_port_eq (s : State) (cls idx code arg data : Nat) (i : Nat) : (s.event cls idx code arg data).port i = s.port i := by simp [State.port]
@[simp] theorem State.event_xport_eq (s : State) (cls idx code arg data : Nat) (i : Nat) : (s.event cls idx code arg data).xport i = s.xport i := by simp [State.xport]
@[simp] theorem State.event_layer_eq (s : State) (cls idx code arg data : Nat) (i j : Nat) : (s.event cls idx code arg data).layer i j = s.layer i j := by simp [State.layer]
@[simp] theorem State.event_engine_eq (s : State) (cls idx code arg data : Nat) (i : Nat) : (s.event cls idx code arg data).engine i = s.engine i := by simp [State.engine]
@[simp] theorem State.event_homeHalf_eq (s : State) (cls idx code arg data : Nat) (i : Nat) : (s.event cls idx code arg data).homeHalf i = s.homeHalf i := by simp [State.homeHalf, State.ring]
@[simp] theorem State.event_homeSector_eq (s : State) (cls idx code arg data : Nat) (i : Nat) : (s.event cls idx code arg data).homeSector i = s.homeSector i := by simp [State.homeSector, State.ring]
@[simp] theorem State.event_fenced_eq (s : State) (cls idx code arg data : Nat) (i : Nat) : (s.event cls idx code arg data).fenced i = s.fenced i := by simp [State.fenced]
@[simp] theorem State.event_ringsOf_eq (s : State) (cls idx code arg data : Nat) (i : Nat) : (s.event cls idx code arg data).ringsOf i = s.ringsOf i := by simp [State.ringsOf]
@[simp] theorem State.event_nodesOfRing_eq (s : State) (cls idx code arg data : Nat) (i : Nat) : (s.event cls idx code arg data).nodesOfRing i = s.nodesOfRing i := by simp [State.nodesOfRing]
@[simp] theorem State.event_nodesOfCtx_eq (s : State) (cls idx code arg data : Nat) (i : Nat) : (s.event cls idx code arg data).nodesOfCtx i = s.nodesOfCtx i := by simp [State.nodesOfCtx]
@[simp] theorem State.event_dev_eq (s : State) (cls idx code arg data : Nat) (i j : Nat) : (s.event cls idx code arg data).dev i j = s.dev i j := by simp [State.dev]
@[simp] theorem State.event_pasid_eq (s : State) (cls idx code arg data : Nat) (i : Nat) : (s.event cls idx code arg data).pasid i = s.pasid i := by simp [State.pasid]
@[simp] theorem State.event_tracing_eq (s : State) (cls idx code arg data : Nat) : (s.event cls idx code arg data).tracing = s.tracing := by simp [State.tracing]

/-! ### cross -/

@[simp] theorem State.cross_straps (s : State) (h cls n : Nat) : (s.cross h cls n).straps = s.straps := by simp [State.cross]
@[simp] theorem State.cross_fuses (s : State) (h cls n : Nat) : (s.cross h cls n).fuses = s.fuses := by simp [State.cross]
@[simp] theorem State.cross_boot (s : State) (h cls n : Nat) : (s.cross h cls n).boot = s.boot := by simp [State.cross]
@[simp] theorem State.cross_cat (s : State) (h cls n : Nat) : (s.cross h cls n).cat = s.cat := by simp [State.cross]
@[simp] theorem State.cross_set (s : State) (h cls n : Nat) : (s.cross h cls n).set = s.set := by simp [State.cross]
@[simp] theorem State.cross_ctxs (s : State) (h cls n : Nat) : (s.cross h cls n).ctxs = s.ctxs := by simp [State.cross]
@[simp] theorem State.cross_rings (s : State) (h cls n : Nat) : (s.cross h cls n).rings = s.rings := by simp [State.cross]
@[simp] theorem State.cross_dv (s : State) (h cls n : Nat) : (s.cross h cls n).dv = s.dv := by simp [State.cross]
@[simp] theorem State.cross_stands (s : State) (h cls n : Nat) : (s.cross h cls n).stands = s.stands := by simp [State.cross]
@[simp] theorem State.cross_cores (s : State) (h cls n : Nat) : (s.cross h cls n).cores = s.cores := by simp [State.cross]
@[simp] theorem State.cross_fab (s : State) (h cls n : Nat) : (s.cross h cls n).fab = s.fab := by simp [State.cross]
@[simp] theorem State.cross_ecl (s : State) (h cls n : Nat) : (s.cross h cls n).ecl = s.ecl := by simp [State.cross]
@[simp] theorem State.cross_clock (s : State) (h cls n : Nat) : (s.cross h cls n).clock = s.clock := by simp [State.cross]
@[simp] theorem State.cross_mem (s : State) (h cls n : Nat) : (s.cross h cls n).mem = s.mem := by simp [State.cross]
@[simp] theorem State.cross_exp (s : State) (h cls n : Nat) : (s.cross h cls n).exp = s.exp := by simp [State.cross]
@[simp] theorem State.cross_flt (s : State) (h cls n : Nat) : (s.cross h cls n).flt = s.flt := by simp [State.cross]
@[simp] theorem State.cross_dbg_gcFreeze (s : State) (h cls n : Nat) : (s.cross h cls n).dbg.gcFreeze = s.dbg.gcFreeze := by simp [State.cross]
@[simp] theorem State.cross_dbg_gcSelect (s : State) (h cls n : Nat) : (s.cross h cls n).dbg.gcSelect = s.dbg.gcSelect := by simp [State.cross]
@[simp] theorem State.cross_dbg_eventFreeze (s : State) (h cls n : Nat) : (s.cross h cls n).dbg.eventFreeze = s.dbg.eventFreeze := by simp [State.cross]
@[simp] theorem State.cross_dbg_traceEnable (s : State) (h cls n : Nat) : (s.cross h cls n).dbg.traceEnable = s.dbg.traceEnable := by simp [State.cross]
@[simp] theorem State.cross_dbg_halted (s : State) (h cls n : Nat) : (s.cross h cls n).dbg.halted = s.dbg.halted := by simp [State.cross]
@[simp] theorem State.cross_pwr (s : State) (h cls n : Nat) : (s.cross h cls n).pwr = s.pwr := by simp [State.cross]
@[simp] theorem State.cross_outputs (s : State) (h cls n : Nat) : (s.cross h cls n).outputs = s.outputs := by simp [State.cross]
@[simp] theorem State.cross_freeCtr (s : State) (h cls n : Nat) : (s.cross h cls n).freeCtr = s.freeCtr := by simp [State.cross]
@[simp] theorem State.cross_pending (s : State) (h cls n : Nat) : (s.cross h cls n).pending = s.pending := by simp [State.cross]
@[simp] theorem State.cross_now_eq (s : State) (h cls n : Nat) : (s.cross h cls n).now = s.now := by simp [State.now]
@[simp] theorem State.cross_core_eq (s : State) (h cls n : Nat) (i : Nat) : (s.cross h cls n).core i = s.core i := by simp [State.core]
@[simp] theorem State.cross_ring_eq (s : State) (h cls n : Nat) (i : Nat) : (s.cross h cls n).ring i = s.ring i := by simp [State.ring]
@[simp] theorem State.cross_node_eq (s : State) (h cls n : Nat) (i : Nat) : (s.cross h cls n).node i = s.node i := by simp [State.node]
@[simp] theorem State.cross_sector_eq (s : State) (h cls n : Nat) (i : Nat) : (s.cross h cls n).sector i = s.sector i := by simp [State.sector]
@[simp] theorem State.cross_comp_eq (s : State) (h cls n : Nat) (i : Nat) : (s.cross h cls n).comp i = s.comp i := by simp [State.comp]
@[simp] theorem State.cross_stand_eq (s : State) (h cls n : Nat) (i : Nat) : (s.cross h cls n).stand i = s.stand i := by simp [State.stand]
@[simp] theorem State.cross_ctx_eq (s : State) (h cls n : Nat) (i : Nat) : (s.cross h cls n).ctx i = s.ctx i := by simp [State.ctx]
@[simp] theorem State.cross_context_eq (s : State) (h cls n : Nat) (i : Nat) : (s.cross h cls n).context i = s.context i := by simp [State.context]
@[simp] theorem State.cross_port_eq (s : State) (h cls n : Nat) (i : Nat) : (s.cross h cls n).port i = s.port i := by simp [State.port]
@[simp] theorem State.cross_xport_eq (s : State) (h cls n : Nat) (i : Nat) : (s.cross h cls n).xport i = s.xport i := by simp [State.xport]
@[simp] theorem State.cross_layer_eq (s : State) (h cls n : Nat) (i j : Nat) : (s.cross h cls n).layer i j = s.layer i j := by simp [State.layer]
@[simp] theorem State.cross_engine_eq (s : State) (h cls n : Nat) (i : Nat) : (s.cross h cls n).engine i = s.engine i := by simp [State.engine]
@[simp] theorem State.cross_homeHalf_eq (s : State) (h cls n : Nat) (i : Nat) : (s.cross h cls n).homeHalf i = s.homeHalf i := by simp [State.homeHalf, State.ring]
@[simp] theorem State.cross_homeSector_eq (s : State) (h cls n : Nat) (i : Nat) : (s.cross h cls n).homeSector i = s.homeSector i := by simp [State.homeSector, State.ring]
@[simp] theorem State.cross_fenced_eq (s : State) (h cls n : Nat) (i : Nat) : (s.cross h cls n).fenced i = s.fenced i := by simp [State.fenced]
@[simp] theorem State.cross_ringsOf_eq (s : State) (h cls n : Nat) (i : Nat) : (s.cross h cls n).ringsOf i = s.ringsOf i := by simp [State.ringsOf]
@[simp] theorem State.cross_nodesOfRing_eq (s : State) (h cls n : Nat) (i : Nat) : (s.cross h cls n).nodesOfRing i = s.nodesOfRing i := by simp [State.nodesOfRing]
@[simp] theorem State.cross_nodesOfCtx_eq (s : State) (h cls n : Nat) (i : Nat) : (s.cross h cls n).nodesOfCtx i = s.nodesOfCtx i := by simp [State.nodesOfCtx]
@[simp] theorem State.cross_dev_eq (s : State) (h cls n : Nat) (i j : Nat) : (s.cross h cls n).dev i j = s.dev i j := by simp [State.dev]
@[simp] theorem State.cross_pasid_eq (s : State) (h cls n : Nat) (i : Nat) : (s.cross h cls n).pasid i = s.pasid i := by simp [State.pasid]
@[simp] theorem State.cross_tracing_eq (s : State) (h cls n : Nat) : (s.cross h cls n).tracing = s.tracing := by simp [State.tracing]

/-! ### crossPort -/

@[simp] theorem State.crossPort_straps (s : State) (h n : Nat) : (s.crossPort h n).straps = s.straps := by unfold State.crossPort; split <;> simp
@[simp] theorem State.crossPort_fuses (s : State) (h n : Nat) : (s.crossPort h n).fuses = s.fuses := by unfold State.crossPort; split <;> simp
@[simp] theorem State.crossPort_boot (s : State) (h n : Nat) : (s.crossPort h n).boot = s.boot := by unfold State.crossPort; split <;> simp
@[simp] theorem State.crossPort_cat (s : State) (h n : Nat) : (s.crossPort h n).cat = s.cat := by unfold State.crossPort; split <;> simp
@[simp] theorem State.crossPort_set (s : State) (h n : Nat) : (s.crossPort h n).set = s.set := by unfold State.crossPort; split <;> simp
@[simp] theorem State.crossPort_ctxs (s : State) (h n : Nat) : (s.crossPort h n).ctxs = s.ctxs := by unfold State.crossPort; split <;> simp
@[simp] theorem State.crossPort_rings (s : State) (h n : Nat) : (s.crossPort h n).rings = s.rings := by unfold State.crossPort; split <;> simp
@[simp] theorem State.crossPort_dv (s : State) (h n : Nat) : (s.crossPort h n).dv = s.dv := by unfold State.crossPort; split <;> simp
@[simp] theorem State.crossPort_stands (s : State) (h n : Nat) : (s.crossPort h n).stands = s.stands := by unfold State.crossPort; split <;> simp
@[simp] theorem State.crossPort_cores (s : State) (h n : Nat) : (s.crossPort h n).cores = s.cores := by unfold State.crossPort; split <;> simp
@[simp] theorem State.crossPort_fab (s : State) (h n : Nat) : (s.crossPort h n).fab = s.fab := by unfold State.crossPort; split <;> simp
@[simp] theorem State.crossPort_ecl (s : State) (h n : Nat) : (s.crossPort h n).ecl = s.ecl := by unfold State.crossPort; split <;> simp
@[simp] theorem State.crossPort_clock (s : State) (h n : Nat) : (s.crossPort h n).clock = s.clock := by unfold State.crossPort; split <;> simp
@[simp] theorem State.crossPort_mem (s : State) (h n : Nat) : (s.crossPort h n).mem = s.mem := by unfold State.crossPort; split <;> simp
@[simp] theorem State.crossPort_exp (s : State) (h n : Nat) : (s.crossPort h n).exp = s.exp := by unfold State.crossPort; split <;> simp
@[simp] theorem State.crossPort_flt (s : State) (h n : Nat) : (s.crossPort h n).flt = s.flt := by unfold State.crossPort; split <;> simp
@[simp] theorem State.crossPort_dbg_gcFreeze (s : State) (h n : Nat) : (s.crossPort h n).dbg.gcFreeze = s.dbg.gcFreeze := by unfold State.crossPort; split <;> simp
@[simp] theorem State.crossPort_dbg_gcSelect (s : State) (h n : Nat) : (s.crossPort h n).dbg.gcSelect = s.dbg.gcSelect := by unfold State.crossPort; split <;> simp
@[simp] theorem State.crossPort_dbg_eventFreeze (s : State) (h n : Nat) : (s.crossPort h n).dbg.eventFreeze = s.dbg.eventFreeze := by unfold State.crossPort; split <;> simp
@[simp] theorem State.crossPort_dbg_traceEnable (s : State) (h n : Nat) : (s.crossPort h n).dbg.traceEnable = s.dbg.traceEnable := by unfold State.crossPort; split <;> simp
@[simp] theorem State.crossPort_dbg_halted (s : State) (h n : Nat) : (s.crossPort h n).dbg.halted = s.dbg.halted := by unfold State.crossPort; split <;> simp
@[simp] theorem State.crossPort_pwr (s : State) (h n : Nat) : (s.crossPort h n).pwr = s.pwr := by unfold State.crossPort; split <;> simp
@[simp] theorem State.crossPort_outputs (s : State) (h n : Nat) : (s.crossPort h n).outputs = s.outputs := by unfold State.crossPort; split <;> simp
@[simp] theorem State.crossPort_freeCtr (s : State) (h n : Nat) : (s.crossPort h n).freeCtr = s.freeCtr := by unfold State.crossPort; split <;> simp
@[simp] theorem State.crossPort_pending (s : State) (h n : Nat) : (s.crossPort h n).pending = s.pending := by unfold State.crossPort; split <;> simp
@[simp] theorem State.crossPort_now_eq (s : State) (h n : Nat) : (s.crossPort h n).now = s.now := by simp [State.now]
@[simp] theorem State.crossPort_core_eq (s : State) (h n : Nat) (i : Nat) : (s.crossPort h n).core i = s.core i := by simp [State.core]
@[simp] theorem State.crossPort_ring_eq (s : State) (h n : Nat) (i : Nat) : (s.crossPort h n).ring i = s.ring i := by simp [State.ring]
@[simp] theorem State.crossPort_node_eq (s : State) (h n : Nat) (i : Nat) : (s.crossPort h n).node i = s.node i := by simp [State.node]
@[simp] theorem State.crossPort_sector_eq (s : State) (h n : Nat) (i : Nat) : (s.crossPort h n).sector i = s.sector i := by simp [State.sector]
@[simp] theorem State.crossPort_comp_eq (s : State) (h n : Nat) (i : Nat) : (s.crossPort h n).comp i = s.comp i := by simp [State.comp]
@[simp] theorem State.crossPort_stand_eq (s : State) (h n : Nat) (i : Nat) : (s.crossPort h n).stand i = s.stand i := by simp [State.stand]
@[simp] theorem State.crossPort_ctx_eq (s : State) (h n : Nat) (i : Nat) : (s.crossPort h n).ctx i = s.ctx i := by simp [State.ctx]
@[simp] theorem State.crossPort_context_eq (s : State) (h n : Nat) (i : Nat) : (s.crossPort h n).context i = s.context i := by simp [State.context]
@[simp] theorem State.crossPort_port_eq (s : State) (h n : Nat) (i : Nat) : (s.crossPort h n).port i = s.port i := by simp [State.port]
@[simp] theorem State.crossPort_xport_eq (s : State) (h n : Nat) (i : Nat) : (s.crossPort h n).xport i = s.xport i := by simp [State.xport]
@[simp] theorem State.crossPort_layer_eq (s : State) (h n : Nat) (i j : Nat) : (s.crossPort h n).layer i j = s.layer i j := by simp [State.layer]
@[simp] theorem State.crossPort_engine_eq (s : State) (h n : Nat) (i : Nat) : (s.crossPort h n).engine i = s.engine i := by simp [State.engine]
@[simp] theorem State.crossPort_homeHalf_eq (s : State) (h n : Nat) (i : Nat) : (s.crossPort h n).homeHalf i = s.homeHalf i := by simp [State.homeHalf, State.ring]
@[simp] theorem State.crossPort_homeSector_eq (s : State) (h n : Nat) (i : Nat) : (s.crossPort h n).homeSector i = s.homeSector i := by simp [State.homeSector, State.ring]
@[simp] theorem State.crossPort_fenced_eq (s : State) (h n : Nat) (i : Nat) : (s.crossPort h n).fenced i = s.fenced i := by simp [State.fenced]
@[simp] theorem State.crossPort_ringsOf_eq (s : State) (h n : Nat) (i : Nat) : (s.crossPort h n).ringsOf i = s.ringsOf i := by simp [State.ringsOf]
@[simp] theorem State.crossPort_nodesOfRing_eq (s : State) (h n : Nat) (i : Nat) : (s.crossPort h n).nodesOfRing i = s.nodesOfRing i := by simp [State.nodesOfRing]
@[simp] theorem State.crossPort_nodesOfCtx_eq (s : State) (h n : Nat) (i : Nat) : (s.crossPort h n).nodesOfCtx i = s.nodesOfCtx i := by simp [State.nodesOfCtx]
@[simp] theorem State.crossPort_dev_eq (s : State) (h n : Nat) (i j : Nat) : (s.crossPort h n).dev i j = s.dev i j := by simp [State.dev]
@[simp] theorem State.crossPort_pasid_eq (s : State) (h n : Nat) (i : Nat) : (s.crossPort h n).pasid i = s.pasid i := by simp [State.pasid]
@[simp] theorem State.crossPort_tracing_eq (s : State) (h n : Nat) : (s.crossPort h n).tracing = s.tracing := by simp [State.tracing]

/-! ### msix -/

@[simp] theorem State.msix_straps (s : State) (h v : Nat) : (s.msix h v).straps = s.straps := by unfold State.msix; split <;> simp
@[simp] theorem State.msix_fuses (s : State) (h v : Nat) : (s.msix h v).fuses = s.fuses := by unfold State.msix; split <;> simp
@[simp] theorem State.msix_boot (s : State) (h v : Nat) : (s.msix h v).boot = s.boot := by unfold State.msix; split <;> simp
@[simp] theorem State.msix_cat (s : State) (h v : Nat) : (s.msix h v).cat = s.cat := by unfold State.msix; split <;> simp
@[simp] theorem State.msix_set (s : State) (h v : Nat) : (s.msix h v).set = s.set := by unfold State.msix; split <;> simp
@[simp] theorem State.msix_ctxs (s : State) (h v : Nat) : (s.msix h v).ctxs = s.ctxs := by unfold State.msix; split <;> simp
@[simp] theorem State.msix_rings (s : State) (h v : Nat) : (s.msix h v).rings = s.rings := by unfold State.msix; split <;> simp
@[simp] theorem State.msix_dv (s : State) (h v : Nat) : (s.msix h v).dv = s.dv := by unfold State.msix; split <;> simp
@[simp] theorem State.msix_stands (s : State) (h v : Nat) : (s.msix h v).stands = s.stands := by unfold State.msix; split <;> simp
@[simp] theorem State.msix_cores (s : State) (h v : Nat) : (s.msix h v).cores = s.cores := by unfold State.msix; split <;> simp
@[simp] theorem State.msix_fab (s : State) (h v : Nat) : (s.msix h v).fab = s.fab := by unfold State.msix; split <;> simp
@[simp] theorem State.msix_ecl (s : State) (h v : Nat) : (s.msix h v).ecl = s.ecl := by unfold State.msix; split <;> simp
@[simp] theorem State.msix_clock (s : State) (h v : Nat) : (s.msix h v).clock = s.clock := by unfold State.msix; split <;> simp
@[simp] theorem State.msix_mem (s : State) (h v : Nat) : (s.msix h v).mem = s.mem := by unfold State.msix; split <;> simp
@[simp] theorem State.msix_exp (s : State) (h v : Nat) : (s.msix h v).exp = s.exp := by unfold State.msix; split <;> simp
@[simp] theorem State.msix_flt (s : State) (h v : Nat) : (s.msix h v).flt = s.flt := by unfold State.msix; split <;> simp
@[simp] theorem State.msix_dbg_gcFreeze (s : State) (h v : Nat) : (s.msix h v).dbg.gcFreeze = s.dbg.gcFreeze := by unfold State.msix; split <;> simp
@[simp] theorem State.msix_dbg_gcSelect (s : State) (h v : Nat) : (s.msix h v).dbg.gcSelect = s.dbg.gcSelect := by unfold State.msix; split <;> simp
@[simp] theorem State.msix_dbg_eventFreeze (s : State) (h v : Nat) : (s.msix h v).dbg.eventFreeze = s.dbg.eventFreeze := by unfold State.msix; split <;> simp
@[simp] theorem State.msix_dbg_traceEnable (s : State) (h v : Nat) : (s.msix h v).dbg.traceEnable = s.dbg.traceEnable := by unfold State.msix; split <;> simp
@[simp] theorem State.msix_dbg_halted (s : State) (h v : Nat) : (s.msix h v).dbg.halted = s.dbg.halted := by unfold State.msix; split <;> simp
@[simp] theorem State.msix_pwr (s : State) (h v : Nat) : (s.msix h v).pwr = s.pwr := by unfold State.msix; split <;> simp
@[simp] theorem State.msix_freeCtr (s : State) (h v : Nat) : (s.msix h v).freeCtr = s.freeCtr := by unfold State.msix; split <;> simp
@[simp] theorem State.msix_pending (s : State) (h v : Nat) : (s.msix h v).pending = s.pending := by unfold State.msix; split <;> simp
@[simp] theorem State.msix_now_eq (s : State) (h v : Nat) : (s.msix h v).now = s.now := by simp [State.now]
@[simp] theorem State.msix_core_eq (s : State) (h v : Nat) (i : Nat) : (s.msix h v).core i = s.core i := by simp [State.core]
@[simp] theorem State.msix_ring_eq (s : State) (h v : Nat) (i : Nat) : (s.msix h v).ring i = s.ring i := by simp [State.ring]
@[simp] theorem State.msix_node_eq (s : State) (h v : Nat) (i : Nat) : (s.msix h v).node i = s.node i := by simp [State.node]
@[simp] theorem State.msix_sector_eq (s : State) (h v : Nat) (i : Nat) : (s.msix h v).sector i = s.sector i := by simp [State.sector]
@[simp] theorem State.msix_comp_eq (s : State) (h v : Nat) (i : Nat) : (s.msix h v).comp i = s.comp i := by simp [State.comp]
@[simp] theorem State.msix_stand_eq (s : State) (h v : Nat) (i : Nat) : (s.msix h v).stand i = s.stand i := by simp [State.stand]
@[simp] theorem State.msix_ctx_eq (s : State) (h v : Nat) (i : Nat) : (s.msix h v).ctx i = s.ctx i := by simp [State.ctx]
@[simp] theorem State.msix_context_eq (s : State) (h v : Nat) (i : Nat) : (s.msix h v).context i = s.context i := by simp [State.context]
@[simp] theorem State.msix_port_eq (s : State) (h v : Nat) (i : Nat) : (s.msix h v).port i = s.port i := by simp [State.port]
@[simp] theorem State.msix_xport_eq (s : State) (h v : Nat) (i : Nat) : (s.msix h v).xport i = s.xport i := by simp [State.xport]
@[simp] theorem State.msix_layer_eq (s : State) (h v : Nat) (i j : Nat) : (s.msix h v).layer i j = s.layer i j := by simp [State.layer]
@[simp] theorem State.msix_engine_eq (s : State) (h v : Nat) (i : Nat) : (s.msix h v).engine i = s.engine i := by simp [State.engine]
@[simp] theorem State.msix_homeHalf_eq (s : State) (h v : Nat) (i : Nat) : (s.msix h v).homeHalf i = s.homeHalf i := by simp [State.homeHalf, State.ring]
@[simp] theorem State.msix_homeSector_eq (s : State) (h v : Nat) (i : Nat) : (s.msix h v).homeSector i = s.homeSector i := by simp [State.homeSector, State.ring]
@[simp] theorem State.msix_fenced_eq (s : State) (h v : Nat) (i : Nat) : (s.msix h v).fenced i = s.fenced i := by simp [State.fenced]
@[simp] theorem State.msix_ringsOf_eq (s : State) (h v : Nat) (i : Nat) : (s.msix h v).ringsOf i = s.ringsOf i := by simp [State.ringsOf]
@[simp] theorem State.msix_nodesOfRing_eq (s : State) (h v : Nat) (i : Nat) : (s.msix h v).nodesOfRing i = s.nodesOfRing i := by simp [State.nodesOfRing]
@[simp] theorem State.msix_nodesOfCtx_eq (s : State) (h v : Nat) (i : Nat) : (s.msix h v).nodesOfCtx i = s.nodesOfCtx i := by simp [State.nodesOfCtx]
@[simp] theorem State.msix_dev_eq (s : State) (h v : Nat) (i j : Nat) : (s.msix h v).dev i j = s.dev i j := by simp [State.dev]
@[simp] theorem State.msix_pasid_eq (s : State) (h v : Nat) (i : Nat) : (s.msix h v).pasid i = s.pasid i := by simp [State.pasid]
@[simp] theorem State.msix_tracing_eq (s : State) (h v : Nat) : (s.msix h v).tracing = s.tracing := by simp [State.tracing]

/-! ### order -/

@[simp] theorem State.order_straps (s : State) (h : Nat) : (s.order h).straps = s.straps := by unfold State.order; split <;> simp
@[simp] theorem State.order_fuses (s : State) (h : Nat) : (s.order h).fuses = s.fuses := by unfold State.order; split <;> simp
@[simp] theorem State.order_boot (s : State) (h : Nat) : (s.order h).boot = s.boot := by unfold State.order; split <;> simp
@[simp] theorem State.order_cat (s : State) (h : Nat) : (s.order h).cat = s.cat := by unfold State.order; split <;> simp
@[simp] theorem State.order_set (s : State) (h : Nat) : (s.order h).set = s.set := by unfold State.order; split <;> simp
@[simp] theorem State.order_ctxs (s : State) (h : Nat) : (s.order h).ctxs = s.ctxs := by unfold State.order; split <;> simp
@[simp] theorem State.order_rings (s : State) (h : Nat) : (s.order h).rings = s.rings := by unfold State.order; split <;> simp
@[simp] theorem State.order_dv (s : State) (h : Nat) : (s.order h).dv = s.dv := by unfold State.order; split <;> simp
@[simp] theorem State.order_stands (s : State) (h : Nat) : (s.order h).stands = s.stands := by unfold State.order; split <;> simp
@[simp] theorem State.order_cores (s : State) (h : Nat) : (s.order h).cores = s.cores := by unfold State.order; split <;> simp
@[simp] theorem State.order_fab (s : State) (h : Nat) : (s.order h).fab = s.fab := by unfold State.order; split <;> simp
@[simp] theorem State.order_ecl (s : State) (h : Nat) : (s.order h).ecl = s.ecl := by unfold State.order; split <;> simp
@[simp] theorem State.order_clock (s : State) (h : Nat) : (s.order h).clock = s.clock := by unfold State.order; split <;> simp
@[simp] theorem State.order_mem (s : State) (h : Nat) : (s.order h).mem = s.mem := by unfold State.order; split <;> simp
@[simp] theorem State.order_exp (s : State) (h : Nat) : (s.order h).exp = s.exp := by unfold State.order; split <;> simp
@[simp] theorem State.order_flt (s : State) (h : Nat) : (s.order h).flt = s.flt := by unfold State.order; split <;> simp
@[simp] theorem State.order_dbg_gcFreeze (s : State) (h : Nat) : (s.order h).dbg.gcFreeze = s.dbg.gcFreeze := by unfold State.order; split <;> simp
@[simp] theorem State.order_dbg_gcSelect (s : State) (h : Nat) : (s.order h).dbg.gcSelect = s.dbg.gcSelect := by unfold State.order; split <;> simp
@[simp] theorem State.order_dbg_eventFreeze (s : State) (h : Nat) : (s.order h).dbg.eventFreeze = s.dbg.eventFreeze := by unfold State.order; split <;> simp
@[simp] theorem State.order_dbg_traceEnable (s : State) (h : Nat) : (s.order h).dbg.traceEnable = s.dbg.traceEnable := by unfold State.order; split <;> simp
@[simp] theorem State.order_dbg_halted (s : State) (h : Nat) : (s.order h).dbg.halted = s.dbg.halted := by unfold State.order; split <;> simp
@[simp] theorem State.order_pwr (s : State) (h : Nat) : (s.order h).pwr = s.pwr := by unfold State.order; split <;> simp
@[simp] theorem State.order_outputs (s : State) (h : Nat) : (s.order h).outputs = s.outputs := by unfold State.order; split <;> simp
@[simp] theorem State.order_freeCtr (s : State) (h : Nat) : (s.order h).freeCtr = s.freeCtr := by unfold State.order; split <;> simp
@[simp] theorem State.order_pending (s : State) (h : Nat) : (s.order h).pending = s.pending := by unfold State.order; split <;> simp
@[simp] theorem State.order_now_eq (s : State) (h : Nat) : (s.order h).now = s.now := by simp [State.now]
@[simp] theorem State.order_core_eq (s : State) (h : Nat) (i : Nat) : (s.order h).core i = s.core i := by simp [State.core]
@[simp] theorem State.order_ring_eq (s : State) (h : Nat) (i : Nat) : (s.order h).ring i = s.ring i := by simp [State.ring]
@[simp] theorem State.order_node_eq (s : State) (h : Nat) (i : Nat) : (s.order h).node i = s.node i := by simp [State.node]
@[simp] theorem State.order_sector_eq (s : State) (h : Nat) (i : Nat) : (s.order h).sector i = s.sector i := by simp [State.sector]
@[simp] theorem State.order_comp_eq (s : State) (h : Nat) (i : Nat) : (s.order h).comp i = s.comp i := by simp [State.comp]
@[simp] theorem State.order_stand_eq (s : State) (h : Nat) (i : Nat) : (s.order h).stand i = s.stand i := by simp [State.stand]
@[simp] theorem State.order_ctx_eq (s : State) (h : Nat) (i : Nat) : (s.order h).ctx i = s.ctx i := by simp [State.ctx]
@[simp] theorem State.order_context_eq (s : State) (h : Nat) (i : Nat) : (s.order h).context i = s.context i := by simp [State.context]
@[simp] theorem State.order_port_eq (s : State) (h : Nat) (i : Nat) : (s.order h).port i = s.port i := by simp [State.port]
@[simp] theorem State.order_xport_eq (s : State) (h : Nat) (i : Nat) : (s.order h).xport i = s.xport i := by simp [State.xport]
@[simp] theorem State.order_layer_eq (s : State) (h : Nat) (i j : Nat) : (s.order h).layer i j = s.layer i j := by simp [State.layer]
@[simp] theorem State.order_engine_eq (s : State) (h : Nat) (i : Nat) : (s.order h).engine i = s.engine i := by simp [State.engine]
@[simp] theorem State.order_homeHalf_eq (s : State) (h : Nat) (i : Nat) : (s.order h).homeHalf i = s.homeHalf i := by simp [State.homeHalf, State.ring]
@[simp] theorem State.order_homeSector_eq (s : State) (h : Nat) (i : Nat) : (s.order h).homeSector i = s.homeSector i := by simp [State.homeSector, State.ring]
@[simp] theorem State.order_fenced_eq (s : State) (h : Nat) (i : Nat) : (s.order h).fenced i = s.fenced i := by simp [State.fenced]
@[simp] theorem State.order_ringsOf_eq (s : State) (h : Nat) (i : Nat) : (s.order h).ringsOf i = s.ringsOf i := by simp [State.ringsOf]
@[simp] theorem State.order_nodesOfRing_eq (s : State) (h : Nat) (i : Nat) : (s.order h).nodesOfRing i = s.nodesOfRing i := by simp [State.nodesOfRing]
@[simp] theorem State.order_nodesOfCtx_eq (s : State) (h : Nat) (i : Nat) : (s.order h).nodesOfCtx i = s.nodesOfCtx i := by simp [State.nodesOfCtx]
@[simp] theorem State.order_dev_eq (s : State) (h : Nat) (i j : Nat) : (s.order h).dev i j = s.dev i j := by simp [State.dev]
@[simp] theorem State.order_pasid_eq (s : State) (h : Nat) (i : Nat) : (s.order h).pasid i = s.pasid i := by simp [State.pasid]
@[simp] theorem State.order_tracing_eq (s : State) (h : Nat) : (s.order h).tracing = s.tracing := by simp [State.tracing]

/-! ### portReads -/

@[simp] theorem State.portReads_straps (s : State) (h a n : Nat) : (s.portReads h a n).straps = s.straps := by unfold State.portReads; dsimp only; repeat' first | rfl | split | simp
@[simp] theorem State.portReads_fuses (s : State) (h a n : Nat) : (s.portReads h a n).fuses = s.fuses := by unfold State.portReads; dsimp only; repeat' first | rfl | split | simp
@[simp] theorem State.portReads_boot (s : State) (h a n : Nat) : (s.portReads h a n).boot = s.boot := by unfold State.portReads; dsimp only; repeat' first | rfl | split | simp
@[simp] theorem State.portReads_cat (s : State) (h a n : Nat) : (s.portReads h a n).cat = s.cat := by unfold State.portReads; dsimp only; repeat' first | rfl | split | simp
@[simp] theorem State.portReads_set (s : State) (h a n : Nat) : (s.portReads h a n).set = s.set := by unfold State.portReads; dsimp only; repeat' first | rfl | split | simp
@[simp] theorem State.portReads_ctxs (s : State) (h a n : Nat) : (s.portReads h a n).ctxs = s.ctxs := by unfold State.portReads; dsimp only; repeat' first | rfl | split | simp
@[simp] theorem State.portReads_rings (s : State) (h a n : Nat) : (s.portReads h a n).rings = s.rings := by unfold State.portReads; dsimp only; repeat' first | rfl | split | simp
@[simp] theorem State.portReads_dv (s : State) (h a n : Nat) : (s.portReads h a n).dv = s.dv := by unfold State.portReads; dsimp only; repeat' first | rfl | split | simp
@[simp] theorem State.portReads_stands (s : State) (h a n : Nat) : (s.portReads h a n).stands = s.stands := by unfold State.portReads; dsimp only; repeat' first | rfl | split | simp
@[simp] theorem State.portReads_cores (s : State) (h a n : Nat) : (s.portReads h a n).cores = s.cores := by unfold State.portReads; dsimp only; repeat' first | rfl | split | simp
@[simp] theorem State.portReads_fab (s : State) (h a n : Nat) : (s.portReads h a n).fab = s.fab := by unfold State.portReads; dsimp only; repeat' first | rfl | split | simp
@[simp] theorem State.portReads_ecl (s : State) (h a n : Nat) : (s.portReads h a n).ecl = s.ecl := by unfold State.portReads; dsimp only; repeat' first | rfl | split | simp
@[simp] theorem State.portReads_clock (s : State) (h a n : Nat) : (s.portReads h a n).clock = s.clock := by unfold State.portReads; dsimp only; repeat' first | rfl | split | simp
@[simp] theorem State.portReads_mem (s : State) (h a n : Nat) : (s.portReads h a n).mem = s.mem := by unfold State.portReads; dsimp only; repeat' first | rfl | split | simp
@[simp] theorem State.portReads_exp (s : State) (h a n : Nat) : (s.portReads h a n).exp = s.exp := by unfold State.portReads; dsimp only; repeat' first | rfl | split | simp
@[simp] theorem State.portReads_flt (s : State) (h a n : Nat) : (s.portReads h a n).flt = s.flt := by unfold State.portReads; dsimp only; repeat' first | rfl | split | simp
@[simp] theorem State.portReads_dbg_gcFreeze (s : State) (h a n : Nat) : (s.portReads h a n).dbg.gcFreeze = s.dbg.gcFreeze := by unfold State.portReads; dsimp only; repeat' first | rfl | split | simp
@[simp] theorem State.portReads_dbg_gcSelect (s : State) (h a n : Nat) : (s.portReads h a n).dbg.gcSelect = s.dbg.gcSelect := by unfold State.portReads; dsimp only; repeat' first | rfl | split | simp
@[simp] theorem State.portReads_dbg_eventFreeze (s : State) (h a n : Nat) : (s.portReads h a n).dbg.eventFreeze = s.dbg.eventFreeze := by unfold State.portReads; dsimp only; repeat' first | rfl | split | simp
@[simp] theorem State.portReads_dbg_traceEnable (s : State) (h a n : Nat) : (s.portReads h a n).dbg.traceEnable = s.dbg.traceEnable := by unfold State.portReads; dsimp only; repeat' first | rfl | split | simp
@[simp] theorem State.portReads_dbg_halted (s : State) (h a n : Nat) : (s.portReads h a n).dbg.halted = s.dbg.halted := by unfold State.portReads; dsimp only; repeat' first | rfl | split | simp
@[simp] theorem State.portReads_pwr (s : State) (h a n : Nat) : (s.portReads h a n).pwr = s.pwr := by unfold State.portReads; dsimp only; repeat' first | rfl | split | simp
@[simp] theorem State.portReads_outputs (s : State) (h a n : Nat) : (s.portReads h a n).outputs = s.outputs := by unfold State.portReads; dsimp only; repeat' first | rfl | split | simp
@[simp] theorem State.portReads_freeCtr (s : State) (h a n : Nat) : (s.portReads h a n).freeCtr = s.freeCtr := by unfold State.portReads; dsimp only; repeat' first | rfl | split | simp
@[simp] theorem State.portReads_pending (s : State) (h a n : Nat) : (s.portReads h a n).pending = s.pending := by unfold State.portReads; dsimp only; repeat' first | rfl | split | simp
@[simp] theorem State.portReads_now_eq (s : State) (h a n : Nat) : (s.portReads h a n).now = s.now := by simp [State.now]
@[simp] theorem State.portReads_core_eq (s : State) (h a n : Nat) (i : Nat) : (s.portReads h a n).core i = s.core i := by simp [State.core]
@[simp] theorem State.portReads_ring_eq (s : State) (h a n : Nat) (i : Nat) : (s.portReads h a n).ring i = s.ring i := by simp [State.ring]
@[simp] theorem State.portReads_node_eq (s : State) (h a n : Nat) (i : Nat) : (s.portReads h a n).node i = s.node i := by simp [State.node]
@[simp] theorem State.portReads_sector_eq (s : State) (h a n : Nat) (i : Nat) : (s.portReads h a n).sector i = s.sector i := by simp [State.sector]
@[simp] theorem State.portReads_comp_eq (s : State) (h a n : Nat) (i : Nat) : (s.portReads h a n).comp i = s.comp i := by simp [State.comp]
@[simp] theorem State.portReads_stand_eq (s : State) (h a n : Nat) (i : Nat) : (s.portReads h a n).stand i = s.stand i := by simp [State.stand]
@[simp] theorem State.portReads_ctx_eq (s : State) (h a n : Nat) (i : Nat) : (s.portReads h a n).ctx i = s.ctx i := by simp [State.ctx]
@[simp] theorem State.portReads_context_eq (s : State) (h a n : Nat) (i : Nat) : (s.portReads h a n).context i = s.context i := by simp [State.context]
@[simp] theorem State.portReads_port_eq (s : State) (h a n : Nat) (i : Nat) : (s.portReads h a n).port i = s.port i := by simp [State.port]
@[simp] theorem State.portReads_xport_eq (s : State) (h a n : Nat) (i : Nat) : (s.portReads h a n).xport i = s.xport i := by simp [State.xport]
@[simp] theorem State.portReads_layer_eq (s : State) (h a n : Nat) (i j : Nat) : (s.portReads h a n).layer i j = s.layer i j := by simp [State.layer]
@[simp] theorem State.portReads_engine_eq (s : State) (h a n : Nat) (i : Nat) : (s.portReads h a n).engine i = s.engine i := by simp [State.engine]
@[simp] theorem State.portReads_homeHalf_eq (s : State) (h a n : Nat) (i : Nat) : (s.portReads h a n).homeHalf i = s.homeHalf i := by simp [State.homeHalf, State.ring]
@[simp] theorem State.portReads_homeSector_eq (s : State) (h a n : Nat) (i : Nat) : (s.portReads h a n).homeSector i = s.homeSector i := by simp [State.homeSector, State.ring]
@[simp] theorem State.portReads_fenced_eq (s : State) (h a n : Nat) (i : Nat) : (s.portReads h a n).fenced i = s.fenced i := by simp [State.fenced]
@[simp] theorem State.portReads_ringsOf_eq (s : State) (h a n : Nat) (i : Nat) : (s.portReads h a n).ringsOf i = s.ringsOf i := by simp [State.ringsOf]
@[simp] theorem State.portReads_nodesOfRing_eq (s : State) (h a n : Nat) (i : Nat) : (s.portReads h a n).nodesOfRing i = s.nodesOfRing i := by simp [State.nodesOfRing]
@[simp] theorem State.portReads_nodesOfCtx_eq (s : State) (h a n : Nat) (i : Nat) : (s.portReads h a n).nodesOfCtx i = s.nodesOfCtx i := by simp [State.nodesOfCtx]
@[simp] theorem State.portReads_dev_eq (s : State) (h a n : Nat) (i j : Nat) : (s.portReads h a n).dev i j = s.dev i j := by simp [State.dev]
@[simp] theorem State.portReads_pasid_eq (s : State) (h a n : Nat) (i : Nat) : (s.portReads h a n).pasid i = s.pasid i := by simp [State.pasid]
@[simp] theorem State.portReads_tracing_eq (s : State) (h a n : Nat) : (s.portReads h a n).tracing = s.tracing := by simp [State.tracing]

/-! ### setDev -/

@[simp] theorem State.setDev_straps (s : State) (h a : Nat) (bs : List Byte) : (s.setDev h a bs).straps = s.straps := by unfold State.setDev; dsimp only; split <;> simp
@[simp] theorem State.setDev_fuses (s : State) (h a : Nat) (bs : List Byte) : (s.setDev h a bs).fuses = s.fuses := by unfold State.setDev; dsimp only; split <;> simp
@[simp] theorem State.setDev_boot (s : State) (h a : Nat) (bs : List Byte) : (s.setDev h a bs).boot = s.boot := by unfold State.setDev; dsimp only; split <;> simp
@[simp] theorem State.setDev_cat (s : State) (h a : Nat) (bs : List Byte) : (s.setDev h a bs).cat = s.cat := by unfold State.setDev; dsimp only; split <;> simp
@[simp] theorem State.setDev_set (s : State) (h a : Nat) (bs : List Byte) : (s.setDev h a bs).set = s.set := by unfold State.setDev; dsimp only; split <;> simp
@[simp] theorem State.setDev_ctxs (s : State) (h a : Nat) (bs : List Byte) : (s.setDev h a bs).ctxs = s.ctxs := by unfold State.setDev; dsimp only; split <;> simp
@[simp] theorem State.setDev_rings (s : State) (h a : Nat) (bs : List Byte) : (s.setDev h a bs).rings = s.rings := by unfold State.setDev; dsimp only; split <;> simp
@[simp] theorem State.setDev_dv (s : State) (h a : Nat) (bs : List Byte) : (s.setDev h a bs).dv = s.dv := by unfold State.setDev; dsimp only; split <;> simp
@[simp] theorem State.setDev_stands (s : State) (h a : Nat) (bs : List Byte) : (s.setDev h a bs).stands = s.stands := by unfold State.setDev; dsimp only; split <;> simp
@[simp] theorem State.setDev_cores (s : State) (h a : Nat) (bs : List Byte) : (s.setDev h a bs).cores = s.cores := by unfold State.setDev; dsimp only; split <;> simp
@[simp] theorem State.setDev_fab (s : State) (h a : Nat) (bs : List Byte) : (s.setDev h a bs).fab = s.fab := by unfold State.setDev; dsimp only; split <;> simp
@[simp] theorem State.setDev_ecl (s : State) (h a : Nat) (bs : List Byte) : (s.setDev h a bs).ecl = s.ecl := by unfold State.setDev; dsimp only; split <;> simp
@[simp] theorem State.setDev_clock (s : State) (h a : Nat) (bs : List Byte) : (s.setDev h a bs).clock = s.clock := by unfold State.setDev; dsimp only; split <;> simp
@[simp] theorem State.setDev_mem_ports (s : State) (h a : Nat) (bs : List Byte) : (s.setDev h a bs).mem.ports = s.mem.ports := by unfold State.setDev; dsimp only; split <;> simp
@[simp] theorem State.setDev_mem_tables (s : State) (h a : Nat) (bs : List Byte) : (s.setDev h a bs).mem.tables = s.mem.tables := by unfold State.setDev; dsimp only; split <;> simp
@[simp] theorem State.setDev_mem_regions (s : State) (h a : Nat) (bs : List Byte) : (s.setDev h a bs).mem.regions = s.mem.regions := by unfold State.setDev; dsimp only; split <;> simp
@[simp] theorem State.setDev_mem_gathers (s : State) (h a : Nat) (bs : List Byte) : (s.setDev h a bs).mem.gathers = s.mem.gathers := by unfold State.setDev; dsimp only; split <;> simp
@[simp] theorem State.setDev_mem_xlat (s : State) (h a : Nat) (bs : List Byte) : (s.setDev h a bs).mem.xlat = s.mem.xlat := by unfold State.setDev; dsimp only; split <;> simp
@[simp] theorem State.setDev_mem_pinned (s : State) (h a : Nat) (bs : List Byte) : (s.setDev h a bs).mem.pinned = s.mem.pinned := by unfold State.setDev; dsimp only; split <;> simp
@[simp] theorem State.setDev_mem_requests (s : State) (h a : Nat) (bs : List Byte) : (s.setDev h a bs).mem.requests = s.mem.requests := by unfold State.setDev; dsimp only; split <;> simp
@[simp] theorem State.setDev_mem_nextTag (s : State) (h a : Nat) (bs : List Byte) : (s.setDev h a bs).mem.nextTag = s.mem.nextTag := by unfold State.setDev; dsimp only; split <;> simp
@[simp] theorem State.setDev_mem_records (s : State) (h a : Nat) (bs : List Byte) : (s.setDev h a bs).mem.records = s.mem.records := by unfold State.setDev; dsimp only; split <;> simp
@[simp] theorem State.setDev_mem_pageRequests (s : State) (h a : Nat) (bs : List Byte) : (s.setDev h a bs).mem.pageRequests = s.mem.pageRequests := by unfold State.setDev; dsimp only; split <;> simp
@[simp] theorem State.setDev_mem_readData (s : State) (h a : Nat) (bs : List Byte) : (s.setDev h a bs).mem.readData = s.mem.readData := by unfold State.setDev; dsimp only; split <;> simp
@[simp] theorem State.setDev_mem_pageWaiters (s : State) (h a : Nat) (bs : List Byte) : (s.setDev h a bs).mem.pageWaiters = s.mem.pageWaiters := by unfold State.setDev; dsimp only; split <;> simp
@[simp] theorem State.setDev_mem_xltWaiting (s : State) (h a : Nat) (bs : List Byte) : (s.setDev h a bs).mem.xltWaiting = s.mem.xltWaiting := by unfold State.setDev; dsimp only; split <;> simp
@[simp] theorem State.setDev_mem_partials (s : State) (h a : Nat) (bs : List Byte) : (s.setDev h a bs).mem.partials = s.mem.partials := by unfold State.setDev; dsimp only; split <;> simp
@[simp] theorem State.setDev_mem_invWaiting (s : State) (h a : Nat) (bs : List Byte) : (s.setDev h a bs).mem.invWaiting = s.mem.invWaiting := by unfold State.setDev; dsimp only; split <;> simp
@[simp] theorem State.setDev_exp (s : State) (h a : Nat) (bs : List Byte) : (s.setDev h a bs).exp = s.exp := by unfold State.setDev; dsimp only; split <;> simp
@[simp] theorem State.setDev_flt (s : State) (h a : Nat) (bs : List Byte) : (s.setDev h a bs).flt = s.flt := by unfold State.setDev; dsimp only; split <;> simp
@[simp] theorem State.setDev_dbg_gcFreeze (s : State) (h a : Nat) (bs : List Byte) : (s.setDev h a bs).dbg.gcFreeze = s.dbg.gcFreeze := by unfold State.setDev; dsimp only; split <;> simp
@[simp] theorem State.setDev_dbg_gcSelect (s : State) (h a : Nat) (bs : List Byte) : (s.setDev h a bs).dbg.gcSelect = s.dbg.gcSelect := by unfold State.setDev; dsimp only; split <;> simp
@[simp] theorem State.setDev_dbg_eventFreeze (s : State) (h a : Nat) (bs : List Byte) : (s.setDev h a bs).dbg.eventFreeze = s.dbg.eventFreeze := by unfold State.setDev; dsimp only; split <;> simp
@[simp] theorem State.setDev_dbg_traceEnable (s : State) (h a : Nat) (bs : List Byte) : (s.setDev h a bs).dbg.traceEnable = s.dbg.traceEnable := by unfold State.setDev; dsimp only; split <;> simp
@[simp] theorem State.setDev_dbg_halted (s : State) (h a : Nat) (bs : List Byte) : (s.setDev h a bs).dbg.halted = s.dbg.halted := by unfold State.setDev; dsimp only; split <;> simp
@[simp] theorem State.setDev_pwr (s : State) (h a : Nat) (bs : List Byte) : (s.setDev h a bs).pwr = s.pwr := by unfold State.setDev; dsimp only; split <;> simp
@[simp] theorem State.setDev_freeCtr (s : State) (h a : Nat) (bs : List Byte) : (s.setDev h a bs).freeCtr = s.freeCtr := by unfold State.setDev; dsimp only; split <;> simp
@[simp] theorem State.setDev_pending (s : State) (h a : Nat) (bs : List Byte) : (s.setDev h a bs).pending = s.pending := by unfold State.setDev; dsimp only; split <;> simp
@[simp] theorem State.setDev_now_eq (s : State) (h a : Nat) (bs : List Byte) : (s.setDev h a bs).now = s.now := by simp [State.now]
@[simp] theorem State.setDev_core_eq (s : State) (h a : Nat) (bs : List Byte) (i : Nat) : (s.setDev h a bs).core i = s.core i := by simp [State.core]
@[simp] theorem State.setDev_ring_eq (s : State) (h a : Nat) (bs : List Byte) (i : Nat) : (s.setDev h a bs).ring i = s.ring i := by simp [State.ring]
@[simp] theorem State.setDev_node_eq (s : State) (h a : Nat) (bs : List Byte) (i : Nat) : (s.setDev h a bs).node i = s.node i := by simp [State.node]
@[simp] theorem State.setDev_sector_eq (s : State) (h a : Nat) (bs : List Byte) (i : Nat) : (s.setDev h a bs).sector i = s.sector i := by simp [State.sector]
@[simp] theorem State.setDev_comp_eq (s : State) (h a : Nat) (bs : List Byte) (i : Nat) : (s.setDev h a bs).comp i = s.comp i := by simp [State.comp]
@[simp] theorem State.setDev_stand_eq (s : State) (h a : Nat) (bs : List Byte) (i : Nat) : (s.setDev h a bs).stand i = s.stand i := by simp [State.stand]
@[simp] theorem State.setDev_ctx_eq (s : State) (h a : Nat) (bs : List Byte) (i : Nat) : (s.setDev h a bs).ctx i = s.ctx i := by simp [State.ctx]
@[simp] theorem State.setDev_context_eq (s : State) (h a : Nat) (bs : List Byte) (i : Nat) : (s.setDev h a bs).context i = s.context i := by simp [State.context]
@[simp] theorem State.setDev_port_eq (s : State) (h a : Nat) (bs : List Byte) (i : Nat) : (s.setDev h a bs).port i = s.port i := by simp [State.port]
@[simp] theorem State.setDev_xport_eq (s : State) (h a : Nat) (bs : List Byte) (i : Nat) : (s.setDev h a bs).xport i = s.xport i := by simp [State.xport]
@[simp] theorem State.setDev_layer_eq (s : State) (h a : Nat) (bs : List Byte) (i j : Nat) : (s.setDev h a bs).layer i j = s.layer i j := by simp [State.layer]
@[simp] theorem State.setDev_engine_eq (s : State) (h a : Nat) (bs : List Byte) (i : Nat) : (s.setDev h a bs).engine i = s.engine i := by simp [State.engine]
@[simp] theorem State.setDev_homeHalf_eq (s : State) (h a : Nat) (bs : List Byte) (i : Nat) : (s.setDev h a bs).homeHalf i = s.homeHalf i := by simp [State.homeHalf, State.ring]
@[simp] theorem State.setDev_homeSector_eq (s : State) (h a : Nat) (bs : List Byte) (i : Nat) : (s.setDev h a bs).homeSector i = s.homeSector i := by simp [State.homeSector, State.ring]
@[simp] theorem State.setDev_fenced_eq (s : State) (h a : Nat) (bs : List Byte) (i : Nat) : (s.setDev h a bs).fenced i = s.fenced i := by simp [State.fenced]
@[simp] theorem State.setDev_ringsOf_eq (s : State) (h a : Nat) (bs : List Byte) (i : Nat) : (s.setDev h a bs).ringsOf i = s.ringsOf i := by simp [State.ringsOf]
@[simp] theorem State.setDev_nodesOfRing_eq (s : State) (h a : Nat) (bs : List Byte) (i : Nat) : (s.setDev h a bs).nodesOfRing i = s.nodesOfRing i := by simp [State.nodesOfRing]
@[simp] theorem State.setDev_nodesOfCtx_eq (s : State) (h a : Nat) (bs : List Byte) (i : Nat) : (s.setDev h a bs).nodesOfCtx i = s.nodesOfCtx i := by simp [State.nodesOfCtx]
@[simp] theorem State.setDev_pasid_eq (s : State) (h a : Nat) (bs : List Byte) (i : Nat) : (s.setDev h a bs).pasid i = s.pasid i := by simp [State.pasid]
@[simp] theorem State.setDev_tracing_eq (s : State) (h a : Nat) (bs : List Byte) : (s.setDev h a bs).tracing = s.tracing := by simp [State.tracing]

/-! ### hostWrite -/

@[simp] theorem State.hostWrite_straps (s : State) (h c : Nat) (a : BitVec 64) (bs : List Byte) : (s.hostWrite h c a bs).straps = s.straps := by simp [State.hostWrite]
@[simp] theorem State.hostWrite_fuses (s : State) (h c : Nat) (a : BitVec 64) (bs : List Byte) : (s.hostWrite h c a bs).fuses = s.fuses := by simp [State.hostWrite]
@[simp] theorem State.hostWrite_boot (s : State) (h c : Nat) (a : BitVec 64) (bs : List Byte) : (s.hostWrite h c a bs).boot = s.boot := by simp [State.hostWrite]
@[simp] theorem State.hostWrite_cat (s : State) (h c : Nat) (a : BitVec 64) (bs : List Byte) : (s.hostWrite h c a bs).cat = s.cat := by simp [State.hostWrite]
@[simp] theorem State.hostWrite_set (s : State) (h c : Nat) (a : BitVec 64) (bs : List Byte) : (s.hostWrite h c a bs).set = s.set := by simp [State.hostWrite]
@[simp] theorem State.hostWrite_ctxs (s : State) (h c : Nat) (a : BitVec 64) (bs : List Byte) : (s.hostWrite h c a bs).ctxs = s.ctxs := by simp [State.hostWrite]
@[simp] theorem State.hostWrite_rings (s : State) (h c : Nat) (a : BitVec 64) (bs : List Byte) : (s.hostWrite h c a bs).rings = s.rings := by simp [State.hostWrite]
@[simp] theorem State.hostWrite_dv (s : State) (h c : Nat) (a : BitVec 64) (bs : List Byte) : (s.hostWrite h c a bs).dv = s.dv := by simp [State.hostWrite]
@[simp] theorem State.hostWrite_stands (s : State) (h c : Nat) (a : BitVec 64) (bs : List Byte) : (s.hostWrite h c a bs).stands = s.stands := by simp [State.hostWrite]
@[simp] theorem State.hostWrite_cores (s : State) (h c : Nat) (a : BitVec 64) (bs : List Byte) : (s.hostWrite h c a bs).cores = s.cores := by simp [State.hostWrite]
@[simp] theorem State.hostWrite_fab (s : State) (h c : Nat) (a : BitVec 64) (bs : List Byte) : (s.hostWrite h c a bs).fab = s.fab := by simp [State.hostWrite]
@[simp] theorem State.hostWrite_ecl (s : State) (h c : Nat) (a : BitVec 64) (bs : List Byte) : (s.hostWrite h c a bs).ecl = s.ecl := by simp [State.hostWrite]
@[simp] theorem State.hostWrite_clock (s : State) (h c : Nat) (a : BitVec 64) (bs : List Byte) : (s.hostWrite h c a bs).clock = s.clock := by simp [State.hostWrite]
@[simp] theorem State.hostWrite_mem (s : State) (h c : Nat) (a : BitVec 64) (bs : List Byte) : (s.hostWrite h c a bs).mem = s.mem := by simp [State.hostWrite]
@[simp] theorem State.hostWrite_exp (s : State) (h c : Nat) (a : BitVec 64) (bs : List Byte) : (s.hostWrite h c a bs).exp = s.exp := by simp [State.hostWrite]
@[simp] theorem State.hostWrite_flt (s : State) (h c : Nat) (a : BitVec 64) (bs : List Byte) : (s.hostWrite h c a bs).flt = s.flt := by simp [State.hostWrite]
@[simp] theorem State.hostWrite_dbg_gcFreeze (s : State) (h c : Nat) (a : BitVec 64) (bs : List Byte) : (s.hostWrite h c a bs).dbg.gcFreeze = s.dbg.gcFreeze := by simp [State.hostWrite]
@[simp] theorem State.hostWrite_dbg_gcSelect (s : State) (h c : Nat) (a : BitVec 64) (bs : List Byte) : (s.hostWrite h c a bs).dbg.gcSelect = s.dbg.gcSelect := by simp [State.hostWrite]
@[simp] theorem State.hostWrite_dbg_eventFreeze (s : State) (h c : Nat) (a : BitVec 64) (bs : List Byte) : (s.hostWrite h c a bs).dbg.eventFreeze = s.dbg.eventFreeze := by simp [State.hostWrite]
@[simp] theorem State.hostWrite_dbg_traceEnable (s : State) (h c : Nat) (a : BitVec 64) (bs : List Byte) : (s.hostWrite h c a bs).dbg.traceEnable = s.dbg.traceEnable := by simp [State.hostWrite]
@[simp] theorem State.hostWrite_dbg_halted (s : State) (h c : Nat) (a : BitVec 64) (bs : List Byte) : (s.hostWrite h c a bs).dbg.halted = s.dbg.halted := by simp [State.hostWrite]
@[simp] theorem State.hostWrite_pwr (s : State) (h c : Nat) (a : BitVec 64) (bs : List Byte) : (s.hostWrite h c a bs).pwr = s.pwr := by simp [State.hostWrite]
@[simp] theorem State.hostWrite_freeCtr (s : State) (h c : Nat) (a : BitVec 64) (bs : List Byte) : (s.hostWrite h c a bs).freeCtr = s.freeCtr := by simp [State.hostWrite]
@[simp] theorem State.hostWrite_pending (s : State) (h c : Nat) (a : BitVec 64) (bs : List Byte) : (s.hostWrite h c a bs).pending = s.pending := by simp [State.hostWrite]
@[simp] theorem State.hostWrite_now_eq (s : State) (h c : Nat) (a : BitVec 64) (bs : List Byte) : (s.hostWrite h c a bs).now = s.now := by simp [State.now]
@[simp] theorem State.hostWrite_core_eq (s : State) (h c : Nat) (a : BitVec 64) (bs : List Byte) (i : Nat) : (s.hostWrite h c a bs).core i = s.core i := by simp [State.core]
@[simp] theorem State.hostWrite_ring_eq (s : State) (h c : Nat) (a : BitVec 64) (bs : List Byte) (i : Nat) : (s.hostWrite h c a bs).ring i = s.ring i := by simp [State.ring]
@[simp] theorem State.hostWrite_node_eq (s : State) (h c : Nat) (a : BitVec 64) (bs : List Byte) (i : Nat) : (s.hostWrite h c a bs).node i = s.node i := by simp [State.node]
@[simp] theorem State.hostWrite_sector_eq (s : State) (h c : Nat) (a : BitVec 64) (bs : List Byte) (i : Nat) : (s.hostWrite h c a bs).sector i = s.sector i := by simp [State.sector]
@[simp] theorem State.hostWrite_comp_eq (s : State) (h c : Nat) (a : BitVec 64) (bs : List Byte) (i : Nat) : (s.hostWrite h c a bs).comp i = s.comp i := by simp [State.comp]
@[simp] theorem State.hostWrite_stand_eq (s : State) (h c : Nat) (a : BitVec 64) (bs : List Byte) (i : Nat) : (s.hostWrite h c a bs).stand i = s.stand i := by simp [State.stand]
@[simp] theorem State.hostWrite_ctx_eq (s : State) (h c : Nat) (a : BitVec 64) (bs : List Byte) (i : Nat) : (s.hostWrite h c a bs).ctx i = s.ctx i := by simp [State.ctx]
@[simp] theorem State.hostWrite_context_eq (s : State) (h c : Nat) (a : BitVec 64) (bs : List Byte) (i : Nat) : (s.hostWrite h c a bs).context i = s.context i := by simp [State.context]
@[simp] theorem State.hostWrite_port_eq (s : State) (h c : Nat) (a : BitVec 64) (bs : List Byte) (i : Nat) : (s.hostWrite h c a bs).port i = s.port i := by simp [State.port]
@[simp] theorem State.hostWrite_xport_eq (s : State) (h c : Nat) (a : BitVec 64) (bs : List Byte) (i : Nat) : (s.hostWrite h c a bs).xport i = s.xport i := by simp [State.xport]
@[simp] theorem State.hostWrite_layer_eq (s : State) (h c : Nat) (a : BitVec 64) (bs : List Byte) (i j : Nat) : (s.hostWrite h c a bs).layer i j = s.layer i j := by simp [State.layer]
@[simp] theorem State.hostWrite_engine_eq (s : State) (h c : Nat) (a : BitVec 64) (bs : List Byte) (i : Nat) : (s.hostWrite h c a bs).engine i = s.engine i := by simp [State.engine]
@[simp] theorem State.hostWrite_homeHalf_eq (s : State) (h c : Nat) (a : BitVec 64) (bs : List Byte) (i : Nat) : (s.hostWrite h c a bs).homeHalf i = s.homeHalf i := by simp [State.homeHalf, State.ring]
@[simp] theorem State.hostWrite_homeSector_eq (s : State) (h c : Nat) (a : BitVec 64) (bs : List Byte) (i : Nat) : (s.hostWrite h c a bs).homeSector i = s.homeSector i := by simp [State.homeSector, State.ring]
@[simp] theorem State.hostWrite_fenced_eq (s : State) (h c : Nat) (a : BitVec 64) (bs : List Byte) (i : Nat) : (s.hostWrite h c a bs).fenced i = s.fenced i := by simp [State.fenced]
@[simp] theorem State.hostWrite_ringsOf_eq (s : State) (h c : Nat) (a : BitVec 64) (bs : List Byte) (i : Nat) : (s.hostWrite h c a bs).ringsOf i = s.ringsOf i := by simp [State.ringsOf]
@[simp] theorem State.hostWrite_nodesOfRing_eq (s : State) (h c : Nat) (a : BitVec 64) (bs : List Byte) (i : Nat) : (s.hostWrite h c a bs).nodesOfRing i = s.nodesOfRing i := by simp [State.nodesOfRing]
@[simp] theorem State.hostWrite_nodesOfCtx_eq (s : State) (h c : Nat) (a : BitVec 64) (bs : List Byte) (i : Nat) : (s.hostWrite h c a bs).nodesOfCtx i = s.nodesOfCtx i := by simp [State.nodesOfCtx]
@[simp] theorem State.hostWrite_dev_eq (s : State) (h c : Nat) (a : BitVec 64) (bs : List Byte) (i j : Nat) : (s.hostWrite h c a bs).dev i j = s.dev i j := by simp [State.dev]
@[simp] theorem State.hostWrite_pasid_eq (s : State) (h c : Nat) (a : BitVec 64) (bs : List Byte) (i : Nat) : (s.hostWrite h c a bs).pasid i = s.pasid i := by simp [State.pasid]
@[simp] theorem State.hostWrite_tracing_eq (s : State) (h c : Nat) (a : BitVec 64) (bs : List Byte) : (s.hostWrite h c a bs).tracing = s.tracing := by simp [State.tracing]

/-! ### freezeOn -/

@[simp] theorem State.freezeOn_straps (s : State) (n : Nat) : (s.freezeOn n).straps = s.straps := by unfold State.freezeOn; split <;> rfl
@[simp] theorem State.freezeOn_fuses (s : State) (n : Nat) : (s.freezeOn n).fuses = s.fuses := by unfold State.freezeOn; split <;> rfl
@[simp] theorem State.freezeOn_boot (s : State) (n : Nat) : (s.freezeOn n).boot = s.boot := by unfold State.freezeOn; split <;> rfl
@[simp] theorem State.freezeOn_cat (s : State) (n : Nat) : (s.freezeOn n).cat = s.cat := by unfold State.freezeOn; split <;> rfl
@[simp] theorem State.freezeOn_set (s : State) (n : Nat) : (s.freezeOn n).set = s.set := by unfold State.freezeOn; split <;> rfl
@[simp] theorem State.freezeOn_ctxs (s : State) (n : Nat) : (s.freezeOn n).ctxs = s.ctxs := by unfold State.freezeOn; split <;> rfl
@[simp] theorem State.freezeOn_rings (s : State) (n : Nat) : (s.freezeOn n).rings = s.rings := by unfold State.freezeOn; split <;> rfl
@[simp] theorem State.freezeOn_dv (s : State) (n : Nat) : (s.freezeOn n).dv = s.dv := by unfold State.freezeOn; split <;> rfl
@[simp] theorem State.freezeOn_stands (s : State) (n : Nat) : (s.freezeOn n).stands = s.stands := by unfold State.freezeOn; split <;> rfl
@[simp] theorem State.freezeOn_cores (s : State) (n : Nat) : (s.freezeOn n).cores = s.cores := by unfold State.freezeOn; split <;> rfl
@[simp] theorem State.freezeOn_fab (s : State) (n : Nat) : (s.freezeOn n).fab = s.fab := by unfold State.freezeOn; split <;> rfl
@[simp] theorem State.freezeOn_ecl (s : State) (n : Nat) : (s.freezeOn n).ecl = s.ecl := by unfold State.freezeOn; split <;> rfl
@[simp] theorem State.freezeOn_clock (s : State) (n : Nat) : (s.freezeOn n).clock = s.clock := by unfold State.freezeOn; split <;> rfl
@[simp] theorem State.freezeOn_mem (s : State) (n : Nat) : (s.freezeOn n).mem = s.mem := by unfold State.freezeOn; split <;> rfl
@[simp] theorem State.freezeOn_exp (s : State) (n : Nat) : (s.freezeOn n).exp = s.exp := by unfold State.freezeOn; split <;> rfl
@[simp] theorem State.freezeOn_flt (s : State) (n : Nat) : (s.freezeOn n).flt = s.flt := by unfold State.freezeOn; split <;> rfl
@[simp] theorem State.freezeOn_dbg_gcFreeze (s : State) (n : Nat) : (s.freezeOn n).dbg.gcFreeze = s.dbg.gcFreeze := by unfold State.freezeOn; split <;> rfl
@[simp] theorem State.freezeOn_dbg_gcSelect (s : State) (n : Nat) : (s.freezeOn n).dbg.gcSelect = s.dbg.gcSelect := by unfold State.freezeOn; split <;> rfl
@[simp] theorem State.freezeOn_dbg_traceEnable (s : State) (n : Nat) : (s.freezeOn n).dbg.traceEnable = s.dbg.traceEnable := by unfold State.freezeOn; split <;> rfl
@[simp] theorem State.freezeOn_dbg_halted (s : State) (n : Nat) : (s.freezeOn n).dbg.halted = s.dbg.halted := by unfold State.freezeOn; split <;> rfl
@[simp] theorem State.freezeOn_pwr (s : State) (n : Nat) : (s.freezeOn n).pwr = s.pwr := by unfold State.freezeOn; split <;> rfl
@[simp] theorem State.freezeOn_outputs (s : State) (n : Nat) : (s.freezeOn n).outputs = s.outputs := by unfold State.freezeOn; split <;> rfl
@[simp] theorem State.freezeOn_freeCtr (s : State) (n : Nat) : (s.freezeOn n).freeCtr = s.freeCtr := by unfold State.freezeOn; split <;> rfl
@[simp] theorem State.freezeOn_pending (s : State) (n : Nat) : (s.freezeOn n).pending = s.pending := by unfold State.freezeOn; split <;> rfl
@[simp] theorem State.freezeOn_now_eq (s : State) (n : Nat) : (s.freezeOn n).now = s.now := by simp [State.now]
@[simp] theorem State.freezeOn_core_eq (s : State) (n : Nat) (i : Nat) : (s.freezeOn n).core i = s.core i := by simp [State.core]
@[simp] theorem State.freezeOn_ring_eq (s : State) (n : Nat) (i : Nat) : (s.freezeOn n).ring i = s.ring i := by simp [State.ring]
@[simp] theorem State.freezeOn_node_eq (s : State) (n : Nat) (i : Nat) : (s.freezeOn n).node i = s.node i := by simp [State.node]
@[simp] theorem State.freezeOn_sector_eq (s : State) (n : Nat) (i : Nat) : (s.freezeOn n).sector i = s.sector i := by simp [State.sector]
@[simp] theorem State.freezeOn_comp_eq (s : State) (n : Nat) (i : Nat) : (s.freezeOn n).comp i = s.comp i := by simp [State.comp]
@[simp] theorem State.freezeOn_stand_eq (s : State) (n : Nat) (i : Nat) : (s.freezeOn n).stand i = s.stand i := by simp [State.stand]
@[simp] theorem State.freezeOn_ctx_eq (s : State) (n : Nat) (i : Nat) : (s.freezeOn n).ctx i = s.ctx i := by simp [State.ctx]
@[simp] theorem State.freezeOn_context_eq (s : State) (n : Nat) (i : Nat) : (s.freezeOn n).context i = s.context i := by simp [State.context]
@[simp] theorem State.freezeOn_port_eq (s : State) (n : Nat) (i : Nat) : (s.freezeOn n).port i = s.port i := by simp [State.port]
@[simp] theorem State.freezeOn_xport_eq (s : State) (n : Nat) (i : Nat) : (s.freezeOn n).xport i = s.xport i := by simp [State.xport]
@[simp] theorem State.freezeOn_layer_eq (s : State) (n : Nat) (i j : Nat) : (s.freezeOn n).layer i j = s.layer i j := by simp [State.layer]
@[simp] theorem State.freezeOn_engine_eq (s : State) (n : Nat) (i : Nat) : (s.freezeOn n).engine i = s.engine i := by simp [State.engine]
@[simp] theorem State.freezeOn_homeHalf_eq (s : State) (n : Nat) (i : Nat) : (s.freezeOn n).homeHalf i = s.homeHalf i := by simp [State.homeHalf, State.ring]
@[simp] theorem State.freezeOn_homeSector_eq (s : State) (n : Nat) (i : Nat) : (s.freezeOn n).homeSector i = s.homeSector i := by simp [State.homeSector, State.ring]
@[simp] theorem State.freezeOn_fenced_eq (s : State) (n : Nat) (i : Nat) : (s.freezeOn n).fenced i = s.fenced i := by simp [State.fenced]
@[simp] theorem State.freezeOn_ringsOf_eq (s : State) (n : Nat) (i : Nat) : (s.freezeOn n).ringsOf i = s.ringsOf i := by simp [State.ringsOf]
@[simp] theorem State.freezeOn_nodesOfRing_eq (s : State) (n : Nat) (i : Nat) : (s.freezeOn n).nodesOfRing i = s.nodesOfRing i := by simp [State.nodesOfRing]
@[simp] theorem State.freezeOn_nodesOfCtx_eq (s : State) (n : Nat) (i : Nat) : (s.freezeOn n).nodesOfCtx i = s.nodesOfCtx i := by simp [State.nodesOfCtx]
@[simp] theorem State.freezeOn_dev_eq (s : State) (n : Nat) (i j : Nat) : (s.freezeOn n).dev i j = s.dev i j := by simp [State.dev]
@[simp] theorem State.freezeOn_pasid_eq (s : State) (n : Nat) (i : Nat) : (s.freezeOn n).pasid i = s.pasid i := by simp [State.pasid]
@[simp] theorem State.freezeOn_tracing_eq (s : State) (n : Nat) : (s.freezeOn n).tracing = s.tracing := by simp [State.tracing]

/-! ### sinkRecord -/

@[simp] theorem State.sinkRecord_straps (s : State) (rec : List Byte) : (s.sinkRecord rec).straps = s.straps := by obtain ⟨_, _, _, h⟩ := s.sinkRecord_shape rec; rw [h]
@[simp] theorem State.sinkRecord_fuses (s : State) (rec : List Byte) : (s.sinkRecord rec).fuses = s.fuses := by obtain ⟨_, _, _, h⟩ := s.sinkRecord_shape rec; rw [h]
@[simp] theorem State.sinkRecord_boot (s : State) (rec : List Byte) : (s.sinkRecord rec).boot = s.boot := by obtain ⟨_, _, _, h⟩ := s.sinkRecord_shape rec; rw [h]
@[simp] theorem State.sinkRecord_cat (s : State) (rec : List Byte) : (s.sinkRecord rec).cat = s.cat := by obtain ⟨_, _, _, h⟩ := s.sinkRecord_shape rec; rw [h]
@[simp] theorem State.sinkRecord_set (s : State) (rec : List Byte) : (s.sinkRecord rec).set = s.set := by obtain ⟨_, _, _, h⟩ := s.sinkRecord_shape rec; rw [h]
@[simp] theorem State.sinkRecord_ctxs (s : State) (rec : List Byte) : (s.sinkRecord rec).ctxs = s.ctxs := by obtain ⟨_, _, _, h⟩ := s.sinkRecord_shape rec; rw [h]
@[simp] theorem State.sinkRecord_rings (s : State) (rec : List Byte) : (s.sinkRecord rec).rings = s.rings := by obtain ⟨_, _, _, h⟩ := s.sinkRecord_shape rec; rw [h]
@[simp] theorem State.sinkRecord_dv (s : State) (rec : List Byte) : (s.sinkRecord rec).dv = s.dv := by obtain ⟨_, _, _, h⟩ := s.sinkRecord_shape rec; rw [h]
@[simp] theorem State.sinkRecord_stands (s : State) (rec : List Byte) : (s.sinkRecord rec).stands = s.stands := by obtain ⟨_, _, _, h⟩ := s.sinkRecord_shape rec; rw [h]
@[simp] theorem State.sinkRecord_cores (s : State) (rec : List Byte) : (s.sinkRecord rec).cores = s.cores := by obtain ⟨_, _, _, h⟩ := s.sinkRecord_shape rec; rw [h]
@[simp] theorem State.sinkRecord_fab (s : State) (rec : List Byte) : (s.sinkRecord rec).fab = s.fab := by obtain ⟨_, _, _, h⟩ := s.sinkRecord_shape rec; rw [h]
@[simp] theorem State.sinkRecord_ecl (s : State) (rec : List Byte) : (s.sinkRecord rec).ecl = s.ecl := by obtain ⟨_, _, _, h⟩ := s.sinkRecord_shape rec; rw [h]
@[simp] theorem State.sinkRecord_clock (s : State) (rec : List Byte) : (s.sinkRecord rec).clock = s.clock := by obtain ⟨_, _, _, h⟩ := s.sinkRecord_shape rec; rw [h]
@[simp] theorem State.sinkRecord_mem_ports (s : State) (rec : List Byte) : (s.sinkRecord rec).mem.ports = s.mem.ports := by obtain ⟨_, _, _, h⟩ := s.sinkRecord_shape rec; rw [h]
@[simp] theorem State.sinkRecord_mem_tables (s : State) (rec : List Byte) : (s.sinkRecord rec).mem.tables = s.mem.tables := by obtain ⟨_, _, _, h⟩ := s.sinkRecord_shape rec; rw [h]
@[simp] theorem State.sinkRecord_mem_regions (s : State) (rec : List Byte) : (s.sinkRecord rec).mem.regions = s.mem.regions := by obtain ⟨_, _, _, h⟩ := s.sinkRecord_shape rec; rw [h]
@[simp] theorem State.sinkRecord_mem_gathers (s : State) (rec : List Byte) : (s.sinkRecord rec).mem.gathers = s.mem.gathers := by obtain ⟨_, _, _, h⟩ := s.sinkRecord_shape rec; rw [h]
@[simp] theorem State.sinkRecord_mem_xlat (s : State) (rec : List Byte) : (s.sinkRecord rec).mem.xlat = s.mem.xlat := by obtain ⟨_, _, _, h⟩ := s.sinkRecord_shape rec; rw [h]
@[simp] theorem State.sinkRecord_mem_pinned (s : State) (rec : List Byte) : (s.sinkRecord rec).mem.pinned = s.mem.pinned := by obtain ⟨_, _, _, h⟩ := s.sinkRecord_shape rec; rw [h]
@[simp] theorem State.sinkRecord_mem_requests (s : State) (rec : List Byte) : (s.sinkRecord rec).mem.requests = s.mem.requests := by obtain ⟨_, _, _, h⟩ := s.sinkRecord_shape rec; rw [h]
@[simp] theorem State.sinkRecord_mem_nextTag (s : State) (rec : List Byte) : (s.sinkRecord rec).mem.nextTag = s.mem.nextTag := by obtain ⟨_, _, _, h⟩ := s.sinkRecord_shape rec; rw [h]
@[simp] theorem State.sinkRecord_mem_records (s : State) (rec : List Byte) : (s.sinkRecord rec).mem.records = s.mem.records := by obtain ⟨_, _, _, h⟩ := s.sinkRecord_shape rec; rw [h]
@[simp] theorem State.sinkRecord_mem_pageRequests (s : State) (rec : List Byte) : (s.sinkRecord rec).mem.pageRequests = s.mem.pageRequests := by obtain ⟨_, _, _, h⟩ := s.sinkRecord_shape rec; rw [h]
@[simp] theorem State.sinkRecord_mem_readData (s : State) (rec : List Byte) : (s.sinkRecord rec).mem.readData = s.mem.readData := by obtain ⟨_, _, _, h⟩ := s.sinkRecord_shape rec; rw [h]
@[simp] theorem State.sinkRecord_mem_pageWaiters (s : State) (rec : List Byte) : (s.sinkRecord rec).mem.pageWaiters = s.mem.pageWaiters := by obtain ⟨_, _, _, h⟩ := s.sinkRecord_shape rec; rw [h]
@[simp] theorem State.sinkRecord_mem_xltWaiting (s : State) (rec : List Byte) : (s.sinkRecord rec).mem.xltWaiting = s.mem.xltWaiting := by obtain ⟨_, _, _, h⟩ := s.sinkRecord_shape rec; rw [h]
@[simp] theorem State.sinkRecord_mem_partials (s : State) (rec : List Byte) : (s.sinkRecord rec).mem.partials = s.mem.partials := by obtain ⟨_, _, _, h⟩ := s.sinkRecord_shape rec; rw [h]
@[simp] theorem State.sinkRecord_mem_invWaiting (s : State) (rec : List Byte) : (s.sinkRecord rec).mem.invWaiting = s.mem.invWaiting := by obtain ⟨_, _, _, h⟩ := s.sinkRecord_shape rec; rw [h]
@[simp] theorem State.sinkRecord_exp (s : State) (rec : List Byte) : (s.sinkRecord rec).exp = s.exp := by obtain ⟨_, _, _, h⟩ := s.sinkRecord_shape rec; rw [h]
@[simp] theorem State.sinkRecord_flt (s : State) (rec : List Byte) : (s.sinkRecord rec).flt = s.flt := by obtain ⟨_, _, _, h⟩ := s.sinkRecord_shape rec; rw [h]
@[simp] theorem State.sinkRecord_pwr (s : State) (rec : List Byte) : (s.sinkRecord rec).pwr = s.pwr := by obtain ⟨_, _, _, h⟩ := s.sinkRecord_shape rec; rw [h]
@[simp] theorem State.sinkRecord_freeCtr (s : State) (rec : List Byte) : (s.sinkRecord rec).freeCtr = s.freeCtr := by obtain ⟨_, _, _, h⟩ := s.sinkRecord_shape rec; rw [h]
@[simp] theorem State.sinkRecord_pending (s : State) (rec : List Byte) : (s.sinkRecord rec).pending = s.pending := by obtain ⟨_, _, _, h⟩ := s.sinkRecord_shape rec; rw [h]

/-! ### traceLost -/

@[simp] theorem State.traceLost_straps (s : State) (h n : Nat) : (s.traceLost h n).straps = s.straps := by obtain ⟨_, _, _, h⟩ := s.traceLost_shape h n; rw [h]
@[simp] theorem State.traceLost_fuses (s : State) (h n : Nat) : (s.traceLost h n).fuses = s.fuses := by obtain ⟨_, _, _, h⟩ := s.traceLost_shape h n; rw [h]
@[simp] theorem State.traceLost_boot (s : State) (h n : Nat) : (s.traceLost h n).boot = s.boot := by obtain ⟨_, _, _, h⟩ := s.traceLost_shape h n; rw [h]
@[simp] theorem State.traceLost_cat (s : State) (h n : Nat) : (s.traceLost h n).cat = s.cat := by obtain ⟨_, _, _, h⟩ := s.traceLost_shape h n; rw [h]
@[simp] theorem State.traceLost_set (s : State) (h n : Nat) : (s.traceLost h n).set = s.set := by obtain ⟨_, _, _, h⟩ := s.traceLost_shape h n; rw [h]
@[simp] theorem State.traceLost_ctxs (s : State) (h n : Nat) : (s.traceLost h n).ctxs = s.ctxs := by obtain ⟨_, _, _, h⟩ := s.traceLost_shape h n; rw [h]
@[simp] theorem State.traceLost_rings (s : State) (h n : Nat) : (s.traceLost h n).rings = s.rings := by obtain ⟨_, _, _, h⟩ := s.traceLost_shape h n; rw [h]
@[simp] theorem State.traceLost_dv (s : State) (h n : Nat) : (s.traceLost h n).dv = s.dv := by obtain ⟨_, _, _, h⟩ := s.traceLost_shape h n; rw [h]
@[simp] theorem State.traceLost_stands (s : State) (h n : Nat) : (s.traceLost h n).stands = s.stands := by obtain ⟨_, _, _, h⟩ := s.traceLost_shape h n; rw [h]
@[simp] theorem State.traceLost_cores (s : State) (h n : Nat) : (s.traceLost h n).cores = s.cores := by obtain ⟨_, _, _, h⟩ := s.traceLost_shape h n; rw [h]
@[simp] theorem State.traceLost_fab (s : State) (h n : Nat) : (s.traceLost h n).fab = s.fab := by obtain ⟨_, _, _, h⟩ := s.traceLost_shape h n; rw [h]
@[simp] theorem State.traceLost_ecl (s : State) (h n : Nat) : (s.traceLost h n).ecl = s.ecl := by obtain ⟨_, _, _, h⟩ := s.traceLost_shape h n; rw [h]
@[simp] theorem State.traceLost_clock (s : State) (h n : Nat) : (s.traceLost h n).clock = s.clock := by obtain ⟨_, _, _, h⟩ := s.traceLost_shape h n; rw [h]
@[simp] theorem State.traceLost_mem_ports (s : State) (h n : Nat) : (s.traceLost h n).mem.ports = s.mem.ports := by obtain ⟨_, _, _, h⟩ := s.traceLost_shape h n; rw [h]
@[simp] theorem State.traceLost_mem_tables (s : State) (h n : Nat) : (s.traceLost h n).mem.tables = s.mem.tables := by obtain ⟨_, _, _, h⟩ := s.traceLost_shape h n; rw [h]
@[simp] theorem State.traceLost_mem_regions (s : State) (h n : Nat) : (s.traceLost h n).mem.regions = s.mem.regions := by obtain ⟨_, _, _, h⟩ := s.traceLost_shape h n; rw [h]
@[simp] theorem State.traceLost_mem_gathers (s : State) (h n : Nat) : (s.traceLost h n).mem.gathers = s.mem.gathers := by obtain ⟨_, _, _, h⟩ := s.traceLost_shape h n; rw [h]
@[simp] theorem State.traceLost_mem_xlat (s : State) (h n : Nat) : (s.traceLost h n).mem.xlat = s.mem.xlat := by obtain ⟨_, _, _, h⟩ := s.traceLost_shape h n; rw [h]
@[simp] theorem State.traceLost_mem_pinned (s : State) (h n : Nat) : (s.traceLost h n).mem.pinned = s.mem.pinned := by obtain ⟨_, _, _, h⟩ := s.traceLost_shape h n; rw [h]
@[simp] theorem State.traceLost_mem_requests (s : State) (h n : Nat) : (s.traceLost h n).mem.requests = s.mem.requests := by obtain ⟨_, _, _, h⟩ := s.traceLost_shape h n; rw [h]
@[simp] theorem State.traceLost_mem_nextTag (s : State) (h n : Nat) : (s.traceLost h n).mem.nextTag = s.mem.nextTag := by obtain ⟨_, _, _, h⟩ := s.traceLost_shape h n; rw [h]
@[simp] theorem State.traceLost_mem_records (s : State) (h n : Nat) : (s.traceLost h n).mem.records = s.mem.records := by obtain ⟨_, _, _, h⟩ := s.traceLost_shape h n; rw [h]
@[simp] theorem State.traceLost_mem_pageRequests (s : State) (h n : Nat) : (s.traceLost h n).mem.pageRequests = s.mem.pageRequests := by obtain ⟨_, _, _, h⟩ := s.traceLost_shape h n; rw [h]
@[simp] theorem State.traceLost_mem_readData (s : State) (h n : Nat) : (s.traceLost h n).mem.readData = s.mem.readData := by obtain ⟨_, _, _, h⟩ := s.traceLost_shape h n; rw [h]
@[simp] theorem State.traceLost_mem_pageWaiters (s : State) (h n : Nat) : (s.traceLost h n).mem.pageWaiters = s.mem.pageWaiters := by obtain ⟨_, _, _, h⟩ := s.traceLost_shape h n; rw [h]
@[simp] theorem State.traceLost_mem_xltWaiting (s : State) (h n : Nat) : (s.traceLost h n).mem.xltWaiting = s.mem.xltWaiting := by obtain ⟨_, _, _, h⟩ := s.traceLost_shape h n; rw [h]
@[simp] theorem State.traceLost_mem_partials (s : State) (h n : Nat) : (s.traceLost h n).mem.partials = s.mem.partials := by obtain ⟨_, _, _, h⟩ := s.traceLost_shape h n; rw [h]
@[simp] theorem State.traceLost_mem_invWaiting (s : State) (h n : Nat) : (s.traceLost h n).mem.invWaiting = s.mem.invWaiting := by obtain ⟨_, _, _, h⟩ := s.traceLost_shape h n; rw [h]
@[simp] theorem State.traceLost_exp (s : State) (h n : Nat) : (s.traceLost h n).exp = s.exp := by obtain ⟨_, _, _, h⟩ := s.traceLost_shape h n; rw [h]
@[simp] theorem State.traceLost_flt (s : State) (h n : Nat) : (s.traceLost h n).flt = s.flt := by obtain ⟨_, _, _, h⟩ := s.traceLost_shape h n; rw [h]
@[simp] theorem State.traceLost_pwr (s : State) (h n : Nat) : (s.traceLost h n).pwr = s.pwr := by obtain ⟨_, _, _, h⟩ := s.traceLost_shape h n; rw [h]
@[simp] theorem State.traceLost_freeCtr (s : State) (h n : Nat) : (s.traceLost h n).freeCtr = s.freeCtr := by obtain ⟨_, _, _, h⟩ := s.traceLost_shape h n; rw [h]
@[simp] theorem State.traceLost_pending (s : State) (h n : Nat) : (s.traceLost h n).pending = s.pending := by obtain ⟨_, _, _, h⟩ := s.traceLost_shape h n; rw [h]

/-! ### DRAIN -/

@[simp] theorem drainTrace_straps (n : Nat) (s : State) : (drainTrace n s).straps = s.straps := by obtain ⟨_, _, _, h⟩ := drainTrace_shape n s; rw [h]
@[simp] theorem drainTrace_fuses (n : Nat) (s : State) : (drainTrace n s).fuses = s.fuses := by obtain ⟨_, _, _, h⟩ := drainTrace_shape n s; rw [h]
@[simp] theorem drainTrace_boot (n : Nat) (s : State) : (drainTrace n s).boot = s.boot := by obtain ⟨_, _, _, h⟩ := drainTrace_shape n s; rw [h]
@[simp] theorem drainTrace_cat (n : Nat) (s : State) : (drainTrace n s).cat = s.cat := by obtain ⟨_, _, _, h⟩ := drainTrace_shape n s; rw [h]
@[simp] theorem drainTrace_set (n : Nat) (s : State) : (drainTrace n s).set = s.set := by obtain ⟨_, _, _, h⟩ := drainTrace_shape n s; rw [h]
@[simp] theorem drainTrace_ctxs (n : Nat) (s : State) : (drainTrace n s).ctxs = s.ctxs := by obtain ⟨_, _, _, h⟩ := drainTrace_shape n s; rw [h]
@[simp] theorem drainTrace_rings (n : Nat) (s : State) : (drainTrace n s).rings = s.rings := by obtain ⟨_, _, _, h⟩ := drainTrace_shape n s; rw [h]
@[simp] theorem drainTrace_dv (n : Nat) (s : State) : (drainTrace n s).dv = s.dv := by obtain ⟨_, _, _, h⟩ := drainTrace_shape n s; rw [h]
@[simp] theorem drainTrace_stands (n : Nat) (s : State) : (drainTrace n s).stands = s.stands := by obtain ⟨_, _, _, h⟩ := drainTrace_shape n s; rw [h]
@[simp] theorem drainTrace_cores (n : Nat) (s : State) : (drainTrace n s).cores = s.cores := by obtain ⟨_, _, _, h⟩ := drainTrace_shape n s; rw [h]
@[simp] theorem drainTrace_fab (n : Nat) (s : State) : (drainTrace n s).fab = s.fab := by obtain ⟨_, _, _, h⟩ := drainTrace_shape n s; rw [h]
@[simp] theorem drainTrace_ecl (n : Nat) (s : State) : (drainTrace n s).ecl = s.ecl := by obtain ⟨_, _, _, h⟩ := drainTrace_shape n s; rw [h]
@[simp] theorem drainTrace_clock (n : Nat) (s : State) : (drainTrace n s).clock = s.clock := by obtain ⟨_, _, _, h⟩ := drainTrace_shape n s; rw [h]
@[simp] theorem drainTrace_mem_ports (n : Nat) (s : State) : (drainTrace n s).mem.ports = s.mem.ports := by obtain ⟨_, _, _, h⟩ := drainTrace_shape n s; rw [h]
@[simp] theorem drainTrace_mem_tables (n : Nat) (s : State) : (drainTrace n s).mem.tables = s.mem.tables := by obtain ⟨_, _, _, h⟩ := drainTrace_shape n s; rw [h]
@[simp] theorem drainTrace_mem_regions (n : Nat) (s : State) : (drainTrace n s).mem.regions = s.mem.regions := by obtain ⟨_, _, _, h⟩ := drainTrace_shape n s; rw [h]
@[simp] theorem drainTrace_mem_gathers (n : Nat) (s : State) : (drainTrace n s).mem.gathers = s.mem.gathers := by obtain ⟨_, _, _, h⟩ := drainTrace_shape n s; rw [h]
@[simp] theorem drainTrace_mem_xlat (n : Nat) (s : State) : (drainTrace n s).mem.xlat = s.mem.xlat := by obtain ⟨_, _, _, h⟩ := drainTrace_shape n s; rw [h]
@[simp] theorem drainTrace_mem_pinned (n : Nat) (s : State) : (drainTrace n s).mem.pinned = s.mem.pinned := by obtain ⟨_, _, _, h⟩ := drainTrace_shape n s; rw [h]
@[simp] theorem drainTrace_mem_requests (n : Nat) (s : State) : (drainTrace n s).mem.requests = s.mem.requests := by obtain ⟨_, _, _, h⟩ := drainTrace_shape n s; rw [h]
@[simp] theorem drainTrace_mem_nextTag (n : Nat) (s : State) : (drainTrace n s).mem.nextTag = s.mem.nextTag := by obtain ⟨_, _, _, h⟩ := drainTrace_shape n s; rw [h]
@[simp] theorem drainTrace_mem_records (n : Nat) (s : State) : (drainTrace n s).mem.records = s.mem.records := by obtain ⟨_, _, _, h⟩ := drainTrace_shape n s; rw [h]
@[simp] theorem drainTrace_mem_pageRequests (n : Nat) (s : State) : (drainTrace n s).mem.pageRequests = s.mem.pageRequests := by obtain ⟨_, _, _, h⟩ := drainTrace_shape n s; rw [h]
@[simp] theorem drainTrace_mem_readData (n : Nat) (s : State) : (drainTrace n s).mem.readData = s.mem.readData := by obtain ⟨_, _, _, h⟩ := drainTrace_shape n s; rw [h]
@[simp] theorem drainTrace_mem_pageWaiters (n : Nat) (s : State) : (drainTrace n s).mem.pageWaiters = s.mem.pageWaiters := by obtain ⟨_, _, _, h⟩ := drainTrace_shape n s; rw [h]
@[simp] theorem drainTrace_mem_xltWaiting (n : Nat) (s : State) : (drainTrace n s).mem.xltWaiting = s.mem.xltWaiting := by obtain ⟨_, _, _, h⟩ := drainTrace_shape n s; rw [h]
@[simp] theorem drainTrace_mem_partials (n : Nat) (s : State) : (drainTrace n s).mem.partials = s.mem.partials := by obtain ⟨_, _, _, h⟩ := drainTrace_shape n s; rw [h]
@[simp] theorem drainTrace_mem_invWaiting (n : Nat) (s : State) : (drainTrace n s).mem.invWaiting = s.mem.invWaiting := by obtain ⟨_, _, _, h⟩ := drainTrace_shape n s; rw [h]
@[simp] theorem drainTrace_exp (n : Nat) (s : State) : (drainTrace n s).exp = s.exp := by obtain ⟨_, _, _, h⟩ := drainTrace_shape n s; rw [h]
@[simp] theorem drainTrace_flt (n : Nat) (s : State) : (drainTrace n s).flt = s.flt := by obtain ⟨_, _, _, h⟩ := drainTrace_shape n s; rw [h]
@[simp] theorem drainTrace_pwr (n : Nat) (s : State) : (drainTrace n s).pwr = s.pwr := by obtain ⟨_, _, _, h⟩ := drainTrace_shape n s; rw [h]
@[simp] theorem drainTrace_freeCtr (n : Nat) (s : State) : (drainTrace n s).freeCtr = s.freeCtr := by obtain ⟨_, _, _, h⟩ := drainTrace_shape n s; rw [h]
@[simp] theorem drainTrace_pending (n : Nat) (s : State) : (drainTrace n s).pending = s.pending := by obtain ⟨_, _, _, h⟩ := drainTrace_shape n s; rw [h]

/-! ### mergeRecord -/

@[simp] theorem State.mergeRecord_straps (s : State) (rec : List Byte) : (s.mergeRecord rec).straps = s.straps := by obtain ⟨_, _, _, h⟩ := s.mergeRecord_shape rec; rw [h]
@[simp] theorem State.mergeRecord_fuses (s : State) (rec : List Byte) : (s.mergeRecord rec).fuses = s.fuses := by obtain ⟨_, _, _, h⟩ := s.mergeRecord_shape rec; rw [h]
@[simp] theorem State.mergeRecord_boot (s : State) (rec : List Byte) : (s.mergeRecord rec).boot = s.boot := by obtain ⟨_, _, _, h⟩ := s.mergeRecord_shape rec; rw [h]
@[simp] theorem State.mergeRecord_cat (s : State) (rec : List Byte) : (s.mergeRecord rec).cat = s.cat := by obtain ⟨_, _, _, h⟩ := s.mergeRecord_shape rec; rw [h]
@[simp] theorem State.mergeRecord_set (s : State) (rec : List Byte) : (s.mergeRecord rec).set = s.set := by obtain ⟨_, _, _, h⟩ := s.mergeRecord_shape rec; rw [h]
@[simp] theorem State.mergeRecord_ctxs (s : State) (rec : List Byte) : (s.mergeRecord rec).ctxs = s.ctxs := by obtain ⟨_, _, _, h⟩ := s.mergeRecord_shape rec; rw [h]
@[simp] theorem State.mergeRecord_rings (s : State) (rec : List Byte) : (s.mergeRecord rec).rings = s.rings := by obtain ⟨_, _, _, h⟩ := s.mergeRecord_shape rec; rw [h]
@[simp] theorem State.mergeRecord_dv (s : State) (rec : List Byte) : (s.mergeRecord rec).dv = s.dv := by obtain ⟨_, _, _, h⟩ := s.mergeRecord_shape rec; rw [h]
@[simp] theorem State.mergeRecord_stands (s : State) (rec : List Byte) : (s.mergeRecord rec).stands = s.stands := by obtain ⟨_, _, _, h⟩ := s.mergeRecord_shape rec; rw [h]
@[simp] theorem State.mergeRecord_cores (s : State) (rec : List Byte) : (s.mergeRecord rec).cores = s.cores := by obtain ⟨_, _, _, h⟩ := s.mergeRecord_shape rec; rw [h]
@[simp] theorem State.mergeRecord_fab (s : State) (rec : List Byte) : (s.mergeRecord rec).fab = s.fab := by obtain ⟨_, _, _, h⟩ := s.mergeRecord_shape rec; rw [h]
@[simp] theorem State.mergeRecord_ecl (s : State) (rec : List Byte) : (s.mergeRecord rec).ecl = s.ecl := by obtain ⟨_, _, _, h⟩ := s.mergeRecord_shape rec; rw [h]
@[simp] theorem State.mergeRecord_clock (s : State) (rec : List Byte) : (s.mergeRecord rec).clock = s.clock := by obtain ⟨_, _, _, h⟩ := s.mergeRecord_shape rec; rw [h]
@[simp] theorem State.mergeRecord_mem_ports (s : State) (rec : List Byte) : (s.mergeRecord rec).mem.ports = s.mem.ports := by obtain ⟨_, _, _, h⟩ := s.mergeRecord_shape rec; rw [h]
@[simp] theorem State.mergeRecord_mem_tables (s : State) (rec : List Byte) : (s.mergeRecord rec).mem.tables = s.mem.tables := by obtain ⟨_, _, _, h⟩ := s.mergeRecord_shape rec; rw [h]
@[simp] theorem State.mergeRecord_mem_regions (s : State) (rec : List Byte) : (s.mergeRecord rec).mem.regions = s.mem.regions := by obtain ⟨_, _, _, h⟩ := s.mergeRecord_shape rec; rw [h]
@[simp] theorem State.mergeRecord_mem_gathers (s : State) (rec : List Byte) : (s.mergeRecord rec).mem.gathers = s.mem.gathers := by obtain ⟨_, _, _, h⟩ := s.mergeRecord_shape rec; rw [h]
@[simp] theorem State.mergeRecord_mem_xlat (s : State) (rec : List Byte) : (s.mergeRecord rec).mem.xlat = s.mem.xlat := by obtain ⟨_, _, _, h⟩ := s.mergeRecord_shape rec; rw [h]
@[simp] theorem State.mergeRecord_mem_pinned (s : State) (rec : List Byte) : (s.mergeRecord rec).mem.pinned = s.mem.pinned := by obtain ⟨_, _, _, h⟩ := s.mergeRecord_shape rec; rw [h]
@[simp] theorem State.mergeRecord_mem_requests (s : State) (rec : List Byte) : (s.mergeRecord rec).mem.requests = s.mem.requests := by obtain ⟨_, _, _, h⟩ := s.mergeRecord_shape rec; rw [h]
@[simp] theorem State.mergeRecord_mem_nextTag (s : State) (rec : List Byte) : (s.mergeRecord rec).mem.nextTag = s.mem.nextTag := by obtain ⟨_, _, _, h⟩ := s.mergeRecord_shape rec; rw [h]
@[simp] theorem State.mergeRecord_mem_records (s : State) (rec : List Byte) : (s.mergeRecord rec).mem.records = s.mem.records := by obtain ⟨_, _, _, h⟩ := s.mergeRecord_shape rec; rw [h]
@[simp] theorem State.mergeRecord_mem_pageRequests (s : State) (rec : List Byte) : (s.mergeRecord rec).mem.pageRequests = s.mem.pageRequests := by obtain ⟨_, _, _, h⟩ := s.mergeRecord_shape rec; rw [h]
@[simp] theorem State.mergeRecord_mem_readData (s : State) (rec : List Byte) : (s.mergeRecord rec).mem.readData = s.mem.readData := by obtain ⟨_, _, _, h⟩ := s.mergeRecord_shape rec; rw [h]
@[simp] theorem State.mergeRecord_mem_pageWaiters (s : State) (rec : List Byte) : (s.mergeRecord rec).mem.pageWaiters = s.mem.pageWaiters := by obtain ⟨_, _, _, h⟩ := s.mergeRecord_shape rec; rw [h]
@[simp] theorem State.mergeRecord_mem_xltWaiting (s : State) (rec : List Byte) : (s.mergeRecord rec).mem.xltWaiting = s.mem.xltWaiting := by obtain ⟨_, _, _, h⟩ := s.mergeRecord_shape rec; rw [h]
@[simp] theorem State.mergeRecord_mem_partials (s : State) (rec : List Byte) : (s.mergeRecord rec).mem.partials = s.mem.partials := by obtain ⟨_, _, _, h⟩ := s.mergeRecord_shape rec; rw [h]
@[simp] theorem State.mergeRecord_mem_invWaiting (s : State) (rec : List Byte) : (s.mergeRecord rec).mem.invWaiting = s.mem.invWaiting := by obtain ⟨_, _, _, h⟩ := s.mergeRecord_shape rec; rw [h]
@[simp] theorem State.mergeRecord_exp (s : State) (rec : List Byte) : (s.mergeRecord rec).exp = s.exp := by obtain ⟨_, _, _, h⟩ := s.mergeRecord_shape rec; rw [h]
@[simp] theorem State.mergeRecord_flt (s : State) (rec : List Byte) : (s.mergeRecord rec).flt = s.flt := by obtain ⟨_, _, _, h⟩ := s.mergeRecord_shape rec; rw [h]
@[simp] theorem State.mergeRecord_pwr (s : State) (rec : List Byte) : (s.mergeRecord rec).pwr = s.pwr := by obtain ⟨_, _, _, h⟩ := s.mergeRecord_shape rec; rw [h]
@[simp] theorem State.mergeRecord_freeCtr (s : State) (rec : List Byte) : (s.mergeRecord rec).freeCtr = s.freeCtr := by obtain ⟨_, _, _, h⟩ := s.mergeRecord_shape rec; rw [h]
@[simp] theorem State.mergeRecord_pending (s : State) (rec : List Byte) : (s.mergeRecord rec).pending = s.pending := by obtain ⟨_, _, _, h⟩ := s.mergeRecord_shape rec; rw [h]

/-! ### syncRecord -/

@[simp] theorem State.syncRecord_straps (s : State) : (s.syncRecord).straps = s.straps := by obtain ⟨_, _, _, h⟩ := s.syncRecord_shape ; rw [h]
@[simp] theorem State.syncRecord_fuses (s : State) : (s.syncRecord).fuses = s.fuses := by obtain ⟨_, _, _, h⟩ := s.syncRecord_shape ; rw [h]
@[simp] theorem State.syncRecord_boot (s : State) : (s.syncRecord).boot = s.boot := by obtain ⟨_, _, _, h⟩ := s.syncRecord_shape ; rw [h]
@[simp] theorem State.syncRecord_cat (s : State) : (s.syncRecord).cat = s.cat := by obtain ⟨_, _, _, h⟩ := s.syncRecord_shape ; rw [h]
@[simp] theorem State.syncRecord_set (s : State) : (s.syncRecord).set = s.set := by obtain ⟨_, _, _, h⟩ := s.syncRecord_shape ; rw [h]
@[simp] theorem State.syncRecord_ctxs (s : State) : (s.syncRecord).ctxs = s.ctxs := by obtain ⟨_, _, _, h⟩ := s.syncRecord_shape ; rw [h]
@[simp] theorem State.syncRecord_rings (s : State) : (s.syncRecord).rings = s.rings := by obtain ⟨_, _, _, h⟩ := s.syncRecord_shape ; rw [h]
@[simp] theorem State.syncRecord_dv (s : State) : (s.syncRecord).dv = s.dv := by obtain ⟨_, _, _, h⟩ := s.syncRecord_shape ; rw [h]
@[simp] theorem State.syncRecord_stands (s : State) : (s.syncRecord).stands = s.stands := by obtain ⟨_, _, _, h⟩ := s.syncRecord_shape ; rw [h]
@[simp] theorem State.syncRecord_cores (s : State) : (s.syncRecord).cores = s.cores := by obtain ⟨_, _, _, h⟩ := s.syncRecord_shape ; rw [h]
@[simp] theorem State.syncRecord_fab (s : State) : (s.syncRecord).fab = s.fab := by obtain ⟨_, _, _, h⟩ := s.syncRecord_shape ; rw [h]
@[simp] theorem State.syncRecord_ecl (s : State) : (s.syncRecord).ecl = s.ecl := by obtain ⟨_, _, _, h⟩ := s.syncRecord_shape ; rw [h]
@[simp] theorem State.syncRecord_clock (s : State) : (s.syncRecord).clock = s.clock := by obtain ⟨_, _, _, h⟩ := s.syncRecord_shape ; rw [h]
@[simp] theorem State.syncRecord_mem_ports (s : State) : (s.syncRecord).mem.ports = s.mem.ports := by obtain ⟨_, _, _, h⟩ := s.syncRecord_shape ; rw [h]
@[simp] theorem State.syncRecord_mem_tables (s : State) : (s.syncRecord).mem.tables = s.mem.tables := by obtain ⟨_, _, _, h⟩ := s.syncRecord_shape ; rw [h]
@[simp] theorem State.syncRecord_mem_regions (s : State) : (s.syncRecord).mem.regions = s.mem.regions := by obtain ⟨_, _, _, h⟩ := s.syncRecord_shape ; rw [h]
@[simp] theorem State.syncRecord_mem_gathers (s : State) : (s.syncRecord).mem.gathers = s.mem.gathers := by obtain ⟨_, _, _, h⟩ := s.syncRecord_shape ; rw [h]
@[simp] theorem State.syncRecord_mem_xlat (s : State) : (s.syncRecord).mem.xlat = s.mem.xlat := by obtain ⟨_, _, _, h⟩ := s.syncRecord_shape ; rw [h]
@[simp] theorem State.syncRecord_mem_pinned (s : State) : (s.syncRecord).mem.pinned = s.mem.pinned := by obtain ⟨_, _, _, h⟩ := s.syncRecord_shape ; rw [h]
@[simp] theorem State.syncRecord_mem_requests (s : State) : (s.syncRecord).mem.requests = s.mem.requests := by obtain ⟨_, _, _, h⟩ := s.syncRecord_shape ; rw [h]
@[simp] theorem State.syncRecord_mem_nextTag (s : State) : (s.syncRecord).mem.nextTag = s.mem.nextTag := by obtain ⟨_, _, _, h⟩ := s.syncRecord_shape ; rw [h]
@[simp] theorem State.syncRecord_mem_records (s : State) : (s.syncRecord).mem.records = s.mem.records := by obtain ⟨_, _, _, h⟩ := s.syncRecord_shape ; rw [h]
@[simp] theorem State.syncRecord_mem_pageRequests (s : State) : (s.syncRecord).mem.pageRequests = s.mem.pageRequests := by obtain ⟨_, _, _, h⟩ := s.syncRecord_shape ; rw [h]
@[simp] theorem State.syncRecord_mem_readData (s : State) : (s.syncRecord).mem.readData = s.mem.readData := by obtain ⟨_, _, _, h⟩ := s.syncRecord_shape ; rw [h]
@[simp] theorem State.syncRecord_mem_pageWaiters (s : State) : (s.syncRecord).mem.pageWaiters = s.mem.pageWaiters := by obtain ⟨_, _, _, h⟩ := s.syncRecord_shape ; rw [h]
@[simp] theorem State.syncRecord_mem_xltWaiting (s : State) : (s.syncRecord).mem.xltWaiting = s.mem.xltWaiting := by obtain ⟨_, _, _, h⟩ := s.syncRecord_shape ; rw [h]
@[simp] theorem State.syncRecord_mem_partials (s : State) : (s.syncRecord).mem.partials = s.mem.partials := by obtain ⟨_, _, _, h⟩ := s.syncRecord_shape ; rw [h]
@[simp] theorem State.syncRecord_mem_invWaiting (s : State) : (s.syncRecord).mem.invWaiting = s.mem.invWaiting := by obtain ⟨_, _, _, h⟩ := s.syncRecord_shape ; rw [h]
@[simp] theorem State.syncRecord_exp (s : State) : (s.syncRecord).exp = s.exp := by obtain ⟨_, _, _, h⟩ := s.syncRecord_shape ; rw [h]
@[simp] theorem State.syncRecord_flt (s : State) : (s.syncRecord).flt = s.flt := by obtain ⟨_, _, _, h⟩ := s.syncRecord_shape ; rw [h]
@[simp] theorem State.syncRecord_pwr (s : State) : (s.syncRecord).pwr = s.pwr := by obtain ⟨_, _, _, h⟩ := s.syncRecord_shape ; rw [h]
@[simp] theorem State.syncRecord_freeCtr (s : State) : (s.syncRecord).freeCtr = s.freeCtr := by obtain ⟨_, _, _, h⟩ := s.syncRecord_shape ; rw [h]
@[simp] theorem State.syncRecord_pending (s : State) : (s.syncRecord).pending = s.pending := by obtain ⟨_, _, _, h⟩ := s.syncRecord_shape ; rw [h]

/-! ### trace -/

@[simp] theorem State.trace_straps (s : State) (h : Nat) (recs : List (List Byte)) : (s.trace h recs).straps = s.straps := by obtain ⟨_, _, _, h⟩ := s.trace_shape h recs; rw [h]
@[simp] theorem State.trace_fuses (s : State) (h : Nat) (recs : List (List Byte)) : (s.trace h recs).fuses = s.fuses := by obtain ⟨_, _, _, h⟩ := s.trace_shape h recs; rw [h]
@[simp] theorem State.trace_boot (s : State) (h : Nat) (recs : List (List Byte)) : (s.trace h recs).boot = s.boot := by obtain ⟨_, _, _, h⟩ := s.trace_shape h recs; rw [h]
@[simp] theorem State.trace_cat (s : State) (h : Nat) (recs : List (List Byte)) : (s.trace h recs).cat = s.cat := by obtain ⟨_, _, _, h⟩ := s.trace_shape h recs; rw [h]
@[simp] theorem State.trace_set (s : State) (h : Nat) (recs : List (List Byte)) : (s.trace h recs).set = s.set := by obtain ⟨_, _, _, h⟩ := s.trace_shape h recs; rw [h]
@[simp] theorem State.trace_ctxs (s : State) (h : Nat) (recs : List (List Byte)) : (s.trace h recs).ctxs = s.ctxs := by obtain ⟨_, _, _, h⟩ := s.trace_shape h recs; rw [h]
@[simp] theorem State.trace_rings (s : State) (h : Nat) (recs : List (List Byte)) : (s.trace h recs).rings = s.rings := by obtain ⟨_, _, _, h⟩ := s.trace_shape h recs; rw [h]
@[simp] theorem State.trace_dv (s : State) (h : Nat) (recs : List (List Byte)) : (s.trace h recs).dv = s.dv := by obtain ⟨_, _, _, h⟩ := s.trace_shape h recs; rw [h]
@[simp] theorem State.trace_stands (s : State) (h : Nat) (recs : List (List Byte)) : (s.trace h recs).stands = s.stands := by obtain ⟨_, _, _, h⟩ := s.trace_shape h recs; rw [h]
@[simp] theorem State.trace_cores (s : State) (h : Nat) (recs : List (List Byte)) : (s.trace h recs).cores = s.cores := by obtain ⟨_, _, _, h⟩ := s.trace_shape h recs; rw [h]
@[simp] theorem State.trace_fab (s : State) (h : Nat) (recs : List (List Byte)) : (s.trace h recs).fab = s.fab := by obtain ⟨_, _, _, h⟩ := s.trace_shape h recs; rw [h]
@[simp] theorem State.trace_ecl (s : State) (h : Nat) (recs : List (List Byte)) : (s.trace h recs).ecl = s.ecl := by obtain ⟨_, _, _, h⟩ := s.trace_shape h recs; rw [h]
@[simp] theorem State.trace_clock (s : State) (h : Nat) (recs : List (List Byte)) : (s.trace h recs).clock = s.clock := by obtain ⟨_, _, _, h⟩ := s.trace_shape h recs; rw [h]
@[simp] theorem State.trace_mem_ports (s : State) (h : Nat) (recs : List (List Byte)) : (s.trace h recs).mem.ports = s.mem.ports := by obtain ⟨_, _, _, h⟩ := s.trace_shape h recs; rw [h]
@[simp] theorem State.trace_mem_tables (s : State) (h : Nat) (recs : List (List Byte)) : (s.trace h recs).mem.tables = s.mem.tables := by obtain ⟨_, _, _, h⟩ := s.trace_shape h recs; rw [h]
@[simp] theorem State.trace_mem_regions (s : State) (h : Nat) (recs : List (List Byte)) : (s.trace h recs).mem.regions = s.mem.regions := by obtain ⟨_, _, _, h⟩ := s.trace_shape h recs; rw [h]
@[simp] theorem State.trace_mem_gathers (s : State) (h : Nat) (recs : List (List Byte)) : (s.trace h recs).mem.gathers = s.mem.gathers := by obtain ⟨_, _, _, h⟩ := s.trace_shape h recs; rw [h]
@[simp] theorem State.trace_mem_xlat (s : State) (h : Nat) (recs : List (List Byte)) : (s.trace h recs).mem.xlat = s.mem.xlat := by obtain ⟨_, _, _, h⟩ := s.trace_shape h recs; rw [h]
@[simp] theorem State.trace_mem_pinned (s : State) (h : Nat) (recs : List (List Byte)) : (s.trace h recs).mem.pinned = s.mem.pinned := by obtain ⟨_, _, _, h⟩ := s.trace_shape h recs; rw [h]
@[simp] theorem State.trace_mem_requests (s : State) (h : Nat) (recs : List (List Byte)) : (s.trace h recs).mem.requests = s.mem.requests := by obtain ⟨_, _, _, h⟩ := s.trace_shape h recs; rw [h]
@[simp] theorem State.trace_mem_nextTag (s : State) (h : Nat) (recs : List (List Byte)) : (s.trace h recs).mem.nextTag = s.mem.nextTag := by obtain ⟨_, _, _, h⟩ := s.trace_shape h recs; rw [h]
@[simp] theorem State.trace_mem_records (s : State) (h : Nat) (recs : List (List Byte)) : (s.trace h recs).mem.records = s.mem.records := by obtain ⟨_, _, _, h⟩ := s.trace_shape h recs; rw [h]
@[simp] theorem State.trace_mem_pageRequests (s : State) (h : Nat) (recs : List (List Byte)) : (s.trace h recs).mem.pageRequests = s.mem.pageRequests := by obtain ⟨_, _, _, h⟩ := s.trace_shape h recs; rw [h]
@[simp] theorem State.trace_mem_readData (s : State) (h : Nat) (recs : List (List Byte)) : (s.trace h recs).mem.readData = s.mem.readData := by obtain ⟨_, _, _, h⟩ := s.trace_shape h recs; rw [h]
@[simp] theorem State.trace_mem_pageWaiters (s : State) (h : Nat) (recs : List (List Byte)) : (s.trace h recs).mem.pageWaiters = s.mem.pageWaiters := by obtain ⟨_, _, _, h⟩ := s.trace_shape h recs; rw [h]
@[simp] theorem State.trace_mem_xltWaiting (s : State) (h : Nat) (recs : List (List Byte)) : (s.trace h recs).mem.xltWaiting = s.mem.xltWaiting := by obtain ⟨_, _, _, h⟩ := s.trace_shape h recs; rw [h]
@[simp] theorem State.trace_mem_partials (s : State) (h : Nat) (recs : List (List Byte)) : (s.trace h recs).mem.partials = s.mem.partials := by obtain ⟨_, _, _, h⟩ := s.trace_shape h recs; rw [h]
@[simp] theorem State.trace_mem_invWaiting (s : State) (h : Nat) (recs : List (List Byte)) : (s.trace h recs).mem.invWaiting = s.mem.invWaiting := by obtain ⟨_, _, _, h⟩ := s.trace_shape h recs; rw [h]
@[simp] theorem State.trace_exp (s : State) (h : Nat) (recs : List (List Byte)) : (s.trace h recs).exp = s.exp := by obtain ⟨_, _, _, h⟩ := s.trace_shape h recs; rw [h]
@[simp] theorem State.trace_flt (s : State) (h : Nat) (recs : List (List Byte)) : (s.trace h recs).flt = s.flt := by obtain ⟨_, _, _, h⟩ := s.trace_shape h recs; rw [h]
@[simp] theorem State.trace_pwr (s : State) (h : Nat) (recs : List (List Byte)) : (s.trace h recs).pwr = s.pwr := by obtain ⟨_, _, _, h⟩ := s.trace_shape h recs; rw [h]
@[simp] theorem State.trace_freeCtr (s : State) (h : Nat) (recs : List (List Byte)) : (s.trace h recs).freeCtr = s.freeCtr := by obtain ⟨_, _, _, h⟩ := s.trace_shape h recs; rw [h]
@[simp] theorem State.trace_pending (s : State) (h : Nat) (recs : List (List Byte)) : (s.trace h recs).pending = s.pending := by obtain ⟨_, _, _, h⟩ := s.trace_shape h recs; rw [h]
@[simp] theorem State.trace_now_eq (s : State) (h : Nat) (recs : List (List Byte)) : (s.trace h recs).now = s.now := by simp [State.now]
@[simp] theorem State.trace_core_eq (s : State) (h : Nat) (recs : List (List Byte)) (i : Nat) : (s.trace h recs).core i = s.core i := by simp [State.core]
@[simp] theorem State.trace_ring_eq (s : State) (h : Nat) (recs : List (List Byte)) (i : Nat) : (s.trace h recs).ring i = s.ring i := by simp [State.ring]
@[simp] theorem State.trace_node_eq (s : State) (h : Nat) (recs : List (List Byte)) (i : Nat) : (s.trace h recs).node i = s.node i := by simp [State.node]
@[simp] theorem State.trace_sector_eq (s : State) (h : Nat) (recs : List (List Byte)) (i : Nat) : (s.trace h recs).sector i = s.sector i := by simp [State.sector]
@[simp] theorem State.trace_comp_eq (s : State) (h : Nat) (recs : List (List Byte)) (i : Nat) : (s.trace h recs).comp i = s.comp i := by simp [State.comp]
@[simp] theorem State.trace_stand_eq (s : State) (h : Nat) (recs : List (List Byte)) (i : Nat) : (s.trace h recs).stand i = s.stand i := by simp [State.stand]
@[simp] theorem State.trace_ctx_eq (s : State) (h : Nat) (recs : List (List Byte)) (i : Nat) : (s.trace h recs).ctx i = s.ctx i := by simp [State.ctx]
@[simp] theorem State.trace_context_eq (s : State) (h : Nat) (recs : List (List Byte)) (i : Nat) : (s.trace h recs).context i = s.context i := by simp [State.context]
@[simp] theorem State.trace_port_eq (s : State) (h : Nat) (recs : List (List Byte)) (i : Nat) : (s.trace h recs).port i = s.port i := by simp [State.port]
@[simp] theorem State.trace_xport_eq (s : State) (h : Nat) (recs : List (List Byte)) (i : Nat) : (s.trace h recs).xport i = s.xport i := by simp [State.xport]
@[simp] theorem State.trace_layer_eq (s : State) (h : Nat) (recs : List (List Byte)) (i j : Nat) : (s.trace h recs).layer i j = s.layer i j := by simp [State.layer]
@[simp] theorem State.trace_engine_eq (s : State) (h : Nat) (recs : List (List Byte)) (i : Nat) : (s.trace h recs).engine i = s.engine i := by simp [State.engine]
@[simp] theorem State.trace_homeHalf_eq (s : State) (h : Nat) (recs : List (List Byte)) (i : Nat) : (s.trace h recs).homeHalf i = s.homeHalf i := by simp [State.homeHalf, State.ring]
@[simp] theorem State.trace_homeSector_eq (s : State) (h : Nat) (recs : List (List Byte)) (i : Nat) : (s.trace h recs).homeSector i = s.homeSector i := by simp [State.homeSector, State.ring]
@[simp] theorem State.trace_fenced_eq (s : State) (h : Nat) (recs : List (List Byte)) (i : Nat) : (s.trace h recs).fenced i = s.fenced i := by simp [State.fenced]
@[simp] theorem State.trace_ringsOf_eq (s : State) (h : Nat) (recs : List (List Byte)) (i : Nat) : (s.trace h recs).ringsOf i = s.ringsOf i := by simp [State.ringsOf]
@[simp] theorem State.trace_nodesOfRing_eq (s : State) (h : Nat) (recs : List (List Byte)) (i : Nat) : (s.trace h recs).nodesOfRing i = s.nodesOfRing i := by simp [State.nodesOfRing]
@[simp] theorem State.trace_nodesOfCtx_eq (s : State) (h : Nat) (recs : List (List Byte)) (i : Nat) : (s.trace h recs).nodesOfCtx i = s.nodesOfCtx i := by simp [State.nodesOfCtx]
@[simp] theorem State.trace_pasid_eq (s : State) (h : Nat) (recs : List (List Byte)) (i : Nat) : (s.trace h recs).pasid i = s.pasid i := by simp [State.pasid]

/-! ### trigger -/

@[simp] theorem State.trigger_straps (s : State) (cause cx detail : Nat) : (s.trigger cause cx detail).straps = s.straps := by obtain ⟨_, _, _, h⟩ := s.trigger_shape cause cx detail; rw [h]
@[simp] theorem State.trigger_fuses (s : State) (cause cx detail : Nat) : (s.trigger cause cx detail).fuses = s.fuses := by obtain ⟨_, _, _, h⟩ := s.trigger_shape cause cx detail; rw [h]
@[simp] theorem State.trigger_boot (s : State) (cause cx detail : Nat) : (s.trigger cause cx detail).boot = s.boot := by obtain ⟨_, _, _, h⟩ := s.trigger_shape cause cx detail; rw [h]
@[simp] theorem State.trigger_cat (s : State) (cause cx detail : Nat) : (s.trigger cause cx detail).cat = s.cat := by obtain ⟨_, _, _, h⟩ := s.trigger_shape cause cx detail; rw [h]
@[simp] theorem State.trigger_set (s : State) (cause cx detail : Nat) : (s.trigger cause cx detail).set = s.set := by obtain ⟨_, _, _, h⟩ := s.trigger_shape cause cx detail; rw [h]
@[simp] theorem State.trigger_ctxs (s : State) (cause cx detail : Nat) : (s.trigger cause cx detail).ctxs = s.ctxs := by obtain ⟨_, _, _, h⟩ := s.trigger_shape cause cx detail; rw [h]
@[simp] theorem State.trigger_rings (s : State) (cause cx detail : Nat) : (s.trigger cause cx detail).rings = s.rings := by obtain ⟨_, _, _, h⟩ := s.trigger_shape cause cx detail; rw [h]
@[simp] theorem State.trigger_dv (s : State) (cause cx detail : Nat) : (s.trigger cause cx detail).dv = s.dv := by obtain ⟨_, _, _, h⟩ := s.trigger_shape cause cx detail; rw [h]
@[simp] theorem State.trigger_stands (s : State) (cause cx detail : Nat) : (s.trigger cause cx detail).stands = s.stands := by obtain ⟨_, _, _, h⟩ := s.trigger_shape cause cx detail; rw [h]
@[simp] theorem State.trigger_cores (s : State) (cause cx detail : Nat) : (s.trigger cause cx detail).cores = s.cores := by obtain ⟨_, _, _, h⟩ := s.trigger_shape cause cx detail; rw [h]
@[simp] theorem State.trigger_fab (s : State) (cause cx detail : Nat) : (s.trigger cause cx detail).fab = s.fab := by obtain ⟨_, _, _, h⟩ := s.trigger_shape cause cx detail; rw [h]
@[simp] theorem State.trigger_ecl (s : State) (cause cx detail : Nat) : (s.trigger cause cx detail).ecl = s.ecl := by obtain ⟨_, _, _, h⟩ := s.trigger_shape cause cx detail; rw [h]
@[simp] theorem State.trigger_clock (s : State) (cause cx detail : Nat) : (s.trigger cause cx detail).clock = s.clock := by obtain ⟨_, _, _, h⟩ := s.trigger_shape cause cx detail; rw [h]
@[simp] theorem State.trigger_mem_ports (s : State) (cause cx detail : Nat) : (s.trigger cause cx detail).mem.ports = s.mem.ports := by obtain ⟨_, _, _, h⟩ := s.trigger_shape cause cx detail; rw [h]
@[simp] theorem State.trigger_mem_tables (s : State) (cause cx detail : Nat) : (s.trigger cause cx detail).mem.tables = s.mem.tables := by obtain ⟨_, _, _, h⟩ := s.trigger_shape cause cx detail; rw [h]
@[simp] theorem State.trigger_mem_regions (s : State) (cause cx detail : Nat) : (s.trigger cause cx detail).mem.regions = s.mem.regions := by obtain ⟨_, _, _, h⟩ := s.trigger_shape cause cx detail; rw [h]
@[simp] theorem State.trigger_mem_gathers (s : State) (cause cx detail : Nat) : (s.trigger cause cx detail).mem.gathers = s.mem.gathers := by obtain ⟨_, _, _, h⟩ := s.trigger_shape cause cx detail; rw [h]
@[simp] theorem State.trigger_mem_xlat (s : State) (cause cx detail : Nat) : (s.trigger cause cx detail).mem.xlat = s.mem.xlat := by obtain ⟨_, _, _, h⟩ := s.trigger_shape cause cx detail; rw [h]
@[simp] theorem State.trigger_mem_pinned (s : State) (cause cx detail : Nat) : (s.trigger cause cx detail).mem.pinned = s.mem.pinned := by obtain ⟨_, _, _, h⟩ := s.trigger_shape cause cx detail; rw [h]
@[simp] theorem State.trigger_mem_requests (s : State) (cause cx detail : Nat) : (s.trigger cause cx detail).mem.requests = s.mem.requests := by obtain ⟨_, _, _, h⟩ := s.trigger_shape cause cx detail; rw [h]
@[simp] theorem State.trigger_mem_nextTag (s : State) (cause cx detail : Nat) : (s.trigger cause cx detail).mem.nextTag = s.mem.nextTag := by obtain ⟨_, _, _, h⟩ := s.trigger_shape cause cx detail; rw [h]
@[simp] theorem State.trigger_mem_records (s : State) (cause cx detail : Nat) : (s.trigger cause cx detail).mem.records = s.mem.records := by obtain ⟨_, _, _, h⟩ := s.trigger_shape cause cx detail; rw [h]
@[simp] theorem State.trigger_mem_pageRequests (s : State) (cause cx detail : Nat) : (s.trigger cause cx detail).mem.pageRequests = s.mem.pageRequests := by obtain ⟨_, _, _, h⟩ := s.trigger_shape cause cx detail; rw [h]
@[simp] theorem State.trigger_mem_readData (s : State) (cause cx detail : Nat) : (s.trigger cause cx detail).mem.readData = s.mem.readData := by obtain ⟨_, _, _, h⟩ := s.trigger_shape cause cx detail; rw [h]
@[simp] theorem State.trigger_mem_pageWaiters (s : State) (cause cx detail : Nat) : (s.trigger cause cx detail).mem.pageWaiters = s.mem.pageWaiters := by obtain ⟨_, _, _, h⟩ := s.trigger_shape cause cx detail; rw [h]
@[simp] theorem State.trigger_mem_xltWaiting (s : State) (cause cx detail : Nat) : (s.trigger cause cx detail).mem.xltWaiting = s.mem.xltWaiting := by obtain ⟨_, _, _, h⟩ := s.trigger_shape cause cx detail; rw [h]
@[simp] theorem State.trigger_mem_partials (s : State) (cause cx detail : Nat) : (s.trigger cause cx detail).mem.partials = s.mem.partials := by obtain ⟨_, _, _, h⟩ := s.trigger_shape cause cx detail; rw [h]
@[simp] theorem State.trigger_mem_invWaiting (s : State) (cause cx detail : Nat) : (s.trigger cause cx detail).mem.invWaiting = s.mem.invWaiting := by obtain ⟨_, _, _, h⟩ := s.trigger_shape cause cx detail; rw [h]
@[simp] theorem State.trigger_exp (s : State) (cause cx detail : Nat) : (s.trigger cause cx detail).exp = s.exp := by obtain ⟨_, _, _, h⟩ := s.trigger_shape cause cx detail; rw [h]
@[simp] theorem State.trigger_flt (s : State) (cause cx detail : Nat) : (s.trigger cause cx detail).flt = s.flt := by obtain ⟨_, _, _, h⟩ := s.trigger_shape cause cx detail; rw [h]
@[simp] theorem State.trigger_pwr (s : State) (cause cx detail : Nat) : (s.trigger cause cx detail).pwr = s.pwr := by obtain ⟨_, _, _, h⟩ := s.trigger_shape cause cx detail; rw [h]
@[simp] theorem State.trigger_freeCtr (s : State) (cause cx detail : Nat) : (s.trigger cause cx detail).freeCtr = s.freeCtr := by obtain ⟨_, _, _, h⟩ := s.trigger_shape cause cx detail; rw [h]
@[simp] theorem State.trigger_pending (s : State) (cause cx detail : Nat) : (s.trigger cause cx detail).pending = s.pending := by obtain ⟨_, _, _, h⟩ := s.trigger_shape cause cx detail; rw [h]
@[simp] theorem State.trigger_now_eq (s : State) (cause cx detail : Nat) : (s.trigger cause cx detail).now = s.now := by simp [State.now]
@[simp] theorem State.trigger_core_eq (s : State) (cause cx detail : Nat) (i : Nat) : (s.trigger cause cx detail).core i = s.core i := by simp [State.core]
@[simp] theorem State.trigger_ring_eq (s : State) (cause cx detail : Nat) (i : Nat) : (s.trigger cause cx detail).ring i = s.ring i := by simp [State.ring]
@[simp] theorem State.trigger_node_eq (s : State) (cause cx detail : Nat) (i : Nat) : (s.trigger cause cx detail).node i = s.node i := by simp [State.node]
@[simp] theorem State.trigger_sector_eq (s : State) (cause cx detail : Nat) (i : Nat) : (s.trigger cause cx detail).sector i = s.sector i := by simp [State.sector]
@[simp] theorem State.trigger_comp_eq (s : State) (cause cx detail : Nat) (i : Nat) : (s.trigger cause cx detail).comp i = s.comp i := by simp [State.comp]
@[simp] theorem State.trigger_stand_eq (s : State) (cause cx detail : Nat) (i : Nat) : (s.trigger cause cx detail).stand i = s.stand i := by simp [State.stand]
@[simp] theorem State.trigger_ctx_eq (s : State) (cause cx detail : Nat) (i : Nat) : (s.trigger cause cx detail).ctx i = s.ctx i := by simp [State.ctx]
@[simp] theorem State.trigger_context_eq (s : State) (cause cx detail : Nat) (i : Nat) : (s.trigger cause cx detail).context i = s.context i := by simp [State.context]
@[simp] theorem State.trigger_port_eq (s : State) (cause cx detail : Nat) (i : Nat) : (s.trigger cause cx detail).port i = s.port i := by simp [State.port]
@[simp] theorem State.trigger_xport_eq (s : State) (cause cx detail : Nat) (i : Nat) : (s.trigger cause cx detail).xport i = s.xport i := by simp [State.xport]
@[simp] theorem State.trigger_layer_eq (s : State) (cause cx detail : Nat) (i j : Nat) : (s.trigger cause cx detail).layer i j = s.layer i j := by simp [State.layer]
@[simp] theorem State.trigger_engine_eq (s : State) (cause cx detail : Nat) (i : Nat) : (s.trigger cause cx detail).engine i = s.engine i := by simp [State.engine]
@[simp] theorem State.trigger_homeHalf_eq (s : State) (cause cx detail : Nat) (i : Nat) : (s.trigger cause cx detail).homeHalf i = s.homeHalf i := by simp [State.homeHalf, State.ring]
@[simp] theorem State.trigger_homeSector_eq (s : State) (cause cx detail : Nat) (i : Nat) : (s.trigger cause cx detail).homeSector i = s.homeSector i := by simp [State.homeSector, State.ring]
@[simp] theorem State.trigger_fenced_eq (s : State) (cause cx detail : Nat) (i : Nat) : (s.trigger cause cx detail).fenced i = s.fenced i := by simp [State.fenced]
@[simp] theorem State.trigger_ringsOf_eq (s : State) (cause cx detail : Nat) (i : Nat) : (s.trigger cause cx detail).ringsOf i = s.ringsOf i := by simp [State.ringsOf]
@[simp] theorem State.trigger_nodesOfRing_eq (s : State) (cause cx detail : Nat) (i : Nat) : (s.trigger cause cx detail).nodesOfRing i = s.nodesOfRing i := by simp [State.nodesOfRing]
@[simp] theorem State.trigger_nodesOfCtx_eq (s : State) (cause cx detail : Nat) (i : Nat) : (s.trigger cause cx detail).nodesOfCtx i = s.nodesOfCtx i := by simp [State.nodesOfCtx]
@[simp] theorem State.trigger_pasid_eq (s : State) (cause cx detail : Nat) (i : Nat) : (s.trigger cause cx detail).pasid i = s.pasid i := by simp [State.pasid]

/-! ### markPair -/

@[simp] theorem State.markPair_straps (s : State) (half kind source cx id src value : Nat) : (s.markPair half kind source cx id src value).straps = s.straps := by obtain ⟨_, _, _, h⟩ := s.markPair_shape half kind source cx id src value; rw [h]
@[simp] theorem State.markPair_fuses (s : State) (half kind source cx id src value : Nat) : (s.markPair half kind source cx id src value).fuses = s.fuses := by obtain ⟨_, _, _, h⟩ := s.markPair_shape half kind source cx id src value; rw [h]
@[simp] theorem State.markPair_boot (s : State) (half kind source cx id src value : Nat) : (s.markPair half kind source cx id src value).boot = s.boot := by obtain ⟨_, _, _, h⟩ := s.markPair_shape half kind source cx id src value; rw [h]
@[simp] theorem State.markPair_cat (s : State) (half kind source cx id src value : Nat) : (s.markPair half kind source cx id src value).cat = s.cat := by obtain ⟨_, _, _, h⟩ := s.markPair_shape half kind source cx id src value; rw [h]
@[simp] theorem State.markPair_set (s : State) (half kind source cx id src value : Nat) : (s.markPair half kind source cx id src value).set = s.set := by obtain ⟨_, _, _, h⟩ := s.markPair_shape half kind source cx id src value; rw [h]
@[simp] theorem State.markPair_ctxs (s : State) (half kind source cx id src value : Nat) : (s.markPair half kind source cx id src value).ctxs = s.ctxs := by obtain ⟨_, _, _, h⟩ := s.markPair_shape half kind source cx id src value; rw [h]
@[simp] theorem State.markPair_rings (s : State) (half kind source cx id src value : Nat) : (s.markPair half kind source cx id src value).rings = s.rings := by obtain ⟨_, _, _, h⟩ := s.markPair_shape half kind source cx id src value; rw [h]
@[simp] theorem State.markPair_dv (s : State) (half kind source cx id src value : Nat) : (s.markPair half kind source cx id src value).dv = s.dv := by obtain ⟨_, _, _, h⟩ := s.markPair_shape half kind source cx id src value; rw [h]
@[simp] theorem State.markPair_stands (s : State) (half kind source cx id src value : Nat) : (s.markPair half kind source cx id src value).stands = s.stands := by obtain ⟨_, _, _, h⟩ := s.markPair_shape half kind source cx id src value; rw [h]
@[simp] theorem State.markPair_cores (s : State) (half kind source cx id src value : Nat) : (s.markPair half kind source cx id src value).cores = s.cores := by obtain ⟨_, _, _, h⟩ := s.markPair_shape half kind source cx id src value; rw [h]
@[simp] theorem State.markPair_fab (s : State) (half kind source cx id src value : Nat) : (s.markPair half kind source cx id src value).fab = s.fab := by obtain ⟨_, _, _, h⟩ := s.markPair_shape half kind source cx id src value; rw [h]
@[simp] theorem State.markPair_ecl (s : State) (half kind source cx id src value : Nat) : (s.markPair half kind source cx id src value).ecl = s.ecl := by obtain ⟨_, _, _, h⟩ := s.markPair_shape half kind source cx id src value; rw [h]
@[simp] theorem State.markPair_clock (s : State) (half kind source cx id src value : Nat) : (s.markPair half kind source cx id src value).clock = s.clock := by obtain ⟨_, _, _, h⟩ := s.markPair_shape half kind source cx id src value; rw [h]
@[simp] theorem State.markPair_mem_ports (s : State) (half kind source cx id src value : Nat) : (s.markPair half kind source cx id src value).mem.ports = s.mem.ports := by obtain ⟨_, _, _, h⟩ := s.markPair_shape half kind source cx id src value; rw [h]
@[simp] theorem State.markPair_mem_tables (s : State) (half kind source cx id src value : Nat) : (s.markPair half kind source cx id src value).mem.tables = s.mem.tables := by obtain ⟨_, _, _, h⟩ := s.markPair_shape half kind source cx id src value; rw [h]
@[simp] theorem State.markPair_mem_regions (s : State) (half kind source cx id src value : Nat) : (s.markPair half kind source cx id src value).mem.regions = s.mem.regions := by obtain ⟨_, _, _, h⟩ := s.markPair_shape half kind source cx id src value; rw [h]
@[simp] theorem State.markPair_mem_gathers (s : State) (half kind source cx id src value : Nat) : (s.markPair half kind source cx id src value).mem.gathers = s.mem.gathers := by obtain ⟨_, _, _, h⟩ := s.markPair_shape half kind source cx id src value; rw [h]
@[simp] theorem State.markPair_mem_xlat (s : State) (half kind source cx id src value : Nat) : (s.markPair half kind source cx id src value).mem.xlat = s.mem.xlat := by obtain ⟨_, _, _, h⟩ := s.markPair_shape half kind source cx id src value; rw [h]
@[simp] theorem State.markPair_mem_pinned (s : State) (half kind source cx id src value : Nat) : (s.markPair half kind source cx id src value).mem.pinned = s.mem.pinned := by obtain ⟨_, _, _, h⟩ := s.markPair_shape half kind source cx id src value; rw [h]
@[simp] theorem State.markPair_mem_requests (s : State) (half kind source cx id src value : Nat) : (s.markPair half kind source cx id src value).mem.requests = s.mem.requests := by obtain ⟨_, _, _, h⟩ := s.markPair_shape half kind source cx id src value; rw [h]
@[simp] theorem State.markPair_mem_nextTag (s : State) (half kind source cx id src value : Nat) : (s.markPair half kind source cx id src value).mem.nextTag = s.mem.nextTag := by obtain ⟨_, _, _, h⟩ := s.markPair_shape half kind source cx id src value; rw [h]
@[simp] theorem State.markPair_mem_records (s : State) (half kind source cx id src value : Nat) : (s.markPair half kind source cx id src value).mem.records = s.mem.records := by obtain ⟨_, _, _, h⟩ := s.markPair_shape half kind source cx id src value; rw [h]
@[simp] theorem State.markPair_mem_pageRequests (s : State) (half kind source cx id src value : Nat) : (s.markPair half kind source cx id src value).mem.pageRequests = s.mem.pageRequests := by obtain ⟨_, _, _, h⟩ := s.markPair_shape half kind source cx id src value; rw [h]
@[simp] theorem State.markPair_mem_readData (s : State) (half kind source cx id src value : Nat) : (s.markPair half kind source cx id src value).mem.readData = s.mem.readData := by obtain ⟨_, _, _, h⟩ := s.markPair_shape half kind source cx id src value; rw [h]
@[simp] theorem State.markPair_mem_pageWaiters (s : State) (half kind source cx id src value : Nat) : (s.markPair half kind source cx id src value).mem.pageWaiters = s.mem.pageWaiters := by obtain ⟨_, _, _, h⟩ := s.markPair_shape half kind source cx id src value; rw [h]
@[simp] theorem State.markPair_mem_xltWaiting (s : State) (half kind source cx id src value : Nat) : (s.markPair half kind source cx id src value).mem.xltWaiting = s.mem.xltWaiting := by obtain ⟨_, _, _, h⟩ := s.markPair_shape half kind source cx id src value; rw [h]
@[simp] theorem State.markPair_mem_partials (s : State) (half kind source cx id src value : Nat) : (s.markPair half kind source cx id src value).mem.partials = s.mem.partials := by obtain ⟨_, _, _, h⟩ := s.markPair_shape half kind source cx id src value; rw [h]
@[simp] theorem State.markPair_mem_invWaiting (s : State) (half kind source cx id src value : Nat) : (s.markPair half kind source cx id src value).mem.invWaiting = s.mem.invWaiting := by obtain ⟨_, _, _, h⟩ := s.markPair_shape half kind source cx id src value; rw [h]
@[simp] theorem State.markPair_exp (s : State) (half kind source cx id src value : Nat) : (s.markPair half kind source cx id src value).exp = s.exp := by obtain ⟨_, _, _, h⟩ := s.markPair_shape half kind source cx id src value; rw [h]
@[simp] theorem State.markPair_flt (s : State) (half kind source cx id src value : Nat) : (s.markPair half kind source cx id src value).flt = s.flt := by obtain ⟨_, _, _, h⟩ := s.markPair_shape half kind source cx id src value; rw [h]
@[simp] theorem State.markPair_pwr (s : State) (half kind source cx id src value : Nat) : (s.markPair half kind source cx id src value).pwr = s.pwr := by obtain ⟨_, _, _, h⟩ := s.markPair_shape half kind source cx id src value; rw [h]
@[simp] theorem State.markPair_freeCtr (s : State) (half kind source cx id src value : Nat) : (s.markPair half kind source cx id src value).freeCtr = s.freeCtr := by obtain ⟨_, _, _, h⟩ := s.markPair_shape half kind source cx id src value; rw [h]
@[simp] theorem State.markPair_pending (s : State) (half kind source cx id src value : Nat) : (s.markPair half kind source cx id src value).pending = s.pending := by obtain ⟨_, _, _, h⟩ := s.markPair_shape half kind source cx id src value; rw [h]
@[simp] theorem State.markPair_now_eq (s : State) (half kind source cx id src value : Nat) : (s.markPair half kind source cx id src value).now = s.now := by simp [State.now]
@[simp] theorem State.markPair_core_eq (s : State) (half kind source cx id src value : Nat) (i : Nat) : (s.markPair half kind source cx id src value).core i = s.core i := by simp [State.core]
@[simp] theorem State.markPair_ring_eq (s : State) (half kind source cx id src value : Nat) (i : Nat) : (s.markPair half kind source cx id src value).ring i = s.ring i := by simp [State.ring]
@[simp] theorem State.markPair_node_eq (s : State) (half kind source cx id src value : Nat) (i : Nat) : (s.markPair half kind source cx id src value).node i = s.node i := by simp [State.node]
@[simp] theorem State.markPair_sector_eq (s : State) (half kind source cx id src value : Nat) (i : Nat) : (s.markPair half kind source cx id src value).sector i = s.sector i := by simp [State.sector]
@[simp] theorem State.markPair_comp_eq (s : State) (half kind source cx id src value : Nat) (i : Nat) : (s.markPair half kind source cx id src value).comp i = s.comp i := by simp [State.comp]
@[simp] theorem State.markPair_stand_eq (s : State) (half kind source cx id src value : Nat) (i : Nat) : (s.markPair half kind source cx id src value).stand i = s.stand i := by simp [State.stand]
@[simp] theorem State.markPair_ctx_eq (s : State) (half kind source cx id src value : Nat) (i : Nat) : (s.markPair half kind source cx id src value).ctx i = s.ctx i := by simp [State.ctx]
@[simp] theorem State.markPair_context_eq (s : State) (half kind source cx id src value : Nat) (i : Nat) : (s.markPair half kind source cx id src value).context i = s.context i := by simp [State.context]
@[simp] theorem State.markPair_port_eq (s : State) (half kind source cx id src value : Nat) (i : Nat) : (s.markPair half kind source cx id src value).port i = s.port i := by simp [State.port]
@[simp] theorem State.markPair_xport_eq (s : State) (half kind source cx id src value : Nat) (i : Nat) : (s.markPair half kind source cx id src value).xport i = s.xport i := by simp [State.xport]
@[simp] theorem State.markPair_layer_eq (s : State) (half kind source cx id src value : Nat) (i j : Nat) : (s.markPair half kind source cx id src value).layer i j = s.layer i j := by simp [State.layer]
@[simp] theorem State.markPair_engine_eq (s : State) (half kind source cx id src value : Nat) (i : Nat) : (s.markPair half kind source cx id src value).engine i = s.engine i := by simp [State.engine]
@[simp] theorem State.markPair_homeHalf_eq (s : State) (half kind source cx id src value : Nat) (i : Nat) : (s.markPair half kind source cx id src value).homeHalf i = s.homeHalf i := by simp [State.homeHalf, State.ring]
@[simp] theorem State.markPair_homeSector_eq (s : State) (half kind source cx id src value : Nat) (i : Nat) : (s.markPair half kind source cx id src value).homeSector i = s.homeSector i := by simp [State.homeSector, State.ring]
@[simp] theorem State.markPair_fenced_eq (s : State) (half kind source cx id src value : Nat) (i : Nat) : (s.markPair half kind source cx id src value).fenced i = s.fenced i := by simp [State.fenced]
@[simp] theorem State.markPair_ringsOf_eq (s : State) (half kind source cx id src value : Nat) (i : Nat) : (s.markPair half kind source cx id src value).ringsOf i = s.ringsOf i := by simp [State.ringsOf]
@[simp] theorem State.markPair_nodesOfRing_eq (s : State) (half kind source cx id src value : Nat) (i : Nat) : (s.markPair half kind source cx id src value).nodesOfRing i = s.nodesOfRing i := by simp [State.nodesOfRing]
@[simp] theorem State.markPair_nodesOfCtx_eq (s : State) (half kind source cx id src value : Nat) (i : Nat) : (s.markPair half kind source cx id src value).nodesOfCtx i = s.nodesOfCtx i := by simp [State.nodesOfCtx]
@[simp] theorem State.markPair_pasid_eq (s : State) (half kind source cx id src value : Nat) (i : Nat) : (s.markPair half kind source cx id src value).pasid i = s.pasid i := by simp [State.pasid]

/-! ### blockFlag -/

@[simp] theorem State.blockFlag_straps (s : State) (b : BlockFlag) : (s.blockFlag b).straps = s.straps := by cases b <;> (simp only [State.blockFlag]; split <;> simp)
@[simp] theorem State.blockFlag_fuses (s : State) (b : BlockFlag) : (s.blockFlag b).fuses = s.fuses := by cases b <;> (simp only [State.blockFlag]; split <;> simp)
@[simp] theorem State.blockFlag_boot (s : State) (b : BlockFlag) : (s.blockFlag b).boot = s.boot := by cases b <;> (simp only [State.blockFlag]; split <;> simp)
@[simp] theorem State.blockFlag_cat (s : State) (b : BlockFlag) : (s.blockFlag b).cat = s.cat := by cases b <;> (simp only [State.blockFlag]; split <;> simp)
@[simp] theorem State.blockFlag_set (s : State) (b : BlockFlag) : (s.blockFlag b).set = s.set := by cases b <;> (simp only [State.blockFlag]; split <;> simp)
@[simp] theorem State.blockFlag_ctxs (s : State) (b : BlockFlag) : (s.blockFlag b).ctxs = s.ctxs := by cases b <;> (simp only [State.blockFlag]; split <;> simp)
@[simp] theorem State.blockFlag_rings (s : State) (b : BlockFlag) : (s.blockFlag b).rings = s.rings := by cases b <;> (simp only [State.blockFlag]; split <;> simp)
@[simp] theorem State.blockFlag_dv (s : State) (b : BlockFlag) : (s.blockFlag b).dv = s.dv := by cases b <;> (simp only [State.blockFlag]; split <;> simp)
@[simp] theorem State.blockFlag_stands (s : State) (b : BlockFlag) : (s.blockFlag b).stands = s.stands := by cases b <;> (simp only [State.blockFlag]; split <;> simp)
@[simp] theorem State.blockFlag_cores (s : State) (b : BlockFlag) : (s.blockFlag b).cores = s.cores := by cases b <;> (simp only [State.blockFlag]; split <;> simp)
@[simp] theorem State.blockFlag_fab (s : State) (b : BlockFlag) : (s.blockFlag b).fab = s.fab := by cases b <;> (simp only [State.blockFlag]; split <;> simp)
@[simp] theorem State.blockFlag_ecl (s : State) (b : BlockFlag) : (s.blockFlag b).ecl = s.ecl := by cases b <;> (simp only [State.blockFlag]; split <;> simp)
@[simp] theorem State.blockFlag_clock (s : State) (b : BlockFlag) : (s.blockFlag b).clock = s.clock := by cases b <;> (simp only [State.blockFlag]; split <;> simp)
@[simp] theorem State.blockFlag_mem (s : State) (b : BlockFlag) : (s.blockFlag b).mem = s.mem := by cases b <;> (simp only [State.blockFlag]; split <;> simp)
@[simp] theorem State.blockFlag_exp (s : State) (b : BlockFlag) : (s.blockFlag b).exp = s.exp := by cases b <;> (simp only [State.blockFlag]; split <;> simp)
@[simp] theorem State.blockFlag_dbg_gcFreeze (s : State) (b : BlockFlag) : (s.blockFlag b).dbg.gcFreeze = s.dbg.gcFreeze := by cases b <;> (simp only [State.blockFlag]; split <;> simp)
@[simp] theorem State.blockFlag_dbg_gcSelect (s : State) (b : BlockFlag) : (s.blockFlag b).dbg.gcSelect = s.dbg.gcSelect := by cases b <;> (simp only [State.blockFlag]; split <;> simp)
@[simp] theorem State.blockFlag_dbg_eventFreeze (s : State) (b : BlockFlag) : (s.blockFlag b).dbg.eventFreeze = s.dbg.eventFreeze := by cases b <;> (simp only [State.blockFlag]; split <;> simp)
@[simp] theorem State.blockFlag_dbg_traceEnable (s : State) (b : BlockFlag) : (s.blockFlag b).dbg.traceEnable = s.dbg.traceEnable := by cases b <;> (simp only [State.blockFlag]; split <;> simp)
@[simp] theorem State.blockFlag_dbg_halted (s : State) (b : BlockFlag) : (s.blockFlag b).dbg.halted = s.dbg.halted := by cases b <;> (simp only [State.blockFlag]; split <;> simp)
@[simp] theorem State.blockFlag_pwr (s : State) (b : BlockFlag) : (s.blockFlag b).pwr = s.pwr := by cases b <;> (simp only [State.blockFlag]; split <;> simp)
@[simp] theorem State.blockFlag_freeCtr (s : State) (b : BlockFlag) : (s.blockFlag b).freeCtr = s.freeCtr := by cases b <;> (simp only [State.blockFlag]; split <;> simp)
@[simp] theorem State.blockFlag_pending (s : State) (b : BlockFlag) : (s.blockFlag b).pending = s.pending := by cases b <;> (simp only [State.blockFlag]; split <;> simp)
@[simp] theorem State.blockFlag_now_eq (s : State) (b : BlockFlag) : (s.blockFlag b).now = s.now := by simp [State.now]
@[simp] theorem State.blockFlag_core_eq (s : State) (b : BlockFlag) (i : Nat) : (s.blockFlag b).core i = s.core i := by simp [State.core]
@[simp] theorem State.blockFlag_ring_eq (s : State) (b : BlockFlag) (i : Nat) : (s.blockFlag b).ring i = s.ring i := by simp [State.ring]
@[simp] theorem State.blockFlag_node_eq (s : State) (b : BlockFlag) (i : Nat) : (s.blockFlag b).node i = s.node i := by simp [State.node]
@[simp] theorem State.blockFlag_sector_eq (s : State) (b : BlockFlag) (i : Nat) : (s.blockFlag b).sector i = s.sector i := by simp [State.sector]
@[simp] theorem State.blockFlag_comp_eq (s : State) (b : BlockFlag) (i : Nat) : (s.blockFlag b).comp i = s.comp i := by simp [State.comp]
@[simp] theorem State.blockFlag_stand_eq (s : State) (b : BlockFlag) (i : Nat) : (s.blockFlag b).stand i = s.stand i := by simp [State.stand]
@[simp] theorem State.blockFlag_ctx_eq (s : State) (b : BlockFlag) (i : Nat) : (s.blockFlag b).ctx i = s.ctx i := by simp [State.ctx]
@[simp] theorem State.blockFlag_context_eq (s : State) (b : BlockFlag) (i : Nat) : (s.blockFlag b).context i = s.context i := by simp [State.context]
@[simp] theorem State.blockFlag_port_eq (s : State) (b : BlockFlag) (i : Nat) : (s.blockFlag b).port i = s.port i := by simp [State.port]
@[simp] theorem State.blockFlag_xport_eq (s : State) (b : BlockFlag) (i : Nat) : (s.blockFlag b).xport i = s.xport i := by simp [State.xport]
@[simp] theorem State.blockFlag_layer_eq (s : State) (b : BlockFlag) (i j : Nat) : (s.blockFlag b).layer i j = s.layer i j := by simp [State.layer]
@[simp] theorem State.blockFlag_engine_eq (s : State) (b : BlockFlag) (i : Nat) : (s.blockFlag b).engine i = s.engine i := by simp [State.engine]
@[simp] theorem State.blockFlag_homeHalf_eq (s : State) (b : BlockFlag) (i : Nat) : (s.blockFlag b).homeHalf i = s.homeHalf i := by simp [State.homeHalf, State.ring]
@[simp] theorem State.blockFlag_homeSector_eq (s : State) (b : BlockFlag) (i : Nat) : (s.blockFlag b).homeSector i = s.homeSector i := by simp [State.homeSector, State.ring]
@[simp] theorem State.blockFlag_fenced_eq (s : State) (b : BlockFlag) (i : Nat) : (s.blockFlag b).fenced i = s.fenced i := by simp [State.fenced]
@[simp] theorem State.blockFlag_ringsOf_eq (s : State) (b : BlockFlag) (i : Nat) : (s.blockFlag b).ringsOf i = s.ringsOf i := by simp [State.ringsOf]
@[simp] theorem State.blockFlag_nodesOfRing_eq (s : State) (b : BlockFlag) (i : Nat) : (s.blockFlag b).nodesOfRing i = s.nodesOfRing i := by simp [State.nodesOfRing]
@[simp] theorem State.blockFlag_nodesOfCtx_eq (s : State) (b : BlockFlag) (i : Nat) : (s.blockFlag b).nodesOfCtx i = s.nodesOfCtx i := by simp [State.nodesOfCtx]
@[simp] theorem State.blockFlag_dev_eq (s : State) (b : BlockFlag) (i j : Nat) : (s.blockFlag b).dev i j = s.dev i j := by simp [State.dev]
@[simp] theorem State.blockFlag_pasid_eq (s : State) (b : BlockFlag) (i : Nat) : (s.blockFlag b).pasid i = s.pasid i := by simp [State.pasid]
@[simp] theorem State.blockFlag_tracing_eq (s : State) (b : BlockFlag) : (s.blockFlag b).tracing = s.tracing := by simp [State.tracing]

/-! ### faultEvents -/

@[simp] theorem State.faultEvents_straps (s : State) (cls action location : Nat) : (s.faultEvents cls action location).straps = s.straps := by unfold State.faultEvents; split <;> (try split) <;> simp
@[simp] theorem State.faultEvents_fuses (s : State) (cls action location : Nat) : (s.faultEvents cls action location).fuses = s.fuses := by unfold State.faultEvents; split <;> (try split) <;> simp
@[simp] theorem State.faultEvents_boot (s : State) (cls action location : Nat) : (s.faultEvents cls action location).boot = s.boot := by unfold State.faultEvents; split <;> (try split) <;> simp
@[simp] theorem State.faultEvents_cat (s : State) (cls action location : Nat) : (s.faultEvents cls action location).cat = s.cat := by unfold State.faultEvents; split <;> (try split) <;> simp
@[simp] theorem State.faultEvents_set (s : State) (cls action location : Nat) : (s.faultEvents cls action location).set = s.set := by unfold State.faultEvents; split <;> (try split) <;> simp
@[simp] theorem State.faultEvents_ctxs (s : State) (cls action location : Nat) : (s.faultEvents cls action location).ctxs = s.ctxs := by unfold State.faultEvents; split <;> (try split) <;> simp
@[simp] theorem State.faultEvents_rings (s : State) (cls action location : Nat) : (s.faultEvents cls action location).rings = s.rings := by unfold State.faultEvents; split <;> (try split) <;> simp
@[simp] theorem State.faultEvents_dv (s : State) (cls action location : Nat) : (s.faultEvents cls action location).dv = s.dv := by unfold State.faultEvents; split <;> (try split) <;> simp
@[simp] theorem State.faultEvents_stands (s : State) (cls action location : Nat) : (s.faultEvents cls action location).stands = s.stands := by unfold State.faultEvents; split <;> (try split) <;> simp
@[simp] theorem State.faultEvents_cores (s : State) (cls action location : Nat) : (s.faultEvents cls action location).cores = s.cores := by unfold State.faultEvents; split <;> (try split) <;> simp
@[simp] theorem State.faultEvents_fab (s : State) (cls action location : Nat) : (s.faultEvents cls action location).fab = s.fab := by unfold State.faultEvents; split <;> (try split) <;> simp
@[simp] theorem State.faultEvents_ecl (s : State) (cls action location : Nat) : (s.faultEvents cls action location).ecl = s.ecl := by unfold State.faultEvents; split <;> (try split) <;> simp
@[simp] theorem State.faultEvents_clock (s : State) (cls action location : Nat) : (s.faultEvents cls action location).clock = s.clock := by unfold State.faultEvents; split <;> (try split) <;> simp
@[simp] theorem State.faultEvents_mem (s : State) (cls action location : Nat) : (s.faultEvents cls action location).mem = s.mem := by unfold State.faultEvents; split <;> (try split) <;> simp
@[simp] theorem State.faultEvents_exp (s : State) (cls action location : Nat) : (s.faultEvents cls action location).exp = s.exp := by unfold State.faultEvents; split <;> (try split) <;> simp
@[simp] theorem State.faultEvents_flt (s : State) (cls action location : Nat) : (s.faultEvents cls action location).flt = s.flt := by unfold State.faultEvents; split <;> (try split) <;> simp
@[simp] theorem State.faultEvents_dbg_gcFreeze (s : State) (cls action location : Nat) : (s.faultEvents cls action location).dbg.gcFreeze = s.dbg.gcFreeze := by unfold State.faultEvents; split <;> (try split) <;> simp
@[simp] theorem State.faultEvents_dbg_gcSelect (s : State) (cls action location : Nat) : (s.faultEvents cls action location).dbg.gcSelect = s.dbg.gcSelect := by unfold State.faultEvents; split <;> (try split) <;> simp
@[simp] theorem State.faultEvents_dbg_eventFreeze (s : State) (cls action location : Nat) : (s.faultEvents cls action location).dbg.eventFreeze = s.dbg.eventFreeze := by unfold State.faultEvents; split <;> (try split) <;> simp
@[simp] theorem State.faultEvents_dbg_traceEnable (s : State) (cls action location : Nat) : (s.faultEvents cls action location).dbg.traceEnable = s.dbg.traceEnable := by unfold State.faultEvents; split <;> (try split) <;> simp
@[simp] theorem State.faultEvents_dbg_halted (s : State) (cls action location : Nat) : (s.faultEvents cls action location).dbg.halted = s.dbg.halted := by unfold State.faultEvents; split <;> (try split) <;> simp
@[simp] theorem State.faultEvents_pwr (s : State) (cls action location : Nat) : (s.faultEvents cls action location).pwr = s.pwr := by unfold State.faultEvents; split <;> (try split) <;> simp
@[simp] theorem State.faultEvents_outputs (s : State) (cls action location : Nat) : (s.faultEvents cls action location).outputs = s.outputs := by unfold State.faultEvents; split <;> (try split) <;> simp
@[simp] theorem State.faultEvents_freeCtr (s : State) (cls action location : Nat) : (s.faultEvents cls action location).freeCtr = s.freeCtr := by unfold State.faultEvents; split <;> (try split) <;> simp
@[simp] theorem State.faultEvents_pending (s : State) (cls action location : Nat) : (s.faultEvents cls action location).pending = s.pending := by unfold State.faultEvents; split <;> (try split) <;> simp
@[simp] theorem State.faultEvents_now_eq (s : State) (cls action location : Nat) : (s.faultEvents cls action location).now = s.now := by simp [State.now]
@[simp] theorem State.faultEvents_core_eq (s : State) (cls action location : Nat) (i : Nat) : (s.faultEvents cls action location).core i = s.core i := by simp [State.core]
@[simp] theorem State.faultEvents_ring_eq (s : State) (cls action location : Nat) (i : Nat) : (s.faultEvents cls action location).ring i = s.ring i := by simp [State.ring]
@[simp] theorem State.faultEvents_node_eq (s : State) (cls action location : Nat) (i : Nat) : (s.faultEvents cls action location).node i = s.node i := by simp [State.node]
@[simp] theorem State.faultEvents_sector_eq (s : State) (cls action location : Nat) (i : Nat) : (s.faultEvents cls action location).sector i = s.sector i := by simp [State.sector]
@[simp] theorem State.faultEvents_comp_eq (s : State) (cls action location : Nat) (i : Nat) : (s.faultEvents cls action location).comp i = s.comp i := by simp [State.comp]
@[simp] theorem State.faultEvents_stand_eq (s : State) (cls action location : Nat) (i : Nat) : (s.faultEvents cls action location).stand i = s.stand i := by simp [State.stand]
@[simp] theorem State.faultEvents_ctx_eq (s : State) (cls action location : Nat) (i : Nat) : (s.faultEvents cls action location).ctx i = s.ctx i := by simp [State.ctx]
@[simp] theorem State.faultEvents_context_eq (s : State) (cls action location : Nat) (i : Nat) : (s.faultEvents cls action location).context i = s.context i := by simp [State.context]
@[simp] theorem State.faultEvents_port_eq (s : State) (cls action location : Nat) (i : Nat) : (s.faultEvents cls action location).port i = s.port i := by simp [State.port]
@[simp] theorem State.faultEvents_xport_eq (s : State) (cls action location : Nat) (i : Nat) : (s.faultEvents cls action location).xport i = s.xport i := by simp [State.xport]
@[simp] theorem State.faultEvents_layer_eq (s : State) (cls action location : Nat) (i j : Nat) : (s.faultEvents cls action location).layer i j = s.layer i j := by simp [State.layer]
@[simp] theorem State.faultEvents_engine_eq (s : State) (cls action location : Nat) (i : Nat) : (s.faultEvents cls action location).engine i = s.engine i := by simp [State.engine]
@[simp] theorem State.faultEvents_homeHalf_eq (s : State) (cls action location : Nat) (i : Nat) : (s.faultEvents cls action location).homeHalf i = s.homeHalf i := by simp [State.homeHalf, State.ring]
@[simp] theorem State.faultEvents_homeSector_eq (s : State) (cls action location : Nat) (i : Nat) : (s.faultEvents cls action location).homeSector i = s.homeSector i := by simp [State.homeSector, State.ring]
@[simp] theorem State.faultEvents_fenced_eq (s : State) (cls action location : Nat) (i : Nat) : (s.faultEvents cls action location).fenced i = s.fenced i := by simp [State.fenced]
@[simp] theorem State.faultEvents_ringsOf_eq (s : State) (cls action location : Nat) (i : Nat) : (s.faultEvents cls action location).ringsOf i = s.ringsOf i := by simp [State.ringsOf]
@[simp] theorem State.faultEvents_nodesOfRing_eq (s : State) (cls action location : Nat) (i : Nat) : (s.faultEvents cls action location).nodesOfRing i = s.nodesOfRing i := by simp [State.nodesOfRing]
@[simp] theorem State.faultEvents_nodesOfCtx_eq (s : State) (cls action location : Nat) (i : Nat) : (s.faultEvents cls action location).nodesOfCtx i = s.nodesOfCtx i := by simp [State.nodesOfCtx]
@[simp] theorem State.faultEvents_dev_eq (s : State) (cls action location : Nat) (i j : Nat) : (s.faultEvents cls action location).dev i j = s.dev i j := by simp [State.dev]
@[simp] theorem State.faultEvents_pasid_eq (s : State) (cls action location : Nat) (i : Nat) : (s.faultEvents cls action location).pasid i = s.pasid i := by simp [State.pasid]
@[simp] theorem State.faultEvents_tracing_eq (s : State) (cls action location : Nat) : (s.faultEvents cls action location).tracing = s.tracing := by simp [State.tracing]

/-! ### log -/

@[simp] theorem State.log_straps (s : State) (cls action location address ring cause seqLo : Nat) : (s.log cls action location address ring cause seqLo).straps = s.straps := by simp [State.log]
@[simp] theorem State.log_fuses (s : State) (cls action location address ring cause seqLo : Nat) : (s.log cls action location address ring cause seqLo).fuses = s.fuses := by simp [State.log]
@[simp] theorem State.log_boot (s : State) (cls action location address ring cause seqLo : Nat) : (s.log cls action location address ring cause seqLo).boot = s.boot := by simp [State.log]
@[simp] theorem State.log_cat (s : State) (cls action location address ring cause seqLo : Nat) : (s.log cls action location address ring cause seqLo).cat = s.cat := by simp [State.log]
@[simp] theorem State.log_set (s : State) (cls action location address ring cause seqLo : Nat) : (s.log cls action location address ring cause seqLo).set = s.set := by simp [State.log]
@[simp] theorem State.log_ctxs (s : State) (cls action location address ring cause seqLo : Nat) : (s.log cls action location address ring cause seqLo).ctxs = s.ctxs := by simp [State.log]
@[simp] theorem State.log_rings (s : State) (cls action location address ring cause seqLo : Nat) : (s.log cls action location address ring cause seqLo).rings = s.rings := by simp [State.log]
@[simp] theorem State.log_dv (s : State) (cls action location address ring cause seqLo : Nat) : (s.log cls action location address ring cause seqLo).dv = s.dv := by simp [State.log]
@[simp] theorem State.log_stands (s : State) (cls action location address ring cause seqLo : Nat) : (s.log cls action location address ring cause seqLo).stands = s.stands := by simp [State.log]
@[simp] theorem State.log_cores (s : State) (cls action location address ring cause seqLo : Nat) : (s.log cls action location address ring cause seqLo).cores = s.cores := by simp [State.log]
@[simp] theorem State.log_fab (s : State) (cls action location address ring cause seqLo : Nat) : (s.log cls action location address ring cause seqLo).fab = s.fab := by simp [State.log]
@[simp] theorem State.log_ecl (s : State) (cls action location address ring cause seqLo : Nat) : (s.log cls action location address ring cause seqLo).ecl = s.ecl := by simp [State.log]
@[simp] theorem State.log_clock (s : State) (cls action location address ring cause seqLo : Nat) : (s.log cls action location address ring cause seqLo).clock = s.clock := by simp [State.log]
@[simp] theorem State.log_mem (s : State) (cls action location address ring cause seqLo : Nat) : (s.log cls action location address ring cause seqLo).mem = s.mem := by simp [State.log]
@[simp] theorem State.log_exp (s : State) (cls action location address ring cause seqLo : Nat) : (s.log cls action location address ring cause seqLo).exp = s.exp := by simp [State.log]
@[simp] theorem State.log_flt_repair (s : State) (cls action location address ring cause seqLo : Nat) : (s.log cls action location address ring cause seqLo).flt.repair = s.flt.repair := by simp [State.log]
@[simp] theorem State.log_flt_fence (s : State) (cls action location address ring cause seqLo : Nat) : (s.log cls action location address ring cause seqLo).flt.fence = s.flt.fence := by simp [State.log]
@[simp] theorem State.log_flt_spare (s : State) (cls action location address ring cause seqLo : Nat) : (s.log cls action location address ring cause seqLo).flt.spare = s.flt.spare := by simp [State.log]
@[simp] theorem State.log_flt_degraded (s : State) (cls action location address ring cause seqLo : Nat) : (s.log cls action location address ring cause seqLo).flt.degraded = s.flt.degraded := by simp [State.log]
@[simp] theorem State.log_flt_repairEvents (s : State) (cls action location address ring cause seqLo : Nat) : (s.log cls action location address ring cause seqLo).flt.repairEvents = s.flt.repairEvents := by simp [State.log]
@[simp] theorem State.log_flt_fenceEvents (s : State) (cls action location address ring cause seqLo : Nat) : (s.log cls action location address ring cause seqLo).flt.fenceEvents = s.flt.fenceEvents := by simp [State.log]
@[simp] theorem State.log_flt_spareEvents (s : State) (cls action location address ring cause seqLo : Nat) : (s.log cls action location address ring cause seqLo).flt.spareEvents = s.flt.spareEvents := by simp [State.log]
@[simp] theorem State.log_flt_degradedEvents (s : State) (cls action location address ring cause seqLo : Nat) : (s.log cls action location address ring cause seqLo).flt.degradedEvents = s.flt.degradedEvents := by simp [State.log]
@[simp] theorem State.log_flt_maskBits (s : State) (cls action location address ring cause seqLo : Nat) : (s.log cls action location address ring cause seqLo).flt.maskBits = s.flt.maskBits := by simp [State.log]
@[simp] theorem State.log_flt_coresFenced (s : State) (cls action location address ring cause seqLo : Nat) : (s.log cls action location address ring cause seqLo).flt.coresFenced = s.flt.coresFenced := by simp [State.log]
@[simp] theorem State.log_flt_sparesUsed (s : State) (cls action location address ring cause seqLo : Nat) : (s.log cls action location address ring cause seqLo).flt.sparesUsed = s.flt.sparesUsed := by simp [State.log]
@[simp] theorem State.log_flt_rowsRepaired (s : State) (cls action location address ring cause seqLo : Nat) : (s.log cls action location address ring cause seqLo).flt.rowsRepaired = s.flt.rowsRepaired := by simp [State.log]
@[simp] theorem State.log_flt_lanesSpared (s : State) (cls action location address ring cause seqLo : Nat) : (s.log cls action location address ring cause seqLo).flt.lanesSpared = s.flt.lanesSpared := by simp [State.log]
@[simp] theorem State.log_flt_takeovers (s : State) (cls action location address ring cause seqLo : Nat) : (s.log cls action location address ring cause seqLo).flt.takeovers = s.flt.takeovers := by simp [State.log]
@[simp] theorem State.log_flt_memoryCe (s : State) (cls action location address ring cause seqLo : Nat) : (s.log cls action location address ring cause seqLo).flt.memoryCe = s.flt.memoryCe := by simp [State.log]
@[simp] theorem State.log_flt_queueCe (s : State) (cls action location address ring cause seqLo : Nat) : (s.log cls action location address ring cause seqLo).flt.queueCe = s.flt.queueCe := by simp [State.log]
@[simp] theorem State.log_flt_mismatches (s : State) (cls action location address ring cause seqLo : Nat) : (s.log cls action location address ring cause seqLo).flt.mismatches = s.flt.mismatches := by simp [State.log]
@[simp] theorem State.log_flt_generation (s : State) (cls action location address ring cause seqLo : Nat) : (s.log cls action location address ring cause seqLo).flt.generation = s.flt.generation := by simp [State.log]
@[simp] theorem State.log_flt_entries (s : State) (cls action location address ring cause seqLo : Nat) : (s.log cls action location address ring cause seqLo).flt.entries = s.flt.entries := by simp [State.log]
@[simp] theorem State.log_flt_recalls (s : State) (cls action location address ring cause seqLo : Nat) : (s.log cls action location address ring cause seqLo).flt.recalls = s.flt.recalls := by simp [State.log]
@[simp] theorem State.log_flt_rowErrors (s : State) (cls action location address ring cause seqLo : Nat) : (s.log cls action location address ring cause seqLo).flt.rowErrors = s.flt.rowErrors := by simp [State.log]
@[simp] theorem State.log_flt_sparesRows (s : State) (cls action location address ring cause seqLo : Nat) : (s.log cls action location address ring cause seqLo).flt.sparesRows = s.flt.sparesRows := by simp [State.log]
@[simp] theorem State.log_flt_meridianFailed0 (s : State) (cls action location address ring cause seqLo : Nat) : (s.log cls action location address ring cause seqLo).flt.meridianFailed0 = s.flt.meridianFailed0 := by simp [State.log]
@[simp] theorem State.log_flt_meridianFailed1 (s : State) (cls action location address ring cause seqLo : Nat) : (s.log cls action location address ring cause seqLo).flt.meridianFailed1 = s.flt.meridianFailed1 := by simp [State.log]
@[simp] theorem State.log_flt_meridianSpares0 (s : State) (cls action location address ring cause seqLo : Nat) : (s.log cls action location address ring cause seqLo).flt.meridianSpares0 = s.flt.meridianSpares0 := by simp [State.log]
@[simp] theorem State.log_flt_meridianSpares1 (s : State) (cls action location address ring cause seqLo : Nat) : (s.log cls action location address ring cause seqLo).flt.meridianSpares1 = s.flt.meridianSpares1 := by simp [State.log]
@[simp] theorem State.log_flt_meridianSuspect0 (s : State) (cls action location address ring cause seqLo : Nat) : (s.log cls action location address ring cause seqLo).flt.meridianSuspect0 = s.flt.meridianSuspect0 := by simp [State.log]
@[simp] theorem State.log_flt_meridianSuspect1 (s : State) (cls action location address ring cause seqLo : Nat) : (s.log cls action location address ring cause seqLo).flt.meridianSuspect1 = s.flt.meridianSuspect1 := by simp [State.log]
@[simp] theorem State.log_flt_meridianNarrow0 (s : State) (cls action location address ring cause seqLo : Nat) : (s.log cls action location address ring cause seqLo).flt.meridianNarrow0 = s.flt.meridianNarrow0 := by simp [State.log]
@[simp] theorem State.log_flt_meridianNarrow1 (s : State) (cls action location address ring cause seqLo : Nat) : (s.log cls action location address ring cause seqLo).flt.meridianNarrow1 = s.flt.meridianNarrow1 := by simp [State.log]
@[simp] theorem State.log_flt_meridianDown (s : State) (cls action location address ring cause seqLo : Nat) : (s.log cls action location address ring cause seqLo).flt.meridianDown = s.flt.meridianDown := by simp [State.log]
@[simp] theorem State.log_flt_controlFailed (s : State) (cls action location address ring cause seqLo : Nat) : (s.log cls action location address ring cause seqLo).flt.controlFailed = s.flt.controlFailed := by simp [State.log]
@[simp] theorem State.log_flt_spareTaken0 (s : State) (cls action location address ring cause seqLo : Nat) : (s.log cls action location address ring cause seqLo).flt.spareTaken0 = s.flt.spareTaken0 := by simp [State.log]
@[simp] theorem State.log_flt_spareTaken1 (s : State) (cls action location address ring cause seqLo : Nat) : (s.log cls action location address ring cause seqLo).flt.spareTaken1 = s.flt.spareTaken1 := by simp [State.log]
@[simp] theorem State.log_flt_unitsFenced (s : State) (cls action location address ring cause seqLo : Nat) : (s.log cls action location address ring cause seqLo).flt.unitsFenced = s.flt.unitsFenced := by simp [State.log]
@[simp] theorem State.log_flt_mismatchQueue (s : State) (cls action location address ring cause seqLo : Nat) : (s.log cls action location address ring cause seqLo).flt.mismatchQueue = s.flt.mismatchQueue := by simp [State.log]
@[simp] theorem State.log_flt_resetCores (s : State) (cls action location address ring cause seqLo : Nat) : (s.log cls action location address ring cause seqLo).flt.resetCores = s.flt.resetCores := by simp [State.log]
@[simp] theorem State.log_flt_unfences (s : State) (cls action location address ring cause seqLo : Nat) : (s.log cls action location address ring cause seqLo).flt.unfences = s.flt.unfences := by simp [State.log]
@[simp] theorem State.log_dbg_gcFreeze (s : State) (cls action location address ring cause seqLo : Nat) : (s.log cls action location address ring cause seqLo).dbg.gcFreeze = s.dbg.gcFreeze := by simp [State.log]
@[simp] theorem State.log_dbg_gcSelect (s : State) (cls action location address ring cause seqLo : Nat) : (s.log cls action location address ring cause seqLo).dbg.gcSelect = s.dbg.gcSelect := by simp [State.log]
@[simp] theorem State.log_dbg_eventFreeze (s : State) (cls action location address ring cause seqLo : Nat) : (s.log cls action location address ring cause seqLo).dbg.eventFreeze = s.dbg.eventFreeze := by simp [State.log]
@[simp] theorem State.log_dbg_traceEnable (s : State) (cls action location address ring cause seqLo : Nat) : (s.log cls action location address ring cause seqLo).dbg.traceEnable = s.dbg.traceEnable := by simp [State.log]
@[simp] theorem State.log_dbg_halted (s : State) (cls action location address ring cause seqLo : Nat) : (s.log cls action location address ring cause seqLo).dbg.halted = s.dbg.halted := by simp [State.log]
@[simp] theorem State.log_pwr (s : State) (cls action location address ring cause seqLo : Nat) : (s.log cls action location address ring cause seqLo).pwr = s.pwr := by simp [State.log]
@[simp] theorem State.log_outputs (s : State) (cls action location address ring cause seqLo : Nat) : (s.log cls action location address ring cause seqLo).outputs = s.outputs := by simp [State.log]
@[simp] theorem State.log_freeCtr (s : State) (cls action location address ring cause seqLo : Nat) : (s.log cls action location address ring cause seqLo).freeCtr = s.freeCtr := by simp [State.log]
@[simp] theorem State.log_pending (s : State) (cls action location address ring cause seqLo : Nat) : (s.log cls action location address ring cause seqLo).pending = s.pending := by simp [State.log]
@[simp] theorem State.log_now_eq (s : State) (cls action location address ring cause seqLo : Nat) : (s.log cls action location address ring cause seqLo).now = s.now := by simp [State.now]
@[simp] theorem State.log_core_eq (s : State) (cls action location address ring cause seqLo : Nat) (i : Nat) : (s.log cls action location address ring cause seqLo).core i = s.core i := by simp [State.core]
@[simp] theorem State.log_ring_eq (s : State) (cls action location address ring cause seqLo : Nat) (i : Nat) : (s.log cls action location address ring cause seqLo).ring i = s.ring i := by simp [State.ring]
@[simp] theorem State.log_node_eq (s : State) (cls action location address ring cause seqLo : Nat) (i : Nat) : (s.log cls action location address ring cause seqLo).node i = s.node i := by simp [State.node]
@[simp] theorem State.log_sector_eq (s : State) (cls action location address ring cause seqLo : Nat) (i : Nat) : (s.log cls action location address ring cause seqLo).sector i = s.sector i := by simp [State.sector]
@[simp] theorem State.log_comp_eq (s : State) (cls action location address ring cause seqLo : Nat) (i : Nat) : (s.log cls action location address ring cause seqLo).comp i = s.comp i := by simp [State.comp]
@[simp] theorem State.log_stand_eq (s : State) (cls action location address ring cause seqLo : Nat) (i : Nat) : (s.log cls action location address ring cause seqLo).stand i = s.stand i := by simp [State.stand]
@[simp] theorem State.log_ctx_eq (s : State) (cls action location address ring cause seqLo : Nat) (i : Nat) : (s.log cls action location address ring cause seqLo).ctx i = s.ctx i := by simp [State.ctx]
@[simp] theorem State.log_context_eq (s : State) (cls action location address ring cause seqLo : Nat) (i : Nat) : (s.log cls action location address ring cause seqLo).context i = s.context i := by simp [State.context]
@[simp] theorem State.log_port_eq (s : State) (cls action location address ring cause seqLo : Nat) (i : Nat) : (s.log cls action location address ring cause seqLo).port i = s.port i := by simp [State.port]
@[simp] theorem State.log_xport_eq (s : State) (cls action location address ring cause seqLo : Nat) (i : Nat) : (s.log cls action location address ring cause seqLo).xport i = s.xport i := by simp [State.xport]
@[simp] theorem State.log_layer_eq (s : State) (cls action location address ring cause seqLo : Nat) (i j : Nat) : (s.log cls action location address ring cause seqLo).layer i j = s.layer i j := by simp [State.layer]
@[simp] theorem State.log_engine_eq (s : State) (cls action location address ring cause seqLo : Nat) (i : Nat) : (s.log cls action location address ring cause seqLo).engine i = s.engine i := by simp [State.engine]
@[simp] theorem State.log_homeHalf_eq (s : State) (cls action location address ring cause seqLo : Nat) (i : Nat) : (s.log cls action location address ring cause seqLo).homeHalf i = s.homeHalf i := by simp [State.homeHalf, State.ring]
@[simp] theorem State.log_homeSector_eq (s : State) (cls action location address ring cause seqLo : Nat) (i : Nat) : (s.log cls action location address ring cause seqLo).homeSector i = s.homeSector i := by simp [State.homeSector, State.ring]
@[simp] theorem State.log_fenced_eq (s : State) (cls action location address ring cause seqLo : Nat) (i : Nat) : (s.log cls action location address ring cause seqLo).fenced i = s.fenced i := by simp [State.fenced]
@[simp] theorem State.log_ringsOf_eq (s : State) (cls action location address ring cause seqLo : Nat) (i : Nat) : (s.log cls action location address ring cause seqLo).ringsOf i = s.ringsOf i := by simp [State.ringsOf]
@[simp] theorem State.log_nodesOfRing_eq (s : State) (cls action location address ring cause seqLo : Nat) (i : Nat) : (s.log cls action location address ring cause seqLo).nodesOfRing i = s.nodesOfRing i := by simp [State.nodesOfRing]
@[simp] theorem State.log_nodesOfCtx_eq (s : State) (cls action location address ring cause seqLo : Nat) (i : Nat) : (s.log cls action location address ring cause seqLo).nodesOfCtx i = s.nodesOfCtx i := by simp [State.nodesOfCtx]
@[simp] theorem State.log_dev_eq (s : State) (cls action location address ring cause seqLo : Nat) (i j : Nat) : (s.log cls action location address ring cause seqLo).dev i j = s.dev i j := by simp [State.dev]
@[simp] theorem State.log_pasid_eq (s : State) (cls action location address ring cause seqLo : Nat) (i : Nat) : (s.log cls action location address ring cause seqLo).pasid i = s.pasid i := by simp [State.pasid]
@[simp] theorem State.log_tracing_eq (s : State) (cls action location address ring cause seqLo : Nat) : (s.log cls action location address ring cause seqLo).tracing = s.tracing := by simp [State.tracing]

/-! ### repairAdd -/

@[simp] theorem State.repairAdd_straps (s : State) (kind flags a b : Nat) : (s.repairAdd kind flags a b).straps = s.straps := by unfold State.repairAdd; split <;> simp
@[simp] theorem State.repairAdd_fuses (s : State) (kind flags a b : Nat) : (s.repairAdd kind flags a b).fuses = s.fuses := by unfold State.repairAdd; split <;> simp
@[simp] theorem State.repairAdd_boot (s : State) (kind flags a b : Nat) : (s.repairAdd kind flags a b).boot = s.boot := by unfold State.repairAdd; split <;> simp
@[simp] theorem State.repairAdd_cat (s : State) (kind flags a b : Nat) : (s.repairAdd kind flags a b).cat = s.cat := by unfold State.repairAdd; split <;> simp
@[simp] theorem State.repairAdd_set (s : State) (kind flags a b : Nat) : (s.repairAdd kind flags a b).set = s.set := by unfold State.repairAdd; split <;> simp
@[simp] theorem State.repairAdd_ctxs (s : State) (kind flags a b : Nat) : (s.repairAdd kind flags a b).ctxs = s.ctxs := by unfold State.repairAdd; split <;> simp
@[simp] theorem State.repairAdd_rings (s : State) (kind flags a b : Nat) : (s.repairAdd kind flags a b).rings = s.rings := by unfold State.repairAdd; split <;> simp
@[simp] theorem State.repairAdd_dv (s : State) (kind flags a b : Nat) : (s.repairAdd kind flags a b).dv = s.dv := by unfold State.repairAdd; split <;> simp
@[simp] theorem State.repairAdd_stands (s : State) (kind flags a b : Nat) : (s.repairAdd kind flags a b).stands = s.stands := by unfold State.repairAdd; split <;> simp
@[simp] theorem State.repairAdd_cores (s : State) (kind flags a b : Nat) : (s.repairAdd kind flags a b).cores = s.cores := by unfold State.repairAdd; split <;> simp
@[simp] theorem State.repairAdd_fab (s : State) (kind flags a b : Nat) : (s.repairAdd kind flags a b).fab = s.fab := by unfold State.repairAdd; split <;> simp
@[simp] theorem State.repairAdd_ecl (s : State) (kind flags a b : Nat) : (s.repairAdd kind flags a b).ecl = s.ecl := by unfold State.repairAdd; split <;> simp
@[simp] theorem State.repairAdd_clock (s : State) (kind flags a b : Nat) : (s.repairAdd kind flags a b).clock = s.clock := by unfold State.repairAdd; split <;> simp
@[simp] theorem State.repairAdd_mem (s : State) (kind flags a b : Nat) : (s.repairAdd kind flags a b).mem = s.mem := by unfold State.repairAdd; split <;> simp
@[simp] theorem State.repairAdd_exp (s : State) (kind flags a b : Nat) : (s.repairAdd kind flags a b).exp = s.exp := by unfold State.repairAdd; split <;> simp
@[simp] theorem State.repairAdd_dbg_gcFreeze (s : State) (kind flags a b : Nat) : (s.repairAdd kind flags a b).dbg.gcFreeze = s.dbg.gcFreeze := by unfold State.repairAdd; split <;> simp
@[simp] theorem State.repairAdd_dbg_gcSelect (s : State) (kind flags a b : Nat) : (s.repairAdd kind flags a b).dbg.gcSelect = s.dbg.gcSelect := by unfold State.repairAdd; split <;> simp
@[simp] theorem State.repairAdd_dbg_eventFreeze (s : State) (kind flags a b : Nat) : (s.repairAdd kind flags a b).dbg.eventFreeze = s.dbg.eventFreeze := by unfold State.repairAdd; split <;> simp
@[simp] theorem State.repairAdd_dbg_traceEnable (s : State) (kind flags a b : Nat) : (s.repairAdd kind flags a b).dbg.traceEnable = s.dbg.traceEnable := by unfold State.repairAdd; split <;> simp
@[simp] theorem State.repairAdd_dbg_halted (s : State) (kind flags a b : Nat) : (s.repairAdd kind flags a b).dbg.halted = s.dbg.halted := by unfold State.repairAdd; split <;> simp
@[simp] theorem State.repairAdd_pwr (s : State) (kind flags a b : Nat) : (s.repairAdd kind flags a b).pwr = s.pwr := by unfold State.repairAdd; split <;> simp
@[simp] theorem State.repairAdd_freeCtr (s : State) (kind flags a b : Nat) : (s.repairAdd kind flags a b).freeCtr = s.freeCtr := by unfold State.repairAdd; split <;> simp
@[simp] theorem State.repairAdd_pending (s : State) (kind flags a b : Nat) : (s.repairAdd kind flags a b).pending = s.pending := by unfold State.repairAdd; split <;> simp
@[simp] theorem State.repairAdd_now_eq (s : State) (kind flags a b : Nat) : (s.repairAdd kind flags a b).now = s.now := by simp [State.now]
@[simp] theorem State.repairAdd_core_eq (s : State) (kind flags a b : Nat) (i : Nat) : (s.repairAdd kind flags a b).core i = s.core i := by simp [State.core]
@[simp] theorem State.repairAdd_ring_eq (s : State) (kind flags a b : Nat) (i : Nat) : (s.repairAdd kind flags a b).ring i = s.ring i := by simp [State.ring]
@[simp] theorem State.repairAdd_node_eq (s : State) (kind flags a b : Nat) (i : Nat) : (s.repairAdd kind flags a b).node i = s.node i := by simp [State.node]
@[simp] theorem State.repairAdd_sector_eq (s : State) (kind flags a b : Nat) (i : Nat) : (s.repairAdd kind flags a b).sector i = s.sector i := by simp [State.sector]
@[simp] theorem State.repairAdd_comp_eq (s : State) (kind flags a b : Nat) (i : Nat) : (s.repairAdd kind flags a b).comp i = s.comp i := by simp [State.comp]
@[simp] theorem State.repairAdd_stand_eq (s : State) (kind flags a b : Nat) (i : Nat) : (s.repairAdd kind flags a b).stand i = s.stand i := by simp [State.stand]
@[simp] theorem State.repairAdd_ctx_eq (s : State) (kind flags a b : Nat) (i : Nat) : (s.repairAdd kind flags a b).ctx i = s.ctx i := by simp [State.ctx]
@[simp] theorem State.repairAdd_context_eq (s : State) (kind flags a b : Nat) (i : Nat) : (s.repairAdd kind flags a b).context i = s.context i := by simp [State.context]
@[simp] theorem State.repairAdd_port_eq (s : State) (kind flags a b : Nat) (i : Nat) : (s.repairAdd kind flags a b).port i = s.port i := by simp [State.port]
@[simp] theorem State.repairAdd_xport_eq (s : State) (kind flags a b : Nat) (i : Nat) : (s.repairAdd kind flags a b).xport i = s.xport i := by simp [State.xport]
@[simp] theorem State.repairAdd_layer_eq (s : State) (kind flags a b : Nat) (i j : Nat) : (s.repairAdd kind flags a b).layer i j = s.layer i j := by simp [State.layer]
@[simp] theorem State.repairAdd_engine_eq (s : State) (kind flags a b : Nat) (i : Nat) : (s.repairAdd kind flags a b).engine i = s.engine i := by simp [State.engine]
@[simp] theorem State.repairAdd_homeHalf_eq (s : State) (kind flags a b : Nat) (i : Nat) : (s.repairAdd kind flags a b).homeHalf i = s.homeHalf i := by simp [State.homeHalf, State.ring]
@[simp] theorem State.repairAdd_homeSector_eq (s : State) (kind flags a b : Nat) (i : Nat) : (s.repairAdd kind flags a b).homeSector i = s.homeSector i := by simp [State.homeSector, State.ring]
@[simp] theorem State.repairAdd_fenced_eq (s : State) (kind flags a b : Nat) (i : Nat) : (s.repairAdd kind flags a b).fenced i = s.fenced i := by simp [State.fenced]
@[simp] theorem State.repairAdd_ringsOf_eq (s : State) (kind flags a b : Nat) (i : Nat) : (s.repairAdd kind flags a b).ringsOf i = s.ringsOf i := by simp [State.ringsOf]
@[simp] theorem State.repairAdd_nodesOfRing_eq (s : State) (kind flags a b : Nat) (i : Nat) : (s.repairAdd kind flags a b).nodesOfRing i = s.nodesOfRing i := by simp [State.nodesOfRing]
@[simp] theorem State.repairAdd_nodesOfCtx_eq (s : State) (kind flags a b : Nat) (i : Nat) : (s.repairAdd kind flags a b).nodesOfCtx i = s.nodesOfCtx i := by simp [State.nodesOfCtx]
@[simp] theorem State.repairAdd_dev_eq (s : State) (kind flags a b : Nat) (i j : Nat) : (s.repairAdd kind flags a b).dev i j = s.dev i j := by simp [State.dev]
@[simp] theorem State.repairAdd_pasid_eq (s : State) (kind flags a b : Nat) (i : Nat) : (s.repairAdd kind flags a b).pasid i = s.pasid i := by simp [State.pasid]
@[simp] theorem State.repairAdd_tracing_eq (s : State) (kind flags a b : Nat) : (s.repairAdd kind flags a b).tracing = s.tracing := by simp [State.tracing]

end Sys2Proof.Machine
end

