-- ==== Sys2Proof/Laws/Core.lean ====
section
/-! SUPPORT. Laws of the parts of a core: what an update of its registers, flags, items or queues leaves as it was, and what a register
reads as after a write. -/
namespace Sys2Proof.Machine

/-! ### Core.setS -/

@[simp] theorem Core.setS_vregs (k : Core) (i : BitVec 5) (v : Word) : (k.setS i v).vregs = k.vregs := by unfold Core.setS; split <;> rfl
@[simp] theorem Core.setS_pc (k : Core) (i : BitVec 5) (v : Word) : (k.setS i v).pc = k.pc := by unfold Core.setS; split <;> rfl
@[simp] theorem Core.setS_dmem (k : Core) (i : BitVec 5) (v : Word) : (k.setS i v).dmem = k.dmem := by unfold Core.setS; split <;> rfl
@[simp] theorem Core.setS_imem (k : Core) (i : BitVec 5) (v : Word) : (k.setS i v).imem = k.imem := by unfold Core.setS; split <;> rfl
@[simp] theorem Core.setS_sems (k : Core) (i : BitVec 5) (v : Word) : (k.setS i v).sems = k.sems := by unfold Core.setS; split <;> rfl
@[simp] theorem Core.setS_counters (k : Core) (i : BitVec 5) (v : Word) : (k.setS i v).counters = k.counters := by unfold Core.setS; split <;> rfl
@[simp] theorem Core.setS_counterLatch (k : Core) (i : BitVec 5) (v : Word) : (k.setS i v).counterLatch = k.counterLatch := by unfold Core.setS; split <;> rfl
@[simp] theorem Core.setS_counterReset (k : Core) (i : BitVec 5) (v : Word) : (k.setS i v).counterReset = k.counterReset := by unfold Core.setS; split <;> rfl
@[simp] theorem Core.setS_coincident (k : Core) (i : BitVec 5) (v : Word) : (k.setS i v).coincident = k.coincident := by unfold Core.setS; split <;> rfl
@[simp] theorem Core.setS_kernel (k : Core) (i : BitVec 5) (v : Word) : (k.setS i v).kernel = k.kernel := by unfold Core.setS; split <;> rfl
@[simp] theorem Core.setS_grant (k : Core) (i : BitVec 5) (v : Word) : (k.setS i v).grant = k.grant := by unfold Core.setS; split <;> rfl
@[simp] theorem Core.setS_prevNode (k : Core) (i : BitVec 5) (v : Word) : (k.setS i v).prevNode = k.prevNode := by unfold Core.setS; split <;> rfl
@[simp] theorem Core.setS_ftz (k : Core) (i : BitVec 5) (v : Word) : (k.setS i v).ftz = k.ftz := by unfold Core.setS; split <;> rfl
@[simp] theorem Core.setS_round (k : Core) (i : BitVec 5) (v : Word) : (k.setS i v).round = k.round := by unfold Core.setS; split <;> rfl
@[simp] theorem Core.setS_flushed (k : Core) (i : BitVec 5) (v : Word) : (k.setS i v).flushed = k.flushed := by unfold Core.setS; split <;> rfl
@[simp] theorem Core.setS_nanseen (k : Core) (i : BitVec 5) (v : Word) : (k.setS i v).nanseen = k.nanseen := by unfold Core.setS; split <;> rfl
@[simp] theorem Core.setS_isat (k : Core) (i : BitVec 5) (v : Word) : (k.setS i v).isat = k.isat := by unfold Core.setS; split <;> rfl
@[simp] theorem Core.setS_flushedEvents (k : Core) (i : BitVec 5) (v : Word) : (k.setS i v).flushedEvents = k.flushedEvents := by unfold Core.setS; split <;> rfl
@[simp] theorem Core.setS_nanseenEvents (k : Core) (i : BitVec 5) (v : Word) : (k.setS i v).nanseenEvents = k.nanseenEvents := by unfold Core.setS; split <;> rfl
@[simp] theorem Core.setS_isatEvents (k : Core) (i : BitVec 5) (v : Word) : (k.setS i v).isatEvents = k.isatEvents := by unfold Core.setS; split <;> rfl
@[simp] theorem Core.setS_timeHi (k : Core) (i : BitVec 5) (v : Word) : (k.setS i v).timeHi = k.timeHi := by unfold Core.setS; split <;> rfl
@[simp] theorem Core.setS_items (k : Core) (i : BitVec 5) (v : Word) : (k.setS i v).items = k.items := by unfold Core.setS; split <;> rfl
@[simp] theorem Core.setS_stationary (k : Core) (i : BitVec 5) (v : Word) : (k.setS i v).stationary = k.stationary := by unfold Core.setS; split <;> rfl
@[simp] theorem Core.setS_shadow (k : Core) (i : BitVec 5) (v : Word) : (k.setS i v).shadow = k.shadow := by unfold Core.setS; split <;> rfl
@[simp] theorem Core.setS_loaderBusy (k : Core) (i : BitVec 5) (v : Word) : (k.setS i v).loaderBusy = k.loaderBusy := by unfold Core.setS; split <;> rfl
@[simp] theorem Core.setS_onesUntil (k : Core) (i : BitVec 5) (v : Word) : (k.setS i v).onesUntil = k.onesUntil := by unfold Core.setS; split <;> rfl
@[simp] theorem Core.setS_lastRows (k : Core) (i : BitVec 5) (v : Word) : (k.setS i v).lastRows = k.lastRows := by unfold Core.setS; split <;> rfl
@[simp] theorem Core.setS_slots (k : Core) (i : BitVec 5) (v : Word) : (k.setS i v).slots = k.slots := by unfold Core.setS; split <;> rfl
@[simp] theorem Core.setS_inflight (k : Core) (i : BitVec 5) (v : Word) : (k.setS i v).inflight = k.inflight := by unfold Core.setS; split <;> rfl
@[simp] theorem Core.setS_nextId (k : Core) (i : BitVec 5) (v : Word) : (k.setS i v).nextId = k.nextId := by unfold Core.setS; split <;> rfl
@[simp] theorem Core.setS_front (k : Core) (i : BitVec 5) (v : Word) : (k.setS i v).front = k.front := by unfold Core.setS; split <;> rfl
@[simp] theorem Core.setS_resume (k : Core) (i : BitVec 5) (v : Word) : (k.setS i v).resume = k.resume := by unfold Core.setS; split <;> rfl
@[simp] theorem Core.setS_askCount (k : Core) (i : BitVec 5) (v : Word) : (k.setS i v).askCount = k.askCount := by unfold Core.setS; split <;> rfl
@[simp] theorem Core.setS_dispatchLoop (k : Core) (i : BitVec 5) (v : Word) : (k.setS i v).dispatchLoop = k.dispatchLoop := by unfold Core.setS; split <;> rfl
@[simp] theorem Core.setS_exc (k : Core) (i : BitVec 5) (v : Word) : (k.setS i v).exc = k.exc := by unfold Core.setS; split <;> rfl
@[simp] theorem Core.setS_excPc (k : Core) (i : BitVec 5) (v : Word) : (k.setS i v).excPc = k.excPc := by unfold Core.setS; split <;> rfl
@[simp] theorem Core.setS_excQueue (k : Core) (i : BitVec 5) (v : Word) : (k.setS i v).excQueue = k.excQueue := by unfold Core.setS; split <;> rfl
@[simp] theorem Core.setS_excAddress (k : Core) (i : BitVec 5) (v : Word) : (k.setS i v).excAddress = k.excAddress := by unfold Core.setS; split <;> rfl
@[simp] theorem Core.setS_probing (k : Core) (i : BitVec 5) (v : Word) : (k.setS i v).probing = k.probing := by unfold Core.setS; split <;> rfl
@[simp] theorem Core.setS_recalling (k : Core) (i : BitVec 5) (v : Word) : (k.setS i v).recalling = k.recalling := by unfold Core.setS; split <;> rfl
@[simp] theorem Core.setS_reports (k : Core) (i : BitVec 5) (v : Word) : (k.setS i v).reports = k.reports := by unfold Core.setS; split <;> rfl

/-! ### Core.setV -/

@[simp] theorem Core.setV_regs (k : Core) (i : BitVec 5) (l : List Word) : (k.setV i l).regs = k.regs := by unfold Core.setV; rfl
@[simp] theorem Core.setV_pc (k : Core) (i : BitVec 5) (l : List Word) : (k.setV i l).pc = k.pc := by unfold Core.setV; rfl
@[simp] theorem Core.setV_dmem (k : Core) (i : BitVec 5) (l : List Word) : (k.setV i l).dmem = k.dmem := by unfold Core.setV; rfl
@[simp] theorem Core.setV_imem (k : Core) (i : BitVec 5) (l : List Word) : (k.setV i l).imem = k.imem := by unfold Core.setV; rfl
@[simp] theorem Core.setV_sems (k : Core) (i : BitVec 5) (l : List Word) : (k.setV i l).sems = k.sems := by unfold Core.setV; rfl
@[simp] theorem Core.setV_counters (k : Core) (i : BitVec 5) (l : List Word) : (k.setV i l).counters = k.counters := by unfold Core.setV; rfl
@[simp] theorem Core.setV_counterLatch (k : Core) (i : BitVec 5) (l : List Word) : (k.setV i l).counterLatch = k.counterLatch := by unfold Core.setV; rfl
@[simp] theorem Core.setV_counterReset (k : Core) (i : BitVec 5) (l : List Word) : (k.setV i l).counterReset = k.counterReset := by unfold Core.setV; rfl
@[simp] theorem Core.setV_coincident (k : Core) (i : BitVec 5) (l : List Word) : (k.setV i l).coincident = k.coincident := by unfold Core.setV; rfl
@[simp] theorem Core.setV_kernel (k : Core) (i : BitVec 5) (l : List Word) : (k.setV i l).kernel = k.kernel := by unfold Core.setV; rfl
@[simp] theorem Core.setV_grant (k : Core) (i : BitVec 5) (l : List Word) : (k.setV i l).grant = k.grant := by unfold Core.setV; rfl
@[simp] theorem Core.setV_prevNode (k : Core) (i : BitVec 5) (l : List Word) : (k.setV i l).prevNode = k.prevNode := by unfold Core.setV; rfl
@[simp] theorem Core.setV_ftz (k : Core) (i : BitVec 5) (l : List Word) : (k.setV i l).ftz = k.ftz := by unfold Core.setV; rfl
@[simp] theorem Core.setV_round (k : Core) (i : BitVec 5) (l : List Word) : (k.setV i l).round = k.round := by unfold Core.setV; rfl
@[simp] theorem Core.setV_flushed (k : Core) (i : BitVec 5) (l : List Word) : (k.setV i l).flushed = k.flushed := by unfold Core.setV; rfl
@[simp] theorem Core.setV_nanseen (k : Core) (i : BitVec 5) (l : List Word) : (k.setV i l).nanseen = k.nanseen := by unfold Core.setV; rfl
@[simp] theorem Core.setV_isat (k : Core) (i : BitVec 5) (l : List Word) : (k.setV i l).isat = k.isat := by unfold Core.setV; rfl
@[simp] theorem Core.setV_flushedEvents (k : Core) (i : BitVec 5) (l : List Word) : (k.setV i l).flushedEvents = k.flushedEvents := by unfold Core.setV; rfl
@[simp] theorem Core.setV_nanseenEvents (k : Core) (i : BitVec 5) (l : List Word) : (k.setV i l).nanseenEvents = k.nanseenEvents := by unfold Core.setV; rfl
@[simp] theorem Core.setV_isatEvents (k : Core) (i : BitVec 5) (l : List Word) : (k.setV i l).isatEvents = k.isatEvents := by unfold Core.setV; rfl
@[simp] theorem Core.setV_timeHi (k : Core) (i : BitVec 5) (l : List Word) : (k.setV i l).timeHi = k.timeHi := by unfold Core.setV; rfl
@[simp] theorem Core.setV_items (k : Core) (i : BitVec 5) (l : List Word) : (k.setV i l).items = k.items := by unfold Core.setV; rfl
@[simp] theorem Core.setV_stationary (k : Core) (i : BitVec 5) (l : List Word) : (k.setV i l).stationary = k.stationary := by unfold Core.setV; rfl
@[simp] theorem Core.setV_shadow (k : Core) (i : BitVec 5) (l : List Word) : (k.setV i l).shadow = k.shadow := by unfold Core.setV; rfl
@[simp] theorem Core.setV_loaderBusy (k : Core) (i : BitVec 5) (l : List Word) : (k.setV i l).loaderBusy = k.loaderBusy := by unfold Core.setV; rfl
@[simp] theorem Core.setV_onesUntil (k : Core) (i : BitVec 5) (l : List Word) : (k.setV i l).onesUntil = k.onesUntil := by unfold Core.setV; rfl
@[simp] theorem Core.setV_lastRows (k : Core) (i : BitVec 5) (l : List Word) : (k.setV i l).lastRows = k.lastRows := by unfold Core.setV; rfl
@[simp] theorem Core.setV_slots (k : Core) (i : BitVec 5) (l : List Word) : (k.setV i l).slots = k.slots := by unfold Core.setV; rfl
@[simp] theorem Core.setV_inflight (k : Core) (i : BitVec 5) (l : List Word) : (k.setV i l).inflight = k.inflight := by unfold Core.setV; rfl
@[simp] theorem Core.setV_nextId (k : Core) (i : BitVec 5) (l : List Word) : (k.setV i l).nextId = k.nextId := by unfold Core.setV; rfl
@[simp] theorem Core.setV_front (k : Core) (i : BitVec 5) (l : List Word) : (k.setV i l).front = k.front := by unfold Core.setV; rfl
@[simp] theorem Core.setV_resume (k : Core) (i : BitVec 5) (l : List Word) : (k.setV i l).resume = k.resume := by unfold Core.setV; rfl
@[simp] theorem Core.setV_askCount (k : Core) (i : BitVec 5) (l : List Word) : (k.setV i l).askCount = k.askCount := by unfold Core.setV; rfl
@[simp] theorem Core.setV_dispatchLoop (k : Core) (i : BitVec 5) (l : List Word) : (k.setV i l).dispatchLoop = k.dispatchLoop := by unfold Core.setV; rfl
@[simp] theorem Core.setV_exc (k : Core) (i : BitVec 5) (l : List Word) : (k.setV i l).exc = k.exc := by unfold Core.setV; rfl
@[simp] theorem Core.setV_excPc (k : Core) (i : BitVec 5) (l : List Word) : (k.setV i l).excPc = k.excPc := by unfold Core.setV; rfl
@[simp] theorem Core.setV_excQueue (k : Core) (i : BitVec 5) (l : List Word) : (k.setV i l).excQueue = k.excQueue := by unfold Core.setV; rfl
@[simp] theorem Core.setV_excAddress (k : Core) (i : BitVec 5) (l : List Word) : (k.setV i l).excAddress = k.excAddress := by unfold Core.setV; rfl
@[simp] theorem Core.setV_probing (k : Core) (i : BitVec 5) (l : List Word) : (k.setV i l).probing = k.probing := by unfold Core.setV; rfl
@[simp] theorem Core.setV_recalling (k : Core) (i : BitVec 5) (l : List Word) : (k.setV i l).recalling = k.recalling := by unfold Core.setV; rfl
@[simp] theorem Core.setV_reports (k : Core) (i : BitVec 5) (l : List Word) : (k.setV i l).reports = k.reports := by unfold Core.setV; rfl

/-! ### Core.setFlushed -/

@[simp] theorem Core.setFlushed_regs (k : Core) (b : Bool) : (k.setFlushed b).regs = k.regs := by unfold Core.setFlushed; split <;> rfl
@[simp] theorem Core.setFlushed_vregs (k : Core) (b : Bool) : (k.setFlushed b).vregs = k.vregs := by unfold Core.setFlushed; split <;> rfl
@[simp] theorem Core.setFlushed_pc (k : Core) (b : Bool) : (k.setFlushed b).pc = k.pc := by unfold Core.setFlushed; split <;> rfl
@[simp] theorem Core.setFlushed_dmem (k : Core) (b : Bool) : (k.setFlushed b).dmem = k.dmem := by unfold Core.setFlushed; split <;> rfl
@[simp] theorem Core.setFlushed_imem (k : Core) (b : Bool) : (k.setFlushed b).imem = k.imem := by unfold Core.setFlushed; split <;> rfl
@[simp] theorem Core.setFlushed_sems (k : Core) (b : Bool) : (k.setFlushed b).sems = k.sems := by unfold Core.setFlushed; split <;> rfl
@[simp] theorem Core.setFlushed_counters (k : Core) (b : Bool) : (k.setFlushed b).counters = k.counters := by unfold Core.setFlushed; split <;> rfl
@[simp] theorem Core.setFlushed_counterLatch (k : Core) (b : Bool) : (k.setFlushed b).counterLatch = k.counterLatch := by unfold Core.setFlushed; split <;> rfl
@[simp] theorem Core.setFlushed_counterReset (k : Core) (b : Bool) : (k.setFlushed b).counterReset = k.counterReset := by unfold Core.setFlushed; split <;> rfl
@[simp] theorem Core.setFlushed_coincident (k : Core) (b : Bool) : (k.setFlushed b).coincident = k.coincident := by unfold Core.setFlushed; split <;> rfl
@[simp] theorem Core.setFlushed_kernel (k : Core) (b : Bool) : (k.setFlushed b).kernel = k.kernel := by unfold Core.setFlushed; split <;> rfl
@[simp] theorem Core.setFlushed_grant (k : Core) (b : Bool) : (k.setFlushed b).grant = k.grant := by unfold Core.setFlushed; split <;> rfl
@[simp] theorem Core.setFlushed_prevNode (k : Core) (b : Bool) : (k.setFlushed b).prevNode = k.prevNode := by unfold Core.setFlushed; split <;> rfl
@[simp] theorem Core.setFlushed_ftz (k : Core) (b : Bool) : (k.setFlushed b).ftz = k.ftz := by unfold Core.setFlushed; split <;> rfl
@[simp] theorem Core.setFlushed_round (k : Core) (b : Bool) : (k.setFlushed b).round = k.round := by unfold Core.setFlushed; split <;> rfl
@[simp] theorem Core.setFlushed_nanseen (k : Core) (b : Bool) : (k.setFlushed b).nanseen = k.nanseen := by unfold Core.setFlushed; split <;> rfl
@[simp] theorem Core.setFlushed_isat (k : Core) (b : Bool) : (k.setFlushed b).isat = k.isat := by unfold Core.setFlushed; split <;> rfl
@[simp] theorem Core.setFlushed_nanseenEvents (k : Core) (b : Bool) : (k.setFlushed b).nanseenEvents = k.nanseenEvents := by unfold Core.setFlushed; split <;> rfl
@[simp] theorem Core.setFlushed_isatEvents (k : Core) (b : Bool) : (k.setFlushed b).isatEvents = k.isatEvents := by unfold Core.setFlushed; split <;> rfl
@[simp] theorem Core.setFlushed_timeHi (k : Core) (b : Bool) : (k.setFlushed b).timeHi = k.timeHi := by unfold Core.setFlushed; split <;> rfl
@[simp] theorem Core.setFlushed_items (k : Core) (b : Bool) : (k.setFlushed b).items = k.items := by unfold Core.setFlushed; split <;> rfl
@[simp] theorem Core.setFlushed_stationary (k : Core) (b : Bool) : (k.setFlushed b).stationary = k.stationary := by unfold Core.setFlushed; split <;> rfl
@[simp] theorem Core.setFlushed_shadow (k : Core) (b : Bool) : (k.setFlushed b).shadow = k.shadow := by unfold Core.setFlushed; split <;> rfl
@[simp] theorem Core.setFlushed_loaderBusy (k : Core) (b : Bool) : (k.setFlushed b).loaderBusy = k.loaderBusy := by unfold Core.setFlushed; split <;> rfl
@[simp] theorem Core.setFlushed_onesUntil (k : Core) (b : Bool) : (k.setFlushed b).onesUntil = k.onesUntil := by unfold Core.setFlushed; split <;> rfl
@[simp] theorem Core.setFlushed_lastRows (k : Core) (b : Bool) : (k.setFlushed b).lastRows = k.lastRows := by unfold Core.setFlushed; split <;> rfl
@[simp] theorem Core.setFlushed_slots (k : Core) (b : Bool) : (k.setFlushed b).slots = k.slots := by unfold Core.setFlushed; split <;> rfl
@[simp] theorem Core.setFlushed_inflight (k : Core) (b : Bool) : (k.setFlushed b).inflight = k.inflight := by unfold Core.setFlushed; split <;> rfl
@[simp] theorem Core.setFlushed_nextId (k : Core) (b : Bool) : (k.setFlushed b).nextId = k.nextId := by unfold Core.setFlushed; split <;> rfl
@[simp] theorem Core.setFlushed_front (k : Core) (b : Bool) : (k.setFlushed b).front = k.front := by unfold Core.setFlushed; split <;> rfl
@[simp] theorem Core.setFlushed_resume (k : Core) (b : Bool) : (k.setFlushed b).resume = k.resume := by unfold Core.setFlushed; split <;> rfl
@[simp] theorem Core.setFlushed_askCount (k : Core) (b : Bool) : (k.setFlushed b).askCount = k.askCount := by unfold Core.setFlushed; split <;> rfl
@[simp] theorem Core.setFlushed_dispatchLoop (k : Core) (b : Bool) : (k.setFlushed b).dispatchLoop = k.dispatchLoop := by unfold Core.setFlushed; split <;> rfl
@[simp] theorem Core.setFlushed_exc (k : Core) (b : Bool) : (k.setFlushed b).exc = k.exc := by unfold Core.setFlushed; split <;> rfl
@[simp] theorem Core.setFlushed_excPc (k : Core) (b : Bool) : (k.setFlushed b).excPc = k.excPc := by unfold Core.setFlushed; split <;> rfl
@[simp] theorem Core.setFlushed_excQueue (k : Core) (b : Bool) : (k.setFlushed b).excQueue = k.excQueue := by unfold Core.setFlushed; split <;> rfl
@[simp] theorem Core.setFlushed_excAddress (k : Core) (b : Bool) : (k.setFlushed b).excAddress = k.excAddress := by unfold Core.setFlushed; split <;> rfl
@[simp] theorem Core.setFlushed_probing (k : Core) (b : Bool) : (k.setFlushed b).probing = k.probing := by unfold Core.setFlushed; split <;> rfl
@[simp] theorem Core.setFlushed_recalling (k : Core) (b : Bool) : (k.setFlushed b).recalling = k.recalling := by unfold Core.setFlushed; split <;> rfl
@[simp] theorem Core.setFlushed_reports (k : Core) (b : Bool) : (k.setFlushed b).reports = k.reports := by unfold Core.setFlushed; split <;> rfl

/-! ### Core.setNanSeen -/

@[simp] theorem Core.setNanSeen_regs (k : Core) (b : Bool) : (k.setNanSeen b).regs = k.regs := by unfold Core.setNanSeen; split <;> rfl
@[simp] theorem Core.setNanSeen_vregs (k : Core) (b : Bool) : (k.setNanSeen b).vregs = k.vregs := by unfold Core.setNanSeen; split <;> rfl
@[simp] theorem Core.setNanSeen_pc (k : Core) (b : Bool) : (k.setNanSeen b).pc = k.pc := by unfold Core.setNanSeen; split <;> rfl
@[simp] theorem Core.setNanSeen_dmem (k : Core) (b : Bool) : (k.setNanSeen b).dmem = k.dmem := by unfold Core.setNanSeen; split <;> rfl
@[simp] theorem Core.setNanSeen_imem (k : Core) (b : Bool) : (k.setNanSeen b).imem = k.imem := by unfold Core.setNanSeen; split <;> rfl
@[simp] theorem Core.setNanSeen_sems (k : Core) (b : Bool) : (k.setNanSeen b).sems = k.sems := by unfold Core.setNanSeen; split <;> rfl
@[simp] theorem Core.setNanSeen_counters (k : Core) (b : Bool) : (k.setNanSeen b).counters = k.counters := by unfold Core.setNanSeen; split <;> rfl
@[simp] theorem Core.setNanSeen_counterLatch (k : Core) (b : Bool) : (k.setNanSeen b).counterLatch = k.counterLatch := by unfold Core.setNanSeen; split <;> rfl
@[simp] theorem Core.setNanSeen_counterReset (k : Core) (b : Bool) : (k.setNanSeen b).counterReset = k.counterReset := by unfold Core.setNanSeen; split <;> rfl
@[simp] theorem Core.setNanSeen_coincident (k : Core) (b : Bool) : (k.setNanSeen b).coincident = k.coincident := by unfold Core.setNanSeen; split <;> rfl
@[simp] theorem Core.setNanSeen_kernel (k : Core) (b : Bool) : (k.setNanSeen b).kernel = k.kernel := by unfold Core.setNanSeen; split <;> rfl
@[simp] theorem Core.setNanSeen_grant (k : Core) (b : Bool) : (k.setNanSeen b).grant = k.grant := by unfold Core.setNanSeen; split <;> rfl
@[simp] theorem Core.setNanSeen_prevNode (k : Core) (b : Bool) : (k.setNanSeen b).prevNode = k.prevNode := by unfold Core.setNanSeen; split <;> rfl
@[simp] theorem Core.setNanSeen_ftz (k : Core) (b : Bool) : (k.setNanSeen b).ftz = k.ftz := by unfold Core.setNanSeen; split <;> rfl
@[simp] theorem Core.setNanSeen_round (k : Core) (b : Bool) : (k.setNanSeen b).round = k.round := by unfold Core.setNanSeen; split <;> rfl
@[simp] theorem Core.setNanSeen_flushed (k : Core) (b : Bool) : (k.setNanSeen b).flushed = k.flushed := by unfold Core.setNanSeen; split <;> rfl
@[simp] theorem Core.setNanSeen_isat (k : Core) (b : Bool) : (k.setNanSeen b).isat = k.isat := by unfold Core.setNanSeen; split <;> rfl
@[simp] theorem Core.setNanSeen_flushedEvents (k : Core) (b : Bool) : (k.setNanSeen b).flushedEvents = k.flushedEvents := by unfold Core.setNanSeen; split <;> rfl
@[simp] theorem Core.setNanSeen_isatEvents (k : Core) (b : Bool) : (k.setNanSeen b).isatEvents = k.isatEvents := by unfold Core.setNanSeen; split <;> rfl
@[simp] theorem Core.setNanSeen_timeHi (k : Core) (b : Bool) : (k.setNanSeen b).timeHi = k.timeHi := by unfold Core.setNanSeen; split <;> rfl
@[simp] theorem Core.setNanSeen_items (k : Core) (b : Bool) : (k.setNanSeen b).items = k.items := by unfold Core.setNanSeen; split <;> rfl
@[simp] theorem Core.setNanSeen_stationary (k : Core) (b : Bool) : (k.setNanSeen b).stationary = k.stationary := by unfold Core.setNanSeen; split <;> rfl
@[simp] theorem Core.setNanSeen_shadow (k : Core) (b : Bool) : (k.setNanSeen b).shadow = k.shadow := by unfold Core.setNanSeen; split <;> rfl
@[simp] theorem Core.setNanSeen_loaderBusy (k : Core) (b : Bool) : (k.setNanSeen b).loaderBusy = k.loaderBusy := by unfold Core.setNanSeen; split <;> rfl
@[simp] theorem Core.setNanSeen_onesUntil (k : Core) (b : Bool) : (k.setNanSeen b).onesUntil = k.onesUntil := by unfold Core.setNanSeen; split <;> rfl
@[simp] theorem Core.setNanSeen_lastRows (k : Core) (b : Bool) : (k.setNanSeen b).lastRows = k.lastRows := by unfold Core.setNanSeen; split <;> rfl
@[simp] theorem Core.setNanSeen_slots (k : Core) (b : Bool) : (k.setNanSeen b).slots = k.slots := by unfold Core.setNanSeen; split <;> rfl
@[simp] theorem Core.setNanSeen_inflight (k : Core) (b : Bool) : (k.setNanSeen b).inflight = k.inflight := by unfold Core.setNanSeen; split <;> rfl
@[simp] theorem Core.setNanSeen_nextId (k : Core) (b : Bool) : (k.setNanSeen b).nextId = k.nextId := by unfold Core.setNanSeen; split <;> rfl
@[simp] theorem Core.setNanSeen_front (k : Core) (b : Bool) : (k.setNanSeen b).front = k.front := by unfold Core.setNanSeen; split <;> rfl
@[simp] theorem Core.setNanSeen_resume (k : Core) (b : Bool) : (k.setNanSeen b).resume = k.resume := by unfold Core.setNanSeen; split <;> rfl
@[simp] theorem Core.setNanSeen_askCount (k : Core) (b : Bool) : (k.setNanSeen b).askCount = k.askCount := by unfold Core.setNanSeen; split <;> rfl
@[simp] theorem Core.setNanSeen_dispatchLoop (k : Core) (b : Bool) : (k.setNanSeen b).dispatchLoop = k.dispatchLoop := by unfold Core.setNanSeen; split <;> rfl
@[simp] theorem Core.setNanSeen_exc (k : Core) (b : Bool) : (k.setNanSeen b).exc = k.exc := by unfold Core.setNanSeen; split <;> rfl
@[simp] theorem Core.setNanSeen_excPc (k : Core) (b : Bool) : (k.setNanSeen b).excPc = k.excPc := by unfold Core.setNanSeen; split <;> rfl
@[simp] theorem Core.setNanSeen_excQueue (k : Core) (b : Bool) : (k.setNanSeen b).excQueue = k.excQueue := by unfold Core.setNanSeen; split <;> rfl
@[simp] theorem Core.setNanSeen_excAddress (k : Core) (b : Bool) : (k.setNanSeen b).excAddress = k.excAddress := by unfold Core.setNanSeen; split <;> rfl
@[simp] theorem Core.setNanSeen_probing (k : Core) (b : Bool) : (k.setNanSeen b).probing = k.probing := by unfold Core.setNanSeen; split <;> rfl
@[simp] theorem Core.setNanSeen_recalling (k : Core) (b : Bool) : (k.setNanSeen b).recalling = k.recalling := by unfold Core.setNanSeen; split <;> rfl
@[simp] theorem Core.setNanSeen_reports (k : Core) (b : Bool) : (k.setNanSeen b).reports = k.reports := by unfold Core.setNanSeen; split <;> rfl

/-! ### Core.setIsat -/

@[simp] theorem Core.setIsat_regs (k : Core) (b : Bool) : (k.setIsat b).regs = k.regs := by unfold Core.setIsat; split <;> rfl
@[simp] theorem Core.setIsat_vregs (k : Core) (b : Bool) : (k.setIsat b).vregs = k.vregs := by unfold Core.setIsat; split <;> rfl
@[simp] theorem Core.setIsat_pc (k : Core) (b : Bool) : (k.setIsat b).pc = k.pc := by unfold Core.setIsat; split <;> rfl
@[simp] theorem Core.setIsat_dmem (k : Core) (b : Bool) : (k.setIsat b).dmem = k.dmem := by unfold Core.setIsat; split <;> rfl
@[simp] theorem Core.setIsat_imem (k : Core) (b : Bool) : (k.setIsat b).imem = k.imem := by unfold Core.setIsat; split <;> rfl
@[simp] theorem Core.setIsat_sems (k : Core) (b : Bool) : (k.setIsat b).sems = k.sems := by unfold Core.setIsat; split <;> rfl
@[simp] theorem Core.setIsat_counters (k : Core) (b : Bool) : (k.setIsat b).counters = k.counters := by unfold Core.setIsat; split <;> rfl
@[simp] theorem Core.setIsat_counterLatch (k : Core) (b : Bool) : (k.setIsat b).counterLatch = k.counterLatch := by unfold Core.setIsat; split <;> rfl
@[simp] theorem Core.setIsat_counterReset (k : Core) (b : Bool) : (k.setIsat b).counterReset = k.counterReset := by unfold Core.setIsat; split <;> rfl
@[simp] theorem Core.setIsat_coincident (k : Core) (b : Bool) : (k.setIsat b).coincident = k.coincident := by unfold Core.setIsat; split <;> rfl
@[simp] theorem Core.setIsat_kernel (k : Core) (b : Bool) : (k.setIsat b).kernel = k.kernel := by unfold Core.setIsat; split <;> rfl
@[simp] theorem Core.setIsat_grant (k : Core) (b : Bool) : (k.setIsat b).grant = k.grant := by unfold Core.setIsat; split <;> rfl
@[simp] theorem Core.setIsat_prevNode (k : Core) (b : Bool) : (k.setIsat b).prevNode = k.prevNode := by unfold Core.setIsat; split <;> rfl
@[simp] theorem Core.setIsat_ftz (k : Core) (b : Bool) : (k.setIsat b).ftz = k.ftz := by unfold Core.setIsat; split <;> rfl
@[simp] theorem Core.setIsat_round (k : Core) (b : Bool) : (k.setIsat b).round = k.round := by unfold Core.setIsat; split <;> rfl
@[simp] theorem Core.setIsat_flushed (k : Core) (b : Bool) : (k.setIsat b).flushed = k.flushed := by unfold Core.setIsat; split <;> rfl
@[simp] theorem Core.setIsat_nanseen (k : Core) (b : Bool) : (k.setIsat b).nanseen = k.nanseen := by unfold Core.setIsat; split <;> rfl
@[simp] theorem Core.setIsat_flushedEvents (k : Core) (b : Bool) : (k.setIsat b).flushedEvents = k.flushedEvents := by unfold Core.setIsat; split <;> rfl
@[simp] theorem Core.setIsat_nanseenEvents (k : Core) (b : Bool) : (k.setIsat b).nanseenEvents = k.nanseenEvents := by unfold Core.setIsat; split <;> rfl
@[simp] theorem Core.setIsat_timeHi (k : Core) (b : Bool) : (k.setIsat b).timeHi = k.timeHi := by unfold Core.setIsat; split <;> rfl
@[simp] theorem Core.setIsat_items (k : Core) (b : Bool) : (k.setIsat b).items = k.items := by unfold Core.setIsat; split <;> rfl
@[simp] theorem Core.setIsat_stationary (k : Core) (b : Bool) : (k.setIsat b).stationary = k.stationary := by unfold Core.setIsat; split <;> rfl
@[simp] theorem Core.setIsat_shadow (k : Core) (b : Bool) : (k.setIsat b).shadow = k.shadow := by unfold Core.setIsat; split <;> rfl
@[simp] theorem Core.setIsat_loaderBusy (k : Core) (b : Bool) : (k.setIsat b).loaderBusy = k.loaderBusy := by unfold Core.setIsat; split <;> rfl
@[simp] theorem Core.setIsat_onesUntil (k : Core) (b : Bool) : (k.setIsat b).onesUntil = k.onesUntil := by unfold Core.setIsat; split <;> rfl
@[simp] theorem Core.setIsat_lastRows (k : Core) (b : Bool) : (k.setIsat b).lastRows = k.lastRows := by unfold Core.setIsat; split <;> rfl
@[simp] theorem Core.setIsat_slots (k : Core) (b : Bool) : (k.setIsat b).slots = k.slots := by unfold Core.setIsat; split <;> rfl
@[simp] theorem Core.setIsat_inflight (k : Core) (b : Bool) : (k.setIsat b).inflight = k.inflight := by unfold Core.setIsat; split <;> rfl
@[simp] theorem Core.setIsat_nextId (k : Core) (b : Bool) : (k.setIsat b).nextId = k.nextId := by unfold Core.setIsat; split <;> rfl
@[simp] theorem Core.setIsat_front (k : Core) (b : Bool) : (k.setIsat b).front = k.front := by unfold Core.setIsat; split <;> rfl
@[simp] theorem Core.setIsat_resume (k : Core) (b : Bool) : (k.setIsat b).resume = k.resume := by unfold Core.setIsat; split <;> rfl
@[simp] theorem Core.setIsat_askCount (k : Core) (b : Bool) : (k.setIsat b).askCount = k.askCount := by unfold Core.setIsat; split <;> rfl
@[simp] theorem Core.setIsat_dispatchLoop (k : Core) (b : Bool) : (k.setIsat b).dispatchLoop = k.dispatchLoop := by unfold Core.setIsat; split <;> rfl
@[simp] theorem Core.setIsat_exc (k : Core) (b : Bool) : (k.setIsat b).exc = k.exc := by unfold Core.setIsat; split <;> rfl
@[simp] theorem Core.setIsat_excPc (k : Core) (b : Bool) : (k.setIsat b).excPc = k.excPc := by unfold Core.setIsat; split <;> rfl
@[simp] theorem Core.setIsat_excQueue (k : Core) (b : Bool) : (k.setIsat b).excQueue = k.excQueue := by unfold Core.setIsat; split <;> rfl
@[simp] theorem Core.setIsat_excAddress (k : Core) (b : Bool) : (k.setIsat b).excAddress = k.excAddress := by unfold Core.setIsat; split <;> rfl
@[simp] theorem Core.setIsat_probing (k : Core) (b : Bool) : (k.setIsat b).probing = k.probing := by unfold Core.setIsat; split <;> rfl
@[simp] theorem Core.setIsat_recalling (k : Core) (b : Bool) : (k.setIsat b).recalling = k.recalling := by unfold Core.setIsat; split <;> rfl
@[simp] theorem Core.setIsat_reports (k : Core) (b : Bool) : (k.setIsat b).reports = k.reports := by unfold Core.setIsat; split <;> rfl

/-! ### Core.clearFlags -/

@[simp] theorem Core.clearFlags_regs (k : Core) (v : Word) : (k.clearFlags v).regs = k.regs := rfl
@[simp] theorem Core.clearFlags_vregs (k : Core) (v : Word) : (k.clearFlags v).vregs = k.vregs := rfl
@[simp] theorem Core.clearFlags_pc (k : Core) (v : Word) : (k.clearFlags v).pc = k.pc := rfl
@[simp] theorem Core.clearFlags_dmem (k : Core) (v : Word) : (k.clearFlags v).dmem = k.dmem := rfl
@[simp] theorem Core.clearFlags_imem (k : Core) (v : Word) : (k.clearFlags v).imem = k.imem := rfl
@[simp] theorem Core.clearFlags_sems (k : Core) (v : Word) : (k.clearFlags v).sems = k.sems := rfl
@[simp] theorem Core.clearFlags_counters (k : Core) (v : Word) : (k.clearFlags v).counters = k.counters := rfl
@[simp] theorem Core.clearFlags_counterLatch (k : Core) (v : Word) : (k.clearFlags v).counterLatch = k.counterLatch := rfl
@[simp] theorem Core.clearFlags_counterReset (k : Core) (v : Word) : (k.clearFlags v).counterReset = k.counterReset := rfl
@[simp] theorem Core.clearFlags_coincident (k : Core) (v : Word) : (k.clearFlags v).coincident = k.coincident := rfl
@[simp] theorem Core.clearFlags_kernel (k : Core) (v : Word) : (k.clearFlags v).kernel = k.kernel := rfl
@[simp] theorem Core.clearFlags_grant (k : Core) (v : Word) : (k.clearFlags v).grant = k.grant := rfl
@[simp] theorem Core.clearFlags_prevNode (k : Core) (v : Word) : (k.clearFlags v).prevNode = k.prevNode := rfl
@[simp] theorem Core.clearFlags_ftz (k : Core) (v : Word) : (k.clearFlags v).ftz = k.ftz := rfl
@[simp] theorem Core.clearFlags_round (k : Core) (v : Word) : (k.clearFlags v).round = k.round := rfl
@[simp] theorem Core.clearFlags_flushedEvents (k : Core) (v : Word) : (k.clearFlags v).flushedEvents = k.flushedEvents := rfl
@[simp] theorem Core.clearFlags_nanseenEvents (k : Core) (v : Word) : (k.clearFlags v).nanseenEvents = k.nanseenEvents := rfl
@[simp] theorem Core.clearFlags_isatEvents (k : Core) (v : Word) : (k.clearFlags v).isatEvents = k.isatEvents := rfl
@[simp] theorem Core.clearFlags_timeHi (k : Core) (v : Word) : (k.clearFlags v).timeHi = k.timeHi := rfl
@[simp] theorem Core.clearFlags_items (k : Core) (v : Word) : (k.clearFlags v).items = k.items := rfl
@[simp] theorem Core.clearFlags_stationary (k : Core) (v : Word) : (k.clearFlags v).stationary = k.stationary := rfl
@[simp] theorem Core.clearFlags_shadow (k : Core) (v : Word) : (k.clearFlags v).shadow = k.shadow := rfl
@[simp] theorem Core.clearFlags_loaderBusy (k : Core) (v : Word) : (k.clearFlags v).loaderBusy = k.loaderBusy := rfl
@[simp] theorem Core.clearFlags_onesUntil (k : Core) (v : Word) : (k.clearFlags v).onesUntil = k.onesUntil := rfl
@[simp] theorem Core.clearFlags_lastRows (k : Core) (v : Word) : (k.clearFlags v).lastRows = k.lastRows := rfl
@[simp] theorem Core.clearFlags_slots (k : Core) (v : Word) : (k.clearFlags v).slots = k.slots := rfl
@[simp] theorem Core.clearFlags_inflight (k : Core) (v : Word) : (k.clearFlags v).inflight = k.inflight := rfl
@[simp] theorem Core.clearFlags_nextId (k : Core) (v : Word) : (k.clearFlags v).nextId = k.nextId := rfl
@[simp] theorem Core.clearFlags_front (k : Core) (v : Word) : (k.clearFlags v).front = k.front := rfl
@[simp] theorem Core.clearFlags_resume (k : Core) (v : Word) : (k.clearFlags v).resume = k.resume := rfl
@[simp] theorem Core.clearFlags_askCount (k : Core) (v : Word) : (k.clearFlags v).askCount = k.askCount := rfl
@[simp] theorem Core.clearFlags_dispatchLoop (k : Core) (v : Word) : (k.clearFlags v).dispatchLoop = k.dispatchLoop := rfl
@[simp] theorem Core.clearFlags_exc (k : Core) (v : Word) : (k.clearFlags v).exc = k.exc := rfl
@[simp] theorem Core.clearFlags_excPc (k : Core) (v : Word) : (k.clearFlags v).excPc = k.excPc := rfl
@[simp] theorem Core.clearFlags_excQueue (k : Core) (v : Word) : (k.clearFlags v).excQueue = k.excQueue := rfl
@[simp] theorem Core.clearFlags_excAddress (k : Core) (v : Word) : (k.clearFlags v).excAddress = k.excAddress := rfl
@[simp] theorem Core.clearFlags_probing (k : Core) (v : Word) : (k.clearFlags v).probing = k.probing := rfl
@[simp] theorem Core.clearFlags_recalling (k : Core) (v : Word) : (k.clearFlags v).recalling = k.recalling := rfl
@[simp] theorem Core.clearFlags_reports (k : Core) (v : Word) : (k.clearFlags v).reports = k.reports := rfl

/-! ### Core.updItem -/

@[simp] theorem Core.updItem_regs (k : Core) (n : Nat) (u : ItemState → ItemState) : (k.updItem n u).regs = k.regs := rfl
@[simp] theorem Core.updItem_vregs (k : Core) (n : Nat) (u : ItemState → ItemState) : (k.updItem n u).vregs = k.vregs := rfl
@[simp] theorem Core.updItem_pc (k : Core) (n : Nat) (u : ItemState → ItemState) : (k.updItem n u).pc = k.pc := rfl
@[simp] theorem Core.updItem_dmem (k : Core) (n : Nat) (u : ItemState → ItemState) : (k.updItem n u).dmem = k.dmem := rfl
@[simp] theorem Core.updItem_imem (k : Core) (n : Nat) (u : ItemState → ItemState) : (k.updItem n u).imem = k.imem := rfl
@[simp] theorem Core.updItem_sems (k : Core) (n : Nat) (u : ItemState → ItemState) : (k.updItem n u).sems = k.sems := rfl
@[simp] theorem Core.updItem_counters (k : Core) (n : Nat) (u : ItemState → ItemState) : (k.updItem n u).counters = k.counters := rfl
@[simp] theorem Core.updItem_counterLatch (k : Core) (n : Nat) (u : ItemState → ItemState) : (k.updItem n u).counterLatch = k.counterLatch := rfl
@[simp] theorem Core.updItem_counterReset (k : Core) (n : Nat) (u : ItemState → ItemState) : (k.updItem n u).counterReset = k.counterReset := rfl
@[simp] theorem Core.updItem_coincident (k : Core) (n : Nat) (u : ItemState → ItemState) : (k.updItem n u).coincident = k.coincident := rfl
@[simp] theorem Core.updItem_kernel (k : Core) (n : Nat) (u : ItemState → ItemState) : (k.updItem n u).kernel = k.kernel := rfl
@[simp] theorem Core.updItem_grant (k : Core) (n : Nat) (u : ItemState → ItemState) : (k.updItem n u).grant = k.grant := rfl
@[simp] theorem Core.updItem_prevNode (k : Core) (n : Nat) (u : ItemState → ItemState) : (k.updItem n u).prevNode = k.prevNode := rfl
@[simp] theorem Core.updItem_ftz (k : Core) (n : Nat) (u : ItemState → ItemState) : (k.updItem n u).ftz = k.ftz := rfl
@[simp] theorem Core.updItem_round (k : Core) (n : Nat) (u : ItemState → ItemState) : (k.updItem n u).round = k.round := rfl
@[simp] theorem Core.updItem_flushed (k : Core) (n : Nat) (u : ItemState → ItemState) : (k.updItem n u).flushed = k.flushed := rfl
@[simp] theorem Core.updItem_nanseen (k : Core) (n : Nat) (u : ItemState → ItemState) : (k.updItem n u).nanseen = k.nanseen := rfl
@[simp] theorem Core.updItem_isat (k : Core) (n : Nat) (u : ItemState → ItemState) : (k.updItem n u).isat = k.isat := rfl
@[simp] theorem Core.updItem_flushedEvents (k : Core) (n : Nat) (u : ItemState → ItemState) : (k.updItem n u).flushedEvents = k.flushedEvents := rfl
@[simp] theorem Core.updItem_nanseenEvents (k : Core) (n : Nat) (u : ItemState → ItemState) : (k.updItem n u).nanseenEvents = k.nanseenEvents := rfl
@[simp] theorem Core.updItem_isatEvents (k : Core) (n : Nat) (u : ItemState → ItemState) : (k.updItem n u).isatEvents = k.isatEvents := rfl
@[simp] theorem Core.updItem_timeHi (k : Core) (n : Nat) (u : ItemState → ItemState) : (k.updItem n u).timeHi = k.timeHi := rfl
@[simp] theorem Core.updItem_stationary (k : Core) (n : Nat) (u : ItemState → ItemState) : (k.updItem n u).stationary = k.stationary := rfl
@[simp] theorem Core.updItem_shadow (k : Core) (n : Nat) (u : ItemState → ItemState) : (k.updItem n u).shadow = k.shadow := rfl
@[simp] theorem Core.updItem_loaderBusy (k : Core) (n : Nat) (u : ItemState → ItemState) : (k.updItem n u).loaderBusy = k.loaderBusy := rfl
@[simp] theorem Core.updItem_onesUntil (k : Core) (n : Nat) (u : ItemState → ItemState) : (k.updItem n u).onesUntil = k.onesUntil := rfl
@[simp] theorem Core.updItem_lastRows (k : Core) (n : Nat) (u : ItemState → ItemState) : (k.updItem n u).lastRows = k.lastRows := rfl
@[simp] theorem Core.updItem_slots (k : Core) (n : Nat) (u : ItemState → ItemState) : (k.updItem n u).slots = k.slots := rfl
@[simp] theorem Core.updItem_inflight (k : Core) (n : Nat) (u : ItemState → ItemState) : (k.updItem n u).inflight = k.inflight := rfl
@[simp] theorem Core.updItem_nextId (k : Core) (n : Nat) (u : ItemState → ItemState) : (k.updItem n u).nextId = k.nextId := rfl
@[simp] theorem Core.updItem_front (k : Core) (n : Nat) (u : ItemState → ItemState) : (k.updItem n u).front = k.front := rfl
@[simp] theorem Core.updItem_resume (k : Core) (n : Nat) (u : ItemState → ItemState) : (k.updItem n u).resume = k.resume := rfl
@[simp] theorem Core.updItem_askCount (k : Core) (n : Nat) (u : ItemState → ItemState) : (k.updItem n u).askCount = k.askCount := rfl
@[simp] theorem Core.updItem_dispatchLoop (k : Core) (n : Nat) (u : ItemState → ItemState) : (k.updItem n u).dispatchLoop = k.dispatchLoop := rfl
@[simp] theorem Core.updItem_exc (k : Core) (n : Nat) (u : ItemState → ItemState) : (k.updItem n u).exc = k.exc := rfl
@[simp] theorem Core.updItem_excPc (k : Core) (n : Nat) (u : ItemState → ItemState) : (k.updItem n u).excPc = k.excPc := rfl
@[simp] theorem Core.updItem_excQueue (k : Core) (n : Nat) (u : ItemState → ItemState) : (k.updItem n u).excQueue = k.excQueue := rfl
@[simp] theorem Core.updItem_excAddress (k : Core) (n : Nat) (u : ItemState → ItemState) : (k.updItem n u).excAddress = k.excAddress := rfl
@[simp] theorem Core.updItem_probing (k : Core) (n : Nat) (u : ItemState → ItemState) : (k.updItem n u).probing = k.probing := rfl
@[simp] theorem Core.updItem_recalling (k : Core) (n : Nat) (u : ItemState → ItemState) : (k.updItem n u).recalling = k.recalling := rfl
@[simp] theorem Core.updItem_reports (k : Core) (n : Nat) (u : ItemState → ItemState) : (k.updItem n u).reports = k.reports := rfl

/-! ### Core.addEvents -/

@[simp] theorem Core.addEvents_regs (k : Core) (i sat nan : Nat) : (k.addEvents i sat nan).regs = k.regs := rfl
@[simp] theorem Core.addEvents_vregs (k : Core) (i sat nan : Nat) : (k.addEvents i sat nan).vregs = k.vregs := rfl
@[simp] theorem Core.addEvents_pc (k : Core) (i sat nan : Nat) : (k.addEvents i sat nan).pc = k.pc := rfl
@[simp] theorem Core.addEvents_dmem (k : Core) (i sat nan : Nat) : (k.addEvents i sat nan).dmem = k.dmem := rfl
@[simp] theorem Core.addEvents_imem (k : Core) (i sat nan : Nat) : (k.addEvents i sat nan).imem = k.imem := rfl
@[simp] theorem Core.addEvents_sems (k : Core) (i sat nan : Nat) : (k.addEvents i sat nan).sems = k.sems := rfl
@[simp] theorem Core.addEvents_counters (k : Core) (i sat nan : Nat) : (k.addEvents i sat nan).counters = k.counters := rfl
@[simp] theorem Core.addEvents_counterLatch (k : Core) (i sat nan : Nat) : (k.addEvents i sat nan).counterLatch = k.counterLatch := rfl
@[simp] theorem Core.addEvents_counterReset (k : Core) (i sat nan : Nat) : (k.addEvents i sat nan).counterReset = k.counterReset := rfl
@[simp] theorem Core.addEvents_coincident (k : Core) (i sat nan : Nat) : (k.addEvents i sat nan).coincident = k.coincident := rfl
@[simp] theorem Core.addEvents_kernel (k : Core) (i sat nan : Nat) : (k.addEvents i sat nan).kernel = k.kernel := rfl
@[simp] theorem Core.addEvents_grant (k : Core) (i sat nan : Nat) : (k.addEvents i sat nan).grant = k.grant := rfl
@[simp] theorem Core.addEvents_prevNode (k : Core) (i sat nan : Nat) : (k.addEvents i sat nan).prevNode = k.prevNode := rfl
@[simp] theorem Core.addEvents_ftz (k : Core) (i sat nan : Nat) : (k.addEvents i sat nan).ftz = k.ftz := rfl
@[simp] theorem Core.addEvents_round (k : Core) (i sat nan : Nat) : (k.addEvents i sat nan).round = k.round := rfl
@[simp] theorem Core.addEvents_flushed (k : Core) (i sat nan : Nat) : (k.addEvents i sat nan).flushed = k.flushed := rfl
@[simp] theorem Core.addEvents_nanseen (k : Core) (i sat nan : Nat) : (k.addEvents i sat nan).nanseen = k.nanseen := rfl
@[simp] theorem Core.addEvents_isat (k : Core) (i sat nan : Nat) : (k.addEvents i sat nan).isat = k.isat := rfl
@[simp] theorem Core.addEvents_flushedEvents (k : Core) (i sat nan : Nat) : (k.addEvents i sat nan).flushedEvents = k.flushedEvents := rfl
@[simp] theorem Core.addEvents_nanseenEvents (k : Core) (i sat nan : Nat) : (k.addEvents i sat nan).nanseenEvents = k.nanseenEvents := rfl
@[simp] theorem Core.addEvents_isatEvents (k : Core) (i sat nan : Nat) : (k.addEvents i sat nan).isatEvents = k.isatEvents := rfl
@[simp] theorem Core.addEvents_timeHi (k : Core) (i sat nan : Nat) : (k.addEvents i sat nan).timeHi = k.timeHi := rfl
@[simp] theorem Core.addEvents_stationary (k : Core) (i sat nan : Nat) : (k.addEvents i sat nan).stationary = k.stationary := rfl
@[simp] theorem Core.addEvents_shadow (k : Core) (i sat nan : Nat) : (k.addEvents i sat nan).shadow = k.shadow := rfl
@[simp] theorem Core.addEvents_loaderBusy (k : Core) (i sat nan : Nat) : (k.addEvents i sat nan).loaderBusy = k.loaderBusy := rfl
@[simp] theorem Core.addEvents_onesUntil (k : Core) (i sat nan : Nat) : (k.addEvents i sat nan).onesUntil = k.onesUntil := rfl
@[simp] theorem Core.addEvents_lastRows (k : Core) (i sat nan : Nat) : (k.addEvents i sat nan).lastRows = k.lastRows := rfl
@[simp] theorem Core.addEvents_slots (k : Core) (i sat nan : Nat) : (k.addEvents i sat nan).slots = k.slots := rfl
@[simp] theorem Core.addEvents_inflight (k : Core) (i sat nan : Nat) : (k.addEvents i sat nan).inflight = k.inflight := rfl
@[simp] theorem Core.addEvents_nextId (k : Core) (i sat nan : Nat) : (k.addEvents i sat nan).nextId = k.nextId := rfl
@[simp] theorem Core.addEvents_front (k : Core) (i sat nan : Nat) : (k.addEvents i sat nan).front = k.front := rfl
@[simp] theorem Core.addEvents_resume (k : Core) (i sat nan : Nat) : (k.addEvents i sat nan).resume = k.resume := rfl
@[simp] theorem Core.addEvents_askCount (k : Core) (i sat nan : Nat) : (k.addEvents i sat nan).askCount = k.askCount := rfl
@[simp] theorem Core.addEvents_dispatchLoop (k : Core) (i sat nan : Nat) : (k.addEvents i sat nan).dispatchLoop = k.dispatchLoop := rfl
@[simp] theorem Core.addEvents_exc (k : Core) (i sat nan : Nat) : (k.addEvents i sat nan).exc = k.exc := rfl
@[simp] theorem Core.addEvents_excPc (k : Core) (i sat nan : Nat) : (k.addEvents i sat nan).excPc = k.excPc := rfl
@[simp] theorem Core.addEvents_excQueue (k : Core) (i sat nan : Nat) : (k.addEvents i sat nan).excQueue = k.excQueue := rfl
@[simp] theorem Core.addEvents_excAddress (k : Core) (i sat nan : Nat) : (k.addEvents i sat nan).excAddress = k.excAddress := rfl
@[simp] theorem Core.addEvents_probing (k : Core) (i sat nan : Nat) : (k.addEvents i sat nan).probing = k.probing := rfl
@[simp] theorem Core.addEvents_recalling (k : Core) (i sat nan : Nat) : (k.addEvents i sat nan).recalling = k.recalling := rfl
@[simp] theorem Core.addEvents_reports (k : Core) (i sat nan : Nat) : (k.addEvents i sat nan).reports = k.reports := rfl

/-! ### Core.takeDraws -/

@[simp] theorem Core.takeDraws_regs (k : Core) (i n : Nat) : (k.takeDraws i n).regs = k.regs := rfl
@[simp] theorem Core.takeDraws_vregs (k : Core) (i n : Nat) : (k.takeDraws i n).vregs = k.vregs := rfl
@[simp] theorem Core.takeDraws_pc (k : Core) (i n : Nat) : (k.takeDraws i n).pc = k.pc := rfl
@[simp] theorem Core.takeDraws_dmem (k : Core) (i n : Nat) : (k.takeDraws i n).dmem = k.dmem := rfl
@[simp] theorem Core.takeDraws_imem (k : Core) (i n : Nat) : (k.takeDraws i n).imem = k.imem := rfl
@[simp] theorem Core.takeDraws_sems (k : Core) (i n : Nat) : (k.takeDraws i n).sems = k.sems := rfl
@[simp] theorem Core.takeDraws_counters (k : Core) (i n : Nat) : (k.takeDraws i n).counters = k.counters := rfl
@[simp] theorem Core.takeDraws_counterLatch (k : Core) (i n : Nat) : (k.takeDraws i n).counterLatch = k.counterLatch := rfl
@[simp] theorem Core.takeDraws_counterReset (k : Core) (i n : Nat) : (k.takeDraws i n).counterReset = k.counterReset := rfl
@[simp] theorem Core.takeDraws_coincident (k : Core) (i n : Nat) : (k.takeDraws i n).coincident = k.coincident := rfl
@[simp] theorem Core.takeDraws_kernel (k : Core) (i n : Nat) : (k.takeDraws i n).kernel = k.kernel := rfl
@[simp] theorem Core.takeDraws_grant (k : Core) (i n : Nat) : (k.takeDraws i n).grant = k.grant := rfl
@[simp] theorem Core.takeDraws_prevNode (k : Core) (i n : Nat) : (k.takeDraws i n).prevNode = k.prevNode := rfl
@[simp] theorem Core.takeDraws_ftz (k : Core) (i n : Nat) : (k.takeDraws i n).ftz = k.ftz := rfl
@[simp] theorem Core.takeDraws_round (k : Core) (i n : Nat) : (k.takeDraws i n).round = k.round := rfl
@[simp] theorem Core.takeDraws_flushed (k : Core) (i n : Nat) : (k.takeDraws i n).flushed = k.flushed := rfl
@[simp] theorem Core.takeDraws_nanseen (k : Core) (i n : Nat) : (k.takeDraws i n).nanseen = k.nanseen := rfl
@[simp] theorem Core.takeDraws_isat (k : Core) (i n : Nat) : (k.takeDraws i n).isat = k.isat := rfl
@[simp] theorem Core.takeDraws_flushedEvents (k : Core) (i n : Nat) : (k.takeDraws i n).flushedEvents = k.flushedEvents := rfl
@[simp] theorem Core.takeDraws_nanseenEvents (k : Core) (i n : Nat) : (k.takeDraws i n).nanseenEvents = k.nanseenEvents := rfl
@[simp] theorem Core.takeDraws_isatEvents (k : Core) (i n : Nat) : (k.takeDraws i n).isatEvents = k.isatEvents := rfl
@[simp] theorem Core.takeDraws_timeHi (k : Core) (i n : Nat) : (k.takeDraws i n).timeHi = k.timeHi := rfl
@[simp] theorem Core.takeDraws_stationary (k : Core) (i n : Nat) : (k.takeDraws i n).stationary = k.stationary := rfl
@[simp] theorem Core.takeDraws_shadow (k : Core) (i n : Nat) : (k.takeDraws i n).shadow = k.shadow := rfl
@[simp] theorem Core.takeDraws_loaderBusy (k : Core) (i n : Nat) : (k.takeDraws i n).loaderBusy = k.loaderBusy := rfl
@[simp] theorem Core.takeDraws_onesUntil (k : Core) (i n : Nat) : (k.takeDraws i n).onesUntil = k.onesUntil := rfl
@[simp] theorem Core.takeDraws_lastRows (k : Core) (i n : Nat) : (k.takeDraws i n).lastRows = k.lastRows := rfl
@[simp] theorem Core.takeDraws_slots (k : Core) (i n : Nat) : (k.takeDraws i n).slots = k.slots := rfl
@[simp] theorem Core.takeDraws_inflight (k : Core) (i n : Nat) : (k.takeDraws i n).inflight = k.inflight := rfl
@[simp] theorem Core.takeDraws_nextId (k : Core) (i n : Nat) : (k.takeDraws i n).nextId = k.nextId := rfl
@[simp] theorem Core.takeDraws_front (k : Core) (i n : Nat) : (k.takeDraws i n).front = k.front := rfl
@[simp] theorem Core.takeDraws_resume (k : Core) (i n : Nat) : (k.takeDraws i n).resume = k.resume := rfl
@[simp] theorem Core.takeDraws_askCount (k : Core) (i n : Nat) : (k.takeDraws i n).askCount = k.askCount := rfl
@[simp] theorem Core.takeDraws_dispatchLoop (k : Core) (i n : Nat) : (k.takeDraws i n).dispatchLoop = k.dispatchLoop := rfl
@[simp] theorem Core.takeDraws_exc (k : Core) (i n : Nat) : (k.takeDraws i n).exc = k.exc := rfl
@[simp] theorem Core.takeDraws_excPc (k : Core) (i n : Nat) : (k.takeDraws i n).excPc = k.excPc := rfl
@[simp] theorem Core.takeDraws_excQueue (k : Core) (i n : Nat) : (k.takeDraws i n).excQueue = k.excQueue := rfl
@[simp] theorem Core.takeDraws_excAddress (k : Core) (i n : Nat) : (k.takeDraws i n).excAddress = k.excAddress := rfl
@[simp] theorem Core.takeDraws_probing (k : Core) (i n : Nat) : (k.takeDraws i n).probing = k.probing := rfl
@[simp] theorem Core.takeDraws_recalling (k : Core) (i n : Nat) : (k.takeDraws i n).recalling = k.recalling := rfl
@[simp] theorem Core.takeDraws_reports (k : Core) (i n : Nat) : (k.takeDraws i n).reports = k.reports := rfl

/-! ### Core.complete -/

@[simp] theorem Core.complete_regs (k : Core) (id : Nat) : (k.complete id).regs = k.regs := rfl
@[simp] theorem Core.complete_vregs (k : Core) (id : Nat) : (k.complete id).vregs = k.vregs := rfl
@[simp] theorem Core.complete_pc (k : Core) (id : Nat) : (k.complete id).pc = k.pc := rfl
@[simp] theorem Core.complete_dmem (k : Core) (id : Nat) : (k.complete id).dmem = k.dmem := rfl
@[simp] theorem Core.complete_imem (k : Core) (id : Nat) : (k.complete id).imem = k.imem := rfl
@[simp] theorem Core.complete_sems (k : Core) (id : Nat) : (k.complete id).sems = k.sems := rfl
@[simp] theorem Core.complete_counters (k : Core) (id : Nat) : (k.complete id).counters = k.counters := rfl
@[simp] theorem Core.complete_counterLatch (k : Core) (id : Nat) : (k.complete id).counterLatch = k.counterLatch := rfl
@[simp] theorem Core.complete_counterReset (k : Core) (id : Nat) : (k.complete id).counterReset = k.counterReset := rfl
@[simp] theorem Core.complete_coincident (k : Core) (id : Nat) : (k.complete id).coincident = k.coincident := rfl
@[simp] theorem Core.complete_kernel (k : Core) (id : Nat) : (k.complete id).kernel = k.kernel := rfl
@[simp] theorem Core.complete_grant (k : Core) (id : Nat) : (k.complete id).grant = k.grant := rfl
@[simp] theorem Core.complete_prevNode (k : Core) (id : Nat) : (k.complete id).prevNode = k.prevNode := rfl
@[simp] theorem Core.complete_ftz (k : Core) (id : Nat) : (k.complete id).ftz = k.ftz := rfl
@[simp] theorem Core.complete_round (k : Core) (id : Nat) : (k.complete id).round = k.round := rfl
@[simp] theorem Core.complete_flushed (k : Core) (id : Nat) : (k.complete id).flushed = k.flushed := rfl
@[simp] theorem Core.complete_nanseen (k : Core) (id : Nat) : (k.complete id).nanseen = k.nanseen := rfl
@[simp] theorem Core.complete_isat (k : Core) (id : Nat) : (k.complete id).isat = k.isat := rfl
@[simp] theorem Core.complete_flushedEvents (k : Core) (id : Nat) : (k.complete id).flushedEvents = k.flushedEvents := rfl
@[simp] theorem Core.complete_nanseenEvents (k : Core) (id : Nat) : (k.complete id).nanseenEvents = k.nanseenEvents := rfl
@[simp] theorem Core.complete_isatEvents (k : Core) (id : Nat) : (k.complete id).isatEvents = k.isatEvents := rfl
@[simp] theorem Core.complete_timeHi (k : Core) (id : Nat) : (k.complete id).timeHi = k.timeHi := rfl
@[simp] theorem Core.complete_items (k : Core) (id : Nat) : (k.complete id).items = k.items := rfl
@[simp] theorem Core.complete_stationary (k : Core) (id : Nat) : (k.complete id).stationary = k.stationary := rfl
@[simp] theorem Core.complete_shadow (k : Core) (id : Nat) : (k.complete id).shadow = k.shadow := rfl
@[simp] theorem Core.complete_loaderBusy (k : Core) (id : Nat) : (k.complete id).loaderBusy = k.loaderBusy := rfl
@[simp] theorem Core.complete_onesUntil (k : Core) (id : Nat) : (k.complete id).onesUntil = k.onesUntil := rfl
@[simp] theorem Core.complete_lastRows (k : Core) (id : Nat) : (k.complete id).lastRows = k.lastRows := rfl
@[simp] theorem Core.complete_slots (k : Core) (id : Nat) : (k.complete id).slots = k.slots := rfl
@[simp] theorem Core.complete_nextId (k : Core) (id : Nat) : (k.complete id).nextId = k.nextId := rfl
@[simp] theorem Core.complete_front (k : Core) (id : Nat) : (k.complete id).front = k.front := rfl
@[simp] theorem Core.complete_resume (k : Core) (id : Nat) : (k.complete id).resume = k.resume := rfl
@[simp] theorem Core.complete_askCount (k : Core) (id : Nat) : (k.complete id).askCount = k.askCount := rfl
@[simp] theorem Core.complete_dispatchLoop (k : Core) (id : Nat) : (k.complete id).dispatchLoop = k.dispatchLoop := rfl
@[simp] theorem Core.complete_exc (k : Core) (id : Nat) : (k.complete id).exc = k.exc := rfl
@[simp] theorem Core.complete_excPc (k : Core) (id : Nat) : (k.complete id).excPc = k.excPc := rfl
@[simp] theorem Core.complete_excQueue (k : Core) (id : Nat) : (k.complete id).excQueue = k.excQueue := rfl
@[simp] theorem Core.complete_excAddress (k : Core) (id : Nat) : (k.complete id).excAddress = k.excAddress := rfl
@[simp] theorem Core.complete_probing (k : Core) (id : Nat) : (k.complete id).probing = k.probing := rfl
@[simp] theorem Core.complete_recalling (k : Core) (id : Nat) : (k.complete id).recalling = k.recalling := rfl
@[simp] theorem Core.complete_reports (k : Core) (id : Nat) : (k.complete id).reports = k.reports := rfl

/-! ### Core.enqueue -/

@[simp] theorem Core.enqueue_regs (k : Core) (l : List QInstr) : (k.enqueue l).regs = k.regs := rfl
@[simp] theorem Core.enqueue_vregs (k : Core) (l : List QInstr) : (k.enqueue l).vregs = k.vregs := rfl
@[simp] theorem Core.enqueue_pc (k : Core) (l : List QInstr) : (k.enqueue l).pc = k.pc := rfl
@[simp] theorem Core.enqueue_dmem (k : Core) (l : List QInstr) : (k.enqueue l).dmem = k.dmem := rfl
@[simp] theorem Core.enqueue_imem (k : Core) (l : List QInstr) : (k.enqueue l).imem = k.imem := rfl
@[simp] theorem Core.enqueue_sems (k : Core) (l : List QInstr) : (k.enqueue l).sems = k.sems := rfl
@[simp] theorem Core.enqueue_counters (k : Core) (l : List QInstr) : (k.enqueue l).counters = k.counters := rfl
@[simp] theorem Core.enqueue_counterLatch (k : Core) (l : List QInstr) : (k.enqueue l).counterLatch = k.counterLatch := rfl
@[simp] theorem Core.enqueue_counterReset (k : Core) (l : List QInstr) : (k.enqueue l).counterReset = k.counterReset := rfl
@[simp] theorem Core.enqueue_coincident (k : Core) (l : List QInstr) : (k.enqueue l).coincident = k.coincident := rfl
@[simp] theorem Core.enqueue_kernel (k : Core) (l : List QInstr) : (k.enqueue l).kernel = k.kernel := rfl
@[simp] theorem Core.enqueue_grant (k : Core) (l : List QInstr) : (k.enqueue l).grant = k.grant := rfl
@[simp] theorem Core.enqueue_prevNode (k : Core) (l : List QInstr) : (k.enqueue l).prevNode = k.prevNode := rfl
@[simp] theorem Core.enqueue_ftz (k : Core) (l : List QInstr) : (k.enqueue l).ftz = k.ftz := rfl
@[simp] theorem Core.enqueue_round (k : Core) (l : List QInstr) : (k.enqueue l).round = k.round := rfl
@[simp] theorem Core.enqueue_flushed (k : Core) (l : List QInstr) : (k.enqueue l).flushed = k.flushed := rfl
@[simp] theorem Core.enqueue_nanseen (k : Core) (l : List QInstr) : (k.enqueue l).nanseen = k.nanseen := rfl
@[simp] theorem Core.enqueue_isat (k : Core) (l : List QInstr) : (k.enqueue l).isat = k.isat := rfl
@[simp] theorem Core.enqueue_flushedEvents (k : Core) (l : List QInstr) : (k.enqueue l).flushedEvents = k.flushedEvents := rfl
@[simp] theorem Core.enqueue_nanseenEvents (k : Core) (l : List QInstr) : (k.enqueue l).nanseenEvents = k.nanseenEvents := rfl
@[simp] theorem Core.enqueue_isatEvents (k : Core) (l : List QInstr) : (k.enqueue l).isatEvents = k.isatEvents := rfl
@[simp] theorem Core.enqueue_timeHi (k : Core) (l : List QInstr) : (k.enqueue l).timeHi = k.timeHi := rfl
@[simp] theorem Core.enqueue_items (k : Core) (l : List QInstr) : (k.enqueue l).items = k.items := rfl
@[simp] theorem Core.enqueue_stationary (k : Core) (l : List QInstr) : (k.enqueue l).stationary = k.stationary := rfl
@[simp] theorem Core.enqueue_shadow (k : Core) (l : List QInstr) : (k.enqueue l).shadow = k.shadow := rfl
@[simp] theorem Core.enqueue_loaderBusy (k : Core) (l : List QInstr) : (k.enqueue l).loaderBusy = k.loaderBusy := rfl
@[simp] theorem Core.enqueue_onesUntil (k : Core) (l : List QInstr) : (k.enqueue l).onesUntil = k.onesUntil := rfl
@[simp] theorem Core.enqueue_lastRows (k : Core) (l : List QInstr) : (k.enqueue l).lastRows = k.lastRows := rfl
@[simp] theorem Core.enqueue_slots (k : Core) (l : List QInstr) : (k.enqueue l).slots = k.slots := rfl
@[simp] theorem Core.enqueue_resume (k : Core) (l : List QInstr) : (k.enqueue l).resume = k.resume := rfl
@[simp] theorem Core.enqueue_askCount (k : Core) (l : List QInstr) : (k.enqueue l).askCount = k.askCount := rfl
@[simp] theorem Core.enqueue_dispatchLoop (k : Core) (l : List QInstr) : (k.enqueue l).dispatchLoop = k.dispatchLoop := rfl
@[simp] theorem Core.enqueue_exc (k : Core) (l : List QInstr) : (k.enqueue l).exc = k.exc := rfl
@[simp] theorem Core.enqueue_excPc (k : Core) (l : List QInstr) : (k.enqueue l).excPc = k.excPc := rfl
@[simp] theorem Core.enqueue_excQueue (k : Core) (l : List QInstr) : (k.enqueue l).excQueue = k.excQueue := rfl
@[simp] theorem Core.enqueue_excAddress (k : Core) (l : List QInstr) : (k.enqueue l).excAddress = k.excAddress := rfl
@[simp] theorem Core.enqueue_probing (k : Core) (l : List QInstr) : (k.enqueue l).probing = k.probing := rfl
@[simp] theorem Core.enqueue_recalling (k : Core) (l : List QInstr) : (k.enqueue l).recalling = k.recalling := rfl
@[simp] theorem Core.enqueue_reports (k : Core) (l : List QInstr) : (k.enqueue l).reports = k.reports := rfl

/-! ### Core.resetCounters -/

@[simp] theorem Core.resetCounters_regs (k : Core) (p : Nat → Bool) : (k.resetCounters p).regs = k.regs := by unfold Core.resetCounters; rfl
@[simp] theorem Core.resetCounters_vregs (k : Core) (p : Nat → Bool) : (k.resetCounters p).vregs = k.vregs := by unfold Core.resetCounters; rfl
@[simp] theorem Core.resetCounters_pc (k : Core) (p : Nat → Bool) : (k.resetCounters p).pc = k.pc := by unfold Core.resetCounters; rfl
@[simp] theorem Core.resetCounters_dmem (k : Core) (p : Nat → Bool) : (k.resetCounters p).dmem = k.dmem := by unfold Core.resetCounters; rfl
@[simp] theorem Core.resetCounters_imem (k : Core) (p : Nat → Bool) : (k.resetCounters p).imem = k.imem := by unfold Core.resetCounters; rfl
@[simp] theorem Core.resetCounters_sems (k : Core) (p : Nat → Bool) : (k.resetCounters p).sems = k.sems := by unfold Core.resetCounters; rfl
@[simp] theorem Core.resetCounters_counterLatch (k : Core) (p : Nat → Bool) : (k.resetCounters p).counterLatch = k.counterLatch := by unfold Core.resetCounters; rfl
@[simp] theorem Core.resetCounters_counterReset (k : Core) (p : Nat → Bool) : (k.resetCounters p).counterReset = k.counterReset := by unfold Core.resetCounters; rfl
@[simp] theorem Core.resetCounters_coincident (k : Core) (p : Nat → Bool) : (k.resetCounters p).coincident = k.coincident := by unfold Core.resetCounters; rfl
@[simp] theorem Core.resetCounters_kernel (k : Core) (p : Nat → Bool) : (k.resetCounters p).kernel = k.kernel := by unfold Core.resetCounters; rfl
@[simp] theorem Core.resetCounters_grant (k : Core) (p : Nat → Bool) : (k.resetCounters p).grant = k.grant := by unfold Core.resetCounters; rfl
@[simp] theorem Core.resetCounters_prevNode (k : Core) (p : Nat → Bool) : (k.resetCounters p).prevNode = k.prevNode := by unfold Core.resetCounters; rfl
@[simp] theorem Core.resetCounters_ftz (k : Core) (p : Nat → Bool) : (k.resetCounters p).ftz = k.ftz := by unfold Core.resetCounters; rfl
@[simp] theorem Core.resetCounters_round (k : Core) (p : Nat → Bool) : (k.resetCounters p).round = k.round := by unfold Core.resetCounters; rfl
@[simp] theorem Core.resetCounters_flushed (k : Core) (p : Nat → Bool) : (k.resetCounters p).flushed = k.flushed := by unfold Core.resetCounters; rfl
@[simp] theorem Core.resetCounters_nanseen (k : Core) (p : Nat → Bool) : (k.resetCounters p).nanseen = k.nanseen := by unfold Core.resetCounters; rfl
@[simp] theorem Core.resetCounters_isat (k : Core) (p : Nat → Bool) : (k.resetCounters p).isat = k.isat := by unfold Core.resetCounters; rfl
@[simp] theorem Core.resetCounters_flushedEvents (k : Core) (p : Nat → Bool) : (k.resetCounters p).flushedEvents = k.flushedEvents := by unfold Core.resetCounters; rfl
@[simp] theorem Core.resetCounters_nanseenEvents (k : Core) (p : Nat → Bool) : (k.resetCounters p).nanseenEvents = k.nanseenEvents := by unfold Core.resetCounters; rfl
@[simp] theorem Core.resetCounters_isatEvents (k : Core) (p : Nat → Bool) : (k.resetCounters p).isatEvents = k.isatEvents := by unfold Core.resetCounters; rfl
@[simp] theorem Core.resetCounters_timeHi (k : Core) (p : Nat → Bool) : (k.resetCounters p).timeHi = k.timeHi := by unfold Core.resetCounters; rfl
@[simp] theorem Core.resetCounters_items (k : Core) (p : Nat → Bool) : (k.resetCounters p).items = k.items := by unfold Core.resetCounters; rfl
@[simp] theorem Core.resetCounters_stationary (k : Core) (p : Nat → Bool) : (k.resetCounters p).stationary = k.stationary := by unfold Core.resetCounters; rfl
@[simp] theorem Core.resetCounters_shadow (k : Core) (p : Nat → Bool) : (k.resetCounters p).shadow = k.shadow := by unfold Core.resetCounters; rfl
@[simp] theorem Core.resetCounters_loaderBusy (k : Core) (p : Nat → Bool) : (k.resetCounters p).loaderBusy = k.loaderBusy := by unfold Core.resetCounters; rfl
@[simp] theorem Core.resetCounters_onesUntil (k : Core) (p : Nat → Bool) : (k.resetCounters p).onesUntil = k.onesUntil := by unfold Core.resetCounters; rfl
@[simp] theorem Core.resetCounters_lastRows (k : Core) (p : Nat → Bool) : (k.resetCounters p).lastRows = k.lastRows := by unfold Core.resetCounters; rfl
@[simp] theorem Core.resetCounters_slots (k : Core) (p : Nat → Bool) : (k.resetCounters p).slots = k.slots := by unfold Core.resetCounters; rfl
@[simp] theorem Core.resetCounters_inflight (k : Core) (p : Nat → Bool) : (k.resetCounters p).inflight = k.inflight := by unfold Core.resetCounters; rfl
@[simp] theorem Core.resetCounters_nextId (k : Core) (p : Nat → Bool) : (k.resetCounters p).nextId = k.nextId := by unfold Core.resetCounters; rfl
@[simp] theorem Core.resetCounters_front (k : Core) (p : Nat → Bool) : (k.resetCounters p).front = k.front := by unfold Core.resetCounters; rfl
@[simp] theorem Core.resetCounters_resume (k : Core) (p : Nat → Bool) : (k.resetCounters p).resume = k.resume := by unfold Core.resetCounters; rfl
@[simp] theorem Core.resetCounters_askCount (k : Core) (p : Nat → Bool) : (k.resetCounters p).askCount = k.askCount := by unfold Core.resetCounters; rfl
@[simp] theorem Core.resetCounters_dispatchLoop (k : Core) (p : Nat → Bool) : (k.resetCounters p).dispatchLoop = k.dispatchLoop := by unfold Core.resetCounters; rfl
@[simp] theorem Core.resetCounters_exc (k : Core) (p : Nat → Bool) : (k.resetCounters p).exc = k.exc := by unfold Core.resetCounters; rfl
@[simp] theorem Core.resetCounters_excPc (k : Core) (p : Nat → Bool) : (k.resetCounters p).excPc = k.excPc := by unfold Core.resetCounters; rfl
@[simp] theorem Core.resetCounters_excQueue (k : Core) (p : Nat → Bool) : (k.resetCounters p).excQueue = k.excQueue := by unfold Core.resetCounters; rfl
@[simp] theorem Core.resetCounters_excAddress (k : Core) (p : Nat → Bool) : (k.resetCounters p).excAddress = k.excAddress := by unfold Core.resetCounters; rfl
@[simp] theorem Core.resetCounters_probing (k : Core) (p : Nat → Bool) : (k.resetCounters p).probing = k.probing := by unfold Core.resetCounters; rfl
@[simp] theorem Core.resetCounters_recalling (k : Core) (p : Nat → Bool) : (k.resetCounters p).recalling = k.recalling := by unfold Core.resetCounters; rfl
@[simp] theorem Core.resetCounters_reports (k : Core) (p : Nat → Bool) : (k.resetCounters p).reports = k.reports := by unfold Core.resetCounters; rfl

end Sys2Proof.Machine
end

