-- ==== Sys2Proof/Laws/CoreRun.lean ====
section
/-! SUPPORT. Laws of decode and of the queues: what a core that decodes an instruction does, whatever the instruction is. A core that
`decodes` (Safety.lean) has nothing in flight, so the instruction starts at once, or stops the grant, or waits in its queue. -/
namespace Sys2Proof.Machine

/-! ### Decoding -/

/-- The instruction that a core decodes at its PC. -/
def State.decoded (s : State) (c : Nat) (op : Byte) (f : Fields) (ecc : Ecc) : QInstr :=
  ⟨(s.core c).nextId, op, f, queueOf op f, (s.core c).pc, ecc, false, []⟩

/-- The state in which the front end holds a decoded instruction. -/
def State.heldAt (s : State) (c : Nat) (i : QInstr) : State :=
  (s.coreCount c 0x02 1).updCore c fun x => { x with front := .held i, pc := (s.core c).pc + 8 }

/-- The state in which a decoded instruction stands alone in its queue. -/
def State.queuedAt (s : State) (c : Nat) (i : QInstr) : State :=
  (s.coreCount c 0x02 1).updCore c fun x =>
    { x with front := .decoding, pc := (s.core c).pc + 8, inflight := x.inflight ++ [i], nextId := x.nextId + 1 }

theorem State.decodes_parts {s : State} {c : Nat} (h : s.decodes c = true) :
    ∃ g kn, (s.core c).grant = some g ∧ (s.core c).kernel = some kn ∧ (s.core c).pc + 8 ≤ kn.imageLen
      ∧ (s.core c).front = .decoding ∧ (s.core c).pc % 8 = 0 ∧ (s.core c).inflight = [] ∧ s.fenced c = false := by
  simp only [State.decodes, Bool.and_eq_true, beq_iff_eq, Bool.not_eq_true', List.isEmpty_iff, Option.isSome_iff_exists] at h
  obtain ⟨⟨⟨⟨⟨⟨g, hg⟩, hk⟩, hf⟩, hp⟩, hi⟩, hfe⟩ := h
  split at hk
  · rename_i kn hkn
    exact ⟨g, kn, hg, hkn, by simpa using hk, hf, hp, hi, hfe⟩
  · cases hk

/-- A core that decodes an instruction with legal fields holds it in its front end and runs. -/
theorem State.issue_of_decodes {s : State} {c : Nat} {op : Byte} {f : Fields} {ecc : Ecc} (h : s.decodes c = true)
    (hf : fieldsOk op f = true) : s.issue c op f ecc = (s.heldAt c (s.decoded c op f ecc)).run c := by
  obtain ⟨g, kn, hg, hk, hl, hfr, hp, -, hfe⟩ := s.decodes_parts h
  have hl' : ¬kn.imageLen < (s.core c).pc + 8 := by omega
  simp [State.issue, hg, hk, hfr, hfe, hp, hl', hf, State.heldAt, State.decoded]

/-- A core that decodes an instruction with illegal fields stops on ILLEGAL at its PC. -/
theorem State.issue_illegal {s : State} {c : Nat} {op : Byte} {f : Fields} {ecc : Ecc} (h : s.decodes c = true)
    (hf : fieldsOk op f = false) :
    s.issue c op f ecc = (s.coreCount c 0x02 1).exception c exIllegal (queueOf op f) (s.core c).pc 0 := by
  obtain ⟨g, kn, hg, hk, hl, hfr, hp, -, hfe⟩ := s.decodes_parts h
  have hl' : ¬kn.imageLen < (s.core c).pc + 8 := by omega
  simp [State.issue, hg, hk, hfr, hfe, hp, hl', hf]

/-! ### Queues -/

theorem Core.heads_nil {k : Core} (h : k.inflight = []) : k.heads = [] := by
  have e : ∀ q, k.headOf q = none := fun q => by simp [Core.headOf, h]
  simp only [Core.heads, e]
  rfl

theorem queueOf_lt (op : Byte) (f : Fields) : queueOf op f < 4 := by
  unfold queueOf
  dsimp only
  split
  · unfold bits; omega
  · repeat' first | omega | split

/-- An instruction that is alone in the core and has not started is the head of its queue. -/
theorem Core.heads_one {k : Core} {i : QInstr} (h : k.inflight = [i]) (hs : i.started = false) (hq : i.queue < 4) :
    k.heads = [i] := by
  have e : ∀ q, k.headOf q = if i.queue = q then some i else none := fun q => by
    simp only [Core.headOf, h, List.find?, QInstr.queued, hs]
    by_cases hqq : i.queue = q
    · simp [hqq]
    · have hqq' : (i.queue == q) = false := by simpa using hqq
      simp [hqq, hqq']
  simp only [Core.heads, e]
  obtain h0 | h1 | h2 | h3 : i.queue = 0 ∨ i.queue = 1 ∨ i.queue = 2 ∨ i.queue = 3 := by omega
  all_goals
    simp only [*, List.range, List.range.loop, List.filterMap, reduceCtorEq]
    rfl

/-- The instruction goes to a queue: the front end neither executes it nor holds it there (R218). -/
def goesToQueue (op : Byte) : Prop :=
  op.toNat ≠ 0x00 ∧ op.toNat ≠ 0x1B ∧ ¬(0x10 ≤ op.toNat ∧ op.toNat ≤ 0x17) ∧ op.toNat ≠ 0x60 ∧ op.toNat ≠ 0x70 ∧ op.toNat ≠ 0x71

theorem State.settleFront_decoding {s : State} {c : Nat} (h : (s.core c).front = .decoding) : s.settleFront c = none := by
  simp [State.settleFront, h]

theorem State.settleFront_enqueue {s : State} {c : Nat} {i : QInstr} (h : (s.core c).front = .held i) (hq : goesToQueue i.op)
    (hl : (s.core c).queueLen i.queue < 8) : s.settleFront c = some (s.updCore c fun x => x.enqueue [i]) := by
  obtain ⟨h0, h1, h2, h3, h4, h5⟩ := hq
  have hl' : ¬8 ≤ (s.core c).queueLen i.queue := by omega
  simp only [State.settleFront, h, h0, h1, h2, h3, h4, h5, hl', if_false]

theorem advance_settle {n : Nat} {s t : State} {c : Nat} (hh : (s.core c).heads = []) (ht : s.settleFront c = some t) :
    advance (n + 1) s c = advance n t c := by
  simp [advance, hh, tryStart, ht]

theorem advance_stop {n : Nat} {s : State} {c : Nat} (hh : (s.core c).heads = []) (ht : s.settleFront c = none) :
    advance n s c = s := by
  cases n with
  | zero => rfl
  | succ n => simp [advance, hh, tryStart, ht]

theorem State.heldAt_core (s : State) (c : Nat) (i : QInstr) :
    (s.heldAt c i).core c = { (s.coreCount c 0x02 1).core c with front := .held i, pc := (s.core c).pc + 8 } := by
  simp [State.heldAt]

theorem State.coreCount_core_self (s : State) (c ev n : Nat) : ∃ v, (s.coreCount c ev n).core c = { s.core c with counters := v } := by
  simp only [State.coreCount, State.count_core_eq]
  exact ⟨_, State.updCore_core_self _ _ _⟩

/-- A queue instruction that a core decodes stands alone in its queue when the core goes on. -/
theorem State.run_queued {s : State} {c : Nat} {op : Byte} {f : Fields} {ecc : Ecc} (h : s.decodes c = true) (hq : goesToQueue op) :
    (s.heldAt c (s.decoded c op f ecc)).run c = advance 11 (s.queuedAt c (s.decoded c op f ecc)) c := by
  obtain ⟨g, kn, hg, hk, hl, hfr, hp, hi, hfe⟩ := s.decodes_parts h
  obtain ⟨v, hv⟩ := s.coreCount_core_self c 0x02 1
  have e := s.heldAt_core c (s.decoded c op f ecc)
  have hin : ((s.heldAt c (s.decoded c op f ecc)).core c).inflight = [] := by rw [e, hv]; exact hi
  have hf : ((s.heldAt c (s.decoded c op f ecc)).core c).front = .held (s.decoded c op f ecc) := by rw [e]
  unfold State.run
  rw [hin]
  show advance (11 + 1) _ c = _
  rw [advance_settle (Core.heads_nil hin) (State.settleFront_enqueue hf hq (by simp [Core.queueLen, hin]))]
  congr 1
  simp [State.heldAt, State.queuedAt, Core.enqueue]

/-- An instruction alone in its queue that starts and completes at once leaves the core, and nothing else happens. -/
theorem advance_finished {n : Nat} {s t : State} {c : Nat} {i : QInstr} (hi : (s.core c).inflight = [i]) (hs : i.started = false)
    (hq : i.queue < 4) (hw : (s.core c).waitReason i = 0) (hst : s.startInstr c i = .ok (some (t, true)))
    (ht : (t.core c).inflight = [i]) (hf : (t.core c).front = .decoding) :
    advance (n + 1) s c = t.updCore c fun k => k.complete i.id := by
  have hh := Core.heads_one hi hs hq
  have e : ((t.updCore c fun k => k.complete i.id).core c).inflight = [] := by simp [Core.complete, ht]
  have e' : (t.updCore c fun k => k.complete i.id).settleFront c = none :=
    State.settleFront_decoding (by simp [Core.complete, hf])
  have st : tryStart s c (s.core c).heads = some (t.updCore c fun k => k.complete i.id) := by
    simp [hh, tryStart, hs, hw, hst]
  simp only [advance, st]
  exact advance_stop (Core.heads_nil e) e'

/-- An instruction alone in its queue that raises an exception when it starts. -/
theorem tryStart_trap {s t : State} {c cause : Nat} {a : BitVec 64} {i : QInstr} (hi : (s.core c).inflight = [i])
    (hs : i.started = false) (hq : i.queue < 4) (hw : (s.core c).waitReason i = 0)
    (hst : s.startInstr c i = .error (t, cause, a)) :
    tryStart s c (s.core c).heads = some (t.exception c cause i.queue i.pc a) := by
  simp [Core.heads_one hi hs hq, tryStart, hs, hw, hst]

/-- An instruction alone in its queue that cannot start, or finds its operand not there yet, waits. -/
theorem advance_waits {n : Nat} {s : State} {c : Nat} {i : QInstr} (hi : (s.core c).inflight = [i]) (hs : i.started = false)
    (hq : i.queue < 4) (hf : (s.core c).front = .decoding)
    (hw : (s.core c).waitReason i ≠ 0 ∨ s.startInstr c i = .ok none) : advance n s c = s := by
  cases n with
  | zero => rfl
  | succ n =>
    have st : tryStart s c (s.core c).heads = none := by
      simp only [Core.heads_one hi hs hq, tryStart, hs]
      by_cases w : (s.core c).waitReason i = 0
      · obtain w' | w' := hw
        · exact absurd w w'
        · simp [w, w']
      · simp [w]
    simp [advance, st, State.settleFront_decoding hf]

theorem State.queuedAt_inflight {s : State} {c : Nat} (i : QInstr) (h : s.decodes c = true) :
    ((s.queuedAt c i).core c).inflight = [i] ∧ ((s.queuedAt c i).core c).front = .decoding := by
  obtain ⟨g, kn, hg, hk, hl, hfr, hp, hi, hfe⟩ := s.decodes_parts h
  obtain ⟨v, hv⟩ := s.coreCount_core_self c 0x02 1
  simp [State.queuedAt, hv, hi]

/-- A queue instruction that starts and completes at once, on a core that decodes it. -/
theorem State.issue_finished {s t : State} {c : Nat} {op : Byte} {f : Fields} {ecc : Ecc} (h : s.decodes c = true)
    (hf : fieldsOk op f = true) (hq : goesToQueue op)
    (hw : ((s.queuedAt c (s.decoded c op f ecc)).core c).waitReason (s.decoded c op f ecc) = 0)
    (hst : (s.queuedAt c (s.decoded c op f ecc)).startInstr c (s.decoded c op f ecc) = .ok (some (t, true)))
    (ht : (t.core c).inflight = [s.decoded c op f ecc]) (hfr : (t.core c).front = .decoding) :
    s.issue c op f ecc = t.updCore c fun k => k.complete (s.core c).nextId := by
  rw [State.issue_of_decodes h hf, State.run_queued h hq]
  exact advance_finished (State.queuedAt_inflight _ h).1 rfl (queueOf_lt op f) hw hst ht hfr

/-- An instruction that is alone depends on nothing older. -/
theorem Core.depends_one {k : Core} {i : QInstr} (h : k.inflight = [i]) : k.depends i = false := by
  simp [Core.depends, h]

/-- An instruction that the front end executes itself, after which the core has nothing more to do. -/
theorem State.issue_front {s t : State} {c : Nat} {op : Byte} {f : Fields} {ecc : Ecc} (h : s.decodes c = true)
    (hf : fieldsOk op f = true) (hst : (s.heldAt c (s.decoded c op f ecc)).settleFront c = some t)
    (ht : (t.core c).inflight = []) (hn : t.settleFront c = none) : s.issue c op f ecc = t := by
  obtain ⟨g, kn, hg, hk, hl, hfr, hp, hi, hfe⟩ := s.decodes_parts h
  obtain ⟨v, hv⟩ := s.coreCount_core_self c 0x02 1
  have e := s.heldAt_core c (s.decoded c op f ecc)
  have hin : ((s.heldAt c (s.decoded c op f ecc)).core c).inflight = [] := by rw [e, hv]; exact hi
  rw [State.issue_of_decodes h hf]
  unfold State.run
  rw [hin]
  show advance (11 + 1) _ c = _
  rw [advance_settle (Core.heads_nil hin) hst]
  exact advance_stop (Core.heads_nil ht) hn

end Sys2Proof.Machine
end

