-- ==== Sys2Proof/Laws/Kept.lean ====
section
/-! SUPPORT. What every operation of the block keeps: the queue, the fuse data, the bits set in DEBUG_LOCK, and the canonical form of
every byte memory. This file has the relation and its rules; the files beside it have one lemma per operation. -/
namespace Sys2Proof.Machine

/-- `t` has the queue and the fuse data of `s`, every bit of DEBUG_LOCK that `s` has set, and canonical memories if `s` has. -/
structure Kept (s t : State) : Prop where
  pending : t.pending = s.pending
  fuses : t.fuses = s.fuses
  lock : s.set.debugLock &&& t.set.debugLock = s.set.debugLock
  canonical : s.canonical → t.canonical

/-- A state that an operation may answer, if it answers one, keeps what `Kept` says. -/
def KeptO (s : State) (o : Option State) : Prop := ∀ t, o = some t → Kept s t
/-- The same of an operation that may be refused. -/
def KeptE (s : State) (e : Except Word State) : Prop := ∀ t, e = .ok t → Kept s t
/-- The same of an operation that answers more than a state. -/
def KeptP {α : Type} (s : State) (p : State × α) : Prop := Kept s p.1
/-- The same of one that may answer more than a state. -/
def KeptQ {α : Type} (s : State) (o : Option (State × α)) : Prop := ∀ p, o = some p → Kept s p.1
/-- The same of the start of an instruction, which may raise an exception, wait, or go on. -/
def KeptS (s : State) (x : Except (State × Nat × BitVec 64) (Option (State × Bool))) : Prop :=
  (∀ p, x = .error p → Kept s p.1) ∧ ∀ p, x = .ok (some p) → Kept s p.1
/-- The same of an operation that answers a state in either way. -/
def KeptX (s : State) (x : Except State State) : Prop := (∀ t, x = .error t → Kept s t) ∧ ∀ t, x = .ok t → Kept s t
/-- The same of an outcome. -/
def KeptN (s : State) (o : Host.Outcome State Fault Refusal) : Prop := ∀ t, o = .next t → Kept s t

/-- A write of an entry of the Catalogue, if it is accepted, keeps what `Kept` says. -/
def KeptCE (s : State) (e : CatEntry) : Prop := ∀ l, KeptE s (e.put l)
/-- A write of a Catalogue entry that may exist, where it is accepted, keeps what `Kept` says. -/
def KeptC (s : State) (o : Option CatEntry) : Prop := ∀ e, o = some e → ∀ l, KeptE s (e.put l)

variable {s0 s t u : State}

theorem Kept.refl (s : State) : Kept s s := ⟨rfl, rfl, BitVec.and_self, id⟩

theorem Kept.trans (h : Kept s t) (h' : Kept t u) : Kept s u where
  pending := h'.pending.trans h.pending
  fuses := h'.fuses.trans h.fuses
  lock := by
    have e := h.lock
    rw [← e, BitVec.and_assoc, h'.lock]
  canonical := fun c => h'.canonical (h.canonical c)

/-! ### Values named on the way -/

theorem Kept.cut {P : Prop} {x v : State} (e : x = v) (hv : Kept s0 v) (hb : Kept s0 x → P) : P := hb (e ▸ hv)
theorem KeptO.cut {P : Prop} {x v : Option State} (e : x = v) (hv : KeptO s0 v) (hb : KeptO s0 x → P) : P := hb (e ▸ hv)
theorem KeptE.cut {P : Prop} {x v : Except Word State} (e : x = v) (hv : KeptE s0 v) (hb : KeptE s0 x → P) : P := hb (e ▸ hv)
theorem KeptP.cut {α : Type} {P : Prop} {x v : State × α} (e : x = v) (hv : KeptP s0 v) (hb : KeptP s0 x → P) : P := hb (e ▸ hv)

theorem Kept.cutFun {α : Type} {P : Prop} {x v : α → State} (e : x = v) (hv : ∀ a, Kept s0 (v a)) (hb : (∀ a, Kept s0 (x a)) → P) :
    P := hb (e ▸ hv)
theorem Kept.cutFunTwo {α β : Type} {P : Prop} {x v : α → β → State} (e : x = v) (hv : ∀ a b, Kept s0 (v a b))
    (hb : (∀ a b, Kept s0 (x a b)) → P) : P := hb (e ▸ hv)
theorem Kept.cutStep {P : Prop} {x v : State → State} (e : x = v) (hv : ∀ a, Kept s0 a → Kept s0 (v a))
    (hb : (∀ a, Kept s0 a → Kept s0 (x a)) → P) : P := hb (e ▸ hv)
theorem Kept.cutFun2 {α : Type} {P : Prop} {x v : State → α → State} (e : x = v) (hv : ∀ a b, Kept s0 a → Kept s0 (v a b))
    (hb : (∀ a b, Kept s0 a → Kept s0 (x a b)) → P) : P := hb (e ▸ hv)

theorem Kept.cutFun3 {α β : Type} {P : Prop} {x v : State → α → β → State} (e : x = v)
    (hv : ∀ a b c, Kept s0 a → Kept s0 (v a b c)) (hb : (∀ a b c, Kept s0 a → Kept s0 (x a b c)) → P) : P := hb (e ▸ hv)

theorem Kept.of_some {o : Option State} (h : KeptO s0 o) (e : o = some t) : Kept s0 t := h t e
theorem Kept.of_ok {o : Except Word State} (h : KeptE s0 o) (e : o = .ok t) : Kept s0 t := h t e
theorem Kept.of_pair {α : Type} {p : State × α} {b : α} (h : KeptP s0 p) (e : p = (t, b)) : Kept s0 t := by
  subst e; exact h
theorem Kept.of_some_pair {α : Type} {o : Option (State × α)} {b : α} (h : KeptQ s0 o) (e : o = some (t, b)) : Kept s0 t :=
  h _ e
theorem Kept.fst {α : Type} {p : State × α} (h : KeptP s0 p) : Kept s0 p.1 := h

/-! ### Answers -/

theorem KeptO.none : KeptO s0 none := by intro t h; cases h
theorem KeptO.some (h : Kept s0 t) : KeptO s0 (some t) := by intro u e; cases e; exact h
theorem KeptE.error {w : Word} : KeptE s0 (.error w) := by intro t h; cases h
theorem KeptE.ok (h : Kept s0 t) : KeptE s0 (.ok t) := by intro u e; cases e; exact h
theorem KeptE.pure (h : Kept s0 t) : KeptE s0 (Pure.pure t) := by intro u e; cases e; exact h
theorem KeptE.bind {α : Type} {e : Except Word α} {f : α → Except Word State} (h : ∀ a, e = .ok a → KeptE s0 (f a)) :
    KeptE s0 (e >>= f) := by
  cases e with
  | error w => intro t h; cases h
  | ok a => exact h a rfl
/-- A state with another answer: rewriting with `pair_eq` names only a pair that is written as such. -/
def State.pair {α : Type} (t : State) (b : α) : State × α := (t, b)
theorem State.pair_eq {α : Type} (t : State) (b : α) : (t, b) = t.pair b := rfl
theorem KeptP.mk {α : Type} {b : α} (h : Kept s0 t) : KeptP s0 (t.pair b) := h
theorem KeptQ.none {α : Type} : KeptQ (α := α) s0 none := by intro t h; cases h
theorem KeptQ.some {α : Type} {b : α} (h : Kept s0 t) : KeptQ s0 (some (t, b)) := by intro u e; cases e; exact h
theorem KeptS.error {c : Nat} {a : BitVec 64} (h : Kept s0 t) : KeptS s0 (.error (t, c, a)) :=
  ⟨fun _ e => by cases e; exact h, fun _ e => by cases e⟩
theorem KeptS.waits : KeptS s0 (.ok none) := ⟨fun _ e => (by cases e), fun _ e => by cases e⟩
theorem KeptS.some {b : Bool} (h : Kept s0 t) : KeptS s0 (.ok (some (t, b))) :=
  ⟨fun _ e => (by cases e), fun _ e => by cases e; exact h⟩
theorem KeptS.cut {P : Prop} {x v : Except (State × Nat × BitVec 64) (Option (State × Bool))} (e : x = v) (hv : KeptS s0 v)
    (hb : KeptS s0 x → P) : P := hb (e ▸ hv)
theorem Kept.of_trap {x : Except (State × Nat × BitVec 64) (Option (State × Bool))} {c : Nat} {a : BitVec 64} (h : KeptS s0 x)
    (e : x = .error (t, c, a)) : Kept s0 t := h.1 _ e
theorem Kept.of_started {x : Except (State × Nat × BitVec 64) (Option (State × Bool))} {b : Bool} (h : KeptS s0 x)
    (e : x = .ok (some (t, b))) : Kept s0 t := h.2 _ e
theorem KeptX.error (h : Kept s0 t) : KeptX s0 (.error t) := ⟨fun _ e => by cases e; exact h, fun _ e => by cases e⟩
theorem KeptX.ok (h : Kept s0 t) : KeptX s0 (.ok t) := ⟨fun _ e => (by cases e), fun _ e => by cases e; exact h⟩
theorem Kept.of_error_state {x : Except State State} (h : KeptX s0 x) (e : x = .error t) : Kept s0 t := h.1 _ e
theorem Kept.of_ok_state {x : Except State State} (h : KeptX s0 x) (e : x = .ok t) : Kept s0 t := h.2 _ e
theorem KeptN.next (h : Kept s0 t) : KeptN s0 (.next t) := by intro u e; cases e; exact h
theorem Kept.getD {o : Option State} (ho : KeptO s0 o) (h : Kept s0 t) : Kept s0 (o.getD t) := by
  cases o with
  | none => exact h
  | some x => exact ho x rfl

/-! ### Choices -/

theorem Kept.ite {c : Prop} [Decidable c] {a b : State} (ha : Kept s0 a) (hb : Kept s0 b) : Kept s0 (if c then a else b) := by
  split
  · exact ha
  · exact hb
theorem KeptO.ite {c : Prop} [Decidable c] {a b : Option State} (ha : KeptO s0 a) (hb : KeptO s0 b) : KeptO s0 (if c then a else b) := by
  split
  · exact ha
  · exact hb
theorem KeptE.ite {c : Prop} [Decidable c] {a b : Except Word State} (ha : KeptE s0 a) (hb : KeptE s0 b) : KeptE s0 (if c then a else b) := by
  split
  · exact ha
  · exact hb
theorem KeptC.ite {c : Prop} [Decidable c] {a b : Option CatEntry} (ha : KeptC s0 a) (hb : KeptC s0 b) : KeptC s0 (if c then a else b) := by
  split
  · exact ha
  · exact hb
theorem KeptCE.ite {c : Prop} [Decidable c] {a b : CatEntry} (ha : KeptCE s0 a) (hb : KeptCE s0 b) : KeptCE s0 (if c then a else b) := by
  split
  · exact ha
  · exact hb
theorem KeptN.ite {c : Prop} [Decidable c] {a b : Host.Outcome State Fault Refusal} (ha : KeptN s0 a) (hb : KeptN s0 b) : KeptN s0 (if c then a else b) := by
  split
  · exact ha
  · exact hb
theorem KeptS.ite {c : Prop} [Decidable c] {a b : Except (State × Nat × BitVec 64) (Option (State × Bool))} (ha : KeptS s0 a) (hb : KeptS s0 b) : KeptS s0 (if c then a else b) := by
  split
  · exact ha
  · exact hb
theorem KeptX.ite {c : Prop} [Decidable c] {a b : Except State State} (ha : KeptX s0 a) (hb : KeptX s0 b) : KeptX s0 (if c then a else b) := by
  split
  · exact ha
  · exact hb
theorem KeptP.ite {α : Type} {c : Prop} [Decidable c] {a b : State × α} (ha : KeptP s0 a) (hb : KeptP s0 b) :
    KeptP s0 (if c then a else b) := by
  split
  · exact ha
  · exact hb

/-! ### Folds -/

theorem Kept.foldl {α : Type} {f : State → α → State} {l : List α} (h : Kept s0 s) (hf : ∀ x a, Kept s0 x → Kept s0 (f x a)) :
    Kept s0 (l.foldl f s) := by
  induction l generalizing s with
  | nil => exact h
  | cons a l ih => exact ih (hf s a h)
theorem Kept.foldr {α : Type} {f : α → State → State} {l : List α} (h : Kept s0 s) (hf : ∀ a x, Kept s0 x → Kept s0 (f a x)) :
    Kept s0 (l.foldr f s) := by
  induction l with
  | nil => exact h
  | cons a l ih => exact hf a _ ih
theorem KeptO.foldl {α : Type} {f : Option State → α → Option State} {l : List α} {o : Option State} (h : KeptO s0 o)
    (hf : ∀ x a, KeptO s0 x → KeptO s0 (f x a)) : KeptO s0 (l.foldl f o) := by
  induction l generalizing o with
  | nil => exact h
  | cons a l ih => exact ih (hf o a h)
theorem KeptE.map {f : State → State} {x : Except Word State} (h : KeptE s0 x) (hf : ∀ t, Kept s0 t → Kept s0 (f t)) :
    KeptE s0 (x.map f) := by
  intro t e
  cases x with
  | error _ => cases e
  | ok u => cases e; exact hf u (h u rfl)
theorem KeptP.foldl {α β : Type} {f : State × β → α → State × β} {l : List α} {p : State × β} (h : KeptP s0 p)
    (hf : ∀ x a, KeptP s0 x → KeptP s0 (f x a)) : KeptP s0 (l.foldl f p) := by
  induction l generalizing p with
  | nil => exact h
  | cons a l ih => exact ih (hf p a h)

/-! ### Updates -/

/-- A state written out part by part: rewriting with this names only an update that is written as such. -/
def State.parts (straps : Straps) (boot : Boot) (cat : Catalogue) (ctxs : Map Context) (rings : Map Ring) (dv : Dvorsor) (fab : Fabric)
    (ecl : Eclahild) (clock : Clock) (exp : Experts) (flt : Faults) (dbg : Debug) (pwr : Power) (outputs : List Output) (freeCtr : Nat)
    (fuses : Fuses) (set : Settings) (stands : Map Stand) (cores : Map Core) (mem : Memory) (pending : List Instr) : State :=
  ⟨straps, fuses, boot, cat, set, ctxs, rings, dv, stands, cores, fab, ecl, clock, mem, exp, flt, dbg, pwr, outputs, freeCtr, pending⟩

theorem State.mk_parts (straps : Straps) (boot : Boot) (cat : Catalogue) (ctxs : Map Context) (rings : Map Ring) (dv : Dvorsor) (fab : Fabric)
    (ecl : Eclahild) (clock : Clock) (exp : Experts) (flt : Faults) (dbg : Debug) (pwr : Power) (outputs : List Output) (freeCtr : Nat)
    (fuses : Fuses) (set : Settings) (stands : Map Stand) (cores : Map Core) (mem : Memory) (pending : List Instr) :
    State.mk straps fuses boot cat set ctxs rings dv stands cores fab ecl clock mem exp flt dbg pwr outputs freeCtr pending
      = State.parts straps boot cat ctxs rings dv fab ecl clock exp flt dbg pwr outputs freeCtr fuses set stands cores mem pending := rfl

/-- An update of other parts. -/
theorem Kept.parts {straps boot cat ctxs rings dv fab ecl clock exp flt dbg pwr outputs freeCtr} {set : Settings} {mem : Memory}
    (h : Kept s0 s) (hs : set.debugLock = s.set.debugLock) (hm : mem.dev = s.mem.dev) :
    Kept s0 (State.parts straps boot cat ctxs rings dv fab ecl clock exp flt dbg pwr outputs freeCtr s.fuses set s.stands s.cores mem
      s.pending) where
  pending := h.pending
  fuses := h.fuses
  lock := by show _ &&& set.debugLock = _; rw [hs]; exact h.lock
  canonical := fun c => by
    have k := h.canonical c
    refine ⟨?_, k.2.1, k.2.2⟩
    show Cells.wf mem.dev = true
    rw [hm]
    exact k.1

/-- A shared operation that leaves the parts concerned. -/
theorem Kept.same (h : Kept s0 s) (hp : t.pending = s.pending) (hf : t.fuses = s.fuses) (hs : t.set = s.set) (hm : t.mem = s.mem)
    (hc : t.cores = s.cores) (ht : t.stands = s.stands) : Kept s0 t where
  pending := hp.trans h.pending
  fuses := hf.trans h.fuses
  lock := by rw [hs]; exact h.lock
  canonical := fun c => by
    have k := h.canonical c
    simp only [State.canonical, State.core, State.stand, hm, hc, ht] at k ⊢
    exact k

theorem Kept.lockSet {w : BitVec 8} (h : Kept s0 s) (x : Settings) (e : x.debugLock = s.set.debugLock ||| w) :
    Kept s0 { s with set := x } where
  pending := h.pending
  fuses := h.fuses
  lock := by
    show _ &&& x.debugLock = _
    have k := h.lock
    rw [e, ← k]
    ext i
    simp
    exact fun _ q => .inl q
  canonical := h.canonical

theorem State.putDev_kept (a : Nat) (bs : List Byte) (h : Kept s0 s) : Kept s0 (s.putDev a bs) where
  pending := h.pending
  fuses := h.fuses
  lock := h.lock
  canonical := fun c =>
    have k := h.canonical c
    ⟨Cells.wf_store s.mem.dev a bs k.1, k.2.1, k.2.2⟩

theorem State.setCore_kept (c : Nat) (k : Core) (h : Kept s0 s) (hk : s.canonical → Cells.wf k.dmem = true) :
    Kept s0 (s.setCore c k) where
  pending := h.pending
  fuses := h.fuses
  lock := h.lock
  canonical := fun e => by
    have q := h.canonical e
    refine ⟨q.1, fun d => ?_, q.2.2⟩
    rw [State.setCore_core]
    split
    · exact hk q
    · exact q.2.1 d

theorem State.updCore_kept (c : Nat) (f : Core → Core) (h : Kept s0 s) (hk : ∀ k, Cells.wf k.dmem = true → Cells.wf (f k).dmem = true) :
    Kept s0 (s.updCore c f) :=
  State.setCore_kept c _ h fun q => hk _ (q.2.1 c)

theorem State.setStand_kept (n : Nat) (x : Stand) (h : Kept s0 s) (hk : s.canonical → Cells.wf x.mem = true) :
    Kept s0 (s.setStand n x) where
  pending := h.pending
  fuses := h.fuses
  lock := h.lock
  canonical := fun e => by
    have q := h.canonical e
    refine ⟨q.1, q.2.1, fun d => ?_⟩
    rw [State.setStand_stand]
    split
    · exact hk q
    · exact q.2.2 d

theorem State.updStand_kept (n : Nat) (f : Stand → Stand) (h : Kept s0 s) (hk : ∀ x, Cells.wf x.mem = true → Cells.wf (f x).mem = true) :
    Kept s0 (s.updStand n f) :=
  State.setStand_kept n _ h fun q => hk _ (q.2.2 n)

/-- Every core and every stand changed by a function. -/
theorem Kept.each {f : Nat → Core → Core} {g : Nat → Stand → Stand} (h : Kept s0 s)
    (hf : ∀ c k, Cells.wf k.dmem = true → Cells.wf (f c k).dmem = true)
    (hg : ∀ c x, Cells.wf x.mem = true → Cells.wf (g c x).mem = true) :
    Kept s0 { s with cores := Map.each s.cores f, stands := Map.each s.stands g } where
  pending := h.pending
  fuses := h.fuses
  lock := h.lock
  canonical := fun e => by
    have q := h.canonical e
    refine ⟨q.1, fun c => ?_, fun t => ?_⟩
    · have k := q.2.1 c
      simp only [State.core, Map.at, Map.look_each] at k ⊢
      cases hc : Map.look s.cores c with
      | none => rfl
      | some y => rw [hc] at k; exact hf c y k
    · have k := q.2.2 t
      simp only [State.stand, Map.at, Map.look_each] at k ⊢
      cases hc : Map.look s.stands t with
      | none => rfl
      | some y => rw [hc] at k; exact hg t y k

/-! ### Entries of the Catalogue -/

theorem KeptC.none : KeptC s0 none := by intro t h; cases h
theorem KeptC.some {e : CatEntry} (h : KeptCE s0 e) : KeptC s0 (some e) := by intro x q; cases q; exact h
theorem KeptC.map_onlyFor {o : Option CatEntry} {f : Nat → Bool} (h : KeptC s0 o) : KeptC s0 (o.map fun e => e.onlyFor f) := by
  cases o with
  | none => exact KeptC.none
  | some e => exact KeptC.some (h e rfl)
theorem KeptCE.put {e : CatEntry} (h : KeptCE s0 e) (l : List Byte) : KeptE s0 (e.put l) := h l
theorem KeptCE.cut {P : Prop} {x v : CatEntry} (e : x = v) (hv : KeptCE s0 v) (hb : KeptCE s0 x → P) : P := hb (e ▸ hv)
theorem KeptC.cut {P : Prop} {x v : Option CatEntry} (e : x = v) (hv : KeptC s0 v) (hb : KeptC s0 x → P) : P := hb (e ▸ hv)
theorem noPut_kept (l : List Byte) : KeptE s0 (noPut l) := KeptE.error
theorem KeptCE.mk {type elem max : Nat} {exact' : Bool} {p u : Access} {sees : Nat → Bool} {get : List Byte}
    {put : List Byte → Except Word State} (h : ∀ l, KeptE s0 (put l)) : KeptCE s0 ⟨type, elem, max, exact', p, u, sees, get, put⟩ := h
theorem roEntry_kept (type n : Nat) (u : Bool) (v : List Byte) : KeptCE s0 (roEntry type n u v) := noPut_kept
theorem roU8_kept (u : Bool) (v : Nat) : KeptCE s0 (roU8 u v) := noPut_kept
theorem roU16_kept (u : Bool) (v : Nat) : KeptCE s0 (roU16 u v) := noPut_kept
theorem roU32_kept (u : Bool) (v : Nat) : KeptCE s0 (roU32 u v) := noPut_kept
theorem roU64_kept (u : Bool) (v : Nat) : KeptCE s0 (roU64 u v) := noPut_kept
theorem roTime_kept (u : Bool) (v : Nat) : KeptCE s0 (roTime u v) := noPut_kept
theorem roOctets_kept (u : Bool) (v : List Byte) : KeptCE s0 (roOctets u v) := noPut_kept
theorem roArray_kept (elem max : Nat) (u : Bool) (v : List Byte) : KeptCE s0 (roArray elem max u v) := noPut_kept
theorem rwNum_kept (type n : Nat) (u : Bool) (v : Nat) (put : Nat → Except Word State) (h : ∀ x, KeptE s0 (put x)) :
    KeptCE s0 (rwNum type n u v put) := fun l => h (leNat l)
theorem rwBool_kept (u v : Bool) (put : Nat → Except Word State) (h : ∀ x, KeptE s0 (put x)) : KeptCE s0 (rwBool u v put) :=
  fun l => h (leNat l)
theorem rwU8_kept (u : Bool) (v : Nat) (put : Nat → Except Word State) (h : ∀ x, KeptE s0 (put x)) : KeptCE s0 (rwU8 u v put) :=
  fun l => h (leNat l)
theorem rwU16_kept (u : Bool) (v : Nat) (put : Nat → Except Word State) (h : ∀ x, KeptE s0 (put x)) : KeptCE s0 (rwU16 u v put) :=
  fun l => h (leNat l)
theorem rwU32_kept (u : Bool) (v : Nat) (put : Nat → Except Word State) (h : ∀ x, KeptE s0 (put x)) : KeptCE s0 (rwU32 u v put) :=
  fun l => h (leNat l)
theorem rwU64_kept (u : Bool) (v : Nat) (put : Nat → Except Word State) (h : ∀ x, KeptE s0 (put x)) : KeptCE s0 (rwU64 u v put) :=
  fun l => h (leNat l)
theorem woNum_kept (type n : Nat) (put : Nat → Except Word State) (h : ∀ x, KeptE s0 (put x)) : KeptCE s0 (woNum type n put) :=
  fun l => h (leNat l)
theorem woOctets_kept (n : Nat) (put : List Byte → Except Word State) (h : ∀ l, KeptE s0 (put l)) : KeptCE s0 (woOctets n put) := h
theorem rwArray_kept (elem n : Nat) (u : Bool) (v : List Byte) (put : List Byte → Except Word State) (h : ∀ l, KeptE s0 (put l)) :
    KeptCE s0 (rwArray elem n u v put) := h
theorem CatEntry.onlyFor_kept (e : CatEntry) (f : Nat → Bool) (h : KeptCE s0 e) : KeptCE s0 (e.onlyFor f) := h

end Sys2Proof.Machine
end

