-- ==== Sys2Proof/Laws/KeptOps.lean ====
section
/-! SUPPORT. What the operations of Machine/Ops.lean keep. -/
namespace Sys2Proof.Machine

theorem State.setRing_kept {base s : State} (r : Nat) (g : Ring) (hks : Kept base s) : Kept base (State.setRing s r g) := by
  delta State.setRing
  repeat' first
    | with_reducible assumption
    | (rw [State.mk_parts]; with_reducible apply Kept.parts)
    | ((with_reducible refine Eq.trans ?_ rfl); rfl)

theorem State.updRing_kept {base s : State} (r : Nat) (f : Ring → Ring) (hks : Kept base s) :
    Kept base (State.updRing s r f) := by
  delta State.updRing
  repeat' with_reducible first | assumption | apply State.setRing_kept

theorem State.setNode_kept {base s : State} (n : Nat) (d : Node) (hks : Kept base s) : Kept base (State.setNode s n d) := by
  delta State.setNode
  repeat' first
    | with_reducible assumption
    | (rw [State.mk_parts]; with_reducible apply Kept.parts)
    | ((with_reducible refine Eq.trans ?_ rfl); rfl)

theorem State.delNode_kept {base s : State} (n : Nat) (hks : Kept base s) : Kept base (State.delNode s n) := by
  delta State.delNode
  repeat' first
    | with_reducible assumption
    | (rw [State.mk_parts]; with_reducible apply Kept.parts)
    | ((with_reducible refine Eq.trans ?_ rfl); rfl)

theorem State.updNode_kept {base s : State} (n : Nat) (f : Node → Node) (hks : Kept base s) :
    Kept base (State.updNode s n f) := by
  delta State.updNode
  repeat' first
    | with_reducible first | assumption | apply State.setNode_kept
    | split

theorem State.setSector_kept {base s : State} (k : Nat) (x : Sector) (hks : Kept base s) :
    Kept base (State.setSector s k x) := by
  delta State.setSector
  repeat' first
    | with_reducible assumption
    | (rw [State.mk_parts]; with_reducible apply Kept.parts)
    | ((with_reducible refine Eq.trans ?_ rfl); rfl)

theorem State.updSector_kept {base s : State} (k : Nat) (f : Sector → Sector) (hks : Kept base s) :
    Kept base (State.updSector s k f) := by
  delta State.updSector
  repeat' with_reducible first | assumption | apply State.setSector_kept

theorem State.setComp_kept {base s : State} (i : Nat) (x : Compartment) (hks : Kept base s) :
    Kept base (State.setComp s i x) := by
  delta State.setComp
  repeat' first
    | with_reducible assumption
    | (rw [State.mk_parts]; with_reducible apply Kept.parts)
    | ((with_reducible refine Eq.trans ?_ rfl); rfl)

theorem State.updComp_kept {base s : State} (i : Nat) (f : Compartment → Compartment) (hks : Kept base s) :
    Kept base (State.updComp s i f) := by
  delta State.updComp
  repeat' with_reducible first | assumption | apply State.setComp_kept

theorem State.updCtx_kept {base s : State} (c : Nat) (f : Context → Context) (hks : Kept base s) :
    Kept base (State.updCtx s c f) := by
  delta State.updCtx
  repeat' first
    | with_reducible assumption
    | (rw [State.mk_parts]; with_reducible apply Kept.parts)
    | ((with_reducible refine Eq.trans ?_ rfl); rfl)
    | split

theorem State.updPort_kept {base s : State} (p : Nat) (f : MemPort → MemPort) (hks : Kept base s) :
    Kept base (State.updPort s p f) := by
  delta State.updPort
  repeat' first
    | with_reducible assumption
    | (rw [State.mk_parts]; with_reducible apply Kept.parts)
    | ((with_reducible refine Eq.trans ?_ rfl); rfl)

theorem State.updXport_kept {base s : State} (p : Nat) (f : XPort → XPort) (hks : Kept base s) :
    Kept base (State.updXport s p f) := by
  delta State.updXport
  repeat' first
    | with_reducible assumption
    | (rw [State.mk_parts]; with_reducible apply Kept.parts)
    | ((with_reducible refine Eq.trans ?_ rfl); rfl)

theorem State.updLayer_kept {base s : State} (h l : Nat) (f : Layer → Layer) (hks : Kept base s) :
    Kept base (State.updLayer s h l f) := by
  delta State.updLayer
  repeat' first
    | with_reducible assumption
    | (rw [State.mk_parts]; with_reducible apply Kept.parts)
    | ((with_reducible refine Eq.trans ?_ rfl); rfl)

theorem State.updEngine_kept {base s : State} (h : Nat) (f : Engine → Engine) (hks : Kept base s) :
    Kept base (State.updEngine s h f) := by
  delta State.updEngine
  repeat' first
    | with_reducible assumption
    | (rw [State.mk_parts]; with_reducible apply Kept.parts)
    | ((with_reducible refine Eq.trans ?_ rfl); rfl)

theorem State.emit_kept {base s : State} (o : Output) (hks : Kept base s) : Kept base (State.emit s o) := by
  delta State.emit
  repeat' first
    | with_reducible assumption
    | (rw [State.mk_parts]; with_reducible apply Kept.parts)
    | ((with_reducible refine Eq.trans ?_ rfl); rfl)

theorem State.count_kept {base s : State} (cls idx ev n : Nat) (hks : Kept base s) :
    Kept base (State.count s cls idx ev n) := by
  delta State.count
  repeat' first
    | with_reducible assumption
    | (rw [State.mk_parts]; with_reducible apply Kept.parts)
    | ((with_reducible refine Eq.trans ?_ rfl); rfl)
    | with_reducible refine Kept.ite ?_ ?_

theorem State.coreCount_kept {base s : State} (c ev n : Nat) (hks : Kept base s) : Kept base (State.coreCount s c ev n) := by
  delta State.coreCount
  repeat' first
    | with_reducible assumption
    | ((with_reducible intro k hk); exact hk)
    | with_reducible first | apply State.updCore_kept | apply State.count_kept

theorem State.event_kept {base s : State} (cls idx code arg data : Nat) (hks : Kept base s) :
    Kept base (State.event s cls idx code arg data) := by
  delta State.event
  repeat' first
    | with_reducible assumption
    | (rw [State.mk_parts]; with_reducible apply Kept.parts)
    | ((with_reducible refine Eq.trans ?_ rfl); rfl)
    | with_reducible refine Kept.ite ?_ ?_

theorem State.cross_kept {base s : State} (h cls n : Nat) (hks : Kept base s) : Kept base (State.cross s h cls n) := by
  delta State.cross
  repeat' with_reducible first | assumption | apply State.count_kept

theorem State.crossPort_kept {base s : State} (h n : Nat) (hks : Kept base s) : Kept base (State.crossPort s h n) := by
  delta State.crossPort
  repeat' with_reducible first | assumption | apply State.cross_kept | refine Kept.ite ?_ ?_

theorem State.msix_kept {base s : State} (h vector : Nat) (hks : Kept base s) : Kept base (State.msix s h vector) := by
  delta State.msix
  repeat' with_reducible first
    | assumption | apply State.emit_kept | apply State.count_kept | apply State.crossPort_kept | refine Kept.ite ?_ ?_

theorem State.order_kept {base s : State} (h : Nat) (hks : Kept base s) : Kept base (State.order s h) := by
  delta State.order
  repeat' with_reducible first | assumption | apply State.cross_kept | refine Kept.ite ?_ ?_

theorem State.portReads_kept {base s : State} (h a n : Nat) (hks : Kept base s) : Kept base (State.portReads s h a n) := by
  delta State.portReads
  repeat' with_reducible first | assumption | apply State.count_kept | apply State.cross_kept | refine Kept.ite ?_ ?_

theorem State.setDev_kept {base s : State} (h a : Nat) (bs : List Byte) (hks : Kept base s) :
    Kept base (State.setDev s h a bs) := by
  delta State.setDev
  repeat' first
    | with_reducible first | assumption | apply State.putDev_kept | apply State.count_kept | apply State.cross_kept
    | (rw [State.mk_parts]; with_reducible apply Kept.parts)
    | (with_reducible refine Eq.trans ?_ rfl; first | rfl | (subst_vars; rfl))
    | with_reducible refine Kept.ite ?_ ?_

theorem State.hostWrite_kept {base s : State} (h c : Nat) (a : BitVec 64) (bs : List Byte) (hks : Kept base s) :
    Kept base (State.hostWrite s h c a bs) := by
  delta State.hostWrite
  repeat' with_reducible first | assumption | apply State.emit_kept | apply State.count_kept | apply State.crossPort_kept

theorem State.sinkRecord_kept {base s : State} (rec : List Byte) (hks : Kept base s) :
    Kept base (State.sinkRecord s rec) := by
  delta State.sinkRecord
  repeat' first
    | with_reducible first | assumption | apply State.emit_kept | apply State.setDev_kept
    | (rw [State.mk_parts]; with_reducible apply Kept.parts)
    | ((with_reducible refine Eq.trans ?_ rfl); rfl)
    | with_reducible refine Kept.ite ?_ ?_

theorem State.traceLost_kept {base s : State} (h n : Nat) (hks : Kept base s) : Kept base (State.traceLost s h n) := by
  delta State.traceLost
  repeat' first
    | with_reducible first | assumption | apply State.count_kept
    | (rw [State.mk_parts]; with_reducible apply Kept.parts)
    | ((with_reducible refine Eq.trans ?_ rfl); rfl)
    | with_reducible refine Kept.ite ?_ ?_

theorem drainTrace_kept {base s : State} (n : Nat) (hks : Kept base s) : Kept base (drainTrace n s) := by
  induction n generalizing s with
  | zero => exact hks
  | succ n ih =>
  unfold drainTrace
  repeat' first
    | with_reducible first | assumption | apply ih | apply State.sinkRecord_kept | apply State.traceLost_kept
    | (rw [State.mk_parts]; with_reducible apply Kept.parts)
    | ((with_reducible refine Eq.trans ?_ rfl); rfl)
    | split

theorem State.mergeRecord_kept {base s : State} (rec : List Byte) (hks : Kept base s) :
    Kept base (State.mergeRecord s rec) := by
  delta State.mergeRecord
  repeat' first
    | with_reducible first | assumption | apply drainTrace_kept
    | (rw [State.mk_parts]; with_reducible apply Kept.parts)
    | ((with_reducible refine Eq.trans ?_ rfl); rfl)

theorem State.syncRecord_kept {base s : State} (hks : Kept base s) : Kept base (State.syncRecord s) := by
  delta State.syncRecord
  repeat' with_reducible first | assumption | apply State.mergeRecord_kept

theorem State.trace_kept {base s : State} (h : Nat) (recs : List (List Byte)) (hks : Kept base s) :
    Kept base (State.trace s h recs) := by
  delta State.trace
  repeat' first
    | with_reducible first
      | assumption | apply State.count_kept | apply State.crossPort_kept | apply State.traceLost_kept
      | apply drainTrace_kept
    | (rw [State.mk_parts]; with_reducible apply Kept.parts)
    | ((with_reducible refine Eq.trans ?_ rfl); rfl)
    | with_reducible refine Kept.ite ?_ ?_

theorem State.freezeOn_kept {base s : State} (i : Nat) (hks : Kept base s) : Kept base (State.freezeOn s i) := by
  delta State.freezeOn
  repeat' first
    | with_reducible assumption
    | (rw [State.mk_parts]; with_reducible apply Kept.parts)
    | ((with_reducible refine Eq.trans ?_ rfl); rfl)
    | with_reducible refine Kept.ite ?_ ?_

theorem State.trigger_kept {base s : State} (cause ctx detail : Nat) (hks : Kept base s) :
    Kept base (State.trigger s cause ctx detail) := by
  delta State.trigger
  repeat' first
    | with_reducible first | assumption | apply State.mergeRecord_kept | apply State.freezeOn_kept
    | (rw [State.mk_parts]; with_reducible apply Kept.parts)
    | ((with_reducible refine Eq.trans ?_ rfl); rfl)
    | with_reducible refine Kept.ite ?_ ?_

theorem State.markPair_kept {base s : State} (half kind source ctx id src : Nat) (value : Nat) (hks : Kept base s) :
    Kept base (State.markPair s half kind source ctx id src value) := by
  delta State.markPair
  repeat' with_reducible first | assumption | apply State.trace_kept | apply State.trigger_kept | refine Kept.ite ?_ ?_

theorem State.blockFlag_kept {base s : State} (b : BlockFlag) (hks : Kept base s) : Kept base (State.blockFlag s b) := by
  delta State.blockFlag
  repeat' first
    | with_reducible first | assumption | apply State.msix_kept
    | (rw [State.mk_parts]; with_reducible apply Kept.parts)
    | ((with_reducible refine Eq.trans ?_ rfl); rfl)
    | with_reducible refine Kept.ite ?_ ?_

theorem State.faultEvents_kept {base s : State} (cls action location : Nat) (hks : Kept base s) :
    Kept base (State.faultEvents s cls action location) := by
  delta State.faultEvents
  repeat' first
    | with_reducible first | assumption | apply State.event_kept
    | split

theorem State.log_kept {base s : State} (cls action location address ring cause seqLo : Nat) (hks : Kept base s) :
    Kept base (State.log s cls action location address ring cause seqLo) := by
  delta State.log
  repeat' first
    | with_reducible first | assumption | apply State.faultEvents_kept
    | (rw [State.mk_parts]; with_reducible apply Kept.parts)
    | ((with_reducible refine Eq.trans ?_ rfl); rfl)

theorem State.repairAdd_kept {base s : State} (kind flags a b : Nat) (hks : Kept base s) :
    Kept base (State.repairAdd s kind flags a b) := by
  delta State.repairAdd
  repeat' first
    | with_reducible first | assumption | apply State.blockFlag_kept
    | (rw [State.mk_parts]; with_reducible apply Kept.parts)
    | ((with_reducible refine Eq.trans ?_ rfl); rfl)
    | with_reducible refine Kept.ite ?_ ?_

end Sys2Proof.Machine
end

