-- ==== Sys2Proof/Laws/KeptOperands.lean ====
section
/-! SUPPORT. What the operations of Machine/Operands.lean keep. -/
namespace Sys2Proof.Machine

theorem State.writeLocal_kept {base s : State} (c a : Nat) (bs : List Byte) (hks : Kept base s) :
    Kept base (State.writeLocal s c a bs) := by
  delta State.writeLocal
  repeat' first
    | with_reducible assumption
    | ((with_reducible intro k hk); exact Cells.wf_store _ _ _ hk)
    | with_reducible first | apply State.updStand_kept | apply State.updCore_kept | refine Kept.ite ?_ ?_

end Sys2Proof.Machine
end

