-- ==== Sys2Proof/Laws/KeptGraph.lean ====
section
/-! SUPPORT. What the operations of Machine/Graph.lean keep. -/
namespace Sys2Proof.Machine

theorem State.schedRecord_kept {base s : State} (kind n : Nat) (d : Node) (sector cnt detail : Nat) (hks : Kept base s) :
    Kept base (State.schedRecord s kind n d sector cnt detail) := by
  delta State.schedRecord
  repeat' with_reducible first | assumption | apply State.trace_kept | refine Kept.ite ?_ ?_

theorem State.toReady_kept {base s : State} (n : Nat) (hks : Kept base s) : Kept base (State.toReady s n) := by
  delta State.toReady
  repeat' with_reducible first | assumption | apply State.updNode_kept

theorem State.leaveWaiting_kept {base s : State} (n : Nat) (d : Node) (hks : Kept base s) :
    Kept base (State.leaveWaiting s n d) := by
  delta State.leaveWaiting
  repeat' with_reducible first
    | assumption | apply State.updNode_kept | apply State.setDev_kept | apply State.schedRecord_kept
    | apply State.toReady_kept | refine Kept.ite ?_ ?_

theorem State.tryLeave_kept {base s : State} (n : Nat) (hks : Kept base s) : Kept base (State.tryLeave s n) := by
  delta State.tryLeave
  repeat' first
    | with_reducible first | assumption | apply State.leaveWaiting_kept
    | split

theorem State.markDone_kept {base s : State} (n : Nat) (d : Node) (status detail : Nat) (hks : Kept base s) :
    Kept base (State.markDone s n d status detail) := by
  delta State.markDone
  repeat' first
    | with_reducible first
      | assumption | apply State.setNode_kept | apply State.trigger_kept | apply State.markPair_kept
      | apply State.schedRecord_kept
    | (rw [State.mk_parts]; with_reducible apply Kept.parts)
    | ((with_reducible refine Eq.trans ?_ rfl); rfl)
    | with_reducible refine Kept.ite ?_ ?_

theorem State.satisfyUnit_kept {base s : State} (e : Edge) (status : Nat) (hks : Kept base s) :
    KeptP base (State.satisfyUnit s e status) := by
  delta State.satisfyUnit
  repeat' first
    | with_reducible first | assumption | apply State.setNode_kept | apply State.tryLeave_kept
    | (rw [State.pair_eq]; with_reducible apply KeptP.mk)
    | split

theorem State.notifyCross_kept {base s : State} (h : Nat) (e : Edge) (status : Nat) (hks : Kept base s) :
    Kept base (State.notifyCross s h e status) := by
  delta State.notifyCross
  repeat' first
    | with_reducible first | assumption | apply State.cross_kept
    | (rw [State.mk_parts]; with_reducible apply Kept.parts)
    | (with_reducible refine Eq.trans ?_ rfl; first | rfl | (subst_vars; rfl))
    | with_reducible refine Kept.ite ?_ ?_

theorem State.walk_kept {base s : State} (h status : Nat) (l : List Edge) (hks : Kept base s) :
    KeptP base (State.walk s h status l) := by
  induction l generalizing s with
  | nil => exact hks
  | cons a l ih =>
  unfold State.walk
  repeat' first
    | with_reducible first | assumption | apply ih | apply State.satisfyUnit_kept | apply State.notifyCross_kept
    | (rw [State.mk_parts]; with_reducible apply Kept.parts)
    | (rw [State.pair_eq]; with_reducible apply KeptP.mk)
    | ((with_reducible refine Eq.trans ?_ rfl); rfl)
    | split
    | with_reducible refine Kept.of_pair ?_ (by with_reducible assumption)

theorem State.resumeWalks_kept {base s : State} (hks : Kept base s) : KeptP base (State.resumeWalks s) := by
  delta State.resumeWalks
  repeat' first
    | with_reducible first | assumption | apply State.walk_kept
    | (rw [State.mk_parts]; with_reducible apply Kept.parts)
    | (rw [State.pair_eq]; with_reducible apply KeptP.mk)
    | (with_reducible refine Eq.trans ?_ rfl; first | rfl | (subst_vars; rfl))
    | with_reducible first | apply Kept.fst | refine KeptP.foldl ?_ (fun x a hx => ?_)
    | split
    | with_reducible refine Kept.of_pair ?_ (by with_reducible assumption)

theorem State.crossUnits_kept {base s : State} (n : Nat) (l : List (Nat × Nat)) (hks : Kept base s) :
    Kept base (State.crossUnits s n l) := by
  induction l generalizing s with
  | nil => exact hks
  | cons a l ih =>
  unfold State.crossUnits
  repeat' first
    | with_reducible assumption
    | (extract_lets +onlyGivenNames x; clear_value (e : x = _))
    | with_reducible first | apply ih | apply State.setNode_kept | apply State.notifyCross_kept
    | split

theorem State.settleUnits_kept {base s : State} (hks : Kept base s) : Kept base (State.settleUnits s) := by
  delta State.settleUnits
  repeat' first
    | with_reducible assumption
    | (extract_lets +onlyGivenNames x; clear_value (e : x = _);
        refine Kept.cut (s0 := base) e ?_ (fun hx => ?_))
    | with_reducible first
      | apply State.setNode_kept | apply State.tryLeave_kept | apply State.crossUnits_kept
      | refine Kept.foldl ?_ (fun x a hx => ?_)
    | split

theorem State.completeStep_kept {base s : State} (n : Nat) (d : Node) (status detail : Nat) (hks : Kept base s) :
    KeptP base (State.completeStep s n d status detail) := by
  delta State.completeStep
  repeat' first
    | with_reducible assumption
    | (extract_lets +onlyGivenNames x; clear_value (e : x = _);
        refine Kept.cut (s0 := base) e ?_ (fun hx => ?_))
    | with_reducible first | apply State.markDone_kept | apply State.walk_kept | apply State.settleUnits_kept
    | (rw [State.pair_eq]; with_reducible apply KeptP.mk)
    | split
    | with_reducible refine Kept.of_pair ?_ (by with_reducible assumption)

theorem completeAll_kept {base s : State} (n : Nat) (l : List (Nat × Nat × Nat)) (hks : Kept base s) :
    Kept base (completeAll n l s) := by
  induction n generalizing l s with
  | zero => unfold completeAll; assumption
  | succ n ih =>
  cases l with
  | nil => exact hks
  | cons a l =>
  unfold completeAll
  repeat' first
    | with_reducible first | assumption | apply ih | apply State.completeStep_kept | apply Kept.fst
    | split

theorem State.endAborts_kept {base s : State} (hks : Kept base s) : Kept base (State.endAborts s) := by
  delta State.endAborts
  repeat' first
    | with_reducible assumption
    | (rw [State.mk_parts]; with_reducible apply Kept.parts)
    | ((with_reducible refine Eq.trans ?_ rfl); rfl)

theorem State.complete_kept {base s : State} (n status detail : Nat) (hks : Kept base s) :
    Kept base (State.complete s n status detail) := by
  delta State.complete
  repeat' with_reducible first | assumption | apply completeAll_kept | apply State.endAborts_kept

theorem State.checkLaunch_kept {base s : State} (n : Nat) (hks : Kept base s) : Kept base (State.checkLaunch s n) := by
  delta State.checkLaunch
  repeat' first
    | with_reducible first | assumption | apply State.complete_kept
    | split

theorem State.joinOpenSets_kept {base s : State} (n : Nat) (hks : Kept base s) : Kept base (State.joinOpenSets s n) := by
  delta State.joinOpenSets
  repeat' first
    | with_reducible assumption
    | (extract_lets +onlyGivenNames x; clear_value (e : x = _))
    | with_reducible first | apply State.setSector_kept | refine Kept.foldl ?_ (fun x a hx => ?_)
    | split

theorem State.rejoin_kept {base s : State} (h : Nat) (hks : Kept base s) : Kept base (State.rejoin s h) := by
  delta State.rejoin
  repeat' with_reducible first | assumption | apply State.joinOpenSets_kept | refine Kept.foldl ?_ (fun x a hx => ?_)

theorem State.raiseFault_kept {base s : State} (r reason : Nat) (hks : Kept base s) :
    Kept base (State.raiseFault s r reason) := by
  delta State.raiseFault
  repeat' with_reducible first | assumption | apply State.setRing_kept | apply State.msix_kept | refine Kept.ite ?_ ?_

theorem State.abortNode_kept {base s : State} (stop : Nat → State → State) (n : Nat) (d : Node) (hks : Kept base s)
    (hkstop : ∀ v0 v1, Kept base v1 → Kept base (stop v0 v1)) :
    Kept base (State.abortNode s stop n d) := by
  delta State.abortNode
  repeat' first
    | with_reducible first
      | assumption | apply hkstop | apply State.updRing_kept | apply State.setNode_kept | apply State.complete_kept
      | apply State.checkLaunch_kept | apply State.joinOpenSets_kept
    | (rw [State.mk_parts]; with_reducible apply Kept.parts)
    | ((with_reducible refine Eq.trans ?_ rfl); rfl)
    | with_reducible refine Kept.ite ?_ ?_

theorem State.startRecall_kept {base s : State} (n : Nat) (retry : Bool) (hks : Kept base s) :
    Kept base (State.startRecall s n retry) := by
  delta State.startRecall
  repeat' first
    | with_reducible assumption
    | ((with_reducible intro k hk); exact hk)
    | with_reducible apply State.updCore_kept
    | (rw [State.mk_parts]; with_reducible apply Kept.parts)
    | ((with_reducible refine Eq.trans ?_ rfl); rfl)
    | with_reducible refine Kept.foldl ?_ (fun x a hx => ?_)

theorem State.finishRecall_kept {base s : State} (n : Nat) (retry : Bool) (hks : Kept base s) :
    Kept base (State.finishRecall s n retry) := by
  delta State.finishRecall
  repeat' first
    | with_reducible first
      | assumption | apply State.setNode_kept | apply State.complete_kept | apply State.checkLaunch_kept
      | apply State.joinOpenSets_kept
    | split

theorem State.endRecalls_kept {base s : State} (hks : Kept base s) : Kept base (State.endRecalls s) := by
  delta State.endRecalls
  repeat' first
    | with_reducible first | assumption | apply State.finishRecall_kept
    | (rw [State.mk_parts]; with_reducible apply Kept.parts)
    | ((with_reducible refine Eq.trans ?_ rfl); rfl)
    | with_reducible refine Kept.foldl ?_ (fun x a hx => ?_)

theorem State.skipNode_kept {base s : State} (stop : Nat → State → State) (n cause : Nat) (d : Node) (hks : Kept base s)
    (hkstop : ∀ v0 v1, Kept base v1 → Kept base (stop v0 v1)) :
    Kept base (State.skipNode s stop n cause d) := by
  delta State.skipNode
  repeat' first
    | with_reducible assumption
    | (extract_lets +onlyGivenNames x; clear_value (e : x = _);
        refine Kept.cut (s0 := base) e ?_ (fun hx => ?_))
    | with_reducible first
      | apply State.setNode_kept | apply State.abortNode_kept | apply State.startRecall_kept | apply State.endRecalls_kept
    | split

theorem State.abortRing_kept {base s : State} (stop : Nat → State → State) (r : Nat) (hks : Kept base s)
    (hkstop : ∀ v0 v1, Kept base v1 → Kept base (stop v0 v1)) :
    Kept base (State.abortRing s stop r) := by
  delta State.abortRing
  repeat' first
    | with_reducible first
      | assumption | apply State.updRing_kept | apply completeAll_kept | apply State.endAborts_kept
      | apply State.abortNode_kept | apply State.skipNode_kept | refine Kept.foldl ?_ (fun x a hx => ?_)
    | split

theorem State.enterFault_kept {base s : State} (r : Nat) (f : RingFault) (hks : Kept base s) :
    Kept base (State.enterFault s r f) := by
  delta State.enterFault
  repeat' first
    | with_reducible first
      | intro _ | apply State.updRing_kept | apply State.event_kept | apply State.freezeOn_kept | apply State.trigger_kept
      | apply State.log_kept | apply State.raiseFault_kept | apply State.abortRing_kept | refine Kept.ite ?_ ?_
    | apply_assumption

theorem State.ringFault_kept {base s : State} (r : Nat) (f : RingFault) (hks : Kept base s) :
    Kept base (State.ringFault s r f) := by
  delta State.ringFault
  repeat' with_reducible first | assumption | apply State.updRing_kept | apply State.enterFault_kept | refine Kept.ite ?_ ?_

theorem State.nodeFault_kept {base s : State} (n cause : Nat) (address : BitVec 64) (cores : List (Nat × Nat × Nat))
    (hks : Kept base s) :
    Kept base (State.nodeFault s n cause address cores) := by
  delta State.nodeFault
  repeat' first
    | with_reducible first | assumption | apply State.ringFault_kept
    | split

theorem State.requeueItem_kept {base s : State} (n item : Nat) (alt : Bool) (barred : List Nat) (hks : Kept base s) :
    Kept base (State.requeueItem s n item alt barred) := by
  delta State.requeueItem
  repeat' first
    | with_reducible assumption
    | (extract_lets +onlyGivenNames x; clear_value (e : x = _))
    | with_reducible first | apply State.setNode_kept | apply State.joinOpenSets_kept | apply State.nodeFault_kept
    | split

end Sys2Proof.Machine
end

