-- ==== Sys2Proof/Laws/KeptSems.lean ====
section
/-! SUPPORT. What the operations of Machine/Sems.lean keep. -/
namespace Sys2Proof.Machine

theorem State.setSem_kept {base s : State} (id : SemId) (w : Word) (hks : Kept base s) : Kept base (State.setSem s id w) := by
  delta State.setSem
  repeat' first
    | with_reducible assumption
    | ((with_reducible intro k hk); exact hk)
    | with_reducible apply State.updCore_kept
    | (rw [State.mk_parts]; with_reducible apply Kept.parts)
    | ((with_reducible refine Eq.trans ?_ rfl); rfl)
    | split

theorem State.semSignal_kept {base s : State} (id : SemId) (n : Nat) (hks : Kept base s) :
    Kept base (State.semSignal s id n) := by
  delta State.semSignal
  repeat' first
    | with_reducible first | assumption | apply State.count_kept | apply State.setSem_kept
    | (rw [State.mk_parts]; with_reducible apply Kept.parts)
    | ((with_reducible refine Eq.trans ?_ rfl); rfl)
    | with_reducible refine Kept.ite ?_ ?_

theorem State.sendRelease_kept {base s : State} (r : Release) (hks : Kept base s) : Kept base (State.sendRelease s r) := by
  delta State.sendRelease
  repeat' first
    | with_reducible first | assumption | apply State.cross_kept
    | (rw [State.mk_parts]; with_reducible apply Kept.parts)
    | (with_reducible refine Eq.trans ?_ rfl; first | rfl | (subst_vars; rfl))
    | with_reducible refine Kept.ite ?_ ?_

theorem State.releaseWaiter_kept {base s : State} (w : Waiter) (status returns : Nat) (hks : Kept base s) :
    Kept base (State.releaseWaiter s w status returns) := by
  delta State.releaseWaiter
  repeat' first
    | with_reducible first
      | assumption | apply State.updNode_kept | apply State.count_kept | apply State.cross_kept
      | apply State.sendRelease_kept
    | (rw [State.mk_parts]; with_reducible apply Kept.parts)
    | ((with_reducible refine Eq.trans ?_ rfl); rfl)
    | split

theorem State.serveWaitge_kept {base s : State} (id : SemId) (hks : Kept base s) : Kept base (State.serveWaitge s id) := by
  delta State.serveWaitge
  repeat' with_reducible first | assumption | apply State.releaseWaiter_kept | refine Kept.foldl ?_ (fun x a hx => ?_)

theorem serveTakeN_kept {base s : State} (n : Nat) (id : SemId) (hks : Kept base s) : Kept base (serveTakeN n s id) := by
  induction n generalizing s with
  | zero => exact hks
  | succ n ih =>
  unfold serveTakeN
  repeat' first
    | with_reducible assumption
    | (extract_lets +onlyGivenNames x; clear_value (e : x = _); first
        | refine Kept.cut (s0 := base) e ?_ (fun hx => ?_) | skip)
    | with_reducible first | apply ih | apply State.setSem_kept | apply State.releaseWaiter_kept
    | split

theorem State.serveTake_kept {base s : State} (id : SemId) (hks : Kept base s) : Kept base (State.serveTake s id) := by
  delta State.serveTake
  repeat' with_reducible first | assumption | apply serveTakeN_kept

theorem State.setUnderflow_kept {base s : State} (id : SemId) (hks : Kept base s) : Kept base (State.setUnderflow s id) := by
  delta State.setUnderflow
  repeat' with_reducible first | assumption | apply State.setSem_kept

theorem State.dropWaiter_kept {base s : State} (w : Waiter) (status : Nat) (hks : Kept base s) :
    Kept base (State.dropWaiter s w status) := by
  delta State.dropWaiter
  repeat' with_reducible first
    | assumption | apply State.releaseWaiter_kept | apply State.serveTake_kept | apply State.setUnderflow_kept
    | refine Kept.ite ?_ ?_

theorem State.semSend_kept {base s : State} (m : SemMsg) (hks : Kept base s) : Kept base (State.semSend s m) := by
  delta State.semSend
  repeat' first
    | with_reducible first | assumption | apply State.cross_kept
    | (rw [State.mk_parts]; with_reducible apply Kept.parts)
    | ((with_reducible refine Eq.trans ?_ rfl); rfl)
    | with_reducible refine Kept.ite ?_ ?_

theorem State.answerDiscarded_kept {base s : State} (m : SemMsg) (hks : Kept base s) :
    Kept base (State.answerDiscarded s m) := by
  delta State.answerDiscarded
  repeat' first
    | with_reducible first | apply State.updNode_kept | apply State.sendRelease_kept
    | split
    | apply_assumption

theorem State.dropCompletion_kept {base s : State} (n : Nat) (hks : Kept base s) : Kept base (State.dropCompletion s n) := by
  delta State.dropCompletion
  repeat' first
    | with_reducible first | assumption | apply State.setNode_kept | apply State.updCtx_kept
    | split

theorem State.discard_kept {base s : State} (m : SemMsg) (why : Nat) (hks : Kept base s) :
    Kept base (State.discard s m why) := by
  delta State.discard
  repeat' first
    | with_reducible first | assumption | apply State.answerDiscarded_kept | apply State.dropCompletion_kept
    | (rw [State.mk_parts]; with_reducible apply Kept.parts)
    | ((with_reducible refine Eq.trans ?_ rfl); rfl)
    | split

theorem State.signalApplied_kept {base s : State} (m : SemMsg) (hks : Kept base s) : Kept base (State.signalApplied s m) := by
  delta State.signalApplied
  repeat' first
    | with_reducible first | assumption | apply State.updNode_kept
    | split

theorem State.semApply_kept {base s : State} (id : SemId) (ms : List SemMsg) (hks : Kept base s) :
    Kept base (State.semApply s id ms) := by
  delta State.semApply
  repeat' first
    | with_reducible first
      | assumption | apply State.count_kept | apply State.setSem_kept | apply State.semSignal_kept
      | apply State.sendRelease_kept | apply State.serveWaitge_kept | apply State.serveTake_kept | apply State.discard_kept
      | apply State.signalApplied_kept
    | (rw [State.mk_parts]; with_reducible apply Kept.parts)
    | (with_reducible refine Eq.trans ?_ rfl; first | rfl | (subst_vars; rfl))
    | with_reducible refine Kept.foldl ?_ (fun x a hx => ?_)
    | split

theorem State.leaveWaits_kept {base s : State} (leaves : Waiter → Bool) (hks : Kept base s) :
    Kept base (State.leaveWaits s leaves) := by
  delta State.leaveWaits
  repeat' first
    | with_reducible first | assumption | apply State.serveTake_kept
    | (rw [State.mk_parts]; with_reducible apply Kept.parts)
    | (with_reducible refine Eq.trans ?_ rfl; first | rfl | (subst_vars; rfl))
    | with_reducible refine Kept.foldl ?_ (fun x a hx => ?_)

theorem State.leaveWait_kept {base s : State} (n : Nat) (hks : Kept base s) : Kept base (State.leaveWait s n) := by
  delta State.leaveWait
  repeat' first
    | with_reducible first | assumption | apply State.leaveWaits_kept
    | (rw [State.mk_parts]; with_reducible apply Kept.parts)
    | (with_reducible refine Eq.trans ?_ rfl; first | rfl | (subst_vars; rfl))

theorem State.flushWaits_kept {base s : State} (c : Nat) (hks : Kept base s) : Kept base (State.flushWaits s c) := by
  delta State.flushWaits
  repeat' first
    | with_reducible first | assumption | apply State.leaveWaits_kept
    | (rw [State.mk_parts]; with_reducible apply Kept.parts)
    | ((with_reducible refine Eq.trans ?_ rfl); rfl)

theorem State.ownerReset_kept {base s : State} (c : Nat) (hks : Kept base s) : Kept base (State.ownerReset s c) := by
  delta State.ownerReset
  repeat' first
    | with_reducible first
      | assumption | apply State.setSem_kept | apply State.releaseWaiter_kept | apply State.setUnderflow_kept
    | (rw [State.mk_parts]; with_reducible apply Kept.parts)
    | ((with_reducible refine Eq.trans ?_ rfl); rfl)
    | with_reducible first | refine Kept.foldl ?_ (fun x a hx => ?_) | refine Kept.ite ?_ ?_

theorem State.discardWaiters_kept {base s : State} (c : Nat) (hks : Kept base s) : Kept base (State.discardWaiters s c) := by
  delta State.discardWaiters
  repeat' with_reducible first | assumption | apply State.leaveWaits_kept

theorem State.discardWaits_kept {base s : State} (c : Nat) (hks : Kept base s) : Kept base (State.discardWaits s c) := by
  delta State.discardWaits
  repeat' with_reducible first | assumption | apply State.leaveWaits_kept

theorem State.resetFabricStep_kept {base s : State} (hks : Kept base s) : Kept base (State.resetFabricStep s) := by
  delta State.resetFabricStep
  repeat' first
    | with_reducible first | assumption | apply State.ownerReset_kept | apply State.discardWaiters_kept
    | (rw [State.mk_parts]; with_reducible apply Kept.parts)
    | (with_reducible refine Eq.trans ?_ rfl; first | rfl | (subst_vars; rfl))
    | split

end Sys2Proof.Machine
end

