-- ==== Sys2Proof/Laws/KeptFlows.lean ====
section
/-! SUPPORT. What the operations of Machine/Flows.lean keep. -/
namespace Sys2Proof.Machine

theorem State.setFlow_kept {base s : State} (f : Nat) (x : Flow) (hks : Kept base s) : Kept base (State.setFlow s f x) := by
  delta State.setFlow
  repeat' first
    | with_reducible assumption
    | (rw [State.mk_parts]; with_reducible apply Kept.parts)
    | ((with_reducible refine Eq.trans ?_ rfl); rfl)

theorem State.updFlow_kept {base s : State} (f : Nat) (g : Flow → Flow) (hks : Kept base s) :
    Kept base (State.updFlow s f g) := by
  delta State.updFlow
  repeat' with_reducible first | assumption | apply State.setFlow_kept

theorem State.updPeer_kept {base s : State} (d : Nat) (g : Peer → Peer) (hks : Kept base s) :
    Kept base (State.updPeer s d g) := by
  delta State.updPeer
  repeat' first
    | with_reducible assumption
    | (rw [State.mk_parts]; with_reducible apply Kept.parts)
    | ((with_reducible refine Eq.trans ?_ rfl); rfl)

theorem State.sendPacket_kept {base s : State} (port : Nat) (type : Byte) (p : Packet) (hks : Kept base s) :
    Kept base (State.sendPacket s port type p) := by
  delta State.sendPacket
  repeat' with_reducible first | assumption | apply State.updXport_kept | apply State.emit_kept | apply State.count_kept

theorem State.sendOnFlow_kept {base s : State} (f : Nat) (type : Byte) (psn : Nat) (last : Bool) (seg : List Byte)
    (hks : Kept base s) :
    KeptP base (State.sendOnFlow s f type psn last seg) := by
  delta State.sendOnFlow
  repeat' first
    | with_reducible assumption
    | (extract_lets +onlyGivenNames x; clear_value (e : x = _))
    | with_reducible first | apply State.updFlow_kept | apply State.sendPacket_kept
    | (rw [State.pair_eq]; with_reducible apply KeptP.mk)
    | split

theorem pumpFlow_kept {base s : State} (n : Nat) (f : Nat) (hks : Kept base s) : Kept base (pumpFlow n s f) := by
  induction n generalizing s with
  | zero => exact hks
  | succ n ih =>
  unfold pumpFlow
  repeat' first
    | with_reducible assumption
    | (extract_lets +onlyGivenNames x; clear_value (e : x = _))
    | with_reducible first | apply ih | apply State.updFlow_kept | apply State.sendOnFlow_kept | apply Kept.fst
    | split

theorem State.sendMessage_kept {base s : State} (f : Nat) (msg : List Byte) (hks : Kept base s) :
    Kept base (State.sendMessage s f msg) := by
  delta State.sendMessage
  repeat' with_reducible first | assumption | apply State.updFlow_kept | apply pumpFlow_kept

theorem State.draw_kept {base s : State} (hks : Kept base s) : KeptP base (State.draw s) := by
  delta State.draw
  repeat' first
    | with_reducible assumption
    | (rw [State.mk_parts]; with_reducible apply Kept.parts)
    | (rw [State.pair_eq]; with_reducible apply KeptP.mk)
    | ((with_reducible refine Eq.trans ?_ rfl); rfl)

theorem State.pumpSignals_kept {base s : State} (hks : Kept base s) : Kept base (State.pumpSignals s) := by
  delta State.pumpSignals
  repeat' first
    | with_reducible assumption
    | (extract_lets +onlyGivenNames x; clear_value (e : x = _); first
        | refine Kept.cut (s0 := base) e ?_ (fun hx => ?_) | skip)
    | with_reducible first | apply State.updNode_kept | apply State.dropCompletion_kept | apply State.sendMessage_kept
    | (rw [State.mk_parts]; with_reducible apply Kept.parts)
    | ((with_reducible refine Eq.trans ?_ rfl); rfl)
    | with_reducible refine Kept.foldl ?_ (fun x a hx => ?_)
    | split

theorem State.queueSignal_kept {base s : State} (m : RemoteSignal) (hks : Kept base s) :
    Kept base (State.queueSignal s m) := by
  delta State.queueSignal
  repeat' first
    | with_reducible first | assumption | apply State.pumpSignals_kept
    | (rw [State.mk_parts]; with_reducible apply Kept.parts)
    | ((with_reducible refine Eq.trans ?_ rfl); rfl)

theorem State.signalsOfClosed_kept {base s : State} (c dev : Nat) (hks : Kept base s) :
    Kept base (State.signalsOfClosed s c dev) := by
  delta State.signalsOfClosed
  repeat' first
    | with_reducible first
      | assumption | apply State.complete_kept | apply State.dropCompletion_kept | apply State.pumpSignals_kept
    | (rw [State.mk_parts]; with_reducible apply Kept.parts)
    | ((with_reducible refine Eq.trans ?_ rfl); rfl)
    | with_reducible refine Kept.foldl ?_ (fun x a hx => ?_)

theorem State.closeFlowOnly_kept {base s : State} (f reason : Nat) (send : Bool) (hks : Kept base s) :
    Kept base (State.closeFlowOnly s f reason send) := by
  delta State.closeFlowOnly
  repeat' first
    | with_reducible first
      | assumption | apply State.updFlow_kept | apply State.sendOnFlow_kept | apply State.signalsOfClosed_kept
    | (rw [State.mk_parts]; with_reducible apply Kept.parts)
    | ((with_reducible refine Eq.trans ?_ rfl); rfl)
    | with_reducible first | apply Kept.fst | refine Kept.ite ?_ ?_

theorem State.kernelSignal_kept {base s : State} (f ring seq amount : Nat) (id : SemId) (dev : Nat) (hks : Kept base s) :
    Kept base (State.kernelSignal s f ring seq amount id dev) := by
  delta State.kernelSignal
  repeat' with_reducible first | assumption | apply State.sendMessage_kept

end Sys2Proof.Machine
end

