-- ==== Sys2Proof/Laws/KeptCoreOps.lean ====
section
/-! SUPPORT. What the operations of Machine/CoreOps.lean keep. -/
namespace Sys2Proof.Machine

theorem State.nextFree_kept {base s : State} (hks : Kept base s) : Kept base (State.nextFree s) := by
  delta State.nextFree
  repeat' first
    | with_reducible assumption
    | (rw [State.mk_parts]; with_reducible apply Kept.parts)
    | ((with_reducible refine Eq.trans ?_ rfl); rfl)

theorem State.flushCore_kept {base s : State} (c : Nat) (hks : Kept base s) : Kept base (State.flushCore s c) := by
  delta State.flushCore
  repeat' first
    | with_reducible assumption
    | ((with_reducible intro k hk); exact hk)
    | with_reducible first | apply State.updCore_kept | apply State.flushWaits_kept

theorem State.askWork_kept {base s : State} (c n : Nat) (hks : Kept base s) : Kept base (State.askWork s c n) := by
  delta State.askWork
  repeat' first
    | with_reducible assumption
    | ((with_reducible intro k hk); exact hk)
    | with_reducible first | apply State.updCore_kept | apply State.updSector_kept

theorem State.dispatchLoop_kept {base s : State} (c : Nat) (hks : Kept base s) : Kept base (State.dispatchLoop s c) := by
  delta State.dispatchLoop
  repeat' first
    | with_reducible assumption
    | ((with_reducible intro k hk); exact hk)
    | with_reducible first | apply State.updCore_kept | apply State.askWork_kept | refine Kept.ite ?_ ?_

theorem State.dropGrant_kept {base s : State} (c why pc : Nat) (hks : Kept base s) :
    Kept base (State.dropGrant s c why pc) := by
  delta State.dropGrant
  repeat' first
    | with_reducible assumption
    | ((with_reducible intro k hk); exact hk)
    | with_reducible first | apply State.updCore_kept | apply State.event_kept

theorem State.dropItems_kept {base s : State} (n count : Nat) (hks : Kept base s) :
    Kept base (State.dropItems s n count) := by
  delta State.dropItems
  repeat' with_reducible first | assumption | apply State.updNode_kept

theorem State.endItem_kept {base s : State} (n : Nat) (alt : Bool) (x : ItemState) (hks : Kept base s) :
    Kept base (State.endItem s n alt x) := by
  delta State.endItem
  repeat' first
    | with_reducible assumption
    | (extract_lets +onlyGivenNames x; clear_value (e : x = _))
    | with_reducible first
      | apply State.setNode_kept | apply State.updNode_kept | apply State.requeueItem_kept | apply State.dropItems_kept
    | split

theorem State.endGrant_kept {base s : State} (c why pc : Nat) (hks : Kept base s) :
    Kept base (State.endGrant s c why pc) := by
  delta State.endGrant
  repeat' first
    | with_reducible first
      | assumption | apply State.checkLaunch_kept | apply State.dropGrant_kept | apply State.endItem_kept
      | refine Kept.foldl ?_ (fun x a hx => ?_)
    | split

theorem State.requeueGrant_kept {base s : State} (c why pc : Nat) (barred : List Nat) (hks : Kept base s) :
    Kept base (State.requeueGrant s c why pc barred) := by
  delta State.requeueGrant
  repeat' first
    | with_reducible first
      | assumption | apply State.checkLaunch_kept | apply State.requeueItem_kept | apply State.dropGrant_kept
      | refine Kept.foldl ?_ (fun x a hx => ?_)
    | split

theorem State.exception_kept {base s : State} (c cause queue pc : Nat) (address : BitVec 64) (hks : Kept base s) :
    Kept base (State.exception s c cause queue pc address) := by
  delta State.exception
  repeat' first
    | with_reducible assumption
    | ((with_reducible intro k hk); exact hk)
    | with_reducible first
      | apply State.updCore_kept | apply State.updNode_kept | apply State.event_kept | apply State.checkLaunch_kept
      | apply State.joinOpenSets_kept | apply State.nodeFault_kept | apply State.flushCore_kept
      | apply State.dispatchLoop_kept | apply State.dropGrant_kept | apply State.dropItems_kept
    | split

theorem State.reportMismatch_kept {base s : State} (c mode : Nat) (hks : Kept base s) :
    Kept base (State.reportMismatch s c mode) := by
  delta State.reportMismatch
  repeat' first
    | with_reducible assumption
    | (rw [State.mk_parts]; with_reducible apply Kept.parts)
    | (with_reducible refine Eq.trans ?_ rfl; first | rfl | (subst_vars; rfl))

theorem State.mismatch_kept {base s : State} (c : Nat) (check : SliceCheck) (hks : Kept base s) :
    Kept base (State.mismatch s c check) := by
  delta State.mismatch
  repeat' with_reducible first
    | assumption | apply State.coreCount_kept | apply State.flushCore_kept | apply State.dispatchLoop_kept
    | apply State.requeueGrant_kept | apply State.reportMismatch_kept | refine Kept.ite ?_ ?_

theorem State.recallCore_kept {base s : State} (c : Nat) (hks : Kept base s) : Kept base (State.recallCore s c) := by
  delta State.recallCore
  repeat' first
    | with_reducible assumption
    | ((with_reducible intro k hk); exact hk)
    | with_reducible first
      | apply State.updCore_kept | apply State.flushCore_kept | apply State.dispatchLoop_kept | apply State.dropGrant_kept
      | apply State.dropItems_kept
    | split

theorem State.giveBack_kept {base s : State} (r : Release) (hks : Kept base s) : Kept base (State.giveBack s r) := by
  delta State.giveBack
  repeat' first
    | with_reducible first
      | assumption | apply State.semSignal_kept | apply State.serveWaitge_kept | apply State.serveTake_kept
      | apply State.discard_kept
    | (rw [State.mk_parts]; with_reducible apply Kept.parts)
    | ((with_reducible refine Eq.trans ?_ rfl); rfl)
    | with_reducible refine Kept.ite ?_ ?_

theorem State.returnReleases_kept {base s : State} (c : Nat) (hks : Kept base s) : Kept base (State.returnReleases s c) := by
  delta State.returnReleases
  repeat' first
    | with_reducible first | assumption | apply State.giveBack_kept
    | (rw [State.mk_parts]; with_reducible apply Kept.parts)
    | ((with_reducible refine Eq.trans ?_ rfl); rfl)
    | with_reducible refine Kept.foldl ?_ (fun x a hx => ?_)

theorem State.recallAnswered_kept {base s : State} (c : Nat) (hks : Kept base s) : Kept base (State.recallAnswered s c) := by
  delta State.recallAnswered
  repeat' first
    | with_reducible first | assumption | apply State.endRecalls_kept | apply State.resetFabricStep_kept
    | (rw [State.mk_parts]; with_reducible apply Kept.parts)
    | ((with_reducible refine Eq.trans ?_ rfl); rfl)

theorem State.removeCore_kept {base s : State} (c : Nat) (hks : Kept base s) : Kept base (State.removeCore s c) := by
  delta State.removeCore
  repeat' first
    | ((with_reducible intro k hk); exact hk)
    | (extract_lets +onlyGivenNames x; clear_value (e : x = _); first
        | refine Kept.cut (s0 := base) e ?_ (fun hx => ?_)
        | refine Kept.cutFun2 (s0 := base) e (fun _ _ _ => ?_) (fun hx => ?_) | skip)
    | with_reducible first
      | apply State.updCore_kept | apply State.updNode_kept | apply State.updSector_kept | apply State.flushCore_kept
      | apply State.dropGrant_kept | apply State.dropItems_kept | apply State.requeueGrant_kept
      | apply State.returnReleases_kept | apply State.recallAnswered_kept
    | split
    | apply_assumption

end Sys2Proof.Machine
end

