-- ==== Sys2Proof/Laws/KeptAccess.lean ====
section
/-! SUPPORT. What the operations of Machine/Access.lean keep. -/
namespace Sys2Proof.Machine

theorem State.store_kept {base s : State} (h : Nat) (node : Option Nat) (a : Nat) (bs : List Byte) (bit : Option
    (Nat × Nat × Bool)) (hks : Kept base s) :
    Kept base (State.store s h node a bs bit) := by
  delta State.store
  repeat' first
    | with_reducible first | assumption | apply State.setDev_kept
    | (rw [State.mk_parts]; with_reducible apply Kept.parts)
    | (with_reducible refine Eq.trans ?_ rfl; first | rfl | (subst_vars; rfl))
    | split

theorem State.writeDevice_kept {base s : State} (h : Nat) (node : Option Nat) (ctx a : Nat) (bs : List Byte)
    (hks : Kept base s) :
    Kept base (State.writeDevice s h node ctx a bs) := by
  delta State.writeDevice
  repeat' first
    | with_reducible first | assumption | apply State.hostWrite_kept | apply State.store_kept
    | split

theorem State.putBit_kept {base s : State} (a i : Nat) (b : Bool) (hks : Kept base s) : Kept base (State.putBit s a i b) := by
  delta State.putBit
  repeat' with_reducible first | assumption | apply State.putDev_kept

theorem State.undoWrite_kept {base s : State} (w : PartialWrite) (hks : Kept base s) : Kept base (State.undoWrite s w) := by
  delta State.undoWrite
  repeat' first
    | with_reducible first | assumption | apply State.putDev_kept | apply State.putBit_kept
    | split

theorem State.endPartial_kept {base s : State} (n a : Nat) (made : Bool) (hks : Kept base s) :
    Kept base (State.endPartial s n a made) := by
  delta State.endPartial
  repeat' first
    | with_reducible first | assumption | apply State.undoWrite_kept
    | (rw [State.mk_parts]; with_reducible apply Kept.parts)
    | (with_reducible refine Eq.trans ?_ rfl; first | rfl | (subst_vars; rfl))
    | split

theorem State.settleInvs_kept {base s : State} (hks : Kept base s) : Kept base (State.settleInvs s) := by
  delta State.settleInvs
  repeat' first
    | with_reducible first | assumption | apply State.emit_kept
    | (rw [State.mk_parts]; with_reducible apply Kept.parts)
    | (with_reducible refine Eq.trans ?_ rfl; first | rfl | (subst_vars; rfl))
    | with_reducible refine Kept.foldl ?_ (fun x a hx => ?_)

theorem State.blockLost_kept {base s : State} (port a : Nat) (w : Consumer) (hks : Kept base s) :
    Kept base (State.blockLost s port a w) := by
  delta State.blockLost
  repeat' with_reducible first | assumption | apply State.updPort_kept | apply State.log_kept

theorem State.logLost_kept {base s : State} (w : Consumer) (lost : List Nat) (hks : Kept base s) :
    Kept base (State.logLost s w lost) := by
  delta State.logLost
  repeat' with_reducible first | assumption | apply State.blockLost_kept | refine Kept.foldl ?_ (fun x a hx => ?_)

theorem State.readsFor_kept {base s : State} (h : Nat) (w : Consumer) (said : Bool) (rs : List (Nat × Nat))
    (hks : Kept base s) :
    Kept base (State.readsFor s h w said rs) := by
  delta State.readsFor
  repeat' with_reducible first
    | assumption | apply State.portReads_kept | apply State.logLost_kept | refine Kept.foldl ?_ (fun x a hx => ?_)

end Sys2Proof.Machine
end

