-- ==== Sys2Proof/Laws/KeptRepairs.lean ====
section
/-! SUPPORT. What the operations of Machine/Repairs.lean keep. -/
namespace Sys2Proof.Machine

@[simp] theorem Stand.endSubstitution_mem (x : Stand) : x.endSubstitution.mem = x.mem := by
  unfold Stand.endSubstitution
  split <;> rfl

theorem State.fenceOne_kept {base s : State} (c : Nat) (hks : Kept base s) : Kept base (State.fenceOne s c) := by
  delta State.fenceOne
  repeat' first
    | with_reducible assumption
    | ((with_reducible intro k hk); exact hk)
    | with_reducible first | apply State.updStand_kept | apply State.removeCore_kept

theorem State.freeze_kept {base s : State} (i : Nat) (hks : Kept base s) : Kept base (State.freeze s i) := by
  delta State.freeze
  repeat' with_reducible first | assumption | apply State.event_kept

theorem State.countFence_kept {base s : State} (n : Nat) (hks : Kept base s) : Kept base (State.countFence s n) := by
  delta State.countFence
  repeat' first
    | with_reducible assumption
    | (rw [State.mk_parts]; with_reducible apply Kept.parts)
    | ((with_reducible refine Eq.trans ?_ rfl); rfl)

theorem State.fenceCore_kept {base s : State} (c cls flags : Nat) (hks : Kept base s) :
    Kept base (State.fenceCore s c cls flags) := by
  delta State.fenceCore
  repeat' first
    | with_reducible assumption
    | ((with_reducible intro k hk); exact hk)
    | with_reducible first
      | apply State.updStand_kept | apply State.order_kept | apply State.blockFlag_kept | apply State.log_kept
      | apply State.repairAdd_kept | apply State.fenceOne_kept | apply State.freeze_kept | apply State.countFence_kept
    | (rw [State.mk_parts]; with_reducible apply Kept.parts)
    | ((with_reducible refine Eq.trans ?_ rfl); rfl)
    | with_reducible refine Kept.ite ?_ ?_

theorem State.fenceAll_kept {base s : State} (t : Nat) (hks : Kept base s) : Kept base (State.fenceAll s t) := by
  delta State.fenceAll
  repeat' with_reducible first
    | assumption | apply State.fenceOne_kept | apply State.countFence_kept | refine Kept.foldl ?_ (fun x a hx => ?_)
    | refine Kept.ite ?_ ?_

theorem State.fenceStand_kept {base s : State} (t cls flags : Nat) (hks : Kept base s) :
    Kept base (State.fenceStand s t cls flags) := by
  delta State.fenceStand
  repeat' first
    | with_reducible assumption
    | ((with_reducible intro k hk); simp only [Stand.endSubstitution_mem]; with_reducible exact hk)
    | with_reducible first
      | apply State.updStand_kept | apply State.blockFlag_kept | apply State.log_kept | apply State.repairAdd_kept
      | apply State.freeze_kept | apply State.fenceAll_kept | refine Kept.ite ?_ ?_

theorem State.fenceComp_kept {base s : State} (i cls flags : Nat) (hks : Kept base s) :
    Kept base (State.fenceComp s i cls flags) := by
  delta State.fenceComp
  repeat' first
    | with_reducible assumption
    | ((with_reducible intro k hk); simp only [Stand.endSubstitution_mem]; with_reducible exact hk)
    | with_reducible first
      | apply State.updStand_kept | apply State.updComp_kept | apply State.blockFlag_kept | apply State.log_kept
      | apply State.repairAdd_kept | apply State.freeze_kept | apply State.fenceAll_kept
      | refine Kept.foldl ?_ (fun x a hx => ?_) | refine Kept.ite ?_ ?_

theorem State.endDrain_kept {base s : State} (t : Nat) (hks : Kept base s) : Kept base (State.endDrain s t) := by
  delta State.endDrain
  repeat' first
    | with_reducible assumption
    | ((with_reducible intro _); rfl)
    | ((with_reducible intro k hk); simp only [Stand.endSubstitution_mem]; with_reducible exact hk)
    | with_reducible first
      | apply State.updStand_kept | apply State.setCore_kept | apply State.dispatchLoop_kept | apply State.settleInvs_kept
    | split

theorem State.unfence_kept {base s : State} (c : Nat) (passes : Bool) (hks : Kept base s) :
    KeptO base (State.unfence s c passes) := by
  delta State.unfence
  repeat' first
    | with_reducible assumption
    | ((with_reducible intro _); rfl)
    | ((with_reducible intro k hk); exact hk)
    | with_reducible first
      | apply State.updStand_kept | apply State.setCore_kept | apply State.blockFlag_kept | apply State.dispatchLoop_kept
      | apply State.settleInvs_kept
    | (rw [State.mk_parts]; with_reducible apply Kept.parts)
    | with_reducible first | exact KeptO.none | apply KeptO.some
    | ((with_reducible refine Eq.trans ?_ rfl); rfl)
    | with_reducible first | refine Kept.ite ?_ ?_ | refine KeptO.ite ?_ ?_

theorem State.repairRow_kept {base s : State} (a row : Nat) (hks : Kept base s) : Kept base (State.repairRow s a row) := by
  delta State.repairRow
  repeat' first
    | with_reducible first
      | assumption | apply State.blockFlag_kept | apply State.log_kept | apply State.repairAdd_kept
      | apply State.fenceCore_kept
    | (rw [State.mk_parts]; with_reducible apply Kept.parts)
    | ((with_reducible refine Eq.trans ?_ rfl); rfl)
    | with_reducible refine Kept.ite ?_ ?_

theorem State.correctedRow_kept {base s : State} (a row : Nat) (hks : Kept base s) :
    Kept base (State.correctedRow s a row) := by
  delta State.correctedRow
  repeat' first
    | with_reducible assumption
    | ((with_reducible intro k hk); exact hk)
    | with_reducible first | apply State.updStand_kept | apply State.repairRow_kept
    | (rw [State.mk_parts]; with_reducible apply Kept.parts)
    | ((with_reducible refine Eq.trans ?_ rfl); rfl)
    | with_reducible refine Kept.ite ?_ ?_

theorem State.lostRow_kept {base s : State} (c a : Nat) (hks : Kept base s) : Kept base (State.lostRow s c a) := by
  delta State.lostRow
  repeat' with_reducible first | assumption | apply State.writeLocal_kept | apply State.repairRow_kept

end Sys2Proof.Machine
end

