-- ==== Sys2Proof/Laws/KeptCoreStart.lean ====
section
/-! SUPPORT. What the operations of Machine/CoreStart.lean keep. -/
namespace Sys2Proof.Machine

theorem waits_kept {base : State} : KeptS base waits := by
  exact KeptS.waits

theorem trapAt_kept {base s : State} (cause : Nat) (hks : Kept base s) : KeptS base (trapAt s cause) := by
  delta trapAt
  repeat' with_reducible first | assumption | apply KeptS.error

theorem finished_kept {base s : State} (hks : Kept base s) : KeptS base (finished s) := by
  delta finished
  repeat' with_reducible first | assumption | apply KeptS.some

theorem running_kept {base s : State} (hks : Kept base s) : KeptS base (running s) := by
  delta running
  repeat' with_reducible first | assumption | apply KeptS.some

theorem State.noteEvents_kept {base s : State} (c item sat nan : Nat) (flushed : Bool) (hks : Kept base s) :
    Kept base (State.noteEvents s c item sat nan flushed) := by
  delta State.noteEvents
  repeat' first
    | with_reducible assumption
    | ((with_reducible intro k hk); simp only [Core.setFlushed_dmem, Core.addEvents_dmem]; with_reducible exact hk)
    | with_reducible first | apply State.updCore_kept | apply State.coreCount_kept | refine Kept.ite ?_ ?_

theorem State.controlRead_kept {base s : State} (c idx : Nat) (hks : Kept base s) :
    KeptP base (State.controlRead s c idx) := by
  delta State.controlRead
  repeat' first
    | with_reducible assumption
    | ((with_reducible intro k hk); exact hk)
    | with_reducible apply State.updCore_kept
    | (rw [State.pair_eq]; with_reducible apply KeptP.mk)
    | with_reducible refine KeptP.ite ?_ ?_

theorem State.startScalar_kept {base s : State} (c : Nat) (i : QInstr) (hks : Kept base s) :
    KeptS base (State.startScalar s c i) := by
  delta State.startScalar
  repeat' first
    | with_reducible assumption
    | ((with_reducible intro k hk); simp only [Core.setS_dmem, Core.clearFlags_dmem, Core.updItem_dmem]; with_reducible exact hk)
    | with_reducible first
      | apply State.updCore_kept | apply trapAt_kept | apply finished_kept | apply State.controlRead_kept | apply Kept.fst
      | refine KeptS.ite ?_ ?_

theorem State.startVector_kept {base s : State} (c : Nat) (i : QInstr) (hks : Kept base s) :
    KeptS base (State.startVector s c i) := by
  delta State.startVector
  repeat' first
    | with_reducible assumption
    | ((with_reducible intro k hk); simp only [Core.setS_dmem, Core.setV_dmem, Core.setFlushed_dmem, Core.setNanSeen_dmem]; with_reducible exact hk)
    | with_reducible first
      | apply State.updCore_kept | apply State.coreCount_kept | apply finished_kept | refine Kept.ite ?_ ?_
      | refine KeptS.ite ?_ ?_

theorem State.codedAccess_kept {base s : State} (c a : Nat) (e : Ecc) (go : State → Started) (hks : Kept base s)
    (hkgo : ∀ v0, Kept base v0 → KeptS base (go v0)) :
    KeptS base (State.codedAccess s c a e go) := by
  delta State.codedAccess
  repeat' first
    | with_reducible first
      | assumption | apply hkgo | apply State.correctedRow_kept | apply State.lostRow_kept | apply KeptS.error
    | split

theorem State.startLocal_kept {base s : State} (c : Nat) (i : QInstr) (hks : Kept base s) :
    KeptS base (State.startLocal s c i) := by
  delta State.startLocal
  repeat' first
    | with_reducible assumption
    | ((with_reducible intro k hk); simp only [Core.setS_dmem, Core.setV_dmem, Core.takeDraws_dmem]; with_reducible exact hk)
    | with_reducible first
      | intro _ | apply State.updCore_kept | apply State.writeLocal_kept | apply trapAt_kept | apply finished_kept
      | apply State.noteEvents_kept | apply State.codedAccess_kept | refine Kept.ite ?_ ?_ | refine KeptS.ite ?_ ?_

theorem State.writeSide_kept {base s : State} (c ctx : Nat) (dev : Bool) (a : Nat) (bs : List Byte) (hks : Kept base s) :
    Kept base (State.writeSide s c ctx dev a bs) := by
  delta State.writeSide
  repeat' with_reducible first
    | assumption | apply State.writeLocal_kept | apply State.writeDevice_kept | refine Kept.ite ?_ ?_

theorem State.moveTransfer_kept {base s : State} (c : Nat) (x : TransferSlot) (host : List Byte) (hks : Kept base s) :
    Kept base (State.moveTransfer s c x host) := by
  delta State.moveTransfer
  repeat' with_reducible first
    | assumption | apply State.nextFree_kept | apply State.noteEvents_kept | apply State.writeSide_kept
    | refine Kept.foldl ?_ (fun x a hx => ?_) | refine Kept.ite ?_ ?_

theorem State.startTransfer_kept {base s : State} (c : Nat) (i : QInstr) (hks : Kept base s) :
    KeptS base (State.startTransfer s c i) := by
  delta State.startTransfer
  repeat' first
    | with_reducible first
      | assumption | intro _ | apply State.updCore_kept | apply State.coreCount_kept | apply trapAt_kept
      | apply finished_kept | apply State.codedAccess_kept | apply State.moveTransfer_kept
    | (rw [State.mk_parts]; with_reducible apply Kept.parts)
    | (with_reducible refine Eq.trans ?_ rfl; first | rfl | (subst_vars; rfl))
    | with_reducible first | apply KeptS.error | exact KeptS.waits
    | exact waits_kept
    | with_reducible first | apply KeptS.some | refine Kept.ite ?_ ?_ | refine KeptS.ite ?_ ?_
    | split
    | with_reducible first
      | refine Kept.of_trap ?_ (by with_reducible assumption) | refine Kept.of_started ?_ (by with_reducible assumption)
    | apply_assumption

theorem State.startDigest_kept {base s : State} (c : Nat) (i : QInstr) (hks : Kept base s) :
    KeptS base (State.startDigest s c i) := by
  delta State.startDigest
  repeat' first
    | with_reducible assumption
    | ((with_reducible intro k hk); exact hk)
    | with_reducible first | apply State.updCore_kept | apply trapAt_kept | apply finished_kept
    | exact waits_kept
    | with_reducible refine KeptS.ite ?_ ?_

theorem State.startLoad_kept {base s : State} (c : Nat) (i : QInstr) (hks : Kept base s) :
    KeptS base (State.startLoad s c i) := by
  delta State.startLoad
  repeat' with_reducible first
    | assumption | intro _ | apply State.updCore_kept | apply trapAt_kept | apply running_kept | apply State.noteEvents_kept
    | apply State.codedAccess_kept | refine KeptS.ite ?_ ?_

theorem State.startSwap_kept {base s : State} (c : Nat) (hks : Kept base s) : KeptS base (State.startSwap s c) := by
  delta State.startSwap
  repeat' first
    | with_reducible assumption
    | ((with_reducible intro k hk); exact hk)
    | with_reducible first | apply State.updCore_kept | apply State.mismatch_kept | apply trapAt_kept | apply finished_kept
    | split

theorem streamRows_kept {base s : State} (w : Operand) (free : Nat → Nat → Word) (unscaled add ftz : Bool)
    (kk nn g accStride acc last : Nat) (l : List (Nat × List Num × List Nat)) (c sat nan : Nat) (ov fl : Bool)
    (hks : Kept base s) :
    KeptP base (streamRows w free unscaled add ftz kk nn g accStride acc last l s c sat nan ov fl) := by
  induction l generalizing s sat nan ov fl with
  | nil => exact hks
  | cons a l ih =>
  unfold streamRows
  repeat' first
    | with_reducible first | assumption | apply ih | apply State.writeLocal_kept
    | (rw [State.pair_eq]; with_reducible apply KeptP.mk)
    | with_reducible refine KeptP.ite ?_ ?_

theorem State.startStream_kept {base s : State} (c : Nat) (i : QInstr) (hks : Kept base s) :
    KeptS base (State.startStream s c i) := by
  delta State.startStream
  repeat' first
    | with_reducible assumption
    | ((with_reducible intro k hk); simp only [Core.setIsat_dmem]; with_reducible exact hk)
    | with_reducible intro _
    | (extract_lets +onlyGivenNames x; clear_value (e : x = _); first
        | refine KeptS.cut (s0 := base) e ?_ (fun hx => ?_) | skip)
    | with_reducible first
      | apply State.updCore_kept | apply State.coreCount_kept | apply State.nextFree_kept | apply State.mismatch_kept
      | apply trapAt_kept | apply running_kept | apply State.noteEvents_kept | apply State.codedAccess_kept
      | apply streamRows_kept | apply Kept.fst
    | split

theorem State.coreOp_kept {base s : State} (c : Nat) (i : QInstr) (id : SemId) (op : SemOp) (hks : Kept base s) :
    Kept base (State.coreOp s c i id op) := by
  delta State.coreOp
  repeat' with_reducible first | assumption | apply State.coreCount_kept | apply State.semSend_kept

theorem State.startSem_kept {base s : State} (c : Nat) (i : QInstr) (hks : Kept base s) :
    KeptS base (State.startSem s c i) := by
  delta State.startSem
  repeat' first
    | with_reducible assumption
    | (extract_lets +onlyGivenNames x; clear_value (e : x = _))
    | with_reducible first
      | apply State.coreCount_kept | apply State.event_kept | apply State.kernelSignal_kept | apply trapAt_kept
      | apply finished_kept | apply running_kept | apply State.coreOp_kept
    | split

theorem State.startMark_kept {base s : State} (c : Nat) (i : QInstr) (hks : Kept base s) :
    KeptS base (State.startMark s c i) := by
  delta State.startMark
  repeat' with_reducible first | assumption | apply State.markPair_kept | apply finished_kept

theorem State.startInstr_kept {base s : State} (c : Nat) (i : QInstr) (hks : Kept base s) :
    KeptS base (State.startInstr s c i) := by
  delta State.startInstr
  repeat' with_reducible first
    | assumption | apply finished_kept | apply State.startScalar_kept | apply State.startVector_kept
    | apply State.startLocal_kept | apply State.startTransfer_kept | apply State.startDigest_kept
    | apply State.startLoad_kept | apply State.startSwap_kept | apply State.startStream_kept | apply State.startSem_kept
    | apply State.startMark_kept | refine KeptS.ite ?_ ?_

end Sys2Proof.Machine
end

