-- ==== Sys2Proof/Laws/KeptCoreIssue.lean ====
section
/-! SUPPORT. What the operations of Machine/CoreIssue.lean keep. -/
namespace Sys2Proof.Machine

theorem tryStart_kept {base s : State} (c : Nat) (l : List QInstr) (hks : Kept base s) : KeptO base (tryStart s c l) := by
  induction l with
  | nil => exact KeptO.none
  | cons a l ih =>
  unfold tryStart
  repeat' first
    | with_reducible assumption
    | ((with_reducible intro k hk); simp only [Core.complete_dmem]; with_reducible exact hk)
    | with_reducible first
      | apply State.updCore_kept | apply State.exception_kept | apply State.startInstr_kept | apply KeptO.some
    | split
    | with_reducible first
      | refine Kept.of_trap ?_ (by with_reducible assumption) | refine Kept.of_started ?_ (by with_reducible assumption)

theorem State.branch_kept {base s : State} (c : Nat) (i : QInstr) (hks : Kept base s) : Kept base (State.branch s c i) := by
  delta State.branch
  repeat' first
    | ((with_reducible intro k hk); simp only [Core.setS_dmem]; with_reducible exact hk)
    | with_reducible first | apply State.updCore_kept | apply State.exception_kept | refine Kept.ite ?_ ?_
    | apply_assumption

theorem State.settleFront_kept {base s : State} (c : Nat) (hks : Kept base s) : KeptO base (State.settleFront s c) := by
  delta State.settleFront
  repeat' first
    | with_reducible assumption
    | ((with_reducible intro k hk); simp only [Core.enqueue_dmem]; with_reducible exact hk)
    | (extract_lets +onlyGivenNames x; clear_value (e : x = _))
    | with_reducible first
      | apply State.updCore_kept | apply State.askWork_kept | apply State.dispatchLoop_kept | apply State.endGrant_kept
      | apply State.exception_kept | apply State.branch_kept | exact KeptO.none | apply KeptO.some
    | split

theorem advance_kept {base s : State} (n : Nat) (c : Nat) (hks : Kept base s) : Kept base (advance n s c) := by
  induction n generalizing s with
  | zero => exact hks
  | succ n ih =>
  unfold advance
  repeat' first
    | with_reducible first | assumption | apply ih | apply tryStart_kept | apply State.settleFront_kept
    | split
    | with_reducible refine Kept.of_some ?_ (by with_reducible assumption)

theorem State.run_kept {base s : State} (c : Nat) (hks : Kept base s) : Kept base (State.run s c) := by
  delta State.run
  repeat' with_reducible first | assumption | apply advance_kept

theorem State.issue_kept {base s : State} (c : Nat) (op : Byte) (f : Fields) (ecc : Ecc) (hks : Kept base s) :
    Kept base (State.issue s c op f ecc) := by
  delta State.issue
  repeat' first
    | with_reducible assumption
    | ((with_reducible intro k hk); exact hk)
    | (extract_lets +onlyGivenNames x; clear_value (e : x = _); first
        | refine Kept.cut (s0 := base) e ?_ (fun hx => ?_) | skip)
    | with_reducible first
      | apply State.updCore_kept | apply State.coreCount_kept | apply State.exception_kept | apply State.run_kept
    | split

theorem State.lostWord_kept {base s : State} (c : Nat) (hks : Kept base s) : Kept base (State.lostWord s c) := by
  delta State.lostWord
  repeat' first
    | with_reducible assumption
    | ((with_reducible intro k hk); exact hk)
    | with_reducible first | apply State.updCore_kept | apply State.exception_kept | apply State.repairRow_kept

theorem State.issueWord_kept {base s : State} (c : Nat) (w : BitVec 64) (fetch : Ecc) (hks : Kept base s) :
    Kept base (State.issueWord s c w fetch) := by
  delta State.issueWord
  repeat' first
    | with_reducible first | assumption | apply State.correctedRow_kept | apply State.issue_kept | apply State.lostWord_kept
    | split

theorem State.startGrant_kept {base s : State} (c : Nat) (hks : Kept base s) : Kept base (State.startGrant s c) := by
  delta State.startGrant
  repeat' first
    | with_reducible assumption
    | ((with_reducible intro k hk); dsimp only; split <;> (try simp only [Core.setS_dmem]) <;> with_reducible exact hk)
    | with_reducible apply State.updCore_kept

theorem State.afterKernel_kept {base s : State} (c : Nat) (hks : Kept base s) : Kept base (State.afterKernel s c) := by
  delta State.afterKernel
  repeat' first
    | with_reducible assumption
    | ((with_reducible intro k hk); exact hk)
    | (extract_lets +onlyGivenNames x; clear_value (e : x = _))
    | with_reducible first | apply State.updCore_kept | apply State.startGrant_kept
    | split

end Sys2Proof.Machine
end

