-- ==== Sys2Proof/Laws/KeptCoreEvents.lean ====
section
/-! SUPPORT. What the operations of Machine/CoreEvents.lean keep. -/
namespace Sys2Proof.Machine

theorem Core.loadKernel_wf (k : Core) (ctx id : Nat) (e image data : List Byte) (h : Cells.wf k.dmem = true) :
    Cells.wf (k.loadKernel ctx id e image data).dmem = true := by
  unfold Core.loadKernel
  exact Cells.wf_store _ _ _ h

theorem State.grantArrives_kept {base s : State} (c : Nat) (hks : Kept base s) : Kept base (State.grantArrives s c) := by
  delta State.grantArrives
  repeat' first
    | with_reducible assumption
    | ((with_reducible intro k hk); exact hk)
    | (extract_lets +onlyGivenNames x; clear_value (e : x = _); first
        | refine Kept.cut (s0 := base) e ?_ (fun hx => ?_) | skip)
    | with_reducible first
      | apply State.updCore_kept | apply State.coreCount_kept | apply State.event_kept | apply State.afterKernel_kept
    | split

theorem State.kernelArrives_kept {base s : State} (c : Nat) (uncorrectable : Bool) (hks : Kept base s) :
    Kept base (State.kernelArrives s c uncorrectable) := by
  delta State.kernelArrives
  repeat' first
    | with_reducible assumption
    | ((with_reducible intro k hk); exact hk)
    | (extract_lets +onlyGivenNames x; clear_value (e : x = _); first
        | refine Kept.cut (s0 := base) e ?_ (fun hx => ?_) | skip)
    | ((with_reducible intro k hk); exact Core.loadKernel_wf _ _ _ _ _ _ hk)
    | with_reducible first
      | apply State.updCore_kept | apply State.coreCount_kept | apply State.event_kept | apply State.exception_kept
      | apply State.afterKernel_kept
    | split

theorem State.taskReset_kept {base s : State} (c : Nat) (hks : Kept base s) : Kept base (State.taskReset s c) := by
  delta State.taskReset
  repeat' first
    | with_reducible assumption
    | ((with_reducible intro k hk); simp only [Core.resetCounters_dmem]; with_reducible exact hk)
    | with_reducible apply State.updCore_kept

theorem State.parametersArrive_kept {base s : State} (c : Nat) (uncorrectable : Bool) (hks : Kept base s) :
    Kept base (State.parametersArrive s c uncorrectable) := by
  delta State.parametersArrive
  repeat' first
    | with_reducible assumption
    | ((with_reducible intro k hk); exact Cells.wf_store _ _ _ hk)
    | ((with_reducible intro k hk); exact hk)
    | (extract_lets +onlyGivenNames x; clear_value (e : x = _))
    | with_reducible first
      | apply State.updCore_kept | apply State.exception_kept | apply State.startGrant_kept | apply State.taskReset_kept
    | split

theorem execGrantWord_kept {base s : State} (core : Nat) (hks : Kept base s) : KeptN base (execGrantWord core s) := by
  delta execGrantWord
  repeat' with_reducible first | assumption | apply State.grantArrives_kept | apply KeptN.next

theorem execKernelLoad_kept {base s : State} (core : Nat) (uncorrectable : Bool) (hks : Kept base s) :
    KeptN base (execKernelLoad core uncorrectable s) := by
  delta execKernelLoad
  repeat' with_reducible first | assumption | apply State.readsFor_kept | apply State.kernelArrives_kept | apply KeptN.next

theorem execParameterRead_kept {base s : State} (core : Nat) (uncorrectable : Bool) (hks : Kept base s) :
    KeptN base (execParameterRead core uncorrectable s) := by
  delta execParameterRead
  repeat' with_reducible first | assumption | apply State.readsFor_kept | apply State.parametersArrive_kept | apply KeptN.next

theorem State.emitDigest_kept {base s : State} (c : Nat) (x : TransferSlot) (hks : Kept base s) :
    Kept base (State.emitDigest s c x) := by
  delta State.emitDigest
  repeat' with_reducible first | assumption | apply State.trace_kept | refine Kept.ite ?_ ?_

theorem State.transferEnds_kept {base s : State} (c slot : Nat) (uncorrectable : Bool) (host : List Byte)
    (hks : Kept base s) :
    Kept base (State.transferEnds s c slot uncorrectable host) := by
  delta State.transferEnds
  repeat' first
    | ((with_reducible intro k hk); exact hk)
    | with_reducible first
      | apply State.updCore_kept | apply State.exception_kept | apply State.settleInvs_kept | apply State.moveTransfer_kept
      | apply State.run_kept | apply State.emitDigest_kept
    | split
    | apply_assumption

theorem execTransferDone_kept {base s : State} (core slot : Nat) (uncorrectable : Bool) (hostData : List Byte)
    (hks : Kept base s) :
    KeptN base (execTransferDone core slot uncorrectable hostData s) := by
  delta execTransferDone
  repeat' with_reducible first | assumption | apply State.readsFor_kept | apply State.transferEnds_kept | apply KeptN.next

theorem State.loaderEnds_kept {base s : State} (c : Nat) (hks : Kept base s) : Kept base (State.loaderEnds s c) := by
  delta State.loaderEnds
  repeat' first
    | with_reducible assumption
    | ((with_reducible intro k hk); exact hk)
    | with_reducible first
      | apply State.updCore_kept | apply State.mismatch_kept | apply State.run_kept | refine Kept.ite ?_ ?_

theorem execLoaderDone_kept {base s : State} (core : Nat) (hks : Kept base s) : KeptN base (execLoaderDone core s) := by
  delta execLoaderDone
  repeat' with_reducible first | assumption | apply State.loaderEnds_kept | apply KeptN.next

theorem execMstreamDone_kept {base s : State} (core : Nat) (hks : Kept base s) : KeptN base (execMstreamDone core s) := by
  delta execMstreamDone
  repeat' first
    | with_reducible assumption
    | ((with_reducible intro k hk); simp only [Core.complete_dmem]; with_reducible exact hk)
    | with_reducible first | apply State.updCore_kept | apply State.writeLocal_kept | apply State.run_kept | apply KeptN.next
    | split

theorem execWack_kept {base s : State} (slot : SlotRef) (hks : Kept base s) : KeptN base (execWack slot s) := by
  delta execWack
  repeat' first
    | with_reducible assumption
    | ((with_reducible intro k hk); exact hk)
    | with_reducible first | apply State.updCore_kept | apply State.run_kept | apply KeptN.next

theorem execChecksumMismatch_kept {base s : State} (failed : FailedCheck) (hks : Kept base s) :
    KeptN base (execChecksumMismatch failed s) := by
  delta execChecksumMismatch
  repeat' with_reducible first | assumption | apply State.mismatch_kept | apply State.run_kept | apply KeptN.next

theorem State.takeReport_kept {base s : State} (half : Nat) (hks : Kept base s) : Kept base (State.takeReport s half) := by
  delta State.takeReport
  repeat' first
    | with_reducible assumption
    | ((with_reducible intro k hk); exact hk)
    | (extract_lets +onlyGivenNames x; clear_value (e : x = _); first
        | refine Kept.cut (s0 := base) e ?_ (fun hx => ?_) | skip)
    | with_reducible first | apply State.updStand_kept | apply State.updCore_kept | apply State.fenceCore_kept
    | (rw [State.mk_parts]; with_reducible apply Kept.parts)
    | ((with_reducible refine Eq.trans ?_ rfl); rfl)
    | split

theorem execMismatchReport_kept {base s : State} (half : Nat) (hks : Kept base s) :
    KeptN base (execMismatchReport half s) := by
  delta execMismatchReport
  repeat' with_reducible first | assumption | apply State.takeReport_kept | apply KeptN.next

theorem State.releaseArrives_kept {base s : State} (c q : Nat) (hks : Kept base s) :
    Kept base (State.releaseArrives s c q) := by
  delta State.releaseArrives
  repeat' first
    | with_reducible assumption
    | ((with_reducible intro k hk); simp only [Core.setS_dmem, Core.complete_dmem]; with_reducible exact hk)
    | with_reducible first
      | apply State.updCore_kept | apply State.event_kept | apply State.giveBack_kept | apply State.run_kept
    | (rw [State.mk_parts]; with_reducible apply Kept.parts)
    | ((with_reducible refine Eq.trans ?_ rfl); rfl)
    | split

theorem execSemaphoreRelease_kept {base s : State} (core queue : Nat) (hks : Kept base s) :
    KeptN base (execSemaphoreRelease core queue s) := by
  delta execSemaphoreRelease
  repeat' with_reducible first | assumption | apply State.releaseArrives_kept | apply KeptN.next

theorem State.watchdogFires_kept {base s : State} (c q : Nat) (hks : Kept base s) :
    Kept base (State.watchdogFires s c q) := by
  delta State.watchdogFires
  repeat' first
    | with_reducible first | assumption | apply State.event_kept | apply State.trigger_kept | apply State.dropWaiter_kept
    | (rw [State.mk_parts]; with_reducible apply Kept.parts)
    | ((with_reducible refine Eq.trans ?_ rfl); rfl)
    | split

theorem execWaitWatchdogFire_kept {base s : State} (core queue : Nat) (hks : Kept base s) :
    KeptN base (execWaitWatchdogFire core queue s) := by
  delta execWaitWatchdogFire
  repeat' with_reducible first | assumption | apply State.watchdogFires_kept | apply KeptN.next

end Sys2Proof.Machine
end

