-- ==== Sys2Proof/Laws/KeptSemaphores.lean ====
section
/-! SUPPORT. What the operations of Machine/Semaphores.lean keep. -/
namespace Sys2Proof.Machine

theorem State.answered_kept {base s : State} (r : Except Word State) (hks : Kept base s) (hkr : KeptE base r) :
    Kept base (State.answered s r) := by
  delta State.answered
  repeat' first
    | with_reducible assumption
    | (rw [State.mk_parts]; with_reducible apply Kept.parts)
    | ((with_reducible refine Eq.trans ?_ rfl); rfl)
    | split
    | exact Kept.of_ok (by with_reducible assumption) rfl

theorem State.rootServes_kept {base s go : State} (i : Instr) (hks : Kept base s) (hkgo : Kept base go) :
    Kept base (State.rootServes s i go) := by
  delta State.rootServes
  repeat' first
    | with_reducible assumption
    | (rw [State.mk_parts]; with_reducible apply Kept.parts)
    | (with_reducible refine Eq.trans ?_ rfl; first | rfl | (subst_vars; rfl))
    | with_reducible refine Kept.ite ?_ ?_

theorem State.rootRow_kept {base s : State} (i : Instr) (r : Except Word State) (hks : Kept base s) (hkr : KeptE base r) :
    Kept base (State.rootRow s i r) := by
  delta State.rootRow
  repeat' with_reducible first | assumption | apply State.answered_kept | apply State.rootServes_kept

theorem State.waitExpires_kept {base s : State} (n : Nat) (hks : Kept base s) : Kept base (State.waitExpires s n) := by
  delta State.waitExpires
  repeat' first
    | with_reducible first | assumption | apply State.dropWaiter_kept
    | split

theorem execWaitTimeout_kept {base s : State} (node : Nat) (hks : Kept base s) : KeptN base (execWaitTimeout node s) := by
  delta execWaitTimeout
  repeat' with_reducible first | assumption | apply State.waitExpires_kept | apply KeptN.next

theorem State.bindOp_kept {base s : State} (r : List Byte) (hks : Kept base s) : KeptE base (State.bindOp s r) := by
  delta State.bindOp
  repeat' first
    | with_reducible assumption
    | (rw [State.mk_parts]; with_reducible apply Kept.parts)
    | with_reducible apply KeptE.ok
    | (with_reducible refine KeptE.bind ?_; intro _ _)
    | ((with_reducible refine Eq.trans ?_ rfl); rfl)

theorem State.unbindOp_kept {base s : State} (v : Nat) (hks : Kept base s) : KeptE base (State.unbindOp s v) := by
  delta State.unbindOp
  repeat' first
    | with_reducible assumption
    | (rw [State.mk_parts]; with_reducible apply Kept.parts)
    | with_reducible apply KeptE.ok
    | (with_reducible refine KeptE.bind ?_; intro _ _)
    | ((with_reducible refine Eq.trans ?_ rfl); rfl)

theorem execBind_kept {base s : State} (record : List Byte) (hks : Kept base s) : KeptN base (execBind record s) := by
  delta execBind
  repeat' with_reducible first | assumption | apply State.rootRow_kept | apply State.bindOp_kept | apply KeptN.next

theorem execUnbind_kept {base s : State} (value : BitVec 16) (hks : Kept base s) : KeptN base (execUnbind value s) := by
  delta execUnbind
  repeat' with_reducible first | assumption | apply State.rootRow_kept | apply State.unbindOp_kept | apply KeptN.next

theorem State.takeMessage_kept {base s : State} (f : Nat) (hks : Kept base s) : Kept base (State.takeMessage s f) := by
  delta State.takeMessage
  repeat' with_reducible first | assumption | apply State.updFlow_kept

theorem State.badMessage_kept {base s : State} (f : Nat) (hks : Kept base s) : Kept base (State.badMessage s f) := by
  delta State.badMessage
  repeat' with_reducible first | assumption | apply State.updXport_kept

theorem State.raiseMark_kept {base s : State} (f i seq : Nat) (hks : Kept base s) :
    Kept base (State.raiseMark s f i seq) := by
  delta State.raiseMark
  repeat' first
    | with_reducible assumption
    | (rw [State.mk_parts]; with_reducible apply Kept.parts)
    | ((with_reducible refine Eq.trans ?_ rfl); rfl)

theorem State.ackSignal_kept {base s : State} (f : Nat) (m : SignalMsg) (result : Nat) (hks : Kept base s) :
    Kept base (State.ackSignal s f m result) := by
  delta State.ackSignal
  repeat' with_reducible first | assumption | apply State.sendMessage_kept | refine Kept.ite ?_ ?_

theorem State.admitSignal_kept {base s : State} (f : Nat) (m : SignalMsg) (id : SemId) (hks : Kept base s) :
    KeptP base (State.admitSignal s f m id) := by
  delta State.admitSignal
  repeat' first
    | with_reducible first | assumption | apply State.raiseMark_kept | apply State.ackSignal_kept
    | (rw [State.mk_parts]; with_reducible apply Kept.parts)
    | (rw [State.pair_eq]; with_reducible apply KeptP.mk)
    | (with_reducible refine Eq.trans ?_ rfl; first | rfl | (subst_vars; rfl))
    | with_reducible first | refine Kept.ite ?_ ?_ | refine KeptP.ite ?_ ?_

theorem State.signalDone_kept {base s : State} (f : Nat) (m : SignalMsg) (hks : Kept base s) :
    Kept base (State.signalDone s f m) := by
  delta State.signalDone
  repeat' with_reducible first | assumption | apply State.updPeer_kept | apply State.ackSignal_kept | refine Kept.ite ?_ ?_

theorem State.remoteSignal_kept {base s : State} (f : Nat) (m : SignalMsg) (hks : Kept base s) :
    Kept base (State.remoteSignal s f m) := by
  delta State.remoteSignal
  repeat' first
    | with_reducible assumption
    | (extract_lets +onlyGivenNames x; clear_value (e : x = _);
        refine Kept.cut (s0 := base) e ?_ (fun hx => ?_))
    | with_reducible first
      | apply State.semApply_kept | apply State.takeMessage_kept | apply State.badMessage_kept
      | apply State.admitSignal_kept | apply State.signalDone_kept
    | split
    | with_reducible refine Kept.of_pair ?_ (by with_reducible assumption)

theorem execRemoteSignal_kept {base s : State} (flow : Nat) (m : SignalMsg) (hks : Kept base s) :
    KeptN base (execRemoteSignal flow m s) := by
  delta execRemoteSignal
  repeat' with_reducible first | assumption | apply State.remoteSignal_kept | apply KeptN.next

theorem State.joinCycle_kept {base : State} (id : SemId) (p : State × List (Nat × SignalMsg)) (f : Nat) (hkp : KeptP base p) :
    KeptP base (State.joinCycle id p f) := by
  have h : Kept base p.1 := hkp
  unfold State.joinCycle
  split
  · split
    · split
      · exact Kept.of_pair (State.admitSignal_kept _ _ _ (State.takeMessage_kept _ h)) (by assumption)
      · exact Kept.of_pair (State.admitSignal_kept _ _ _ (State.takeMessage_kept _ h)) (by assumption)
    · exact hkp
  · exact hkp

theorem State.semCycle_kept {base s : State} (id : SemId) (srcs : List SemSource) (hks : Kept base s) :
    Kept base (State.semCycle s id srcs) := by
  delta State.semCycle
  repeat' first
    | with_reducible first | assumption | apply State.semApply_kept | apply State.signalDone_kept | apply State.joinCycle_kept
    | (rw [State.mk_parts]; with_reducible apply Kept.parts)
    | (rw [State.pair_eq]; with_reducible apply KeptP.mk)
    | ((with_reducible refine Eq.trans ?_ rfl); rfl)
    | with_reducible first
      | apply Kept.fst | refine KeptP.foldl ?_ (fun x a hx => ?_) | refine Kept.foldl ?_ (fun x a hx => ?_)
      | refine Kept.ite ?_ ?_

theorem State.lostSem_kept {base s : State} (id : SemId) (hks : Kept base s) : Kept base (State.lostSem s id) := by
  delta State.lostSem
  repeat' first
    | with_reducible first | assumption | apply State.setSem_kept | apply State.exception_kept | apply State.repairRow_kept
    | split

theorem execSemaphoreCycle_kept {base s : State} (sem : SemAccess) (arriving : List SemSource) (hks : Kept base s) :
    KeptN base (execSemaphoreCycle sem arriving s) := by
  delta execSemaphoreCycle
  repeat' first
    | with_reducible first
      | assumption | apply State.correctedRow_kept | apply State.semCycle_kept | apply State.lostSem_kept | apply KeptN.next
    | split

theorem State.signalAnswered_kept {base s : State} (g : RemoteSignal) (hks : Kept base s) :
    Kept base (State.signalAnswered s g) := by
  delta State.signalAnswered
  repeat' first
    | with_reducible first | assumption | apply State.updNode_kept | apply State.pumpSignals_kept
    | (rw [State.mk_parts]; with_reducible apply Kept.parts)
    | ((with_reducible refine Eq.trans ?_ rfl); rfl)
    | with_reducible refine Kept.ite ?_ ?_

theorem State.signalAck_kept {base s : State} (f : Nat) (m : SignalMsg) (hks : Kept base s) :
    Kept base (State.signalAck s f m) := by
  delta State.signalAck
  repeat' first
    | with_reducible assumption
    | (extract_lets +onlyGivenNames x; clear_value (e : x = _); first
        | refine Kept.cut (s0 := base) e ?_ (fun hx => ?_) | skip)
    | with_reducible first | apply State.takeMessage_kept | apply State.badMessage_kept | apply State.signalAnswered_kept
    | split

theorem execSignalAck_kept {base s : State} (flow : Nat) (m : SignalMsg) (hks : Kept base s) :
    KeptN base (execSignalAck flow m s) := by
  delta execSignalAck
  repeat' with_reducible first | assumption | apply State.signalAck_kept | apply KeptN.next

end Sys2Proof.Machine
end

