-- ==== Sys2Proof/Laws/KeptExpertOps.lean ====
section
/-! SUPPORT. What the operations of Machine/ExpertOps.lean keep. -/
namespace Sys2Proof.Machine

theorem State.sendRouting_kept {base s : State} (flow : Option Nat) (half ctx : Nat) (bytes : List Byte) (hks : Kept base s) :
    Kept base (State.sendRouting s flow half ctx bytes) := by
  delta State.sendRouting
  repeat' first
    | with_reducible first | assumption | apply State.sendMessage_kept
    | (rw [State.mk_parts]; with_reducible apply Kept.parts)
    | ((with_reducible refine Eq.trans ?_ rfl); rfl)
    | split

theorem State.sendDelivery_kept {base s : State} (x : Route) (y : RouteDelivery) (flow : Option Nat) (hks : Kept base s) :
    Kept base (State.sendDelivery s x y flow) := by
  delta State.sendDelivery
  repeat' first
    | with_reducible first
      | assumption | apply State.count_kept | apply State.portReads_kept | apply State.sendRouting_kept
      | refine Kept.foldl ?_ (fun x a hx => ?_)
    | split

theorem State.setRoute_kept {base s : State} (x : Route) (hks : Kept base s) : Kept base (State.setRoute s x) := by
  delta State.setRoute
  repeat' first
    | with_reducible assumption
    | (rw [State.mk_parts]; with_reducible apply Kept.parts)
    | ((with_reducible refine Eq.trans ?_ rfl); rfl)

theorem pumpRoute_kept {base s : State} (n : Nat) (f : Nat) (hks : Kept base s) : Kept base (pumpRoute n s f) := by
  induction n generalizing s with
  | zero => exact hks
  | succ n ih =>
  unfold pumpRoute
  repeat' first
    | with_reducible first | assumption | apply ih | apply State.sendDelivery_kept | apply State.setRoute_kept
    | split

theorem State.pumpRoutes_kept {base s : State} (h : Nat) (hks : Kept base s) : Kept base (State.pumpRoutes s h) := by
  delta State.pumpRoutes
  repeat' with_reducible first | assumption | apply pumpRoute_kept | refine Kept.foldl ?_ (fun x a hx => ?_)

theorem State.writeRoute_kept {base s : State} (x : Route) (hks : Kept base s) : Kept base (State.writeRoute s x) := by
  delta State.writeRoute
  repeat' first
    | with_reducible assumption
    | (extract_lets +onlyGivenNames x; clear_value (e : x = _); first
        | refine Kept.cut (s0 := base) e ?_ (fun hx => ?_) | skip)
    | with_reducible first | apply State.setDev_kept | apply State.writeDevice_kept | refine Kept.foldl ?_ (fun x a hx => ?_)
    | split

theorem State.endRoute_kept {base s : State} (x : Route) (cancelled : Bool) (hks : Kept base s) :
    Kept base (State.endRoute s x cancelled) := by
  delta State.endRoute
  repeat' first
    | with_reducible first
      | assumption | apply State.updNode_kept | apply State.updLayer_kept | apply State.pumpRoutes_kept
      | apply State.writeRoute_kept
    | (rw [State.mk_parts]; with_reducible apply Kept.parts)
    | ((with_reducible refine Eq.trans ?_ rfl); rfl)

theorem State.checkRoute_kept {base s : State} (x : Route) (hks : Kept base s) : Kept base (State.checkRoute s x) := by
  delta State.checkRoute
  repeat' with_reducible first | assumption | apply State.endRoute_kept | refine Kept.ite ?_ ?_

theorem State.sendCancels_kept {base s : State} (x : Route) (deadline : Nat) (hks : Kept base s) :
    Kept base (State.sendCancels s x deadline) := by
  delta State.sendCancels
  repeat' first
    | with_reducible first | assumption | apply State.sendRouting_kept
    | (rw [State.mk_parts]; with_reducible apply Kept.parts)
    | ((with_reducible refine Eq.trans ?_ rfl); rfl)
    | with_reducible first | refine Kept.foldl ?_ (fun x a hx => ?_) | refine Kept.ite ?_ ?_

theorem State.cancelRoute_kept {base s : State} (n : Nat) (hks : Kept base s) : Kept base (State.cancelRoute s n) := by
  delta State.cancelRoute
  repeat' first
    | with_reducible first
      | assumption | apply State.setNode_kept | apply State.updLayer_kept | apply State.endRoute_kept
      | apply State.sendCancels_kept
    | split

theorem State.dropRoutes_kept {base s : State} (c : Nat) (hks : Kept base s) : Kept base (State.dropRoutes s c) := by
  delta State.dropRoutes
  repeat' first
    | with_reducible first | assumption | apply State.sendCancels_kept
    | (rw [State.mk_parts]; with_reducible apply Kept.parts)
    | ((with_reducible refine Eq.trans ?_ rfl); rfl)
    | with_reducible refine Kept.foldl ?_ (fun x a hx => ?_)

theorem State.releaseQuarantine_kept {base s : State} (p : Quarantine → Destination → Bool) (hks : Kept base s) :
    Kept base (State.releaseQuarantine s p) := by
  delta State.releaseQuarantine
  repeat' first
    | with_reducible assumption
    | (rw [State.mk_parts]; with_reducible apply Kept.parts)
    | ((with_reducible refine Eq.trans ?_ rfl); rfl)

theorem State.pushCommand_kept {base s : State} (r : Nat) (c : Cmd) (hks : Kept base s) :
    Kept base (State.pushCommand s r c) := by
  delta State.pushCommand
  repeat' with_reducible first | assumption | apply State.setDev_kept | apply State.updRing_kept

theorem placePortions_kept {base s : State} (l : List Portion) (hks : Kept base s) : KeptO base (placePortions l s) := by
  induction l generalizing s with
  | nil => exact KeptO.some hks
  | cons a l ih =>
  unfold placePortions
  repeat' first
    | with_reducible first | assumption | apply ih
    | (rw [State.mk_parts]; with_reducible apply Kept.parts)
    | with_reducible exact KeptO.none
    | ((with_reducible refine Eq.trans ?_ rfl); rfl)
    | split

theorem State.allocate_kept {base s : State} (w : WaitingDelivery) (hks : Kept base s) : KeptO base (State.allocate s w) := by
  delta State.allocate
  repeat' with_reducible first | assumption | apply State.updEngine_kept | apply placePortions_kept | refine KeptO.ite ?_ ?_

theorem State.waitDelivery_kept {base s : State} (w : WaitingDelivery) (hks : Kept base s) :
    Kept base (State.waitDelivery s w) := by
  delta State.waitDelivery
  repeat' first
    | with_reducible assumption
    | (rw [State.mk_parts]; with_reducible apply Kept.parts)
    | ((with_reducible refine Eq.trans ?_ rfl); rfl)

theorem State.allocateWaiting_kept {base s : State} (h : Nat) (hks : Kept base s) :
    Kept base (State.allocateWaiting s h) := by
  delta State.allocateWaiting
  repeat' first
    | with_reducible first | assumption | apply State.allocate_kept
    | (rw [State.mk_parts]; with_reducible apply Kept.parts)
    | ((with_reducible refine Eq.trans ?_ rfl); rfl)
    | with_reducible refine Kept.foldl ?_ (fun x a hx => ?_)
    | split
    | with_reducible refine Kept.of_some ?_ (by with_reducible assumption)

theorem State.freePortion_kept {base s : State} (p : Portion) (hks : Kept base s) : Kept base (State.freePortion s p) := by
  delta State.freePortion
  repeat' first
    | with_reducible assumption
    | (rw [State.mk_parts]; with_reducible apply Kept.parts)
    | ((with_reducible refine Eq.trans ?_ rfl); rfl)

theorem State.setPortion_kept {base s : State} (p q : Portion) (hks : Kept base s) : Kept base (State.setPortion s p q) := by
  delta State.setPortion
  repeat' first
    | with_reducible assumption
    | (rw [State.mk_parts]; with_reducible apply Kept.parts)
    | ((with_reducible refine Eq.trans ?_ rfl); rfl)

theorem State.sendAnswers_kept {base s : State} (p : Portion) (es : List AnswerEntry) (hks : Kept base s) :
    Kept base (State.sendAnswers s p es) := by
  delta State.sendAnswers
  repeat' with_reducible first | assumption | apply State.sendRouting_kept | refine Kept.foldl ?_ (fun x a hx => ?_)

theorem State.failPortion_kept {base s : State} (p : Portion) (status : Nat) (hks : Kept base s) :
    Kept base (State.failPortion s p status) := by
  delta State.failPortion
  repeat' with_reducible first
    | assumption | apply State.freePortion_kept | apply State.setPortion_kept | apply State.sendAnswers_kept
    | refine Kept.ite ?_ ?_

theorem State.answerPortion_kept {base s : State} (p : Portion) (hks : Kept base s) :
    Kept base (State.answerPortion s p) := by
  delta State.answerPortion
  repeat' with_reducible first
    | assumption | apply State.portReads_kept | apply State.freePortion_kept | apply State.sendAnswers_kept

theorem State.tryLaunch_kept {base s : State} (p : Portion) (hks : Kept base s) : Kept base (State.tryLaunch s p) := by
  delta State.tryLaunch
  repeat' first
    | with_reducible assumption
    | (extract_lets +onlyGivenNames x; clear_value (e : x = _); first
        | refine Kept.cut (s0 := base) e ?_ (fun hx => ?_) | skip)
    | with_reducible first
      | apply State.updEngine_kept | apply State.pushCommand_kept | apply State.setPortion_kept
      | apply State.failPortion_kept
    | (rw [State.mk_parts]; with_reducible apply Kept.parts)
    | ((with_reducible refine Eq.trans ?_ rfl); rfl)
    | split

theorem State.launchPortions_kept {base s : State} (h : Nat) (hks : Kept base s) : Kept base (State.launchPortions s h) := by
  delta State.launchPortions
  repeat' with_reducible first | assumption | apply State.tryLaunch_kept | refine Kept.foldl ?_ (fun x a hx => ?_)

theorem State.coldCopyDone_kept {base s : State} (r seq status : Nat) (hks : Kept base s) :
    Kept base (State.coldCopyDone s r seq status) := by
  delta State.coldCopyDone
  repeat' first
    | with_reducible assumption
    | (rw [State.mk_parts]; with_reducible apply Kept.parts)
    | ((with_reducible refine Eq.trans ?_ rfl); rfl)

theorem State.expertRetired_kept {base s : State} (r seq status : Nat) (hks : Kept base s) :
    Kept base (State.expertRetired s r seq status) := by
  delta State.expertRetired
  repeat' first
    | with_reducible first
      | assumption | apply State.freePortion_kept | apply State.failPortion_kept | apply State.answerPortion_kept
      | apply State.launchPortions_kept | apply State.coldCopyDone_kept
    | (rw [State.mk_parts]; with_reducible apply Kept.parts)
    | ((with_reducible refine Eq.trans ?_ rfl); rfl)
    | split

theorem State.cancelPortions_kept {base s : State} (hit : Portion → Bool) (hitW : WaitingDelivery → Bool)
    (hks : Kept base s) :
    Kept base (State.cancelPortions s hit hitW) := by
  delta State.cancelPortions
  repeat' first
    | with_reducible assumption
    | (rw [State.mk_parts]; with_reducible apply Kept.parts)
    | ((with_reducible refine Eq.trans ?_ rfl); rfl)

theorem State.failPortions_kept {base s : State} (c : Nat) (hks : Kept base s) : Kept base (State.failPortions s c) := by
  delta State.failPortions
  repeat' with_reducible first
    | assumption | apply State.freePortion_kept | apply State.failPortion_kept | refine Kept.foldl ?_ (fun x a hx => ?_)
    | refine Kept.ite ?_ ?_

theorem State.expertsFlowClosed_kept {base s : State} (f : Nat) (hks : Kept base s) :
    Kept base (State.expertsFlowClosed s f) := by
  delta State.expertsFlowClosed
  repeat' with_reducible first
    | assumption | apply State.cancelRoute_kept | apply State.releaseQuarantine_kept | apply State.cancelPortions_kept
    | refine Kept.foldl ?_ (fun x a hx => ?_)

theorem State.closeFlow_kept {base s : State} (f reason : Nat) (send : Bool) (hks : Kept base s) :
    Kept base (State.closeFlow s f reason send) := by
  delta State.closeFlow
  repeat' with_reducible first
    | assumption | apply State.closeFlowOnly_kept | apply State.expertsFlowClosed_kept | refine Kept.ite ?_ ?_

end Sys2Proof.Machine
end

