-- ==== Sys2Proof/Laws/KeptExperts.lean ====
section
/-! SUPPORT. What the operations of Machine/Experts.lean keep. -/
namespace Sys2Proof.Machine

theorem State.beginRoute_kept {base s : State} (n : Nat) (d : Node) (hks : Kept base s) :
    Kept base (State.beginRoute s n d) := by
  delta State.beginRoute
  repeat' first
    | with_reducible first
      | assumption | apply State.updLayer_kept | apply State.count_kept | apply State.portReads_kept
      | apply State.nextFree_kept | apply State.writeDevice_kept | apply State.pumpRoutes_kept
    | (rw [State.mk_parts]; with_reducible apply Kept.parts)
    | ((with_reducible refine Eq.trans ?_ rfl); rfl)
    | with_reducible refine Kept.foldl ?_ (fun x a hx => ?_)

theorem State.routeStep_kept {base s : State} (n : Nat) (uncorrectable : Bool) (hks : Kept base s) :
    Kept base (State.routeStep s n uncorrectable) := by
  delta State.routeStep
  repeat' first
    | with_reducible assumption
    | (extract_lets +onlyGivenNames x; clear_value (e : x = _))
    | with_reducible first
      | apply State.setNode_kept | apply State.updLayer_kept | apply State.nodeFault_kept | apply State.readsFor_kept
      | apply State.beginRoute_kept
    | split

theorem execRouteCommand_kept {base s : State} (node : Nat) (uncorrectable : Bool) (hks : Kept base s) :
    KeptN base (execRouteCommand node uncorrectable s) := by
  delta execRouteCommand
  repeat' with_reducible first | assumption | apply State.routeStep_kept | apply KeptN.next

theorem State.takeRouting_kept {base s : State} (flow : Option Nat) (half : Nat) (bytes : List Byte) (hks : Kept base s) :
    KeptQ base (State.takeRouting s flow half bytes) := by
  delta State.takeRouting
  repeat' first
    | with_reducible first | assumption | apply State.takeMessage_kept
    | (rw [State.mk_parts]; with_reducible apply Kept.parts)
    | with_reducible first | exact KeptQ.none | apply KeptQ.some
    | ((with_reducible refine Eq.trans ?_ rfl); rfl)
    | split

theorem State.deliver_kept {base s : State} (flow : Option Nat) (h : RouteHdr) (tb rb : Nat) (es : List (Nat × Nat))
    (hks : Kept base s) :
    Kept base (State.deliver s flow h tb rb es) := by
  delta State.deliver
  repeat' first
    | with_reducible assumption
    | (extract_lets +onlyGivenNames x; clear_value (e : x = _))
    | with_reducible first | apply State.allocate_kept | apply State.waitDelivery_kept | apply State.takeRouting_kept
    | split
    | with_reducible first
      | refine Kept.of_some ?_ (by with_reducible assumption) | refine Kept.of_some_pair ?_ (by with_reducible assumption)

theorem execDelivery_kept {base s : State} (flow : Option Nat) (h : RouteHdr) (tokenBytes resultBytes : Nat) (entries : List
    (Nat × Nat)) (hks : Kept base s) :
    KeptN base (execDelivery flow h tokenBytes resultBytes entries s) := by
  delta execDelivery
  repeat' with_reducible first | assumption | apply State.deliver_kept | apply KeptN.next

theorem execDeliveryAllocate_kept {base s : State} (half : Nat) (hks : Kept base s) :
    KeptN base (execDeliveryAllocate half s) := by
  delta execDeliveryAllocate
  repeat' with_reducible first | assumption | apply State.allocateWaiting_kept | apply KeptN.next

theorem State.takeToken_kept {base s : State} (flow : Option Nat) (h : RouteHdr) (e : TokenEntry) (hks : Kept base s) :
    Kept base (State.takeToken s flow h e) := by
  delta State.takeToken
  repeat' first
    | with_reducible assumption
    | (extract_lets +onlyGivenNames x; clear_value (e : x = _); first
        | refine Kept.cut (s0 := base) e ?_ (fun hx => ?_) | skip)
    | with_reducible first
      | apply State.setDev_kept | apply State.setPortion_kept | apply State.failPortion_kept | apply State.tryLaunch_kept
    | split

theorem State.takeTokens_kept {base s : State} (flow : Option Nat) (h : RouteHdr) (es : List TokenEntry) (hks : Kept base s) :
    Kept base (State.takeTokens s flow h es) := by
  delta State.takeTokens
  repeat' first
    | with_reducible first
      | assumption | apply State.takeRouting_kept | apply State.takeToken_kept | refine Kept.foldl ?_ (fun x a hx => ?_)
    | split
    | with_reducible refine Kept.of_some_pair ?_ (by with_reducible assumption)

theorem execTokens_kept {base s : State} (flow : Option Nat) (h : RouteHdr) (entries : List TokenEntry) (hks : Kept base s) :
    KeptN base (execTokens flow h entries s) := by
  delta execTokens
  repeat' with_reducible first | assumption | apply State.takeTokens_kept | apply KeptN.next

theorem State.lateAnswer_kept {base s : State} (h : Nat) (hks : Kept base s) : Kept base (State.lateAnswer s h) := by
  delta State.lateAnswer
  repeat' with_reducible first | assumption | apply State.updEngine_kept

theorem State.takeAnswer_kept {base s : State} (h : Nat) (e : AnswerEntry) (hks : Kept base s) :
    Kept base (State.takeAnswer s h e) := by
  delta State.takeAnswer
  repeat' first
    | (extract_lets +onlyGivenNames x; clear_value (e : x = _); first
        | refine Kept.cut (s0 := base) e ?_ (fun hx => ?_)
        | refine Kept.cutFun2 (s0 := base) e (fun _ _ _ => ?_) (fun hx => ?_) | skip)
    | with_reducible first
      | apply State.updLayer_kept | apply State.count_kept | apply State.writeDevice_kept | apply State.setRoute_kept
      | apply State.pumpRoutes_kept | apply State.checkRoute_kept | apply State.lateAnswer_kept
    | split
    | apply_assumption

theorem State.takeAnswers_kept {base s : State} (flow : Option Nat) (h : RouteHdr) (es : List AnswerEntry)
    (hks : Kept base s) :
    Kept base (State.takeAnswers s flow h es) := by
  delta State.takeAnswers
  repeat' first
    | with_reducible first
      | assumption | apply State.takeRouting_kept | apply State.takeAnswer_kept | refine Kept.foldl ?_ (fun x a hx => ?_)
    | split
    | with_reducible refine Kept.of_some_pair ?_ (by with_reducible assumption)

theorem execAnswers_kept {base s : State} (flow : Option Nat) (h : RouteHdr) (entries : List AnswerEntry)
    (hks : Kept base s) :
    KeptN base (execAnswers flow h entries s) := by
  delta execAnswers
  repeat' with_reducible first | assumption | apply State.takeAnswers_kept | apply KeptN.next

theorem State.takeCancel_kept {base s : State} (flow : Option Nat) (h : RouteHdr) (hks : Kept base s) :
    Kept base (State.takeCancel s flow h) := by
  delta State.takeCancel
  repeat' first
    | with_reducible first
      | assumption | apply State.sendRouting_kept | apply State.cancelPortions_kept | apply State.takeRouting_kept
    | split
    | with_reducible refine Kept.of_some_pair ?_ (by with_reducible assumption)

theorem execCancel_kept {base s : State} (flow : Option Nat) (h : RouteHdr) (hks : Kept base s) :
    KeptN base (execCancel flow h s) := by
  delta execCancel
  repeat' with_reducible first | assumption | apply State.takeCancel_kept | apply KeptN.next

theorem State.takeCancelAck_kept {base s : State} (flow : Option Nat) (h : RouteHdr) (hks : Kept base s) :
    Kept base (State.takeCancelAck s flow h) := by
  delta State.takeCancelAck
  repeat' first
    | with_reducible first | assumption | apply State.releaseQuarantine_kept | apply State.takeRouting_kept
    | split
    | with_reducible refine Kept.of_some_pair ?_ (by with_reducible assumption)

theorem execCancelAck_kept {base s : State} (flow : Option Nat) (h : RouteHdr) (hks : Kept base s) :
    KeptN base (execCancelAck flow h s) := by
  delta execCancelAck
  repeat' with_reducible first | assumption | apply State.takeCancelAck_kept | apply KeptN.next

theorem State.stepExpires_kept {base s : State} (n : Nat) (hks : Kept base s) : Kept base (State.stepExpires s n) := by
  delta State.stepExpires
  repeat' first
    | with_reducible first | assumption | apply State.cancelRoute_kept
    | split

theorem execStepTimeoutExpiry_kept {base s : State} (node : Nat) (hks : Kept base s) :
    KeptN base (execStepTimeoutExpiry node s) := by
  delta execStepTimeoutExpiry
  repeat' with_reducible first | assumption | apply State.stepExpires_kept | apply KeptN.next

theorem State.layerCancelOp_kept {base s : State} (h l v : Nat) (hks : Kept base s) :
    KeptE base (State.layerCancelOp s h l v) := by
  delta State.layerCancelOp
  repeat' first
    | with_reducible assumption
    | (extract_lets +onlyGivenNames x; clear_value (e : x = _))
    | with_reducible first | apply State.cancelRoute_kept | exact KeptE.error | apply KeptE.ok
    | (with_reducible refine KeptE.bind ?_; intro _ _)
    | split

theorem execLayerCancel_kept {base s : State} (half layer : Nat) (value : BitVec 16) (hks : Kept base s) :
    KeptN base (execLayerCancel half layer value s) := by
  delta execLayerCancel
  repeat' with_reducible first | assumption | apply State.rootRow_kept | apply State.layerCancelOp_kept | apply KeptN.next

theorem State.descriptorOp_kept {base s : State} (h l : Nat) (b : List Byte) (hks : Kept base s) :
    KeptE base (State.descriptorOp s h l b) := by
  delta State.descriptorOp
  repeat' first
    | with_reducible first | assumption | apply State.updLayer_kept | apply KeptE.ok
    | (with_reducible refine KeptE.bind ?_; intro _ _)

theorem execDescriptorWrite_kept {base s : State} (half layer : Nat) (bytes : List Byte) (hks : Kept base s) :
    KeptN base (execDescriptorWrite half layer bytes s) := by
  delta execDescriptorWrite
  repeat' with_reducible first | assumption | apply State.rootRow_kept | apply State.descriptorOp_kept | apply KeptN.next

theorem State.windowEnds_kept {base s : State} (h ln : Nat) (hks : Kept base s) : Kept base (State.windowEnds s h ln) := by
  delta State.windowEnds
  repeat' first
    | with_reducible assumption
    | (extract_lets +onlyGivenNames x; clear_value (e : x = _); first
        | refine Kept.cut (s0 := base) e ?_ (fun hx => ?_) | skip)
    | with_reducible first | apply State.updLayer_kept | apply State.portReads_kept | apply State.setDev_kept
    | split

theorem execBiasWindowEnd_kept {base s : State} (half layer : Nat) (hks : Kept base s) :
    KeptN base (execBiasWindowEnd half layer s) := by
  delta execBiasWindowEnd
  repeat' with_reducible first | assumption | apply State.windowEnds_kept | apply KeptN.next

end Sys2Proof.Machine
end

