-- ==== Sys2Proof/Laws/KeptEclahild.lean ====
section
/-! SUPPORT. What the operations of Machine/Eclahild.lean keep. -/
namespace Sys2Proof.Machine

theorem State.sendOpens_kept {base s : State} (f : Nat) (hks : Kept base s) : Kept base (State.sendOpens s f) := by
  delta State.sendOpens
  repeat' with_reducible first | assumption | apply State.sendPacket_kept | refine Kept.foldl ?_ (fun x a hx => ?_)

theorem State.addPeer_kept {base s : State} (d : Nat) (hks : Kept base s) : Kept base (State.addPeer s d) := by
  delta State.addPeer
  repeat' first
    | with_reducible first | assumption | apply State.updPeer_kept
    | (rw [State.mk_parts]; with_reducible apply Kept.parts)
    | ((with_reducible refine Eq.trans ?_ rfl); rfl)
    | with_reducible refine Kept.ite ?_ ?_

theorem State.flowOpenOp_kept {base s : State} (r : List Byte) (hks : Kept base s) : KeptE base (State.flowOpenOp s r) := by
  delta State.flowOpenOp
  repeat' first
    | with_reducible first | assumption | apply State.setFlow_kept | apply State.sendOpens_kept | apply State.addPeer_kept
    | (rw [State.mk_parts]; with_reducible apply Kept.parts)
    | with_reducible apply KeptE.ok
    | (with_reducible refine KeptE.bind ?_; intro _ _)
    | ((with_reducible refine Eq.trans ?_ rfl); rfl)
    | with_reducible refine Kept.ite ?_ ?_

theorem execFlowOpen_kept {base s : State} (record : List Byte) (hks : Kept base s) : KeptN base (execFlowOpen record s) := by
  delta execFlowOpen
  repeat' with_reducible first | assumption | apply State.rootRow_kept | apply State.flowOpenOp_kept | apply KeptN.next

theorem State.flowCloseOp_kept {base s : State} (f : Nat) (hks : Kept base s) : KeptE base (State.flowCloseOp s f) := by
  delta State.flowCloseOp
  repeat' first
    | with_reducible first | assumption | apply State.closeFlow_kept | apply KeptE.ok
    | (with_reducible refine KeptE.bind ?_; intro _ _)

theorem execFlowClose_kept {base s : State} (value : BitVec 16) (hks : Kept base s) : KeptN base (execFlowClose value s) := by
  delta execFlowClose
  repeat' with_reducible first | assumption | apply State.rootRow_kept | apply State.flowCloseOp_kept | apply KeptN.next

theorem State.markReleaseOp_kept {base s : State} (r : List Byte) (hks : Kept base s) :
    KeptE base (State.markReleaseOp s r) := by
  delta State.markReleaseOp
  repeat' first
    | with_reducible assumption
    | (rw [State.mk_parts]; with_reducible apply Kept.parts)
    | with_reducible apply KeptE.ok
    | (with_reducible refine KeptE.bind ?_; intro _ _)
    | ((with_reducible refine Eq.trans ?_ rfl); rfl)

theorem execMarkRelease_kept {base s : State} (record : List Byte) (hks : Kept base s) :
    KeptN base (execMarkRelease record s) := by
  delta execMarkRelease
  repeat' with_reducible first | assumption | apply State.rootRow_kept | apply State.markReleaseOp_kept | apply KeptN.next

theorem execOpenRetryTimer_kept {base s : State} (flow : Nat) (hks : Kept base s) :
    KeptN base (execOpenRetryTimer flow s) := by
  delta execOpenRetryTimer
  repeat' with_reducible first
    | assumption | apply State.updFlow_kept | apply State.sendOpens_kept | apply KeptN.next | refine Kept.ite ?_ ?_

theorem State.receive_kept {base s : State} (port : Nat) (type : Byte) (p : Packet) (hks : Kept base s) :
    KeptP base (State.receive s port type p) := by
  delta State.receive
  repeat' first
    | with_reducible first | assumption | apply State.updXport_kept | apply State.count_kept
    | (rw [State.pair_eq]; with_reducible apply KeptP.mk)
    | with_reducible refine KeptP.ite ?_ ?_

theorem State.answerClosed_kept {base s : State} (port : Nat) (p : Packet) (hks : Kept base s) :
    Kept base (State.answerClosed s port p) := by
  delta State.answerClosed
  repeat' with_reducible first | assumption | apply State.sendPacket_kept

theorem State.flowOfPacket_kept {base s : State} (port : Nat) (p : Packet) (hks : Kept base s) :
    KeptP base (State.flowOfPacket s port p) := by
  delta State.flowOfPacket
  repeat' first
    | with_reducible first | assumption | apply State.closeFlow_kept | apply State.answerClosed_kept
    | (rw [State.pair_eq]; with_reducible apply KeptP.mk)
    | split

theorem State.takeAck_kept {base s : State} (f ack : Nat) (hks : Kept base s) : Kept base (State.takeAck s f ack) := by
  delta State.takeAck
  repeat' first
    | with_reducible assumption
    | (extract_lets +onlyGivenNames x; clear_value (e : x = _); first
        | refine Kept.cut (s0 := base) e ?_ (fun hx => ?_) | skip)
    | with_reducible first | apply State.updFlow_kept | apply State.updPeer_kept | apply pumpFlow_kept
    | split

theorem State.messageIn_kept {base s : State} (port f : Nat) (m : List Byte) (hks : Kept base s) :
    Kept base (State.messageIn s port f m) := by
  delta State.messageIn
  repeat' with_reducible first | assumption | apply State.updXport_kept | apply State.updFlow_kept | refine Kept.ite ?_ ?_

theorem State.ackSixteen_kept {base s : State} (f : Nat) (hks : Kept base s) : Kept base (State.ackSixteen s f) := by
  delta State.ackSixteen
  repeat' with_reducible first
    | assumption | apply State.updFlow_kept | apply State.sendOnFlow_kept | apply Kept.fst | refine Kept.ite ?_ ?_

theorem passOn_kept {base s : State} (n : Nat) (p f : Nat) (hks : Kept base s) : Kept base (passOn n s p f) := by
  induction n generalizing s with
  | zero => exact hks
  | succ n ih =>
  unfold passOn
  repeat' first
    | with_reducible assumption
    | (extract_lets +onlyGivenNames x; clear_value (e : x = _); first
        | refine Kept.cut (s0 := base) e ?_ (fun hx => ?_) | skip)
    | with_reducible first | apply ih | apply State.updFlow_kept | apply State.messageIn_kept | apply State.ackSixteen_kept
    | split

theorem State.afterPass_kept {base s : State} (f : Nat) (hks : Kept base s) : Kept base (State.afterPass s f) := by
  delta State.afterPass
  repeat' with_reducible first
    | assumption | apply State.updFlow_kept | apply State.sendOnFlow_kept | apply Kept.fst | refine Kept.ite ?_ ?_

theorem State.dataIn_kept {base s : State} (port f : Nat) (p : Packet) (hks : Kept base s) :
    Kept base (State.dataIn s port f p) := by
  delta State.dataIn
  dsimp only
  repeat' with_reducible first
    | assumption | apply State.updFlow_kept | apply State.takeAck_kept | apply State.ackSixteen_kept | apply passOn_kept
    | apply State.afterPass_kept | refine Kept.ite ?_ ?_

theorem execData_kept {base s : State} (port : Nat) (p : Packet) (hks : Kept base s) : KeptN base (execData port p s) := by
  delta execData
  repeat' first
    | with_reducible first
      | assumption | apply State.receive_kept | apply State.flowOfPacket_kept | apply State.dataIn_kept | apply KeptN.next
    | split
    | with_reducible refine Kept.of_pair ?_ (by with_reducible assumption)

theorem execAck_kept {base s : State} (port : Nat) (p : Packet) (hks : Kept base s) : KeptN base (execAck port p s) := by
  delta execAck
  repeat' first
    | with_reducible first
      | assumption | apply State.receive_kept | apply State.flowOfPacket_kept | apply State.takeAck_kept | apply KeptN.next
    | split
    | with_reducible refine Kept.of_pair ?_ (by with_reducible assumption)

theorem State.resend_kept {base s : State} (f : Nat) (t : TxPacket) (hks : Kept base s) : Kept base (State.resend s f t) := by
  delta State.resend
  repeat' first
    | with_reducible first
      | assumption | apply State.count_kept | apply State.updFlow_kept | apply State.updPeer_kept
      | apply State.sendPacket_kept | apply State.closeFlow_kept
    | split

theorem State.nakIn_kept {base s : State} (f : Nat) (p : Packet) (hks : Kept base s) : Kept base (State.nakIn s f p) := by
  delta State.nakIn
  repeat' first
    | with_reducible assumption
    | (extract_lets +onlyGivenNames x; clear_value (e : x = _);
        refine Kept.cut (s0 := base) e ?_ (fun hx => ?_))
    | with_reducible first | apply State.takeAck_kept | apply State.resend_kept
    | split

theorem execNak_kept {base s : State} (port : Nat) (p : Packet) (hks : Kept base s) : KeptN base (execNak port p s) := by
  delta execNak
  repeat' first
    | with_reducible first
      | assumption | apply State.receive_kept | apply State.flowOfPacket_kept | apply State.nakIn_kept | apply KeptN.next
    | split
    | with_reducible refine Kept.of_pair ?_ (by with_reducible assumption)

theorem State.enterOpen_kept {base s : State} (f : Nat) (p : Packet) (hks : Kept base s) :
    Kept base (State.enterOpen s f p) := by
  delta State.enterOpen
  repeat' with_reducible first
    | assumption | apply State.updFlow_kept | apply State.updPeer_kept | apply State.pumpSignals_kept
    | apply State.pumpRoutes_kept | refine Kept.ite ?_ ?_

theorem State.openIn_kept {base s : State} (port : Nat) (p : Packet) (hks : Kept base s) :
    Kept base (State.openIn s port p) := by
  delta State.openIn
  repeat' first
    | with_reducible first
      | assumption | apply State.sendPacket_kept | apply State.closeFlow_kept | apply State.enterOpen_kept
    | (rw [State.mk_parts]; with_reducible apply Kept.parts)
    | ((with_reducible refine Eq.trans ?_ rfl); rfl)
    | split

theorem execOpenPacket_kept {base s : State} (port : Nat) (p : Packet) (hks : Kept base s) :
    KeptN base (execOpenPacket port p s) := by
  delta execOpenPacket
  repeat' first
    | with_reducible first | assumption | apply State.receive_kept | apply State.openIn_kept | apply KeptN.next
    | split
    | with_reducible refine Kept.of_pair ?_ (by with_reducible assumption)

theorem execOpenAck_kept {base s : State} (port : Nat) (p : Packet) (hks : Kept base s) :
    KeptN base (execOpenAck port p s) := by
  delta execOpenAck
  repeat' first
    | with_reducible first
      | assumption | apply State.closeFlow_kept | apply State.receive_kept | apply State.enterOpen_kept | apply KeptN.next
    | split
    | with_reducible refine Kept.of_pair ?_ (by with_reducible assumption)

theorem State.closeIn_kept {base s : State} (p : Packet) (reason : Nat) (hks : Kept base s) :
    Kept base (State.closeIn s p reason) := by
  delta State.closeIn
  repeat' first
    | with_reducible first | assumption | apply State.closeFlow_kept
    | split

theorem execClosePacket_kept {base s : State} (port : Nat) (p : Packet) (hks : Kept base s) :
    KeptN base (execClosePacket port p s) := by
  delta execClosePacket
  repeat' first
    | with_reducible first | assumption | apply State.receive_kept | apply State.closeIn_kept | apply KeptN.next
    | split
    | with_reducible refine Kept.of_pair ?_ (by with_reducible assumption)

theorem execClosed_kept {base s : State} (port : Nat) (p : Packet) (hks : Kept base s) :
    KeptN base (execClosed port p s) := by
  delta execClosed
  repeat' first
    | with_reducible first | assumption | apply State.receive_kept | apply State.closeIn_kept | apply KeptN.next
    | split
    | with_reducible refine Kept.of_pair ?_ (by with_reducible assumption)

theorem execAckTimer_kept {base s : State} (flow : Nat) (hks : Kept base s) : KeptN base (execAckTimer flow s) := by
  delta execAckTimer
  repeat' with_reducible first
    | assumption | apply State.updFlow_kept | apply State.sendOnFlow_kept | apply KeptN.next | apply Kept.fst
    | refine Kept.ite ?_ ?_

theorem execNakTimer_kept {base s : State} (flow : Nat) (hks : Kept base s) : KeptN base (execNakTimer flow s) := by
  delta execNakTimer
  repeat' with_reducible first
    | assumption | apply State.updFlow_kept | apply State.sendOnFlow_kept | apply KeptN.next | apply Kept.fst
    | refine Kept.ite ?_ ?_

theorem execRtoExpiry_kept {base s : State} (flow : Nat) (hks : Kept base s) : KeptN base (execRtoExpiry flow s) := by
  delta execRtoExpiry
  repeat' first
    | with_reducible first | assumption | apply State.resend_kept | apply KeptN.next
    | split

theorem State.portChanged_kept {base s t : State} (port : Nat) (hks : Kept base s) (hkt : Kept base t) :
    Kept base (State.portChanged s t port) := by
  delta State.portChanged
  repeat' with_reducible first | assumption | apply State.event_kept | refine Kept.ite ?_ ?_

theorem State.failPort_kept {base s : State} (port : Nat) (hks : Kept base s) : Kept base (State.failPort s port) := by
  delta State.failPort
  repeat' with_reducible first
    | assumption | apply State.updXport_kept | apply State.blockFlag_kept | apply State.log_kept
    | apply State.repairAdd_kept | apply State.portChanged_kept | refine Kept.ite ?_ ?_

theorem State.laneFails_kept {base s : State} (port dir lane : Nat) (hks : Kept base s) :
    Kept base (State.laneFails s port dir lane) := by
  delta State.laneFails
  repeat' first
    | with_reducible first
      | assumption | apply State.updXport_kept | apply State.log_kept | apply State.repairAdd_kept
      | apply State.failPort_kept
    | (rw [State.mk_parts]; with_reducible apply Kept.parts)
    | ((with_reducible refine Eq.trans ?_ rfl); rfl)
    | with_reducible refine Kept.ite ?_ ?_

theorem execMacLinkChange_kept {base s : State} (port : Nat) (up : Bool) (hks : Kept base s) :
    KeptN base (execMacLinkChange port up s) := by
  delta execMacLinkChange
  repeat' with_reducible first | assumption | apply State.updXport_kept | apply State.portChanged_kept | apply KeptN.next

theorem execMacFault_kept {base s : State} (port : Nat) (hks : Kept base s) : KeptN base (execMacFault port s) := by
  delta execMacFault
  repeat' with_reducible first | assumption | apply State.failPort_kept | apply KeptN.next

theorem execMacLaneFail_kept {base s : State} (port dir lane : Nat) (hks : Kept base s) :
    KeptN base (execMacLaneFail port dir lane s) := by
  delta execMacLaneFail
  repeat' with_reducible first | assumption | apply State.laneFails_kept | apply KeptN.next

theorem execExchangeLaneTest_kept {base s : State} (port : Nat) (failed : List (Nat × Nat)) (hks : Kept base s) :
    KeptN base (execExchangeLaneTest port failed s) := by
  delta execExchangeLaneTest
  repeat' with_reducible first
    | assumption | apply State.laneFails_kept | apply KeptN.next | refine Kept.foldl ?_ (fun x a hx => ?_)

theorem execLaneWordUncorrectable_kept {base s : State} (port dir lane : Nat) (hks : Kept base s) :
    KeptN base (execLaneWordUncorrectable port dir lane s) := by
  delta execLaneWordUncorrectable
  repeat' with_reducible first | assumption | apply State.laneFails_kept | apply KeptN.next | refine Kept.ite ?_ ?_

end Sys2Proof.Machine
end

