-- ==== Sys2Proof/Laws/KeptFabricTime.lean ====
section
/-! SUPPORT. What the operations of Machine/FabricTime.lean keep. -/
namespace Sys2Proof.Machine

theorem State.sendTime_kept {base s : State} (port dst op ta number : Nat) (hks : Kept base s) :
    Kept base (State.sendTime s port dst op ta number) := by
  delta State.sendTime
  repeat' with_reducible first | assumption | apply State.sendPacket_kept

theorem State.updClock_kept {base s : State} (f : Clock → Clock) (hks : Kept base s) : Kept base (State.updClock s f) := by
  delta State.updClock
  repeat' first
    | with_reducible assumption
    | (rw [State.mk_parts]; with_reducible apply Kept.parts)
    | ((with_reducible refine Eq.trans ?_ rfl); rfl)

theorem State.setTimeSource_kept {base s : State} (v : Nat) (hks : Kept base s) : Kept base (State.setTimeSource s v) := by
  delta State.setTimeSource
  repeat' with_reducible first | assumption | apply State.updClock_kept | refine Kept.ite ?_ ?_

theorem State.timeIn_kept {base s : State} (port : Nat) (p : Packet) (op : Nat) (hks : Kept base s) :
    KeptP base (State.timeIn s port p op) := by
  delta State.timeIn
  repeat' first
    | with_reducible first | assumption | apply State.receive_kept
    | (rw [State.pair_eq]; with_reducible apply KeptP.mk)
    | split
    | with_reducible refine Kept.of_pair ?_ (by with_reducible assumption)

theorem execSyncReq_kept {base s : State} (port : Nat) (p : Packet) (hks : Kept base s) :
    KeptN base (execSyncReq port p s) := by
  delta execSyncReq
  repeat' first
    | with_reducible first | assumption | apply State.sendTime_kept | apply State.timeIn_kept | apply KeptN.next
    | split
    | with_reducible refine Kept.of_pair ?_ (by with_reducible assumption)

theorem State.syncIn_kept {base s : State} (port : Nat) (p : Packet) (hks : Kept base s) :
    Kept base (State.syncIn s port p) := by
  delta State.syncIn
  repeat' first
    | with_reducible first | assumption | apply State.sendTime_kept | apply State.updClock_kept
    | split

theorem execSync_kept {base s : State} (port : Nat) (p : Packet) (hks : Kept base s) : KeptN base (execSync port p s) := by
  delta execSync
  repeat' first
    | with_reducible first | assumption | apply State.timeIn_kept | apply State.syncIn_kept | apply KeptN.next
    | split
    | with_reducible refine Kept.of_pair ?_ (by with_reducible assumption)

theorem execDelayReq_kept {base s : State} (port : Nat) (p : Packet) (hks : Kept base s) :
    KeptN base (execDelayReq port p s) := by
  delta execDelayReq
  repeat' first
    | with_reducible first | assumption | apply State.sendTime_kept | apply State.timeIn_kept | apply KeptN.next
    | split
    | with_reducible refine Kept.of_pair ?_ (by with_reducible assumption)

theorem State.delayRespIn_kept {base s : State} (p : Packet) (hks : Kept base s) : Kept base (State.delayRespIn s p) := by
  delta State.delayRespIn
  repeat' first
    | with_reducible first | assumption | apply State.updClock_kept
    | split

theorem execDelayResp_kept {base s : State} (port : Nat) (p : Packet) (hks : Kept base s) :
    KeptN base (execDelayResp port p s) := by
  delta execDelayResp
  repeat' first
    | with_reducible first | assumption | apply State.timeIn_kept | apply State.delayRespIn_kept | apply KeptN.next
    | split
    | with_reducible refine Kept.of_pair ?_ (by with_reducible assumption)

theorem State.syncInterval_kept {base s : State} (hks : Kept base s) : Kept base (State.syncInterval s) := by
  delta State.syncInterval
  repeat' first
    | with_reducible assumption
    | (extract_lets +onlyGivenNames x; clear_value (e : x = _);
        refine Kept.cut (s0 := base) e ?_ (fun hx => ?_))
    | with_reducible first | apply State.sendTime_kept | apply State.updClock_kept
    | split

theorem execSyncIntervalTimer_kept {base s : State} (hks : Kept base s) : KeptN base (execSyncIntervalTimer s) := by
  delta execSyncIntervalTimer
  repeat' with_reducible first | assumption | apply State.syncInterval_kept | apply KeptN.next

theorem State.ppsEdge_kept {base s : State} (tod : Nat) (valid : Bool) (hks : Kept base s) :
    Kept base (State.ppsEdge s tod valid) := by
  delta State.ppsEdge
  repeat' with_reducible first | assumption | apply State.updClock_kept | refine Kept.ite ?_ ?_

theorem execPpsEdge_kept {base s : State} (tod : BitVec 64) (todValid : Bool) (hks : Kept base s) :
    KeptN base (execPpsEdge tod todValid s) := by
  delta execPpsEdge
  repeat' with_reducible first | assumption | apply State.ppsEdge_kept | apply KeptN.next

end Sys2Proof.Machine
end

