-- ==== Sys2Proof/Laws/KeptTranslate.lean ====
section
/-! SUPPORT. What the operations of Machine/Translate.lean keep. -/
namespace Sys2Proof.Machine

theorem State.sendXlt_kept {base s : State} (t : Nat) (q : XltRequest) (hks : Kept base s) :
    Kept base (State.sendXlt s t q) := by
  delta State.sendXlt
  repeat' first
    | with_reducible first | assumption | apply State.emit_kept | apply State.crossPort_kept
    | (rw [State.mk_parts]; with_reducible apply Kept.parts)
    | (with_reducible refine Eq.trans ?_ rfl; first | rfl | (subst_vars; rfl))

theorem State.sendWaiting_kept {base s : State} (hks : Kept base s) : Kept base (State.sendWaiting s) := by
  delta State.sendWaiting
  repeat' first
    | with_reducible first | assumption | apply State.sendXlt_kept
    | (rw [State.mk_parts]; with_reducible apply Kept.parts)
    | (with_reducible refine Eq.trans ?_ rfl; first | rfl | (subst_vars; rfl))
    | split

theorem State.requestXlt_kept {base s : State} (pasid : Option Nat) (ctx page : Nat) (write : Bool)
    (purpose who target : Nat) (hks : Kept base s) :
    Kept base (State.requestXlt s pasid ctx page write purpose who target) := by
  delta State.requestXlt
  repeat' first
    | with_reducible first | assumption | apply State.sendXlt_kept
    | (rw [State.mk_parts]; with_reducible apply Kept.parts)
    | ((with_reducible refine Eq.trans ?_ rfl); rfl)
    | split

theorem State.translated_kept {base s : State} (ctx a n : Nat) (write : Bool) (purpose who : Nat) (hks : Kept base s) :
    KeptO base (State.translated s ctx a n write purpose who) := by
  delta State.translated
  repeat' first
    | with_reducible first | assumption | apply State.requestXlt_kept | exact KeptO.none | apply KeptO.some
    | split

theorem State.stallRing_kept {base s : State} (r cause : Nat) (hks : Kept base s) :
    Kept base (State.stallRing s r cause) := by
  delta State.stallRing
  repeat' first
    | with_reducible first | assumption | apply State.updRing_kept | apply State.event_kept
    | (rw [State.mk_parts]; with_reducible apply Kept.parts)
    | ((with_reducible refine Eq.trans ?_ rfl); rfl)
    | with_reducible refine Kept.ite ?_ ?_

theorem State.endStall_kept {base s : State} (r : Nat) (hks : Kept base s) : Kept base (State.endStall s r) := by
  delta State.endStall
  repeat' with_reducible first | assumption | apply State.updRing_kept | apply State.event_kept | refine Kept.ite ?_ ?_

theorem State.blockRing_kept {base s : State} (r addr : Nat) (hks : Kept base s) : Kept base (State.blockRing s r addr) := by
  delta State.blockRing
  repeat' with_reducible first
    | assumption | apply State.updRing_kept | apply State.event_kept | apply State.raiseFault_kept | refine Kept.ite ?_ ?_

theorem State.blockTally_kept {base s : State} (c addr : Nat) (hostError : Bool) (hks : Kept base s) :
    Kept base (State.blockTally s c addr hostError) := by
  delta State.blockTally
  repeat' with_reducible first
    | assumption | apply State.updCtx_kept | apply State.blockRing_kept | refine Kept.foldl ?_ (fun x a hx => ?_)

theorem State.joined_kept {base s : State} (q : XltRequest) (hks : Kept base s) : Kept base (State.joined s q) := by
  delta State.joined
  repeat' first
    | with_reducible first
      | assumption | apply State.updRing_kept | apply State.event_kept | apply State.stallRing_kept
      | apply State.blockRing_kept | apply State.blockTally_kept
    | split

theorem State.joinRecord_kept {base s0 : State} (q : XltRequest) (hks0 : Kept base s0) :
    Kept base (State.joinRecord s0 q) := by
  delta State.joinRecord
  repeat' first
    | with_reducible assumption
    | (extract_lets +onlyGivenNames x; clear_value (e : x = _);
        refine Kept.cut (s0 := base) e ?_ (fun hx => ?_))
    | with_reducible first | apply State.emit_kept | apply State.count_kept | apply State.joined_kept
    | (rw [State.mk_parts]; with_reducible apply Kept.parts)
    | ((with_reducible refine Eq.trans ?_ rfl); rfl)
    | split

theorem State.admitWaiters_kept {base s : State} (hks : Kept base s) : Kept base (State.admitWaiters s) := by
  delta State.admitWaiters
  repeat' first
    | with_reducible first | assumption | apply State.joinRecord_kept
    | (rw [State.mk_parts]; with_reducible apply Kept.parts)
    | ((with_reducible refine Eq.trans ?_ rfl); rfl)
    | with_reducible first | refine Kept.foldl ?_ (fun x a hx => ?_) | refine Kept.ite ?_ ?_

theorem State.leaveRecords_kept {base s : State} (p : Nat → Nat → Nat → Bool) (hks : Kept base s) :
    Kept base (State.leaveRecords s p) := by
  delta State.leaveRecords
  repeat' first
    | with_reducible assumption
    | (rw [State.mk_parts]; with_reducible apply Kept.parts)
    | ((with_reducible refine Eq.trans ?_ rfl); rfl)

theorem State.tallyOpen_kept {base s : State} (c off n : Nat) (hks : Kept base s) :
    KeptO base (State.tallyOpen s c off n) := by
  delta State.tallyOpen
  repeat' with_reducible first | assumption | apply State.translated_kept | apply KeptO.some | refine KeptO.ite ?_ ?_

theorem State.tallyWrite_kept {base s : State} (c half off : Nat) (bs : List Byte) (hks : Kept base s) :
    Kept base (State.tallyWrite s c half off bs) := by
  delta State.tallyWrite
  repeat' with_reducible first | assumption | apply State.count_kept | apply State.hostWrite_kept

theorem State.tallyEntry_kept {base s : State} (r : Nat) (hks : Kept base s) : Kept base (State.tallyEntry s r) := by
  delta State.tallyEntry
  repeat' with_reducible first
    | assumption | apply State.updRing_kept | apply State.updCtx_kept | apply State.tallyWrite_kept | refine Kept.ite ?_ ?_

theorem State.journal_kept {base s : State} (c half seq table ring type epoch : Nat) (hks : Kept base s) :
    KeptP base (State.journal s c half seq table ring type epoch) := by
  delta State.journal
  repeat' first
    | with_reducible assumption
    | (extract_lets +onlyGivenNames x; clear_value (e : x = _); first
        | refine Kept.cut (s0 := base) e ?_ (fun hx => ?_) | skip)
    | with_reducible first | apply State.updCtx_kept | apply State.tallyOpen_kept | apply State.tallyWrite_kept
    | (rw [State.pair_eq]; with_reducible apply KeptP.mk)
    | split
    | with_reducible refine Kept.of_some ?_ (by with_reducible assumption)

theorem State.handRecord_kept {base s : State} (r : Nat) (x : Record) (hks : Kept base s) :
    KeptX base (State.handRecord s r x) := by
  delta State.handRecord
  repeat' first
    | with_reducible assumption
    | (extract_lets +onlyGivenNames x; clear_value (e : x = _))
    | with_reducible first
      | apply State.updRing_kept | apply State.hostWrite_kept | apply State.translated_kept | apply KeptX.error
      | apply KeptX.ok
    | split
    | with_reducible refine Kept.of_some ?_ (by with_reducible assumption)

theorem drainBacklog_kept {base s : State} (n : Nat) (r : Nat) (hks : Kept base s) : Kept base (drainBacklog n s r) := by
  induction n generalizing s with
  | zero => exact hks
  | succ n ih =>
  unfold drainBacklog
  repeat' first
    | with_reducible first | assumption | apply ih | apply State.updRing_kept | apply State.handRecord_kept
    | split
    | with_reducible first
      | refine Kept.of_error_state ?_ (by with_reducible assumption)
      | refine Kept.of_ok_state ?_ (by with_reducible assumption)

theorem State.unblock_kept {base s : State} (r : Nat) (hks : Kept base s) : Kept base (State.unblock s r) := by
  delta State.unblock
  repeat' with_reducible first | assumption | apply drainBacklog_kept

end Sys2Proof.Machine
end

