-- ==== Sys2Proof/Laws/KeptRingOps.lean ====
section
/-! SUPPORT. What the operations of Machine/RingOps.lean keep. -/
namespace Sys2Proof.Machine

theorem State.rangesTranslated_kept {base s : State} (ctx : Nat) (l : List (Nat × Nat × Bool)) (purpose who : Nat)
    (hks : Kept base s) :
    KeptO base (State.rangesTranslated s ctx l purpose who) := by
  delta State.rangesTranslated
  repeat' first
    | with_reducible first
      | assumption | apply State.translated_kept | exact KeptO.none | refine KeptO.foldl ?_ (fun x a hx => ?_)
    | split

theorem State.setDeadStall_kept {base s : State} (c : Nat) (rs : List Nat) (hks : Kept base s) :
    Kept base (State.setDeadStall s c rs) := by
  delta State.setDeadStall
  repeat' with_reducible first
    | assumption | apply State.updCtx_kept | apply State.raiseFault_kept | refine Kept.foldl ?_ (fun x a hx => ?_)

theorem State.checkDeadStall_kept {base s0 s : State} (hks0 : Kept base s0) (hks : Kept base s) :
    Kept base (State.checkDeadStall s0 s) := by
  delta State.checkDeadStall
  repeat' with_reducible first
    | assumption | apply State.setDeadStall_kept | refine Kept.foldl ?_ (fun x a hx => ?_) | refine Kept.ite ?_ ?_

theorem State.takeNode_kept {base s : State} (n : Nat) (d : Node) (hks : Kept base s) : Kept base (State.takeNode s n d) := by
  delta State.takeNode
  repeat' with_reducible first | assumption | apply State.setNode_kept

theorem State.freeRetained_kept {base s : State} (r : Nat) (hks : Kept base s) : Kept base (State.freeRetained s r) := by
  delta State.freeRetained
  repeat' first
    | with_reducible assumption
    | (rw [State.mk_parts]; with_reducible apply Kept.parts)
    | ((with_reducible refine Eq.trans ?_ rfl); rfl)

theorem State.recordAcceptance_kept {base s : State} (r : Nat) (hks : Kept base s) :
    Kept base (State.recordAcceptance s r) := by
  delta State.recordAcceptance
  repeat' with_reducible first
    | assumption | apply State.updRing_kept | apply State.count_kept | apply State.tallyWrite_kept
    | apply State.tallyEntry_kept | apply State.freeRetained_kept | refine Kept.ite ?_ ?_

theorem State.acceptNode_kept {base s : State} (r : Nat) (c : Cmd) (ns : List Nat) (n : Nat) (hks : Kept base s) :
    Kept base (State.acceptNode s r c ns n) := by
  delta State.acceptNode
  repeat' first
    | with_reducible first
      | assumption | apply State.setNode_kept | apply State.updNode_kept | apply State.tryLeave_kept
      | apply State.complete_kept | apply State.recordAcceptance_kept
    | (rw [State.mk_parts]; with_reducible apply Kept.parts)
    | ((with_reducible refine Eq.trans ?_ rfl); rfl)
    | with_reducible first | refine Kept.foldl ?_ (fun x a hx => ?_) | refine Kept.ite ?_ ?_

theorem State.acceptSkipped_kept {base s : State} (r cause n : Nat) (hks : Kept base s) :
    Kept base (State.acceptSkipped s r cause n) := by
  delta State.acceptSkipped
  repeat' first
    | with_reducible first
      | assumption | apply State.updRing_kept | apply State.setNode_kept | apply State.trigger_kept
      | apply State.schedRecord_kept | apply State.endAborts_kept | apply State.recordAcceptance_kept
    | (rw [State.mk_parts]; with_reducible apply Kept.parts)
    | ((with_reducible refine Eq.trans ?_ rfl); rfl)

theorem State.tallyMissing_kept {base s : State} (r k : Nat) (hks : Kept base s) : KeptO base (State.tallyMissing s r k) := by
  delta State.tallyMissing
  repeat' with_reducible first | assumption | apply State.tallyOpen_kept | exact KeptO.none | refine KeptO.ite ?_ ?_

theorem State.commandFault_kept {base s : State} (r cause : Nat) (address : BitVec 64) (c : Option Cmd) (hks : Kept base s) :
    Kept base (State.commandFault s r cause address c) := by
  delta State.commandFault
  repeat' with_reducible first | assumption | apply State.ringFault_kept | apply State.endStall_kept

theorem State.holdAt_kept {base s : State} (r : Nat) (c : Cmd) (step since : Nat) (chain : Option (List Word))
    (hks : Kept base s) :
    Kept base (State.holdAt s r c step since chain) := by
  delta State.holdAt
  repeat' with_reducible first | assumption | apply State.updRing_kept

theorem State.endOtherStall_kept {base s : State} (r : Nat) (hks : Kept base s) : Kept base (State.endOtherStall s r) := by
  delta State.endOtherStall
  repeat' with_reducible first | assumption | apply State.endStall_kept | refine Kept.ite ?_ ?_

theorem State.acceptRest_kept {base s : State} (r : Nat) (x : HeldCommand) (chain : List Word) (ns : List Nat)
    (hks : Kept base s) :
    KeptP base (State.acceptRest s r x chain ns) := by
  delta State.acceptRest
  repeat' first
    | (extract_lets +onlyGivenNames x; clear_value (e : x = _); first
        | refine Kept.cutFun2 (s0 := base) e (fun _ _ _ => ?_) (fun hx => ?_) | skip)
    | with_reducible first
      | apply State.updRing_kept | apply State.stallRing_kept | apply State.endStall_kept
      | apply State.rangesTranslated_kept | apply State.acceptNode_kept | apply State.tallyMissing_kept
      | apply State.holdAt_kept | apply State.endOtherStall_kept
    | (rw [State.pair_eq]; with_reducible apply KeptP.mk)
    | split
    | with_reducible refine Kept.of_some ?_ (by with_reducible assumption)
    | apply_assumption

theorem State.acceptOne_kept {base s : State} (r : Nat) (hks : Kept base s) : KeptP base (State.acceptOne s r) := by
  delta State.acceptOne
  repeat' first
    | with_reducible assumption
    | (extract_lets +onlyGivenNames x; clear_value (e : x = _); first
        | refine Kept.cut (s0 := base) e ?_ (fun hx => ?_) | skip)
    | with_reducible first
      | apply State.updRing_kept | apply State.stallRing_kept | apply State.endStall_kept | apply State.acceptSkipped_kept
      | apply State.tallyMissing_kept | apply State.commandFault_kept | apply State.holdAt_kept
      | apply State.acceptRest_kept
    | (rw [State.pair_eq]; with_reducible apply KeptP.mk)
    | split
    | with_reducible refine Kept.of_some ?_ (by with_reducible assumption)

theorem acceptRounds_kept {base s : State} (n : Nat) (rs : List Nat) (hks : Kept base s) :
    Kept base (acceptRounds n s rs) := by
  induction n generalizing s with
  | zero => exact hks
  | succ n ih =>
  unfold acceptRounds
  repeat' first
    | with_reducible first | assumption | apply ih | apply State.acceptOne_kept
    | (rw [State.pair_eq]; with_reducible apply KeptP.mk)
    | with_reducible first | apply Kept.fst | refine KeptP.foldl ?_ (fun x a hx => ?_)
    | split
    | with_reducible refine Kept.of_pair ?_ (by with_reducible assumption)

theorem State.slotsTranslated_kept {base s : State} (r seq k : Nat) (hks : Kept base s) :
    KeptO base (State.slotsTranslated s r seq k) := by
  delta State.slotsTranslated
  repeat' first
    | with_reducible assumption
    | (extract_lets +onlyGivenNames x; clear_value (e : x = _))
    | with_reducible first | apply State.translated_kept | exact KeptO.none | refine KeptO.foldl ?_ (fun x a hx => ?_)
    | split

theorem State.seekSlots_kept {base s : State} (r : Nat) (hks : Kept base s) : Kept base (State.seekSlots s r) := by
  delta State.seekSlots
  repeat' with_reducible first | assumption | apply State.slotsTranslated_kept | refine Kept.ite ?_ ?_ | apply Kept.getD

theorem State.bufferTranslated_kept {base s : State} (r i : Nat) (hks : Kept base s) :
    KeptO base (State.bufferTranslated s r i) := by
  delta State.bufferTranslated
  repeat' with_reducible first | assumption | apply State.translated_kept | exact KeptO.none | refine KeptO.ite ?_ ?_

theorem State.pretranslate_kept {base s : State} (r before : Nat) (hks : Kept base s) :
    Kept base (State.pretranslate s r before) := by
  delta State.pretranslate
  repeat' with_reducible first | assumption | apply State.bufferTranslated_kept | refine Kept.ite ?_ ?_ | apply Kept.getD

theorem State.pumpRing_kept {base s : State} (r : Nat) (hks : Kept base s) : Kept base (State.pumpRing s r) := by
  delta State.pumpRing
  repeat' with_reducible first
    | assumption | apply State.checkDeadStall_kept | apply acceptRounds_kept | apply State.pretranslate_kept
    | refine Kept.foldl ?_ (fun x a hx => ?_)

end Sys2Proof.Machine
end

