-- ==== Sys2Proof/Laws/KeptRings.lean ====
section
/-! SUPPORT. What the operations of Machine/Rings.lean keep. -/
namespace Sys2Proof.Machine

theorem Kept.of_wait {base s t : State} {ctx r n a : Nat} {bs : List OverflowBlock} {acc : List Word} (hks : Kept base s)
    (e : readChain s ctx r n a bs acc = .wait t) : Kept base t := by
  induction n generalizing a bs acc with
  | zero => unfold readChain at e; split at e <;> cases e
  | succ n ih =>
    unfold readChain at e
    split at e
    · cases e
    · split at e
      · split at e
        · cases e
          exact Kept.of_some (State.translated_kept _ _ _ _ _ _ hks) (by assumption)
        · split at e
          · cases e
          · split at e
            · exact ih e
            · cases e
      · dsimp only at e
        split at e
        · exact ih e
        · cases e

theorem State.settleTally_kept {base s : State} (r : Nat) (hks : Kept base s) : Kept base (State.settleTally s r) := by
  delta State.settleTally
  repeat' first
    | with_reducible first
      | assumption | apply State.updRing_kept | apply State.event_kept | apply State.raiseFault_kept
      | apply State.tallyEntry_kept | apply State.tallyMissing_kept
    | split
    | with_reducible refine Kept.of_some ?_ (by with_reducible assumption)

theorem State.enableOp_kept {base s : State} (r : Nat) (hks : Kept base s) : KeptE base (State.enableOp s r) := by
  delta State.enableOp
  repeat' first
    | with_reducible first | assumption | apply State.setRing_kept | apply State.settleTally_kept | apply KeptE.pure
    | (with_reducible refine KeptE.bind ?_; intro _ _)

theorem execRingEnable_kept {base s : State} (ring : Nat) (hks : Kept base s) : KeptN base (execRingEnable ring s) := by
  delta execRingEnable
  repeat' with_reducible first | assumption | apply State.rootRow_kept | apply State.enableOp_kept | apply KeptN.next

theorem State.finishDrain_kept {base s : State} (r : Nat) (hks : Kept base s) : Kept base (State.finishDrain s r) := by
  delta State.finishDrain
  repeat' with_reducible first | assumption | apply State.setRing_kept | refine Kept.ite ?_ ?_

theorem State.disableOp_kept {base s : State} (r : Nat) (hks : Kept base s) : KeptE base (State.disableOp s r) := by
  delta State.disableOp
  repeat' first
    | with_reducible first | assumption | apply State.setRing_kept | apply State.finishDrain_kept | apply KeptE.pure
    | (with_reducible refine KeptE.bind ?_; intro _ _)

theorem execRingDisable_kept {base s : State} (ring : Nat) (hks : Kept base s) : KeptN base (execRingDisable ring s) := by
  delta execRingDisable
  repeat' with_reducible first | assumption | apply State.rootRow_kept | apply State.disableOp_kept | apply KeptN.next

theorem State.popFault_kept {base s : State} (r : Nat) (hks : Kept base s) : Kept base (State.popFault s r) := by
  delta State.popFault
  repeat' first
    | with_reducible first
      | assumption | apply State.setRing_kept | apply State.event_kept | apply State.rejoin_kept
      | apply State.enterFault_kept | apply State.finishDrain_kept
    | split

theorem State.withdrawOps_kept {base s : State} (n : Nat) (hks : Kept base s) : Kept base (State.withdrawOps s n) := by
  delta State.withdrawOps
  repeat' first
    | with_reducible first | assumption | apply State.leaveWait_kept
    | (rw [State.mk_parts]; with_reducible apply Kept.parts)
    | ((with_reducible refine Eq.trans ?_ rfl); rfl)

theorem State.retryNode_kept {base s : State} (n cause : Nat) (d : Node) (hks : Kept base s) :
    Kept base (State.retryNode s n cause d) := by
  delta State.retryNode
  repeat' with_reducible first
    | assumption | apply State.updRing_kept | apply State.updNode_kept | apply State.startRecall_kept
    | apply State.endRecalls_kept | apply State.cancelRoute_kept | apply State.withdrawOps_kept | refine Kept.ite ?_ ?_

theorem State.retryOp_kept {base s : State} (r : Nat) (hks : Kept base s) : KeptE base (State.retryOp s r) := by
  delta State.retryOp
  repeat' first
    | with_reducible first
      | assumption | apply State.updRing_kept | apply State.pumpRing_kept | apply State.popFault_kept
      | apply State.retryNode_kept | exact KeptE.error | apply KeptE.pure
    | (with_reducible refine KeptE.bind ?_; intro _ _)
    | split

theorem execResumeRetry_kept {base s : State} (ring : Nat) (hks : Kept base s) : KeptN base (execResumeRetry ring s) := by
  delta execResumeRetry
  repeat' with_reducible first | assumption | apply State.rootRow_kept | apply State.retryOp_kept | apply KeptN.next

theorem State.stopExecutor_kept {base s : State} (n : Nat) (hks : Kept base s) : Kept base (State.stopExecutor n s) := by
  delta State.stopExecutor
  repeat' first
    | with_reducible first | assumption | apply State.leaveWait_kept | apply State.cancelRoute_kept
    | split

theorem State.skipOp_kept {base s : State} (r : Nat) (hks : Kept base s) : KeptE base (State.skipOp s r) := by
  delta State.skipOp
  repeat' first
    | with_reducible assumption
    | (intro _ _ hk; exact State.stopExecutor_kept _ hk)
    | with_reducible first
      | apply State.updRing_kept | apply State.skipNode_kept | apply State.pumpRing_kept | apply State.popFault_kept
      | exact KeptE.error | apply KeptE.pure
    | (with_reducible refine KeptE.bind ?_; intro _ _)
    | split

theorem execResumeSkip_kept {base s : State} (ring : Nat) (hks : Kept base s) : KeptN base (execResumeSkip ring s) := by
  delta execResumeSkip
  repeat' with_reducible first | assumption | apply State.rootRow_kept | apply State.skipOp_kept | apply KeptN.next

theorem State.abortOp_kept {base s : State} (r : Nat) (hks : Kept base s) : KeptE base (State.abortOp s r) := by
  delta State.abortOp
  repeat' first
    | with_reducible first
      | assumption | intro _ | apply State.updRing_kept | apply State.abortRing_kept | apply State.pumpRing_kept
      | apply State.finishDrain_kept | apply State.stopExecutor_kept | exact KeptE.error | apply KeptE.pure
    | (with_reducible refine KeptE.bind ?_; intro _ _)
    | split

theorem execRingAbort_kept {base s : State} (ring : Nat) (hks : Kept base s) : KeptN base (execRingAbort ring s) := by
  delta execRingAbort
  repeat' with_reducible first | assumption | apply State.rootRow_kept | apply State.abortOp_kept | apply KeptN.next

theorem State.doorbellOp_kept {base s : State} (r t : Nat) (hks : Kept base s) : Kept base (State.doorbellOp s r t) := by
  delta State.doorbellOp
  repeat' with_reducible first | assumption | apply State.updRing_kept | apply State.seekSlots_kept | refine Kept.ite ?_ ?_

theorem execDoorbell_kept {base s : State} (ring : Nat) (tail : BitVec 64) (hks : Kept base s) :
    KeptN base (execDoorbell ring tail s) := by
  delta execDoorbell
  repeat' with_reducible first | assumption | apply State.doorbellOp_kept | apply KeptN.next

theorem State.fetchOp_kept {base s0 : State} (r : Nat) (cmds : List Cmd) (uncorrectable : Bool) (hks0 : Kept base s0) :
    Kept base (State.fetchOp s0 r cmds uncorrectable) := by
  delta State.fetchOp
  repeat' first
    | with_reducible assumption
    | (extract_lets +onlyGivenNames x; clear_value (e : x = _); first
        | refine Kept.cut (s0 := base) e ?_ (fun hx => ?_) | skip)
    | with_reducible first
      | apply State.updRing_kept | apply State.portReads_kept | apply State.logLost_kept | apply State.commandFault_kept
      | apply State.slotsTranslated_kept | apply State.pumpRing_kept | refine Kept.foldl ?_ (fun x a hx => ?_)
    | split
    | with_reducible refine Kept.of_some ?_ (by with_reducible assumption)

theorem execCommandFetch_kept {base s : State} (ring : Nat) (cmds : List Cmd) (uncorrectable : Bool) (hks : Kept base s) :
    KeptN base (execCommandFetch ring cmds uncorrectable s) := by
  delta execCommandFetch
  repeat' with_reducible first | assumption | apply State.fetchOp_kept | apply KeptN.next

theorem State.chainOp_kept {base s : State} (r : Nat) (blocks : List OverflowBlock) (uncorrectable : Bool)
    (hks : Kept base s) :
    Kept base (State.chainOp s r blocks uncorrectable) := by
  delta State.chainOp
  repeat' first
    | with_reducible assumption
    | (extract_lets +onlyGivenNames x; clear_value (e : x = _); first
        | refine Kept.cut (s0 := base) e ?_ (fun hx => ?_) | skip)
    | with_reducible first
      | refine Kept.of_wait ?_ (by with_reducible assumption) | apply State.updRing_kept | apply State.portReads_kept
      | apply State.readsFor_kept | apply State.commandFault_kept | apply State.holdAt_kept | apply State.pumpRing_kept
    | split

theorem execOverflowChainRead_kept {base s : State} (ring : Nat) (blocks : List OverflowBlock) (uncorrectable : Bool)
    (hks : Kept base s) :
    KeptN base (execOverflowChainRead ring blocks uncorrectable s) := by
  delta execOverflowChainRead
  repeat' with_reducible first | assumption | apply State.chainOp_kept | apply KeptN.next

theorem State.refHoldOp_kept {base s : State} (r : Nat) (hks : Kept base s) : Kept base (State.refHoldOp s r) := by
  delta State.refHoldOp
  repeat' first
    | with_reducible assumption
    | (extract_lets +onlyGivenNames x; clear_value (e : x = _); first
        | refine Kept.cut (s0 := base) e ?_ (fun hx => ?_) | skip)
    | with_reducible first | apply State.commandFault_kept | apply State.pumpRing_kept
    | split

theorem execRefHoldTimeout_kept {base s : State} (ring : Nat) (hks : Kept base s) :
    KeptN base (execRefHoldTimeout ring s) := by
  delta execRefHoldTimeout
  repeat' with_reducible first | assumption | apply State.refHoldOp_kept | apply KeptN.next

theorem State.resumeStalled_kept {base s : State} (h : Nat) (hks : Kept base s) : Kept base (State.resumeStalled s h) := by
  delta State.resumeStalled
  repeat' with_reducible first
    | assumption | apply State.checkDeadStall_kept | apply State.pumpRing_kept | refine Kept.foldl ?_ (fun x a hx => ?_)

theorem execRingStallResume_kept {base s : State} (half : Nat) (hks : Kept base s) :
    KeptN base (execRingStallResume half s) := by
  delta execRingStallResume
  repeat' with_reducible first | assumption | apply State.resumeStalled_kept | apply KeptN.next

theorem State.deviceEnableOp_kept {base s : State} (h d : Nat) (hks : Kept base s) :
    KeptE base (State.deviceEnableOp s h d) := by
  delta State.deviceEnableOp
  repeat' first
    | with_reducible first | assumption | apply State.setRing_kept | apply State.launchPortions_kept
    | (rw [State.mk_parts]; with_reducible apply Kept.parts)
    | with_reducible apply KeptE.pure
    | (with_reducible refine KeptE.bind ?_; intro _ _)
    | ((with_reducible refine Eq.trans ?_ rfl); rfl)

theorem execDeviceSideEnable_kept {base s : State} (half d : Nat) (hks : Kept base s) :
    KeptN base (execDeviceSideEnable half d s) := by
  delta execDeviceSideEnable
  repeat' with_reducible first | assumption | apply State.rootRow_kept | apply State.deviceEnableOp_kept | apply KeptN.next

theorem State.deviceDisableOp_kept {base s : State} (h d : Nat) (hks : Kept base s) :
    KeptE base (State.deviceDisableOp s h d) := by
  delta State.deviceDisableOp
  repeat' first
    | with_reducible first | assumption | apply State.disableOp_kept
    | (with_reducible refine KeptE.bind ?_; intro _ _)

theorem execDeviceSideDisable_kept {base s : State} (half d : Nat) (hks : Kept base s) :
    KeptN base (execDeviceSideDisable half d s) := by
  delta execDeviceSideDisable
  repeat' with_reducible first | assumption | apply State.rootRow_kept | apply State.deviceDisableOp_kept | apply KeptN.next

end Sys2Proof.Machine
end

