-- ==== Sys2Proof/Laws/KeptDvorsorOps.lean ====
section
/-! SUPPORT. What the operations of Machine/DvorsorOps.lean keep. -/
namespace Sys2Proof.Machine

theorem State.beginPair_kept {base s : State} (n : Nat) (d : Node) (hks : Kept base s) :
    Kept base (State.beginPair s n d) := by
  delta State.beginPair
  repeat' with_reducible first | assumption | apply State.markPair_kept | refine Kept.ite ?_ ?_

theorem State.dispatch_kept {base s : State} (k n : Nat) (d : Node) (hks : Kept base s) :
    Kept base (State.dispatch s k n d) := by
  delta State.dispatch
  repeat' first
    | with_reducible first
      | assumption | apply State.setNode_kept | apply State.portReads_kept | apply State.complete_kept
      | apply State.joinOpenSets_kept | apply State.beginPair_kept
    | (rw [State.mk_parts]; with_reducible apply Kept.parts)
    | ((with_reducible refine Eq.trans ?_ rfl); rfl)
    | with_reducible refine Kept.ite ?_ ?_

theorem State.selectIn_kept {base s : State} (k : Nat) (hks : Kept base s) : Kept base (State.selectIn s k) := by
  delta State.selectIn
  repeat' first
    | with_reducible first
      | assumption | apply State.updNode_kept | apply State.updSector_kept | apply State.count_kept | apply State.event_kept
      | apply State.schedRecord_kept | apply State.complete_kept | apply State.dispatch_kept
      | refine Kept.foldl ?_ (fun x a hx => ?_)
    | split

theorem State.giveGrant_kept {base s : State} (k : Nat) (w : WorkRequest) (n : Nat) (d : Node) (hks : Kept base s) :
    Kept base (State.giveGrant s k w n d) := by
  delta State.giveGrant
  repeat' first
    | with_reducible assumption
    | ((with_reducible intro k hk); exact hk)
    | with_reducible first
      | apply State.updCore_kept | apply State.setNode_kept | apply State.updNode_kept | apply State.updSector_kept
      | apply State.updComp_kept | apply State.count_kept | apply State.schedRecord_kept | apply State.joinOpenSets_kept
    | split

theorem State.grantIn_kept {base s : State} (k : Nat) (hks : Kept base s) : Kept base (State.grantIn s k) := by
  delta State.grantIn
  repeat' first
    | with_reducible assumption
    | (extract_lets +onlyGivenNames x; clear_value (e : x = _);
        refine Kept.cut (s0 := base) e ?_ (fun hx => ?_))
    | with_reducible first | apply State.rejoin_kept | apply State.giveGrant_kept
    | split

theorem State.noteCandidates_kept {base s : State} (hks : Kept base s) : Kept base (State.noteCandidates s) := by
  delta State.noteCandidates
  repeat' with_reducible first
    | assumption | apply State.updSector_kept | refine Kept.foldl ?_ (fun x a hx => ?_) | refine Kept.ite ?_ ?_

theorem State.checkYield_kept {base s : State} (i : Nat) (hks : Kept base s) : Kept base (State.checkYield s i) := by
  delta State.checkYield
  repeat' first
    | with_reducible first | assumption | apply State.updComp_kept
    | split

theorem State.clearComp_kept {base s : State} (i : Nat) (hks : Kept base s) : Kept base (State.clearComp s i) := by
  refine Kept.each hks (fun c k hk => ?_) (fun t x hx => ?_)
  · split
    · unfold Core.cleared; rfl
    · exact hk
  · split
    · rfl
    · exact hx

theorem State.wakeComp_kept {base s : State} (i : Nat) (hks : Kept base s) : Kept base (State.wakeComp s i) := by
  delta State.wakeComp
  repeat' with_reducible first | assumption | apply State.updComp_kept | apply State.emit_kept | refine Kept.ite ?_ ?_

theorem State.awake_kept {base s : State} (i : Nat) (hks : Kept base s) : Kept base (State.awake s i) := by
  delta State.awake
  repeat' first
    | with_reducible assumption
    | ((with_reducible intro k hk); exact hk)
    | with_reducible first
      | apply State.updStand_kept | apply State.updComp_kept | apply State.dispatchLoop_kept
      | refine Kept.foldl ?_ (fun x a hx => ?_) | refine Kept.ite ?_ ?_

theorem State.assignComp_kept {base s : State} (i c : Nat) (hks : Kept base s) : Kept base (State.assignComp s i c) := by
  delta State.assignComp
  repeat' first
    | with_reducible first
      | assumption | apply State.updSector_kept | apply State.updComp_kept | apply State.rejoin_kept
      | apply State.wakeComp_kept
    | (rw [State.mk_parts]; with_reducible apply Kept.parts)
    | ((with_reducible refine Eq.trans ?_ rfl); rfl)

theorem State.freeComp_kept {base s : State} (i : Nat) (hks : Kept base s) : Kept base (State.freeComp s i) := by
  delta State.freeComp
  repeat' with_reducible first | assumption | apply State.updComp_kept

theorem State.switchComp_kept {base s : State} (i : Nat) (hks : Kept base s) : Kept base (State.switchComp s i) := by
  delta State.switchComp
  repeat' first
    | (extract_lets +onlyGivenNames x; clear_value (e : x = _); first
        | refine Kept.cut (s0 := base) e ?_ (fun hx => ?_)
        | refine Kept.cutFunTwo (s0 := base) e (fun _ _ => ?_) (fun hx => ?_) | skip)
    | with_reducible first
      | apply State.updSector_kept | apply State.count_kept | apply State.event_kept | apply State.trace_kept
      | apply State.clearComp_kept | apply State.assignComp_kept | apply State.freeComp_kept
    | split
    | apply_assumption

end Sys2Proof.Machine
end

