-- ==== Sys2Proof/Laws/KeptDvorsor.lean ====
section
/-! SUPPORT. What the operations of Machine/Dvorsor.lean keep. -/
namespace Sys2Proof.Machine

theorem State.shapeRead_kept {base s : State} (n : Nat) (uncorrectable : Bool) (hks : Kept base s) :
    Kept base (State.shapeRead s n uncorrectable) := by
  delta State.shapeRead
  repeat' first
    | with_reducible assumption
    | (extract_lets +onlyGivenNames x; clear_value (e : x = _))
    | with_reducible first | apply State.setNode_kept | apply State.leaveWaiting_kept | apply State.complete_kept
    | split

theorem execShapeSubstitution_kept {base s : State} (node : Nat) (uncorrectable : Bool) (hks : Kept base s) :
    KeptN base (execShapeSubstitution node uncorrectable s) := by
  delta execShapeSubstitution
  repeat' with_reducible first | assumption | apply State.readsFor_kept | apply State.shapeRead_kept | apply KeptN.next

theorem State.releaseDue_kept {base s : State} (hks : Kept base s) : Kept base (State.releaseDue s) := by
  delta State.releaseDue
  repeat' with_reducible first
    | assumption | apply State.schedRecord_kept | apply State.toReady_kept | refine Kept.foldl ?_ (fun x a hx => ?_)

theorem execTick_kept {base s : State} (hks : Kept base s) : KeptN base (execTick s) := by
  delta execTick
  repeat' with_reducible first | assumption | apply State.releaseDue_kept | apply KeptN.next

theorem State.selectOp_kept {base s : State} (k : Nat) (hks : Kept base s) : Kept base (State.selectOp s k) := by
  delta State.selectOp
  repeat' with_reducible first | assumption | apply State.rejoin_kept | apply State.selectIn_kept | refine Kept.ite ?_ ?_

theorem execSectorSelect_kept {base s : State} (sector : Nat) (hks : Kept base s) :
    KeptN base (execSectorSelect sector s) := by
  delta execSectorSelect
  repeat' with_reducible first | assumption | apply State.selectOp_kept | apply KeptN.next

theorem execGrantIssue_kept {base s : State} (sector : Nat) (hks : Kept base s) : KeptN base (execGrantIssue sector s) := by
  delta execGrantIssue
  repeat' with_reducible first | assumption | apply State.grantIn_kept | apply KeptN.next | refine Kept.ite ?_ ?_

theorem State.takeNotification_kept {base s : State} (h : Nat) (hks : Kept base s) :
    Kept base (State.takeNotification s h) := by
  delta State.takeNotification
  repeat' first
    | with_reducible first
      | assumption | apply State.satisfyUnit_kept | apply State.resumeWalks_kept | apply State.settleUnits_kept
      | apply State.complete_kept
    | (rw [State.mk_parts]; with_reducible apply Kept.parts)
    | ((with_reducible refine Eq.trans ?_ rfl); rfl)
    | with_reducible first | apply Kept.fst | refine Kept.foldl ?_ (fun x a hx => ?_)
    | split

theorem execSchedNotification_kept {base s : State} (half : Nat) (hks : Kept base s) :
    KeptN base (execSchedNotification half s) := by
  delta execSchedNotification
  repeat' with_reducible first | assumption | apply State.takeNotification_kept | apply KeptN.next

theorem State.executorDone_kept {base s : State} (n : Nat) (hks : Kept base s) : Kept base (State.executorDone s n) := by
  delta State.executorDone
  repeat' first
    | with_reducible first
      | assumption | apply State.complete_kept | apply State.launchPortions_kept | apply State.coldCopyDone_kept
    | split

theorem execExecutorFinish_kept {base s : State} (node : Nat) (hks : Kept base s) :
    KeptN base (execExecutorFinish node s) := by
  delta execExecutorFinish
  repeat' with_reducible first | assumption | apply State.executorDone_kept | apply KeptN.next

theorem State.quantumExpires_kept {base s : State} (i : Nat) (hks : Kept base s) : Kept base (State.quantumExpires s i) := by
  delta State.quantumExpires
  repeat' with_reducible first
    | assumption | apply State.updComp_kept | apply State.noteCandidates_kept | apply State.checkYield_kept
    | refine Kept.ite ?_ ?_

theorem execQuantumExpiry_kept {base s : State} (comp : Nat) (hks : Kept base s) : KeptN base (execQuantumExpiry comp s) := by
  delta execQuantumExpiry
  repeat' with_reducible first | assumption | apply State.quantumExpires_kept | apply KeptN.next

theorem State.switchOp_kept {base s : State} (i : Nat) (hks : Kept base s) : Kept base (State.switchOp s i) := by
  delta State.switchOp
  repeat' first
    | with_reducible assumption
    | (extract_lets +onlyGivenNames x; clear_value (e : x = _);
        refine Kept.cut (s0 := base) e ?_ (fun hx => ?_))
    | with_reducible first | apply State.noteCandidates_kept | apply State.checkYield_kept | apply State.switchComp_kept
    | split

theorem execCompartmentSwitch_kept {base s : State} (comp : Nat) (hks : Kept base s) :
    KeptN base (execCompartmentSwitch comp s) := by
  delta execCompartmentSwitch
  repeat' with_reducible first | assumption | apply State.switchOp_kept | apply KeptN.next

theorem State.assignOp_kept {base s : State} (i : Nat) (hks : Kept base s) : Kept base (State.assignOp s i) := by
  delta State.assignOp
  repeat' first
    | with_reducible assumption
    | (extract_lets +onlyGivenNames x; clear_value (e : x = _);
        refine Kept.cut (s0 := base) e ?_ (fun hx => ?_))
    | with_reducible first | apply State.noteCandidates_kept | apply State.assignComp_kept
    | split

theorem execCompartmentAssign_kept {base s : State} (comp : Nat) (hks : Kept base s) :
    KeptN base (execCompartmentAssign comp s) := by
  delta execCompartmentAssign
  repeat' with_reducible first | assumption | apply State.assignOp_kept | apply KeptN.next

theorem State.reclaimOp_kept {base s : State} (c : Nat) (hks : Kept base s) : KeptE base (State.reclaimOp s c) := by
  delta State.reclaimOp
  repeat' first
    | with_reducible first | apply State.updComp_kept | apply State.complete_kept | apply KeptE.pure
    | (with_reducible refine KeptE.bind ?_; intro _ _)
    | with_reducible refine Kept.foldl ?_ (fun x a hx => ?_)
    | split
    | apply_assumption

theorem execReclaim_kept {base s : State} (c : BitVec 16) (hks : Kept base s) : KeptN base (execReclaim c s) := by
  delta execReclaim
  repeat' with_reducible first | assumption | apply State.rootRow_kept | apply State.reclaimOp_kept | apply KeptN.next

end Sys2Proof.Machine
end

