-- ==== Sys2Proof/Laws/KeptContexts.lean ====
section
/-! SUPPORT. What the operations of Machine/Contexts.lean keep. -/
namespace Sys2Proof.Machine

theorem State.createOp_kept {base s : State} (c : Nat) (hks : Kept base s) : KeptE base (State.createOp s c) := by
  delta State.createOp
  repeat' first
    | with_reducible assumption
    | (rw [State.mk_parts]; with_reducible apply Kept.parts)
    | with_reducible apply KeptE.pure
    | (with_reducible refine KeptE.bind ?_; intro _ _)
    | ((with_reducible refine Eq.trans ?_ rfl); rfl)

theorem execContextCreate_kept {base s : State} (c : BitVec 16) (hks : Kept base s) : KeptN base (execContextCreate c s) := by
  delta execContextCreate
  repeat' with_reducible first | assumption | apply State.rootRow_kept | apply State.createOp_kept | apply KeptN.next

theorem State.dropStaging_kept {base s : State} (c : Nat) (hks : Kept base s) : Kept base (State.dropStaging s c) := by
  delta State.dropStaging
  repeat' first
    | with_reducible assumption
    | (rw [State.mk_parts]; with_reducible apply Kept.parts)
    | ((with_reducible refine Eq.trans ?_ rfl); rfl)

theorem State.unbindAll_kept {base s : State} (c : Nat) (hks : Kept base s) : Kept base (State.unbindAll s c) := by
  delta State.unbindAll
  repeat' first
    | with_reducible assumption
    | (rw [State.mk_parts]; with_reducible apply Kept.parts)
    | ((with_reducible refine Eq.trans ?_ rfl); rfl)

theorem State.freeNodes_kept {base s : State} (c : Nat) (hks : Kept base s) : Kept base (State.freeNodes s c) := by
  delta State.freeNodes
  repeat' first
    | with_reducible assumption
    | (rw [State.mk_parts]; with_reducible apply Kept.parts)
    | ((with_reducible refine Eq.trans ?_ rfl); rfl)

theorem State.yieldAll_kept {base s : State} (c : Nat) (hks : Kept base s) : Kept base (State.yieldAll s c) := by
  delta State.yieldAll
  repeat' with_reducible first | assumption | apply State.switchComp_kept | refine Kept.foldl ?_ (fun x a hx => ?_)

theorem State.destroyOp_kept {base s : State} (c : Nat) (hks : Kept base s) : KeptE base (State.destroyOp s c) := by
  delta State.destroyOp
  repeat' first
    | with_reducible first
      | assumption | apply State.ownerReset_kept | apply State.discardWaiters_kept | apply State.settleInvs_kept
      | apply State.failPortions_kept | apply State.closeFlow_kept | apply State.leaveRecords_kept
      | apply State.unbindAll_kept | apply State.freeNodes_kept | apply State.yieldAll_kept
    | (rw [State.mk_parts]; with_reducible apply Kept.parts)
    | with_reducible apply KeptE.pure
    | (with_reducible refine KeptE.bind ?_; intro _ _)
    | (with_reducible refine Eq.trans ?_ rfl; first | rfl | (subst_vars; rfl))
    | with_reducible refine Kept.foldl ?_ (fun x a hx => ?_)

theorem execContextDestroy_kept {base s : State} (c : BitVec 16) (hks : Kept base s) :
    KeptN base (execContextDestroy c s) := by
  delta execContextDestroy
  repeat' with_reducible first | assumption | apply State.rootRow_kept | apply State.destroyOp_kept | apply KeptN.next

theorem State.resetOp_kept {base s : State} (c : Nat) (hks : Kept base s) : KeptE base (State.resetOp s c) := by
  delta State.resetOp
  repeat' first
    | with_reducible first
      | assumption | apply State.updCtx_kept | apply State.order_kept | apply State.startRecall_kept
      | apply State.discardWaits_kept | apply State.resetFabricStep_kept | apply State.dropRoutes_kept
      | apply State.failPortions_kept | apply State.leaveRecords_kept | apply State.dropStaging_kept
    | (rw [State.mk_parts]; with_reducible apply Kept.parts)
    | with_reducible apply KeptE.pure
    | (with_reducible refine KeptE.bind ?_; intro _ _)
    | ((with_reducible refine Eq.trans ?_ rfl); rfl)
    | with_reducible refine Kept.foldl ?_ (fun x a hx => ?_)

theorem execContextReset_kept {base s : State} (c : BitVec 16) (hks : Kept base s) : KeptN base (execContextReset c s) := by
  delta execContextReset
  repeat' with_reducible first | assumption | apply State.rootRow_kept | apply State.resetOp_kept | apply KeptN.next

theorem State.serveUnfences_kept {base s : State} (hks : Kept base s) : Kept base (State.serveUnfences s) := by
  delta State.serveUnfences
  repeat' first
    | with_reducible first | assumption | apply State.unfence_kept
    | (rw [State.mk_parts]; with_reducible apply Kept.parts)
    | ((with_reducible refine Eq.trans ?_ rfl); rfl)
    | with_reducible refine Kept.foldl ?_ (fun x a hx => ?_)
    | split
    | with_reducible refine Kept.of_some ?_ (by with_reducible assumption)

theorem State.finishReset_kept {base s : State} (hks : Kept base s) : Kept base (State.finishReset s) := by
  delta State.finishReset
  repeat' first
    | with_reducible first
      | assumption | apply State.freeNodes_kept | apply State.yieldAll_kept | apply State.serveUnfences_kept
    | (rw [State.mk_parts]; with_reducible apply Kept.parts)
    | ((with_reducible refine Eq.trans ?_ rfl); rfl)
    | split

end Sys2Proof.Machine
end

