-- ==== Sys2Proof/Laws/KeptCompletion.lean ====
section
/-! SUPPORT. What the operations of Machine/Completion.lean keep. -/
namespace Sys2Proof.Machine

theorem State.countLate_kept {base s : State} (d : Node) (hks : Kept base s) : Kept base (State.countLate s d) := by
  delta State.countLate
  repeat' first
    | with_reducible first | assumption | apply State.updSector_kept | apply State.updCtx_kept
    | split

theorem State.postLocal_kept {base s : State} (n : Nat) (d : Node) (id : SemId) (kind amount : Nat) (hks : Kept base s) :
    Kept base (State.postLocal s n d id kind amount) := by
  delta State.postLocal
  repeat' with_reducible first | assumption | apply State.semSend_kept

theorem State.postCompletion_kept {base s : State} (r n : Nat) (d : Node) (hks : Kept base s) :
    Kept base (State.postCompletion s r n d) := by
  delta State.postCompletion
  repeat' first
    | with_reducible assumption
    | (extract_lets +onlyGivenNames x; clear_value (e : x = _))
    | with_reducible first
      | apply State.setNode_kept | apply State.dropCompletion_kept | apply State.queueSignal_kept | apply State.journal_kept
      | apply State.postLocal_kept
    | split
    | with_reducible refine Kept.of_pair ?_ (by with_reducible assumption)

theorem State.raiseNotify_kept {base s : State} (r : Nat) (hks : Kept base s) : Kept base (State.raiseNotify s r) := by
  delta State.raiseNotify
  repeat' with_reducible first | assumption | apply State.setRing_kept | apply State.msix_kept | refine Kept.ite ?_ ?_

theorem State.note_kept {base s : State} (r : Nat) (hks : Kept base s) : Kept base (State.note s r) := by
  delta State.note
  repeat' with_reducible first | assumption | apply State.setRing_kept | apply State.raiseNotify_kept | refine Kept.ite ?_ ?_

theorem State.passRecord_kept {base s : State} (r : Nat) (d : Node) (hks : Kept base s) :
    Kept base (State.passRecord s r d) := by
  delta State.passRecord
  repeat' first
    | with_reducible assumption
    | (extract_lets +onlyGivenNames x; clear_value (e : x = _))
    | with_reducible first
      | apply State.setDev_kept | apply State.updRing_kept | apply State.handRecord_kept | apply State.countLate_kept
    | split
    | with_reducible first
      | refine Kept.of_error_state ?_ (by with_reducible assumption)
      | refine Kept.of_ok_state ?_ (by with_reducible assumption)

theorem State.retireNodes_kept {base s : State} (r from' upto : Nat) (hks : Kept base s) :
    Kept base (State.retireNodes s r from' upto) := by
  delta State.retireNodes
  repeat' with_reducible first
    | assumption | apply State.setNode_kept | apply State.delNode_kept | apply State.count_kept
    | apply State.expertRetired_kept | apply State.note_kept | refine Kept.foldl ?_ (fun x a hx => ?_)
    | refine Kept.ite ?_ ?_

theorem State.showCompleted_kept {base s : State} (r : Nat) (hks : Kept base s) : Kept base (State.showCompleted s r) := by
  delta State.showCompleted
  repeat' first
    | (extract_lets +onlyGivenNames x; clear_value (e : x = _); first
        | refine Kept.cutStep (s0 := base) e (fun _ _ => ?_) (fun hx => ?_) | skip)
    | with_reducible first
      | apply State.updRing_kept | apply State.tallyWrite_kept | apply State.tallyEntry_kept | apply State.freeRetained_kept
      | apply State.tallyMissing_kept | apply State.retireNodes_kept
    | split
    | with_reducible refine Kept.of_some ?_ (by with_reducible assumption)
    | apply_assumption

theorem State.postSignals_kept {base s : State} (r : Nat) (hks : Kept base s) : Kept base (State.postSignals s r) := by
  delta State.postSignals
  repeat' first
    | with_reducible first | assumption | apply State.postCompletion_kept | refine Kept.foldl ?_ (fun x a hx => ?_)
    | split

theorem State.retire_kept {base s : State} (r : Nat) (hks : Kept base s) : Kept base (State.retire s r) := by
  delta State.retire
  repeat' first
    | with_reducible first
      | assumption | apply State.checkDeadStall_kept | apply State.finishDrain_kept | apply State.passRecord_kept
      | apply State.showCompleted_kept | apply State.postSignals_kept
    | split

theorem execRecordRetire_kept {base s : State} (ring : Nat) (hks : Kept base s) : KeptN base (execRecordRetire ring s) := by
  delta execRecordRetire
  repeat' with_reducible first | assumption | apply State.retire_kept | apply KeptN.next

theorem State.delayExpires_kept {base s : State} (r : Nat) (hks : Kept base s) : Kept base (State.delayExpires s r) := by
  delta State.delayExpires
  repeat' with_reducible first | assumption | apply State.raiseNotify_kept | refine Kept.ite ?_ ?_

theorem execMaxDelayExpiry_kept {base s : State} (ring : Nat) (hks : Kept base s) :
    KeptN base (execMaxDelayExpiry ring s) := by
  delta execMaxDelayExpiry
  repeat' with_reducible first | assumption | apply State.delayExpires_kept | apply KeptN.next

theorem State.maskWrite_kept {base s : State} (r v : Nat) (hks : Kept base s) : Kept base (State.maskWrite s r v) := by
  delta State.maskWrite
  repeat' with_reducible first | assumption | apply State.setRing_kept | apply State.msix_kept | refine Kept.ite ?_ ?_

theorem execIrqMaskWrite_kept {base s : State} (ring : Nat) (value : BitVec 64) (hks : Kept base s) :
    KeptN base (execIrqMaskWrite ring value s) := by
  delta execIrqMaskWrite
  repeat' with_reducible first | assumption | apply State.maskWrite_kept | apply KeptN.next

theorem State.recoverTally_kept {base s : State} (c : Nat) (hks : Kept base s) : Kept base (State.recoverTally s c) := by
  delta State.recoverTally
  repeat' with_reducible first
    | assumption | apply State.updCtx_kept | apply State.unblock_kept | apply State.pumpRing_kept
    | apply State.settleTally_kept | refine Kept.foldl ?_ (fun x a hx => ?_) | refine Kept.ite ?_ ?_

theorem State.askAgain_kept {base s : State} (c target purpose who : Nat) (hks : Kept base s) :
    Kept base (State.askAgain s c target purpose who) := by
  delta State.askAgain
  repeat' with_reducible first | assumption | apply State.joinRecord_kept | refine Kept.ite ?_ ?_

theorem State.completionRetry_kept {base s : State} (c : Nat) (hks : Kept base s) :
    Kept base (State.completionRetry s c) := by
  delta State.completionRetry
  repeat' first
    | with_reducible first
      | assumption | apply State.emit_kept | apply State.askAgain_kept | refine Kept.foldl ?_ (fun x a hx => ?_)
    | split

theorem execCompletionRetryTimer_kept {base s : State} (ctx : Nat) (hks : Kept base s) :
    KeptN base (execCompletionRetryTimer ctx s) := by
  delta execCompletionRetryTimer
  repeat' with_reducible first | assumption | apply State.completionRetry_kept | apply KeptN.next

theorem State.consumedRead_kept {base s : State} (c : Nat) (v : Option (BitVec 64)) (hks : Kept base s) :
    Kept base (State.consumedRead s c v) := by
  delta State.consumedRead
  repeat' first
    | with_reducible assumption
    | (extract_lets +onlyGivenNames x; clear_value (e : x = _); first
        | refine Kept.cut (s0 := base) e ?_ (fun hx => ?_) | skip)
    | with_reducible first
      | apply State.updCtx_kept | apply State.count_kept | apply State.translated_kept | apply State.blockTally_kept
      | apply State.recoverTally_kept
    | split
    | with_reducible refine Kept.of_some ?_ (by with_reducible assumption)

theorem execEpochConsumedPoll_kept {base s : State} (ctx : Nat) (read : Option (BitVec 64)) (hks : Kept base s) :
    KeptN base (execEpochConsumedPoll ctx read s) := by
  delta execEpochConsumedPoll
  repeat' with_reducible first | assumption | apply State.consumedRead_kept | apply KeptN.next

theorem State.limitExpires_kept {base s : State} (n : Nat) (hks : Kept base s) : Kept base (State.limitExpires s n) := by
  delta State.limitExpires
  repeat' first
    | with_reducible first
      | assumption | apply State.startRecall_kept | apply State.endRecalls_kept | apply State.nodeFault_kept
    | split

theorem execTaskLimitExpiry_kept {base s : State} (node : Nat) (hks : Kept base s) :
    KeptN base (execTaskLimitExpiry node s) := by
  delta execTaskLimitExpiry
  repeat' with_reducible first | assumption | apply State.limitExpires_kept | apply KeptN.next

end Sys2Proof.Machine
end

