-- ==== Sys2Proof/Laws/KeptTableOps.lean ====
section
/-! SUPPORT. What the operations of Machine/TableOps.lean keep. -/
namespace Sys2Proof.Machine

theorem State.writeBlock_kept {base s : State} (n c a : Nat) (bs : List Byte) (hks : Kept base s) :
    Kept base (State.writeBlock s n c a bs) := by
  delta State.writeBlock
  repeat' with_reducible first
    | assumption | apply State.hostWrite_kept | apply State.writeDevice_kept | refine Kept.ite ?_ ?_

theorem State.copyData_kept {base s : State} (n : Nat) (d : Node) (host : List Byte) (said : Bool) (hks : Kept base s) :
    Kept base (State.copyData s n d host said) := by
  delta State.copyData
  repeat' with_reducible first
    | assumption | apply State.nextFree_kept | apply State.readsFor_kept | apply State.writeBlock_kept
    | refine Kept.foldl ?_ (fun x a hx => ?_) | refine Kept.ite ?_ ?_

theorem State.updTable_kept {base s : State} (t : Nat) (f : Table → Table) (hks : Kept base s) :
    Kept base (State.updTable s t f) := by
  delta State.updTable
  repeat' first
    | with_reducible assumption
    | (rw [State.mk_parts]; with_reducible apply Kept.parts)
    | ((with_reducible refine Eq.trans ?_ rfl); rfl)
    | split

theorem State.openTable_kept {base s : State} (id : Nat) (hks : Kept base s) : Kept base (State.openTable s id) := by
  delta State.openTable
  repeat' first
    | with_reducible first | assumption | apply State.portReads_kept | apply State.setDev_kept | apply State.updTable_kept
    | split

theorem State.updateRow_kept {base s : State} (n id : Nat) (t : Table) (r : Nat) (bytes : List Byte) (hks : Kept base s) :
    Kept base (State.updateRow s n id t r bytes) := by
  delta State.updateRow
  repeat' first
    | with_reducible first
      | assumption | apply State.portReads_kept | apply State.setDev_kept | apply State.store_kept
      | apply State.updTable_kept
    | (rw [State.mk_parts]; with_reducible apply Kept.parts)
    | (with_reducible refine Eq.trans ?_ rfl; first | rfl | (subst_vars; rfl))
    | with_reducible refine Kept.ite ?_ ?_

theorem State.updateData_kept {base s : State} (n : Nat) (d : Node) (id : Nat) (t : Table) (ids : List Nat)
    (host : List Byte) (bad : Option Nat) (hks : Kept base s) :
    Kept base (State.updateData s n d id t ids host bad) := by
  delta State.updateData
  repeat' first
    | with_reducible first
      | assumption | apply State.portReads_kept | apply State.nextFree_kept | apply State.logLost_kept
      | apply State.updateRow_kept | refine Kept.foldl ?_ (fun x a hx => ?_)
    | split

theorem State.runBag_kept {base s : State} (d : Node) (g : Gather) (t : Table) (b : Nat) (hks : Kept base s) :
    Kept base (State.runBag s d g t b) := by
  delta State.runBag
  repeat' first
    | with_reducible assumption
    | ((with_reducible intro k hk); exact Cells.wf_store _ _ _ hk)
    | with_reducible first
      | apply State.updStand_kept | apply State.count_kept | apply State.updTable_kept | refine Kept.ite ?_ ?_

theorem State.runGather_kept {base s : State} (n : Nat) (d : Node) (g : Gather) (t : Table) (said : Bool)
    (hks : Kept base s) :
    Kept base (State.runGather s n d g t said) := by
  delta State.runGather
  repeat' with_reducible first
    | assumption | apply State.updNode_kept | apply State.nextFree_kept | apply State.readsFor_kept
    | apply State.runBag_kept | refine Kept.foldl ?_ (fun x a hx => ?_) | refine Kept.ite ?_ ?_

theorem State.startFills_kept {base s : State} (n : Nat) (g : Gather) (hks : Kept base s) :
    Kept base (State.startFills s n g) := by
  delta State.startFills
  repeat' first
    | with_reducible first
      | assumption | apply State.translated_kept | apply State.updTable_kept | refine Kept.foldl ?_ (fun x a hx => ?_)
    | split
    | with_reducible refine Kept.of_some ?_ (by with_reducible assumption)

theorem State.landFill_kept {base s : State} (id r : Nat) (bytes : List Byte) (hks : Kept base s) :
    Kept base (State.landFill s id r bytes) := by
  delta State.landFill
  repeat' first
    | with_reducible first
      | assumption | apply State.setDev_kept | apply State.count_kept | apply State.nextFree_kept
      | apply State.updTable_kept
    | (rw [State.mk_parts]; with_reducible apply Kept.parts)
    | ((with_reducible refine Eq.trans ?_ rfl); rfl)
    | split

end Sys2Proof.Machine
end

