-- ==== Sys2Proof/Laws/KeptCommands.lean ====
section
/-! SUPPORT. What the operations of Machine/Commands.lean keep. -/
namespace Sys2Proof.Machine

theorem State.result_kept {base s : State} (n st : Nat) (hks : Kept base s) : Kept base (State.result s n st) := by
  delta State.result
  repeat' with_reducible first | assumption | apply State.updNode_kept

theorem State.moverCount_kept {base s : State} (n bytes : Nat) (hks : Kept base s) :
    Kept base (State.moverCount s n bytes) := by
  delta State.moverCount
  repeat' with_reducible first | assumption | apply State.count_kept

theorem State.startRanges_kept {base s go : State} (n : Nat) (d : Node) (dev host : List (Nat × Nat × Bool))
    (hks : Kept base s) (hkgo : Kept base go) :
    Kept base (State.startRanges s n d dev host go) := by
  delta State.startRanges
  repeat' first
    | with_reducible first | assumption | apply State.nodeFault_kept | apply State.rangesTranslated_kept
    | split
    | with_reducible refine Kept.of_some ?_ (by with_reducible assumption)

theorem State.onUnit_kept {base s go : State} (n : Nat) (lost : Bool) (hks : Kept base s) (hkgo : Kept base go) :
    Kept base (State.onUnit s n lost go) := by
  delta State.onUnit
  repeat' with_reducible first | assumption | apply State.nodeFault_kept | refine Kept.ite ?_ ?_

theorem State.nopStep_kept {base s : State} (n : Nat) (hks : Kept base s) : Kept base (State.nopStep s n) := by
  delta State.nopStep
  repeat' first
    | with_reducible first | assumption | apply State.result_kept
    | split

theorem execNopCommand_kept {base s : State} (node : Nat) (hks : Kept base s) : KeptN base (execNopCommand node s) := by
  delta execNopCommand
  repeat' with_reducible first | assumption | apply State.nopStep_kept | apply KeptN.next

theorem State.launchStep_kept {base s : State} (n : Nat) (hks : Kept base s) : Kept base (State.launchStep s n) := by
  delta State.launchStep
  repeat' first
    | with_reducible first
      | assumption | apply State.setNode_kept | apply State.checkLaunch_kept | apply State.joinOpenSets_kept
    | split

theorem execLaunchCommand_kept {base s : State} (node : Nat) (hks : Kept base s) : KeptN base (execLaunchCommand node s) := by
  delta execLaunchCommand
  repeat' with_reducible first | assumption | apply State.launchStep_kept | apply KeptN.next

theorem State.fenceStep_kept {base s : State} (n : Nat) (hks : Kept base s) : Kept base (State.fenceStep s n) := by
  delta State.fenceStep
  repeat' first
    | with_reducible first | assumption | apply State.result_kept
    | split

theorem execFenceCommand_kept {base s : State} (node : Nat) (hks : Kept base s) : KeptN base (execFenceCommand node s) := by
  delta execFenceCommand
  repeat' with_reducible first | assumption | apply State.fenceStep_kept | apply KeptN.next

theorem State.markStep_kept {base s : State} (n : Nat) (hks : Kept base s) : Kept base (State.markStep s n) := by
  delta State.markStep
  repeat' first
    | with_reducible first | assumption | apply State.markPair_kept | apply State.result_kept
    | split

theorem execMarkCommand_kept {base s : State} (node : Nat) (hks : Kept base s) : KeptN base (execMarkCommand node s) := by
  delta execMarkCommand
  repeat' with_reducible first | assumption | apply State.markStep_kept | apply KeptN.next

theorem State.copyStep_kept {base s : State} (n : Nat) (host : List Byte) (uncorrectable : Bool) (hks : Kept base s) :
    Kept base (State.copyStep s n host uncorrectable) := by
  delta State.copyStep
  repeat' first
    | with_reducible first
      | assumption | apply State.copyData_kept | apply State.result_kept | apply State.moverCount_kept
      | apply State.startRanges_kept | apply State.onUnit_kept
    | split

theorem execCopyCommand_kept {base s : State} (node : Nat) (hostData : List Byte) (uncorrectable : Bool) (hks : Kept base s) :
    KeptN base (execCopyCommand node hostData uncorrectable s) := by
  delta execCopyCommand
  repeat' with_reducible first | assumption | apply State.copyStep_kept | apply KeptN.next

theorem State.updateStep_kept {base s : State} (n : Nat) (ids : List Nat) (host : List Byte) (bad : Option Nat)
    (hks : Kept base s) :
    Kept base (State.updateStep s n ids host bad) := by
  delta State.updateStep
  repeat' first
    | with_reducible assumption
    | (extract_lets +onlyGivenNames x; clear_value (e : x = _))
    | with_reducible first
      | apply State.updateData_kept | apply State.result_kept | apply State.moverCount_kept | apply State.startRanges_kept
      | apply State.onUnit_kept
    | split

theorem execUpdateCommand_kept {base s : State} (node : Nat) (hostIds : List Nat) (hostData : List Byte)
    (uncorrectable : Option Nat) (hks : Kept base s) :
    KeptN base (execUpdateCommand node hostIds hostData uncorrectable s) := by
  delta execUpdateCommand
  repeat' with_reducible first | assumption | apply State.updateStep_kept | apply KeptN.next

theorem State.admitGather_kept {base s : State} (n : Nat) (d : Node) (t : Table) (hks : Kept base s) :
    Kept base (State.admitGather s n d t) := by
  delta State.admitGather
  repeat' first
    | with_reducible first
      | assumption | apply State.count_kept | apply State.portReads_kept | apply State.updTable_kept
      | apply State.startFills_kept
    | (rw [State.mk_parts]; with_reducible apply Kept.parts)
    | ((with_reducible refine Eq.trans ?_ rfl); rfl)
    | with_reducible first | refine Kept.foldl ?_ (fun x a hx => ?_) | refine Kept.ite ?_ ?_

theorem State.gatherGoes_kept {base s : State} (n : Nat) (d : Node) (uncorrectable : Bool) (hks : Kept base s) :
    Kept base (State.gatherGoes s n d uncorrectable) := by
  delta State.gatherGoes
  repeat' first
    | with_reducible first | assumption | apply State.runGather_kept | apply State.startFills_kept | apply State.onUnit_kept
    | split

theorem State.gatherStep_kept {base s : State} (n : Nat) (uncorrectable : Bool) (hks : Kept base s) :
    Kept base (State.gatherStep s n uncorrectable) := by
  delta State.gatherStep
  repeat' first
    | with_reducible first
      | assumption | apply State.startRanges_kept | apply State.onUnit_kept | apply State.admitGather_kept
      | apply State.gatherGoes_kept
    | split

theorem execGatherCommand_kept {base s : State} (node : Nat) (uncorrectable : Bool) (hks : Kept base s) :
    KeptN base (execGatherCommand node uncorrectable s) := by
  delta execGatherCommand
  repeat' with_reducible first | assumption | apply State.gatherStep_kept | apply KeptN.next

theorem State.coldFill_kept {base s : State} (id r : Nat) (bytes : List Byte) (hks : Kept base s) :
    Kept base (State.coldFill s id r bytes) := by
  delta State.coldFill
  repeat' first
    | with_reducible first
      | assumption | apply State.settleInvs_kept | apply State.landFill_kept | apply State.gatherGoes_kept
      | refine Kept.foldl ?_ (fun x a hx => ?_)
    | split

theorem execColdFill_kept {base s : State} (table row : Nat) (bytes : List Byte) (hks : Kept base s) :
    KeptN base (execColdFill table row bytes s) := by
  delta execColdFill
  repeat' with_reducible first | assumption | apply State.coldFill_kept | apply KeptN.next

theorem State.epochStep_kept {base s : State} (n : Nat) (hks : Kept base s) : Kept base (State.epochStep s n) := by
  delta State.epochStep
  repeat' first
    | with_reducible assumption
    | (extract_lets +onlyGivenNames x; clear_value (e : x = _))
    | with_reducible first | apply State.journal_kept | apply State.updTable_kept | apply State.result_kept
    | split
    | with_reducible refine Kept.of_pair ?_ (by with_reducible assumption)

theorem execEpochCommand_kept {base s : State} (node : Nat) (hks : Kept base s) : KeptN base (execEpochCommand node s) := by
  delta execEpochCommand
  repeat' with_reducible first | assumption | apply State.epochStep_kept | apply KeptN.next

theorem State.drainEnd_kept {base s : State} (id : Nat) (hks : Kept base s) : Kept base (State.drainEnd s id) := by
  delta State.drainEnd
  repeat' first
    | with_reducible first | assumption | apply State.openTable_kept
    | split

theorem execEpochDrainEnd_kept {base s : State} (table : Nat) (hks : Kept base s) :
    KeptN base (execEpochDrainEnd table s) := by
  delta execEpochDrainEnd
  repeat' with_reducible first | assumption | apply State.drainEnd_kept | apply KeptN.next

theorem State.restoreDone_kept {base s : State} (id : Nat) (hks : Kept base s) : Kept base (State.restoreDone s id) := by
  delta State.restoreDone
  repeat' first
    | with_reducible first | assumption | apply State.openTable_kept
    | split

theorem execTableRestoreDone_kept {base s : State} (table : Nat) (hks : Kept base s) :
    KeptN base (execTableRestoreDone table s) := by
  delta execTableRestoreDone
  repeat' with_reducible first | assumption | apply State.restoreDone_kept | apply KeptN.next

theorem State.signalStep_kept {base s : State} (n : Nat) (hks : Kept base s) : Kept base (State.signalStep s n) := by
  delta State.signalStep
  repeat' first
    | with_reducible assumption
    | (extract_lets +onlyGivenNames x; clear_value (e : x = _))
    | with_reducible first
      | apply State.setNode_kept | apply State.queueSignal_kept | apply State.journal_kept | apply State.postLocal_kept
    | split
    | with_reducible refine Kept.of_pair ?_ (by with_reducible assumption)

theorem execSignalCommand_kept {base s : State} (node : Nat) (hks : Kept base s) : KeptN base (execSignalCommand node s) := by
  delta execSignalCommand
  repeat' with_reducible first | assumption | apply State.signalStep_kept | apply KeptN.next

theorem State.waitStep_kept {base s : State} (n : Nat) (hks : Kept base s) : Kept base (State.waitStep s n) := by
  delta State.waitStep
  repeat' first
    | with_reducible first | assumption | apply State.setNode_kept | apply State.semSend_kept
    | split

theorem execWaitCommand_kept {base s : State} (node : Nat) (hks : Kept base s) : KeptN base (execWaitCommand node s) := by
  delta execWaitCommand
  repeat' with_reducible first | assumption | apply State.waitStep_kept | apply KeptN.next

theorem State.hostStep_kept {base s : State} (n : Nat) (hks : Kept base s) : Kept base (State.hostStep s n) := by
  delta State.hostStep
  repeat' first
    | with_reducible assumption
    | (extract_lets +onlyGivenNames x; clear_value (e : x = _); first
        | refine Kept.cut (s0 := base) e ?_ (fun hx => ?_) | skip)
    | with_reducible first
      | apply State.updRing_kept | apply State.msix_kept | apply State.hostWrite_kept | apply State.startRanges_kept
    | split

theorem execHostStepCommand_kept {base s : State} (node : Nat) (hks : Kept base s) :
    KeptN base (execHostStepCommand node s) := by
  delta execHostStepCommand
  repeat' with_reducible first | assumption | apply State.hostStep_kept | apply KeptN.next

theorem State.stepReply_kept {base s : State} (r v : Nat) (hks : Kept base s) : Kept base (State.stepReply s r v) := by
  delta State.stepReply
  repeat' first
    | with_reducible assumption
    | (extract_lets +onlyGivenNames x; clear_value (e : x = _))
    | with_reducible first | apply State.updRing_kept | apply State.result_kept
    | split

theorem execStepReply_kept {base s : State} (ring : Nat) (value : BitVec 64) (hks : Kept base s) :
    KeptN base (execStepReply ring value s) := by
  delta execStepReply
  repeat' with_reducible first | assumption | apply State.stepReply_kept | apply KeptN.next

end Sys2Proof.Machine
end

