-- ==== Sys2Proof/Laws/KeptPortOps.lean ====
section
/-! SUPPORT. What the operations of Machine/PortOps.lean keep. -/
namespace Sys2Proof.Machine

theorem State.unitLostBlock_kept {base s : State} (n : Nat) (hks : Kept base s) : Kept base (State.unitLostBlock s n) := by
  delta State.unitLostBlock
  repeat' with_reducible first | assumption | apply State.updNode_kept

theorem State.slotLost_kept {base s : State} (r a : Nat) (hks : Kept base s) : Kept base (State.slotLost s r a) := by
  delta State.slotLost
  repeat' first
    | with_reducible assumption
    | (extract_lets +onlyGivenNames x; clear_value (e : x = _))
    | with_reducible first | apply State.commandFault_kept | apply State.pumpRing_kept
    | split

theorem State.coreLostBlock_kept {base s : State} (c : Nat) (hks : Kept base s) : Kept base (State.coreLostBlock s c) := by
  delta State.coreLostBlock
  repeat' first
    | with_reducible first
      | assumption | apply State.kernelArrives_kept | apply State.parametersArrive_kept | apply State.transferEnds_kept
    | split

theorem State.failConsumer_kept {base s : State} (a : Nat) (x : Consumer) (hks : Kept base s) :
    Kept base (State.failConsumer s a x) := by
  cases x <;> unfold State.failConsumer
  all_goals skip
  repeat' first
    | with_reducible first
      | assumption | apply State.updNode_kept | apply State.endPartial_kept | apply State.shapeRead_kept
      | apply State.unitLostBlock_kept | apply State.slotLost_kept | apply State.coreLostBlock_kept
    | split

theorem State.askRemap_kept {base s : State} (port sub lane : Nat) (hks : Kept base s) :
    Kept base (State.askRemap s port sub lane) := by
  delta State.askRemap
  repeat' with_reducible first | assumption | apply State.updPort_kept | apply State.emit_kept | refine Kept.ite ?_ ?_

theorem State.laneError_kept {base s : State} (port sub lane : Nat) (hks : Kept base s) :
    Kept base (State.laneError s port sub lane) := by
  delta State.laneError
  repeat' with_reducible first | assumption | apply State.updPort_kept | apply State.askRemap_kept | refine Kept.ite ?_ ?_

theorem State.readCorrected_kept {base s : State} (port a : Nat) (raw fixed : List Byte) (hks : Kept base s) :
    Kept base (State.readCorrected s port a raw fixed) := by
  delta State.readCorrected
  repeat' with_reducible first
    | assumption | apply State.updPort_kept | apply State.count_kept | apply State.laneError_kept
    | refine Kept.foldl ?_ (fun x a hx => ?_)

theorem State.blockCorrected_kept {base s : State} (port a : Nat) (raw fixed : List Byte) (newer : Bool) (hks : Kept base s) :
    Kept base (State.blockCorrected s port a raw fixed newer) := by
  delta State.blockCorrected
  repeat' with_reducible first
    | assumption | apply State.updPort_kept | apply State.emit_kept | apply State.count_kept
    | apply State.readCorrected_kept | refine Kept.ite ?_ ?_

theorem State.blockReturns_kept {base s : State} (port a : Nat) (w : Consumer) (raw check : List Byte) (rerr newer : Bool)
    (hks : Kept base s) :
    Kept base (State.blockReturns s port a w raw check rerr newer) := by
  delta State.blockReturns
  repeat' first
    | with_reducible first
      | assumption | apply State.count_kept | apply State.failConsumer_kept | apply State.blockLost_kept
      | apply State.blockCorrected_kept
    | split

theorem State.mergeWrite_kept {base s : State} (a n : Nat) (bs raw check : List Byte) (rerr : Bool) (hks : Kept base s) :
    Kept base (State.mergeWrite s a n bs raw check rerr) := by
  delta State.mergeWrite
  repeat' first
    | with_reducible assumption
    | (extract_lets +onlyGivenNames x; clear_value (e : x = _); first
        | refine Kept.cut (s0 := base) e ?_ (fun hx => ?_) | skip)
    | with_reducible first
      | apply State.putDev_kept | apply State.updNode_kept | apply State.emit_kept | apply State.count_kept
      | apply State.cross_kept | apply State.endPartial_kept | apply State.blockLost_kept | apply State.readCorrected_kept
    | split

theorem State.setRegion_kept {base s : State} (c i state : Nat) (hks : Kept base s) :
    Kept base (State.setRegion s c i state) := by
  delta State.setRegion
  repeat' first
    | with_reducible assumption
    | (rw [State.mk_parts]; with_reducible apply Kept.parts)
    | ((with_reducible refine Eq.trans ?_ rfl); rfl)

theorem State.pin_kept {base s : State} (c : Nat) (hks : Kept base s) : Kept base (State.pin s c) := by
  delta State.pin
  repeat' first
    | with_reducible assumption
    | (extract_lets +onlyGivenNames x; clear_value (e : x = _))
    | with_reducible first
      | apply State.requestXlt_kept | apply State.setRegion_kept | refine Kept.foldl ?_ (fun x a hx => ?_)
    | split

theorem State.regionsOp_kept {base s : State} (c : Nat) (b : List Byte) (hks : Kept base s) :
    KeptE base (State.regionsOp s c b) := by
  delta State.regionsOp
  repeat' first
    | with_reducible first | assumption | apply State.leaveRecords_kept | apply State.pin_kept
    | (rw [State.mk_parts]; with_reducible apply Kept.parts)
    | with_reducible apply KeptE.pure
    | (with_reducible refine KeptE.bind ?_; intro _ _)
    | ((with_reducible refine Eq.trans ?_ rfl); rfl)

theorem State.registerOp_kept {base s : State} (l : List Byte) (hks : Kept base s) : KeptE base (State.registerOp s l) := by
  delta State.registerOp
  repeat' first
    | with_reducible assumption
    | (rw [State.mk_parts]; with_reducible apply Kept.parts)
    | with_reducible apply KeptE.pure
    | (with_reducible refine KeptE.bind ?_; intro _ _)
    | ((with_reducible refine Eq.trans ?_ rfl); rfl)

theorem State.unregisterOp_kept {base s : State} (id : Nat) (hks : Kept base s) : KeptE base (State.unregisterOp s id) := by
  delta State.unregisterOp
  repeat' first
    | with_reducible assumption
    | (rw [State.mk_parts]; with_reducible apply Kept.parts)
    | with_reducible first | exact KeptE.error | apply KeptE.pure
    | (with_reducible refine KeptE.bind ?_; intro _ _)
    | ((with_reducible refine Eq.trans ?_ rfl); rfl)
    | split

theorem State.fwRefused_kept {base s : State} (reason : Nat) (hks : Kept base s) : Kept base (State.fwRefused s reason) := by
  delta State.fwRefused
  repeat' first
    | with_reducible assumption
    | (rw [State.mk_parts]; with_reducible apply Kept.parts)
    | ((with_reducible refine Eq.trans ?_ rfl); rfl)

theorem State.fwTranslate_kept {base s : State} (hks : Kept base s) : Kept base (State.fwTranslate s) := by
  delta State.fwTranslate
  repeat' first
    | with_reducible first | assumption | apply State.requestXlt_kept
    | split

theorem State.ringTranslated_kept {base s : State} (r : Nat) (hks : Kept base s) : Kept base (State.ringTranslated s r) := by
  delta State.ringTranslated
  repeat' with_reducible first
    | assumption | apply State.endStall_kept | apply State.checkDeadStall_kept | apply State.pumpRing_kept
    | apply State.seekSlots_kept | refine Kept.ite ?_ ?_

theorem State.afterXlt_kept {base s : State} (q : XltRequest) (hks : Kept base s) : Kept base (State.afterXlt s q) := by
  delta State.afterXlt
  repeat' with_reducible first
    | assumption | apply State.unblock_kept | apply State.recoverTally_kept | apply State.pin_kept
    | apply State.fwTranslate_kept | apply State.ringTranslated_kept | refine Kept.ite ?_ ?_

theorem State.xltRsp_kept {base s : State} (tag : Nat) (none' : Bool) (addr pageLog2 : Nat) (r w : Bool) (hks : Kept base s) :
    Kept base (State.xltRsp s tag none' addr pageLog2 r w) := by
  delta State.xltRsp
  repeat' first
    | with_reducible assumption
    | (extract_lets +onlyGivenNames x; clear_value (e : x = _); first
        | refine Kept.cut (s0 := base) e ?_ (fun hx => ?_) | skip)
    | with_reducible first
      | apply State.sendWaiting_kept | apply State.joinRecord_kept | apply State.fwRefused_kept | apply State.afterXlt_kept
    | (rw [State.mk_parts]; with_reducible apply Kept.parts)
    | ((with_reducible refine Eq.trans ?_ rfl); subst_vars; rfl)
    | split

theorem State.refused_kept {base s : State} (page : Nat) (q : Requester) (hks : Kept base s) :
    Kept base (State.refused s page q) := by
  delta State.refused
  repeat' with_reducible first
    | assumption | apply State.nodeFault_kept | apply State.commandFault_kept | apply State.pumpRing_kept
    | refine Kept.ite ?_ ?_

theorem State.endPageStall_kept {base s : State} (r : Nat) (hks : Kept base s) : Kept base (State.endPageStall s r) := by
  delta State.endPageStall
  repeat' with_reducible first
    | assumption | apply State.event_kept | apply State.seekSlots_kept | apply State.pumpRing_kept | refine Kept.ite ?_ ?_

theorem State.pageRsp_kept {base s : State} (group result : Nat) (hks : Kept base s) :
    Kept base (State.pageRsp s group result) := by
  delta State.pageRsp
  repeat' first
    | with_reducible first
      | assumption | apply State.requestXlt_kept | apply State.admitWaiters_kept | apply State.refused_kept
      | apply State.endPageStall_kept
    | (rw [State.mk_parts]; with_reducible apply Kept.parts)
    | ((with_reducible refine Eq.trans ?_ rfl); rfl)
    | with_reducible refine Kept.foldl ?_ (fun x a hx => ?_)
    | split

theorem State.invReq_kept {base s : State} (itag : Nat) (pasid : Option Nat) (global : Bool) (iova size : Nat)
    (hks : Kept base s) :
    Kept base (State.invReq s itag pasid global iova size) := by
  delta State.invReq
  repeat' first
    | with_reducible first | assumption | apply State.settleInvs_kept | apply State.seekSlots_kept | apply State.pin_kept
    | (rw [State.mk_parts]; with_reducible apply Kept.parts)
    | ((with_reducible refine Eq.trans ?_ rfl); rfl)
    | with_reducible refine Kept.foldl ?_ (fun x a hx => ?_)

theorem State.hostReadEnds_kept {base s : State} (r a : Nat) (error : Bool) (bytes : List Byte) (hks : Kept base s) :
    Kept base (State.hostReadEnds s r a error bytes) := by
  delta State.hostReadEnds
  repeat' first
    | with_reducible assumption
    | (extract_lets +onlyGivenNames x; clear_value (e : x = _))
    | with_reducible first | apply State.count_kept | apply State.consumedRead_kept | apply State.refused_kept
    | split

end Sys2Proof.Machine
end

