-- ==== Sys2Proof/Laws/KeptPorts.lean ====
section
/-! SUPPORT. What the operations of Machine/Ports.lean keep. -/
namespace Sys2Proof.Machine

theorem execRegionsWrite_kept {base s : State} (c : Nat) (bytes : List Byte) (hks : Kept base s) :
    KeptN base (execRegionsWrite c bytes s) := by
  delta execRegionsWrite
  repeat' with_reducible first | assumption | apply State.rootRow_kept | apply State.regionsOp_kept | apply KeptN.next

theorem execTableRegister_kept {base s : State} (bytes : List Byte) (hks : Kept base s) :
    KeptN base (execTableRegister bytes s) := by
  delta execTableRegister
  repeat' with_reducible first | assumption | apply State.rootRow_kept | apply State.registerOp_kept | apply KeptN.next

theorem execTableUnregister_kept {base s : State} (id : BitVec 16) (hks : Kept base s) :
    KeptN base (execTableUnregister id s) := by
  delta execTableUnregister
  repeat' with_reducible first | assumption | apply State.rootRow_kept | apply State.unregisterOp_kept | apply KeptN.next

theorem execRdata_kept {base s : State} (port : Nat) (address : Nat) (consumer : Consumer) (bytes : List Byte)
    (check : List Byte) (reply : ReadReply) (hks : Kept base s) :
    KeptN base (execRdata port address consumer bytes check reply s) := by
  delta execRdata
  repeat' with_reducible first | assumption | apply State.blockReturns_kept | apply KeptN.next

theorem execPartialWrite_kept {base s : State} (address : Nat) (bytes : List Byte) (node : Nat) (block : Beat)
    (hks : Kept base s) :
    KeptN base (execPartialWrite address bytes node block s) := by
  delta execPartialWrite
  repeat' with_reducible first | assumption | apply State.mergeWrite_kept | apply KeptN.next

theorem execScrub_kept {base s : State} (port : Nat) (address : Nat) (bytes : List Byte) (check : List Byte)
    (reply : ReadReply) (hks : Kept base s) :
    KeptN base (execScrub port address bytes check reply s) := by
  delta execScrub
  repeat' with_reducible first | assumption | apply State.blockReturns_kept | apply KeptN.next | refine Kept.ite ?_ ?_

theorem State.remapAnswered_kept {base s : State} (port : Nat) (noSpare : Bool) (hks : Kept base s) :
    Kept base (State.remapAnswered s port noSpare) := by
  delta State.remapAnswered
  repeat' first
    | with_reducible assumption
    | (extract_lets +onlyGivenNames x; clear_value (e : x = _); first
        | refine Kept.cut (s0 := base) e ?_ (fun hx => ?_) | skip)
    | with_reducible first
      | apply State.updPort_kept | apply State.blockFlag_kept | apply State.log_kept | apply State.repairAdd_kept
      | apply State.askRemap_kept
    | (rw [State.mk_parts]; with_reducible apply Kept.parts)
    | ((with_reducible refine Eq.trans ?_ rfl); rfl)
    | split

theorem execLaneRemapRsp_kept {base s : State} (port : Nat) (noSpare : Bool) (hks : Kept base s) :
    KeptN base (execLaneRemapRsp port noSpare s) := by
  delta execLaneRemapRsp
  repeat' with_reducible first | assumption | apply State.remapAnswered_kept | apply KeptN.next

theorem execXltRsp_kept {base s : State} (tag : Nat) (none_ : Bool) (addr : Nat) (pageLog2 : Nat) (readOk writeOk : Bool)
    (hks : Kept base s) :
    KeptN base (execXltRsp tag none_ addr pageLog2 readOk writeOk s) := by
  delta execXltRsp
  repeat' with_reducible first | assumption | apply State.xltRsp_kept | apply KeptN.next

theorem execPageRsp_kept {base s : State} (group : Nat) (result : Nat) (hks : Kept base s) :
    KeptN base (execPageRsp group result s) := by
  delta execPageRsp
  repeat' with_reducible first | assumption | apply State.pageRsp_kept | apply KeptN.next

theorem execInvReq_kept {base s : State} (itag : Nat) (pasid : Option Nat) (global : Bool) (iova : Nat) (sizeLog2 : Nat)
    (hks : Kept base s) :
    KeptN base (execInvReq itag pasid global iova sizeLog2 s) := by
  delta execInvReq
  repeat' with_reducible first | assumption | apply State.invReq_kept | apply KeptN.next

theorem execHostReadCompletion_kept {base s : State} (ring : Nat) (address : BitVec 64) (error : Bool) (bytes : List Byte)
    (hks : Kept base s) :
    KeptN base (execHostReadCompletion ring address error bytes s) := by
  delta execHostReadCompletion
  repeat' with_reducible first | assumption | apply State.hostReadEnds_kept | apply KeptN.next

end Sys2Proof.Machine
end

