-- ==== Sys2Proof/Laws/KeptIslands.lean ====
section
/-! SUPPORT. What the operations of Machine/Islands.lean keep. -/
namespace Sys2Proof.Machine

theorem State.regulate_kept {base s : State} (i : Nat) (hks : Kept base s) : Kept base (State.regulate s i) := by
  delta State.regulate
  repeat' with_reducible first | assumption | apply State.updComp_kept

theorem State.moveStep_kept {base s : State} (t k : Nat) (hks : Kept base s) : Kept base (State.moveStep s t k) := by
  delta State.moveStep
  repeat' first
    | with_reducible assumption
    | ((with_reducible intro k hk); exact hk)
    | with_reducible first | apply State.updStand_kept | apply State.regulate_kept
    | (rw [State.mk_parts]; with_reducible apply Kept.parts)
    | ((with_reducible refine Eq.trans ?_ rfl); rfl)
    | with_reducible refine Kept.ite ?_ ?_

theorem State.raiseStep_kept {base s : State} (t k : Nat) (hks : Kept base s) : Kept base (State.raiseStep s t k) := by
  delta State.raiseStep
  repeat' first
    | with_reducible assumption
    | ((with_reducible intro k hk); exact hk)
    | with_reducible first
      | apply State.updStand_kept | apply State.emit_kept | apply State.moveStep_kept | refine Kept.ite ?_ ?_

theorem State.evaluate_kept {base s : State} (t i reading : Nat) (hks : Kept base s) :
    Kept base (State.evaluate s t i reading) := by
  delta State.evaluate
  repeat' first
    | with_reducible assumption
    | ((with_reducible intro k hk); exact hk)
    | with_reducible first | apply State.updStand_kept | apply State.moveStep_kept | apply State.raiseStep_kept
    | (rw [State.mk_parts]; with_reducible apply Kept.parts)
    | ((with_reducible refine Eq.trans ?_ rfl); rfl)
    | with_reducible refine Kept.ite ?_ ?_

theorem execIslandEvaluation_kept {base s : State} (stand : Nat) (current : Nat) (temp : Nat) (hks : Kept base s) :
    KeptN base (execIslandEvaluation stand current temp s) := by
  delta execIslandEvaluation
  repeat' with_reducible first | assumption | apply State.evaluate_kept | apply KeptN.next

theorem State.dropFast_kept {base s : State} (t current : Nat) (hks : Kept base s) :
    Kept base (State.dropFast s t current) := by
  delta State.dropFast
  repeat' first
    | with_reducible assumption
    | ((with_reducible intro k hk); exact hk)
    | with_reducible first | apply State.updStand_kept | apply State.moveStep_kept
    | (rw [State.mk_parts]; with_reducible apply Kept.parts)
    | ((with_reducible refine Eq.trans ?_ rfl); rfl)
    | with_reducible refine Kept.ite ?_ ?_

theorem execFastDrop_kept {base s : State} (stand : Nat) (current : Nat) (hks : Kept base s) :
    KeptN base (execFastDrop stand current s) := by
  delta execFastDrop
  repeat' with_reducible first | assumption | apply State.dropFast_kept | apply KeptN.next

theorem State.acknowledged_kept {base s : State} (t : Nat) (hks : Kept base s) : Kept base (State.acknowledged s t) := by
  delta State.acknowledged
  repeat' first
    | with_reducible assumption
    | (extract_lets +onlyGivenNames x; clear_value (e : x = _))
    | with_reducible first | apply State.updComp_kept | apply State.awake_kept | apply State.moveStep_kept
    | split

theorem execRegulatorAck_kept {base s : State} (stand : Nat) (hks : Kept base s) : KeptN base (execRegulatorAck stand s) := by
  delta execRegulatorAck
  repeat' with_reducible first | assumption | apply State.acknowledged_kept | apply KeptN.next

theorem execSensorFault_kept {base s : State} (stand : Nat) (hks : Kept base s) : KeptN base (execSensorFault stand s) := by
  delta execSensorFault
  repeat' first
    | with_reducible assumption
    | ((with_reducible intro k hk); exact hk)
    | with_reducible first | apply State.updStand_kept | apply State.log_kept | apply KeptN.next | refine Kept.ite ?_ ?_

theorem execRetainEntry_kept {base s : State} (comp : Nat) (hks : Kept base s) : KeptN base (execRetainEntry comp s) := by
  delta execRetainEntry
  repeat' first
    | with_reducible assumption
    | ((with_reducible intro k hk); exact hk)
    | with_reducible first
      | apply State.updStand_kept | apply State.updSector_kept | apply State.updComp_kept | apply State.regulate_kept
      | apply KeptN.next | refine Kept.foldl ?_ (fun x a hx => ?_) | refine Kept.ite ?_ ?_

theorem execTelemetryRefresh_kept {base s : State} (powerMilliwatts : Nat) (compPower : List Nat) (hks : Kept base s) :
    KeptN base (execTelemetryRefresh powerMilliwatts compPower s) := by
  delta execTelemetryRefresh
  repeat' first
    | with_reducible first | assumption | apply State.updComp_kept
    | (rw [State.mk_parts]; with_reducible apply Kept.parts)
    | with_reducible apply KeptN.next
    | ((with_reducible refine Eq.trans ?_ rfl); rfl)
    | with_reducible refine Kept.foldl ?_ (fun x a hx => ?_)

end Sys2Proof.Machine
end

