-- ==== Sys2Proof/Laws/KeptRepairOps.lean ====
section
/-! SUPPORT. What the operations of Machine/RepairOps.lean keep. -/
namespace Sys2Proof.Machine

theorem State.meridianLaneFails_kept {base s : State} (dir lane : Nat) (hks : Kept base s) :
    Kept base (State.meridianLaneFails s dir lane) := by
  delta State.meridianLaneFails
  repeat' first
    | with_reducible assumption
    | (extract_lets +onlyGivenNames x; clear_value (e : x = _); first
        | refine Kept.cut (s0 := base) e ?_ (fun hx => ?_) | skip)
    | with_reducible first | apply State.blockFlag_kept | apply State.log_kept | apply State.repairAdd_kept
    | (rw [State.mk_parts]; with_reducible apply Kept.parts)
    | ((with_reducible refine Eq.trans ?_ rfl); rfl)
    | split

theorem State.meridianCheck_kept {base s : State} (hks : Kept base s) : Kept base (State.meridianCheck s) := by
  delta State.meridianCheck
  repeat' first
    | with_reducible first | assumption | apply State.commandFault_kept
    | (rw [State.mk_parts]; with_reducible apply Kept.parts)
    | ((with_reducible refine Eq.trans ?_ rfl); rfl)
    | with_reducible first | refine Kept.foldl ?_ (fun x a hx => ?_) | refine Kept.ite ?_ ?_

theorem State.laneTest_kept {base s : State} (dir : Nat) (failed : List Nat) (hks : Kept base s) :
    Kept base (State.laneTest s dir failed) := by
  delta State.laneTest
  repeat' first
    | with_reducible first | assumption | apply State.meridianLaneFails_kept | apply State.meridianCheck_kept
    | (rw [State.mk_parts]; with_reducible apply Kept.parts)
    | ((with_reducible refine Eq.trans ?_ rfl); rfl)
    | with_reducible refine Kept.foldl ?_ (fun x a hx => ?_)

theorem State.setStarted_kept {base s : State} (n : Nat) (on : Bool) (hks : Kept base s) :
    Kept base (State.setStarted s n on) := by
  delta State.setStarted
  repeat' first
    | with_reducible assumption
    | (rw [State.mk_parts]; with_reducible apply Kept.parts)
    | (with_reducible refine Eq.trans ?_ rfl; first | rfl | (subst_vars; rfl))

theorem State.controlCoreFails_kept {base s : State} (half core : Nat) (hks : Kept base s) :
    Kept base (State.controlCoreFails s half core) := by
  delta State.controlCoreFails
  repeat' first
    | with_reducible first
      | assumption | apply State.blockFlag_kept | apply State.log_kept | apply State.repairAdd_kept
      | apply State.setStarted_kept
    | (rw [State.mk_parts]; with_reducible apply Kept.parts)
    | ((with_reducible refine Eq.trans ?_ rfl); rfl)
    | with_reducible refine Kept.ite ?_ ?_

theorem State.addEntry_kept {base s : State} (kind a b : Nat) (hks : Kept base s) :
    Kept base (State.addEntry s kind a b) := by
  delta State.addEntry
  repeat' first
    | with_reducible first | assumption | apply State.blockFlag_kept
    | (rw [State.mk_parts]; with_reducible apply Kept.parts)
    | ((with_reducible refine Eq.trans ?_ rfl); rfl)
    | with_reducible refine Kept.ite ?_ ?_

theorem State.finding_kept {base s : State} (t pos : Nat) (hks : Kept base s) : Kept base (State.finding s t pos) := by
  delta State.finding
  repeat' first
    | with_reducible assumption
    | ((with_reducible intro k hk); exact hk)
    | with_reducible first
      | apply State.updStand_kept | apply State.blockFlag_kept | apply State.fenceOne_kept | apply State.addEntry_kept
      | refine Kept.ite ?_ ?_

theorem State.rowFinding_kept {base s : State} (a row : Nat) (hks : Kept base s) : Kept base (State.rowFinding s a row) := by
  delta State.rowFinding
  repeat' first
    | with_reducible first | assumption | apply State.addEntry_kept | apply State.finding_kept
    | (rw [State.mk_parts]; with_reducible apply Kept.parts)
    | ((with_reducible refine Eq.trans ?_ rfl); rfl)
    | with_reducible refine Kept.ite ?_ ?_

theorem State.applyFindings_kept {base s : State} (hks : Kept base s) : Kept base (State.applyFindings s) := by
  delta State.applyFindings
  repeat' with_reducible first
    | assumption | apply State.blockFlag_kept | apply State.finding_kept | apply State.rowFinding_kept
    | refine Kept.foldl ?_ (fun x a hx => ?_) | refine Kept.ite ?_ ?_

theorem State.fuseMap_kept {base s : State} (hks : Kept base s) : Kept base (State.fuseMap s) := by
  delta State.fuseMap
  repeat' first
    | with_reducible assumption
    | ((with_reducible intro _); rfl)
    | ((with_reducible intro k hk); exact hk)
    | with_reducible first
      | apply State.updStand_kept | apply State.setCore_kept | apply State.dispatchLoop_kept
      | refine Kept.foldl ?_ (fun x a hx => ?_)

theorem State.applyEntry_kept {base s : State} (e : RepairEntry) (hks : Kept base s) : Kept base (State.applyEntry s e) := by
  delta State.applyEntry
  repeat' first
    | with_reducible assumption
    | ((with_reducible intro k hk); exact hk)
    | (extract_lets +onlyGivenNames x; clear_value (e : x = _); first
        | refine Kept.cut (s0 := base) e ?_ (fun hx => ?_) | skip)
    | with_reducible first
      | apply State.updStand_kept | apply State.updComp_kept | apply State.updPort_kept | apply State.updXport_kept
      | apply State.fenceOne_kept | apply State.askRemap_kept | apply State.setStarted_kept
    | (rw [State.mk_parts]; with_reducible apply Kept.parts)
    | ((with_reducible refine Eq.trans ?_ rfl); rfl)
    | with_reducible refine Kept.foldl ?_ (fun x a hx => ?_)
    | split

theorem State.loadTable_kept {base s : State} (l : List Byte) (hks : Kept base s) : KeptE base (State.loadTable s l) := by
  delta State.loadTable
  repeat' first
    | with_reducible first
      | assumption | apply State.blockFlag_kept | apply State.addEntry_kept | apply State.applyFindings_kept
      | apply State.fuseMap_kept | apply State.applyEntry_kept
    | (rw [State.mk_parts]; with_reducible apply Kept.parts)
    | with_reducible apply KeptE.pure
    | (with_reducible refine KeptE.bind ?_; intro _ _)
    | ((with_reducible refine Eq.trans ?_ rfl); rfl)
    | with_reducible first | refine Kept.foldl ?_ (fun x a hx => ?_) | refine Kept.ite ?_ ?_

end Sys2Proof.Machine
end

