-- ==== Sys2Proof/Laws/KeptRepairing.lean ====
section
/-! SUPPORT. What the operations of Machine/Repairing.lean keep. -/
namespace Sys2Proof.Machine

theorem execCoreProbe_kept {base s : State} (core : Nat) (hks : Kept base s) : KeptN base (execCoreProbe core s) := by
  delta execCoreProbe
  repeat' first
    | with_reducible assumption
    | ((with_reducible intro k hk); exact hk)
    | with_reducible first | apply State.updCore_kept | apply KeptN.next | refine Kept.ite ?_ ?_

theorem execProbeTimeout_kept {base s : State} (core : Nat) (hks : Kept base s) : KeptN base (execProbeTimeout core s) := by
  delta execProbeTimeout
  repeat' with_reducible first | assumption | apply State.fenceCore_kept | apply KeptN.next | refine Kept.ite ?_ ?_

theorem State.fenceOp_kept {base s : State} (c : Nat) (hks : Kept base s) : KeptE base (State.fenceOp s c) := by
  delta State.fenceOp
  repeat' first
    | with_reducible first | assumption | apply State.fenceCore_kept | apply KeptE.pure
    | (with_reducible refine KeptE.bind ?_; intro _ _)

theorem execFenceCore_kept {base s : State} (value : BitVec 16) (hks : Kept base s) : KeptN base (execFenceCore value s) := by
  delta execFenceCore
  repeat' with_reducible first | assumption | apply State.rootRow_kept | apply State.fenceOp_kept | apply KeptN.next

theorem State.unfenceOp_kept {base s : State} (c : Nat) (passes : Bool) (hks : Kept base s) :
    Kept base (State.unfenceOp s c passes) := by
  delta State.unfenceOp
  repeat' first
    | with_reducible first | assumption | apply State.unfence_kept | apply State.answered_kept
    | (rw [State.mk_parts]; with_reducible apply Kept.parts)
    | with_reducible first | exact KeptE.error | apply KeptE.ok
    | ((with_reducible refine Eq.trans ?_ rfl); rfl)
    | split
    | with_reducible refine Kept.of_some ?_ (by with_reducible assumption)

theorem execUnfenceCore_kept {base s : State} (value : BitVec 16) (selfTestPasses : Bool) (hks : Kept base s) :
    KeptN base (execUnfenceCore value selfTestPasses s) := by
  delta execUnfenceCore
  repeat' with_reducible first | assumption | apply State.rootServes_kept | apply State.unfenceOp_kept | apply KeptN.next

theorem execRecallAck_kept {base s : State} (core : Nat) (hks : Kept base s) : KeptN base (execRecallAck core s) := by
  delta execRecallAck
  repeat' with_reducible first
    | assumption | apply State.recallCore_kept | apply State.recallAnswered_kept | apply KeptN.next | refine Kept.ite ?_ ?_

theorem execRecallAckTimeout_kept {base s : State} (core : Nat) (hks : Kept base s) :
    KeptN base (execRecallAckTimeout core s) := by
  delta execRecallAckTimeout
  repeat' with_reducible first | assumption | apply State.fenceCore_kept | apply KeptN.next | refine Kept.ite ?_ ?_

theorem execStandDrained_kept {base s : State} (stand : Nat) (hks : Kept base s) : KeptN base (execStandDrained stand s) := by
  delta execStandDrained
  repeat' with_reducible first | assumption | apply State.endDrain_kept | apply KeptN.next | refine Kept.ite ?_ ?_

theorem execIslandFault_kept {base s : State} (stand : Nat) (hks : Kept base s) : KeptN base (execIslandFault stand s) := by
  delta execIslandFault
  repeat' with_reducible first | assumption | apply State.fenceStand_kept | apply KeptN.next

theorem execRegulatorFault_kept {base s : State} (comp : Nat) (hks : Kept base s) :
    KeptN base (execRegulatorFault comp s) := by
  delta execRegulatorFault
  repeat' with_reducible first | assumption | apply State.fenceComp_kept | apply KeptN.next

theorem State.nodeLost_kept {base s : State} (n : Nat) (queueWord : Bool) (hks : Kept base s) :
    Kept base (State.nodeLost s n queueWord) := by
  delta State.nodeLost
  repeat' first
    | with_reducible first | assumption | apply State.log_kept | apply State.nodeFault_kept | apply State.repairRow_kept
    | split

theorem execNodeLost_kept {base s : State} (node : Nat) (word : NodeWord) (hks : Kept base s) :
    KeptN base (execNodeLost node word s) := by
  delta execNodeLost
  repeat' first
    | with_reducible first | assumption | apply State.correctedRow_kept | apply State.nodeLost_kept | apply KeptN.next
    | split

theorem execUnitFault_kept {base s : State} (mover : Bool) (unit : Nat) (hks : Kept base s) :
    KeptN base (execUnitFault mover unit s) := by
  delta execUnitFault
  repeat' first
    | with_reducible first | assumption | apply State.blockFlag_kept | apply State.log_kept | apply State.repairAdd_kept
    | (rw [State.mk_parts]; with_reducible apply Kept.parts)
    | with_reducible apply KeptN.next
    | ((with_reducible refine Eq.trans ?_ rfl); rfl)
    | with_reducible refine Kept.ite ?_ ?_

theorem execMeridianLaneTest_kept {base s : State} (dir : Nat) (failed : List Nat) (hks : Kept base s) :
    KeptN base (execMeridianLaneTest dir failed s) := by
  delta execMeridianLaneTest
  repeat' with_reducible first | assumption | apply State.laneTest_kept | apply KeptN.next

theorem execRepairLoad_kept {base s : State} (bytes : List Byte) (hks : Kept base s) :
    KeptN base (execRepairLoad bytes s) := by
  delta execRepairLoad
  repeat' with_reducible first | assumption | apply State.rootRow_kept | apply State.loadTable_kept | apply KeptN.next

end Sys2Proof.Machine
end

