-- ==== Sys2Proof/Laws/KeptTraceOps.lean ====
section
/-! SUPPORT. What the operations of Machine/TraceOps.lean keep. -/
namespace Sys2Proof.Machine

theorem State.startTrace_kept {base s : State} (hks : Kept base s) : Kept base (State.startTrace s) := by
  delta State.startTrace
  repeat' first
    | with_reducible first | assumption | apply State.syncRecord_kept
    | (rw [State.mk_parts]; with_reducible apply Kept.parts)
    | ((with_reducible refine Eq.trans ?_ rfl); rfl)

theorem padTrace_kept {base s : State} (n : Nat) (hks : Kept base s) : Kept base (padTrace n s) := by
  induction n generalizing s with
  | zero => exact hks
  | succ n ih =>
  unfold padTrace
  repeat' with_reducible first | assumption | apply ih | apply State.sinkRecord_kept | refine Kept.ite ?_ ?_

theorem State.reportLoss_kept {base s : State} (h : Nat) (hks : Kept base s) : Kept base (State.reportLoss s h) := by
  delta State.reportLoss
  repeat' first
    | with_reducible first | assumption | apply State.sinkRecord_kept
    | (rw [State.mk_parts]; with_reducible apply Kept.parts)
    | ((with_reducible refine Eq.trans ?_ rfl); rfl)
    | with_reducible refine Kept.ite ?_ ?_

theorem State.reportAllLoss_kept {base s : State} (hks : Kept base s) : Kept base (State.reportAllLoss s) := by
  delta State.reportAllLoss
  repeat' first
    | with_reducible first | assumption | apply State.sinkRecord_kept
    | (rw [State.mk_parts]; with_reducible apply Kept.parts)
    | ((with_reducible refine Eq.trans ?_ rfl); rfl)
    | with_reducible refine Kept.ite ?_ ?_

theorem State.stopTrace_kept {base s : State} (hks : Kept base s) : Kept base (State.stopTrace s) := by
  delta State.stopTrace
  repeat' first
    | with_reducible first | assumption | apply padTrace_kept | apply State.reportLoss_kept | apply State.reportAllLoss_kept
    | (rw [State.mk_parts]; with_reducible apply Kept.parts)
    | ((with_reducible refine Eq.trans ?_ rfl); rfl)
    | with_reducible refine Kept.ite ?_ ?_

theorem State.traceEnableOp_kept {base s : State} (v : Nat) (hks : Kept base s) : KeptE base (State.traceEnableOp s v) := by
  delta State.traceEnableOp
  repeat' first
    | with_reducible first | assumption | apply State.startTrace_kept | apply State.stopTrace_kept | apply KeptE.pure
    | (with_reducible refine KeptE.bind ?_; intro _ _)
    | with_reducible refine Kept.ite ?_ ?_

theorem State.triggerNowOp_kept {base s : State} (v : Nat) (hks : Kept base s) : KeptE base (State.triggerNowOp s v) := by
  delta State.triggerNowOp
  repeat' first
    | with_reducible first | assumption | apply State.trigger_kept | apply KeptE.pure
    | (with_reducible refine KeptE.bind ?_; intro _ _)
    | with_reducible refine Kept.ite ?_ ?_

theorem State.gcSelectOp_kept {base s : State} (l : List Word) (hks : Kept base s) : KeptE base (State.gcSelectOp s l) := by
  delta State.gcSelectOp
  repeat' first
    | with_reducible assumption
    | (rw [State.mk_parts]; with_reducible apply Kept.parts)
    | with_reducible apply KeptE.pure
    | (with_reducible refine KeptE.bind ?_; intro _ _)
    | ((with_reducible refine Eq.trans ?_ rfl); rfl)

theorem State.gcClearOp_kept {base s : State} (v : Nat) (hks : Kept base s) : KeptE base (State.gcClearOp s v) := by
  delta State.gcClearOp
  repeat' first
    | with_reducible assumption
    | (rw [State.mk_parts]; with_reducible apply Kept.parts)
    | with_reducible apply KeptE.pure
    | (with_reducible refine KeptE.bind ?_; intro _ _)
    | ((with_reducible refine Eq.trans ?_ rfl); rfl)

theorem State.coreEventsOp_kept {base s : State} (c : Nat) (l : List (BitVec 16)) (hks : Kept base s) :
    KeptE base (State.coreEventsOp s c l) := by
  delta State.coreEventsOp
  repeat' first
    | with_reducible assumption
    | ((with_reducible intro k hk); exact hk)
    | with_reducible first | apply State.updCore_kept | apply State.updCtx_kept | apply KeptE.pure
    | (with_reducible refine KeptE.bind ?_; intro _ _)
    | with_reducible refine Kept.foldl ?_ (fun x a hx => ?_)

theorem State.pcSample_kept {base s : State} (t : Nat) (hks : Kept base s) : Kept base (State.pcSample s t) := by
  delta State.pcSample
  repeat' first
    | with_reducible assumption
    | ((with_reducible intro k hk); exact hk)
    | with_reducible first
      | apply State.updStand_kept | apply State.trace_kept | refine Kept.foldl ?_ (fun x a hx => ?_) | refine Kept.ite ?_ ?_

theorem State.suspendHalf_kept {base s : State} (h : Nat) (hks : Kept base s) : Kept base (State.suspendHalf s h) := by
  delta State.suspendHalf
  repeat' first
    | with_reducible assumption
    | (rw [State.mk_parts]; with_reducible apply Kept.parts)
    | ((with_reducible refine Eq.trans ?_ rfl); rfl)
    | with_reducible refine Kept.ite ?_ ?_

theorem State.releaseHalf_kept {base s : State} (h : Nat) (hks : Kept base s) : Kept base (State.releaseHalf s h) := by
  delta State.releaseHalf
  repeat' first
    | with_reducible first | assumption | apply State.rejoin_kept
    | (rw [State.mk_parts]; with_reducible apply Kept.parts)
    | ((with_reducible refine Eq.trans ?_ rfl); rfl)
    | split

theorem State.applyHalts_kept {base s : State} (hks : Kept base s) : Kept base (State.applyHalts s) := by
  delta State.applyHalts
  repeat' with_reducible first
    | assumption | apply State.suspendHalf_kept | apply State.releaseHalf_kept | refine Kept.foldl ?_ (fun x a hx => ?_)
    | refine Kept.ite ?_ ?_

theorem State.haltHart_kept {base s : State} (n : Nat) (hks : Kept base s) : Kept base (State.haltHart s n) := by
  delta State.haltHart
  repeat' first
    | with_reducible first | assumption | apply State.suspendHalf_kept
    | (rw [State.mk_parts]; with_reducible apply Kept.parts)
    | ((with_reducible refine Eq.trans ?_ rfl); rfl)
    | with_reducible refine Kept.ite ?_ ?_

theorem State.resumeHart_kept {base s : State} (n : Nat) (hks : Kept base s) : Kept base (State.resumeHart s n) := by
  delta State.resumeHart
  repeat' first
    | with_reducible first | assumption | apply State.releaseHalf_kept
    | (rw [State.mk_parts]; with_reducible apply Kept.parts)
    | ((with_reducible refine Eq.trans ?_ rfl); rfl)
    | with_reducible refine Kept.ite ?_ ?_

theorem State.dmiOp_kept {base s : State} (address : Byte) (op : Nat) (data : Word) (hks : Kept base s) :
    Kept base (State.dmiOp s address op data) := by
  delta State.dmiOp
  repeat' first
    | (extract_lets +onlyGivenNames x; clear_value (e : x = _); first
        | refine Kept.cut (s0 := base) e ?_ (fun hx => ?_)
        | refine Kept.cutFun3 (s0 := base) e (fun _ _ _ _ => ?_) (fun hx => ?_) | skip)
    | with_reducible first | apply State.haltHart_kept | apply State.resumeHart_kept
    | (rw [State.mk_parts]; with_reducible apply Kept.parts)
    | with_reducible refine Kept.ite ?_ ?_
    | apply_assumption

theorem State.lockTrace_kept {base s : State} (hks : Kept base s) : Kept base (State.lockTrace s) := by
  delta State.lockTrace
  repeat' first
    | with_reducible first | assumption | apply State.traceLost_kept
    | (rw [State.mk_parts]; with_reducible apply Kept.parts)
    | ((with_reducible refine Eq.trans ?_ rfl); rfl)
    | with_reducible first | refine Kept.foldl ?_ (fun x a hx => ?_) | refine Kept.ite ?_ ?_

theorem State.lockDebug_kept {base s : State} (hks : Kept base s) : Kept base (State.lockDebug s) := by
  delta State.lockDebug
  repeat' with_reducible first | assumption | apply State.resumeHart_kept | refine Kept.foldl ?_ (fun x a hx => ?_)

theorem State.debugLockOp_kept {base s : State} (v : Byte) (hks : Kept base s) : KeptE base (State.debugLockOp s v) := by
  delta State.debugLockOp
  repeat' first
    | with_reducible assumption
    | (subst_vars; exact Kept.lockSet (by assumption) _ rfl)
    | with_reducible first | apply State.lockTrace_kept | apply State.lockDebug_kept | apply KeptE.pure
    | (with_reducible refine KeptE.bind ?_; intro _ _)
    | with_reducible refine Kept.ite ?_ ?_

end Sys2Proof.Machine
end

