-- ==== Sys2Proof/Laws/KeptTracing.lean ====
section
/-! SUPPORT. What the operations of Machine/Tracing.lean keep. -/
namespace Sys2Proof.Machine

theorem execHartBreakpoint_kept {base s : State} (hart : Nat) (hks : Kept base s) :
    KeptN base (execHartBreakpoint hart s) := by
  delta execHartBreakpoint
  repeat' with_reducible first | assumption | apply State.haltHart_kept | apply KeptN.next

theorem execHalfDrained_kept {base s : State} (half : Nat) (hks : Kept base s) : KeptN base (execHalfDrained half s) := by
  delta execHalfDrained
  repeat' first
    | with_reducible assumption
    | (rw [State.mk_parts]; with_reducible apply Kept.parts)
    | with_reducible apply KeptN.next
    | ((with_reducible refine Eq.trans ?_ rfl); rfl)
    | with_reducible refine Kept.ite ?_ ?_

theorem execTraceEnable_kept {base s : State} (value : Byte) (hks : Kept base s) : KeptN base (execTraceEnable value s) := by
  delta execTraceEnable
  repeat' with_reducible first | assumption | apply State.rootRow_kept | apply State.traceEnableOp_kept | apply KeptN.next

theorem execTriggerNow_kept {base s : State} (value : Byte) (hks : Kept base s) : KeptN base (execTriggerNow value s) := by
  delta execTriggerNow
  repeat' with_reducible first | assumption | apply State.rootRow_kept | apply State.triggerNowOp_kept | apply KeptN.next

theorem execWindowEnd_kept {base s : State} (hks : Kept base s) : KeptN base (execWindowEnd s) := by
  delta execWindowEnd
  repeat' first
    | with_reducible assumption
    | (rw [State.mk_parts]; with_reducible apply Kept.parts)
    | with_reducible apply KeptN.next
    | ((with_reducible refine Eq.trans ?_ rfl); rfl)
    | with_reducible refine Kept.ite ?_ ?_

theorem execPcSampleTimer_kept {base s : State} (stand : Nat) (hks : Kept base s) :
    KeptN base (execPcSampleTimer stand s) := by
  delta execPcSampleTimer
  repeat' with_reducible first | assumption | apply State.pcSample_kept | apply KeptN.next

theorem execSyncRecordTimer_kept {base s : State} (hks : Kept base s) : KeptN base (execSyncRecordTimer s) := by
  delta execSyncRecordTimer
  repeat' with_reducible first | assumption | apply State.syncRecord_kept | apply KeptN.next | refine Kept.ite ?_ ?_

theorem execTraceReadyChange_kept {base s : State} (ready : Bool) (hks : Kept base s) :
    KeptN base (execTraceReadyChange ready s) := by
  delta execTraceReadyChange
  repeat' first
    | with_reducible first | assumption | apply drainTrace_kept
    | (rw [State.mk_parts]; with_reducible apply Kept.parts)
    | with_reducible apply KeptN.next
    | ((with_reducible refine Eq.trans ?_ rfl); rfl)

theorem execGcSelect_kept {base s : State} (selects : List Word) (hks : Kept base s) :
    KeptN base (execGcSelect selects s) := by
  delta execGcSelect
  repeat' with_reducible first | assumption | apply State.rootRow_kept | apply State.gcSelectOp_kept | apply KeptN.next

theorem execGcClear_kept {base s : State} (value : Byte) (hks : Kept base s) : KeptN base (execGcClear value s) := by
  delta execGcClear
  repeat' with_reducible first | assumption | apply State.rootRow_kept | apply State.gcClearOp_kept | apply KeptN.next

theorem execCoreEvents_kept {base s : State} (c : Nat) (events : List (BitVec 16)) (hks : Kept base s) :
    KeptN base (execCoreEvents c events s) := by
  delta execCoreEvents
  repeat' with_reducible first | assumption | apply State.rootRow_kept | apply State.coreEventsOp_kept | apply KeptN.next

theorem State.eventFreezeOp_kept {base s : State} (v : Nat) (hks : Kept base s) : KeptE base (State.eventFreezeOp s v) := by
  delta State.eventFreezeOp
  repeat' first
    | with_reducible assumption
    | (rw [State.mk_parts]; with_reducible apply Kept.parts)
    | with_reducible apply KeptE.pure
    | (with_reducible refine KeptE.bind ?_; intro _ _)
    | ((with_reducible refine Eq.trans ?_ rfl); rfl)

theorem execEventFreeze_kept {base s : State} (value : Byte) (hks : Kept base s) : KeptN base (execEventFreeze value s) := by
  delta execEventFreeze
  repeat' with_reducible first | assumption | apply State.rootRow_kept | apply State.eventFreezeOp_kept | apply KeptN.next

theorem execTestPortAccess_kept {base s : State} (ir : Nat) (mandatory : Bool) (hks : Kept base s) :
    KeptN base (execTestPortAccess ir mandatory s) := by
  delta execTestPortAccess
  repeat' first
    | with_reducible assumption
    | (rw [State.mk_parts]; with_reducible apply Kept.parts)
    | with_reducible apply KeptN.next
    | ((with_reducible refine Eq.trans ?_ rfl); rfl)
    | with_reducible refine Kept.ite ?_ ?_

end Sys2Proof.Machine
end

