-- ==== Sys2Proof/Laws/KeptEntries.lean ====
section
/-! SUPPORT. What the operations of Machine/Entries.lean keep. -/
namespace Sys2Proof.Machine

theorem State.deviceIdOp_kept {base s : State} (v : Nat) (hks : Kept base s) : KeptE base (State.deviceIdOp s v) := by
  delta State.deviceIdOp
  repeat' first
    | with_reducible assumption
    | (rw [State.mk_parts]; with_reducible apply Kept.parts)
    | with_reducible apply KeptE.pure
    | (with_reducible refine KeptE.bind ?_; intro _ _)
    | ((with_reducible refine Eq.trans ?_ rfl); rfl)

theorem State.identityEntry_kept {base s : State} (idx sub : Nat) (hks : Kept base s) :
    KeptC base (State.identityEntry s idx sub) := by
  delta State.identityEntry
  repeat' first
    | with_reducible first
      | assumption | intro _ | apply State.deviceIdOp_kept | exact KeptC.none | apply KeptC.some | apply roEntry_kept
      | apply roU8_kept | apply roU16_kept | apply roU32_kept | apply roTime_kept | apply roOctets_kept | apply rwU16_kept
      | apply noPut_kept
    | split
    | with_reducible apply KeptCE.mk

theorem State.putCtx_kept {base s : State} (c : Nat) (range busy : Bool) (f : Context → Context) (hks : Kept base s) :
    KeptE base (State.putCtx s c range busy f) := by
  delta State.putCtx
  repeat' first
    | with_reducible first | assumption | apply State.updCtx_kept | apply KeptE.pure
    | (with_reducible refine KeptE.bind ?_; intro _ _)

theorem State.contextEntry_kept {base s : State} (c sub : Nat) (hks : Kept base s) :
    KeptC base (State.contextEntry s c sub) := by
  delta State.contextEntry
  repeat' first
    | with_reducible first
      | assumption | intro _ | apply State.putCtx_kept | exact KeptC.none | apply KeptC.some | apply roU16_kept
      | apply roU32_kept | apply roU64_kept | apply rwU16_kept | apply rwU32_kept | apply rwU64_kept
    | split

theorem State.putRing_kept {base s : State} (r : Nat) (range : Bool) (f : Ring → Ring) (hks : Kept base s) :
    KeptE base (State.putRing s r range f) := by
  delta State.putRing
  repeat' first
    | with_reducible first | assumption | apply State.updRing_kept | apply KeptE.pure
    | (with_reducible refine KeptE.bind ?_; intro _ _)

theorem State.ringControl_kept {base s : State} (r v : Nat) (hks : Kept base s) : KeptE base (State.ringControl s r v) := by
  delta State.ringControl
  repeat' first
    | with_reducible first
      | assumption | apply State.enableOp_kept | apply State.disableOp_kept | apply State.retryOp_kept
      | apply State.skipOp_kept | apply State.abortOp_kept | exact KeptE.error
    | split

theorem State.ringEntry_kept {base s : State} (r k : Nat) (hks : Kept base s) : KeptC base (State.ringEntry s r k) := by
  delta State.ringEntry
  repeat' first
    | with_reducible first
      | assumption | intro _ | refine KeptE.map ?_ (fun t ht => ?_) | apply State.updRing_kept
      | apply State.freeRetained_kept | apply State.putRing_kept | apply State.ringControl_kept | apply KeptE.pure
    | (with_reducible refine KeptE.bind ?_; intro _ _)
    | with_reducible first
      | exact KeptC.none | apply KeptC.some | apply roU8_kept | apply roU16_kept | apply roU64_kept | apply roOctets_kept
      | apply rwU8_kept | apply rwU32_kept | apply rwU64_kept | apply woNum_kept | apply rwArray_kept
    | split

theorem State.contextIndexEntry_kept {base s : State} (c sub : Nat) (hks : Kept base s) :
    KeptC base (State.contextIndexEntry s c sub) := by
  delta State.contextIndexEntry
  repeat' with_reducible first
    | assumption | apply State.contextEntry_kept | apply State.ringEntry_kept | exact KeptC.none | apply KeptC.map_onlyFor
    | refine KeptC.ite ?_ ?_

theorem State.mailboxEntry_kept {base s : State} (c sub : Nat) (hks : Kept base s) :
    KeptC base (State.mailboxEntry s c sub) := by
  delta State.mailboxEntry
  repeat' first
    | with_reducible first | assumption | intro _ | apply State.updRing_kept | apply KeptE.pure
    | (with_reducible refine KeptE.bind ?_; intro _ _)
    | with_reducible first
      | exact KeptC.none | apply KeptC.some | apply rwU64_kept | apply CatEntry.onlyFor_kept | refine KeptC.ite ?_ ?_

theorem State.tallyConfig_kept {base s : State} (c sub : Nat) (hks : Kept base s) :
    KeptC base (State.tallyConfig s c sub) := by
  delta State.tallyConfig
  repeat' first
    | with_reducible first
      | assumption | intro _ | apply State.putCtx_kept | exact KeptC.none | apply KeptC.some | apply rwU64_kept
    | split

theorem State.ringsIndexEntry_kept {base s : State} (idx sub : Nat) (hks : Kept base s) :
    KeptC base (State.ringsIndexEntry s idx sub) := by
  delta State.ringsIndexEntry
  repeat' first
    | with_reducible first
      | assumption | intro _ | apply State.createOp_kept | apply State.destroyOp_kept | apply State.resetOp_kept
    | (rw [State.mk_parts]; with_reducible apply Kept.parts)
    | with_reducible apply KeptE.pure
    | (with_reducible refine KeptE.bind ?_; intro _ _)
    | with_reducible first
      | exact KeptC.none | apply KeptC.some | apply roU8_kept | apply roU16_kept | apply rwU32_kept | apply woNum_kept
    | ((with_reducible refine Eq.trans ?_ rfl); rfl)
    | split

theorem State.putSet_kept {base s : State} (range : Bool) (f : Settings → Settings) (hks : Kept base s) (hkf : ∀ x,
    (f x).debugLock = x.debugLock) :
    KeptE base (State.putSet s range f) := by
  delta State.putSet
  repeat' first
    | with_reducible assumption
    | exact hkf _
    | (rw [State.mk_parts]; with_reducible apply Kept.parts)
    | with_reducible apply KeptE.pure
    | (with_reducible refine KeptE.bind ?_; intro _ _)
    | ((with_reducible refine Eq.trans ?_ rfl); rfl)

theorem State.dvorsorEntry_kept {base s : State} (sub : Nat) (hks : Kept base s) : KeptC base (State.dvorsorEntry s sub) := by
  delta State.dvorsorEntry
  repeat' first
    | with_reducible first | assumption | intro _ | apply State.reclaimOp_kept | apply State.putSet_kept
    | (rw [State.mk_parts]; with_reducible apply Kept.parts)
    | with_reducible apply KeptE.pure
    | (with_reducible refine KeptE.bind ?_; intro _ _)
    | with_reducible first
      | exact KeptC.none | apply KeptC.some | apply roU64_kept | apply rwU8_kept | apply rwU16_kept | apply rwU32_kept
      | apply woNum_kept | apply rwArray_kept
    | ((with_reducible refine Eq.trans ?_ rfl); rfl)
    | split

theorem State.halfEntry_kept {base s : State} (h sub : Nat) (hks : Kept base s) : KeptC base (State.halfEntry s h sub) := by
  delta State.halfEntry
  repeat' first
    | with_reducible first | exact KeptC.none | apply KeptC.some | apply roU16_kept | apply roU32_kept | apply roU64_kept
    | split

theorem State.sectorEntry_kept {base s : State} (k sub : Nat) (hks : Kept base s) :
    KeptC base (State.sectorEntry s k sub) := by
  delta State.sectorEntry
  repeat' first
    | with_reducible first | exact KeptC.none | apply KeptC.some | apply roU16_kept | apply roU32_kept | apply roU64_kept
    | split

end Sys2Proof.Machine
end

