-- ==== Sys2Proof/Laws/KeptEntriesDevice.lean ====
section
/-! SUPPORT. What the operations of Machine/EntriesDevice.lean keep. -/
namespace Sys2Proof.Machine

theorem State.fabricEntry_kept {base s : State} (sub : Nat) (hks : Kept base s) : KeptC base (State.fabricEntry s sub) := by
  delta State.fabricEntry
  repeat' first
    | with_reducible first
      | assumption | intro _ | apply State.bindOp_kept | apply State.unbindOp_kept | apply State.putSet_kept
      | exact KeptC.none | apply KeptC.some | apply roU32_kept | apply roU64_kept | apply rwU32_kept | apply woNum_kept
      | apply woOctets_kept
    | ((with_reducible refine Eq.trans ?_ rfl); rfl)
    | split

theorem State.sharedEntry_kept {base s : State} (i : Nat) (hks : Kept base s) : KeptCE base (State.sharedEntry s i) := by
  delta State.sharedEntry
  repeat' with_reducible first | apply roOctets_kept | apply CatEntry.onlyFor_kept

theorem State.regionsEntry_kept {base s : State} (c : Nat) (hks : Kept base s) : KeptCE base (State.regionsEntry s c) := by
  delta State.regionsEntry
  repeat' with_reducible first
    | assumption | intro _ | apply State.regionsOp_kept | apply rwArray_kept | apply CatEntry.onlyFor_kept

theorem State.tableEntry_kept {base s : State} (t : Nat) (hks : Kept base s) : KeptCE base (State.tableEntry s t) := by
  delta State.tableEntry
  repeat' first
    | with_reducible first | apply roOctets_kept | apply CatEntry.onlyFor_kept
    | split

theorem State.memoryEntry_kept {base s : State} (idx sub : Nat) (hks : Kept base s) :
    KeptC base (State.memoryEntry s idx sub) := by
  delta State.memoryEntry
  repeat' first
    | with_reducible first
      | assumption | intro _ | apply State.registerOp_kept | apply State.unregisterOp_kept | apply State.putSet_kept
      | apply State.regionsEntry_kept | apply State.tableEntry_kept | exact KeptC.none | apply KeptC.some | apply roU64_kept
      | apply roArray_kept | apply rwU16_kept | apply woNum_kept | apply woOctets_kept
    | ((with_reducible refine Eq.trans ?_ rfl); rfl)
    | split

theorem State.layerEntry_kept {base s : State} (h l sub : Nat) (hks : Kept base s) :
    KeptC base (State.layerEntry s h l sub) := by
  delta State.layerEntry
  repeat' first
    | with_reducible first | assumption | intro _
    | (extract_lets +onlyGivenNames x; clear_value (e : x = _); first
        | refine KeptC.cut (s0 := base) e ?_ (fun hx => ?_) | refine KeptCE.cut (s0 := base) e ?_ (fun hx => ?_))
    | with_reducible first
      | apply State.layerCancelOp_kept | apply State.descriptorOp_kept | exact KeptC.none | apply KeptC.some
      | apply roU32_kept | apply roU64_kept | apply roOctets_kept | apply woNum_kept | apply KeptC.map_onlyFor
    | split
    | with_reducible first | exact KeptCE.put (by with_reducible assumption) _ | apply KeptCE.mk

theorem State.putEngine_kept {base s : State} (h : Nat) (range : Bool) (f : Engine → Engine) (hks : Kept base s) :
    KeptE base (State.putEngine s h range f) := by
  delta State.putEngine
  repeat' first
    | with_reducible first | assumption | apply State.updEngine_kept | apply KeptE.pure
    | (with_reducible refine KeptE.bind ?_; intro _ _)

theorem State.engineEntry_kept {base s : State} (h sub : Nat) (hks : Kept base s) :
    KeptC base (State.engineEntry s h sub) := by
  delta State.engineEntry
  repeat' first
    | with_reducible first
      | assumption | intro _ | apply State.putEngine_kept | exact KeptC.none | apply KeptC.some | apply roU8_kept
      | apply roU32_kept | apply roU64_kept | apply rwU16_kept | apply rwU32_kept | apply rwU64_kept
    | split

theorem State.putDeviceRing_kept {base s : State} (r : Nat) (range : Bool) (f : Ring → Ring) (hks : Kept base s) :
    KeptE base (State.putDeviceRing s r range f) := by
  delta State.putDeviceRing
  repeat' first
    | with_reducible first | assumption | apply State.updRing_kept | apply KeptE.pure
    | (with_reducible refine KeptE.bind ?_; intro _ _)

theorem State.deviceRingEntry_kept {base s : State} (h d sub : Nat) (hks : Kept base s) :
    KeptC base (State.deviceRingEntry s h d sub) := by
  delta State.deviceRingEntry
  repeat' first
    | with_reducible first
      | assumption | intro _ | apply State.deviceEnableOp_kept | apply State.deviceDisableOp_kept
      | apply State.putDeviceRing_kept | exact KeptE.error | exact KeptC.none | apply KeptC.some | apply roU8_kept
      | apply roU32_kept | apply roU64_kept | apply roOctets_kept | apply rwU8_kept | apply rwU16_kept | apply rwU64_kept
      | apply woNum_kept
    | split

theorem State.powerEntry_kept {base s : State} (sub : Nat) (hks : Kept base s) : KeptC base (State.powerEntry s sub) := by
  delta State.powerEntry
  repeat' first
    | with_reducible first
      | assumption | intro _ | apply State.putSet_kept | exact KeptC.none | apply KeptC.some | apply roU8_kept
      | apply roU32_kept | apply roU64_kept | apply roArray_kept | apply rwU8_kept
    | ((with_reducible refine Eq.trans ?_ rfl); rfl)
    | split

theorem State.compEntry_kept {base s : State} (i sub : Nat) (hks : Kept base s) : KeptC base (State.compEntry s i sub) := by
  delta State.compEntry
  repeat' first
    | with_reducible first
      | exact KeptC.none | apply KeptC.some | apply roU8_kept | apply roU16_kept | apply roU32_kept | apply roArray_kept
    | split

theorem State.unfenceWrite_kept {base s : State} (v : Nat) (hks : Kept base s) : KeptE base (State.unfenceWrite s v) := by
  delta State.unfenceWrite
  repeat' first
    | with_reducible first | assumption | apply State.unfence_kept | exact KeptE.error | apply KeptE.ok
    | (with_reducible refine KeptE.bind ?_; intro _ _)
    | split
    | with_reducible refine Kept.of_some ?_ (by with_reducible assumption)

theorem State.faultEntry_kept {base s : State} (idx sub : Nat) (hks : Kept base s) :
    KeptC base (State.faultEntry s idx sub) := by
  delta State.faultEntry
  repeat' first
    | with_reducible first
      | assumption | intro _ | apply State.loadTable_kept | apply State.fenceOp_kept | apply State.putSet_kept
      | apply State.unfenceWrite_kept | exact KeptC.none | apply KeptC.some | apply roU64_kept | apply roArray_kept
      | apply rwU8_kept | apply rwU16_kept | apply rwU32_kept | apply woNum_kept | apply noPut_kept
    | ((with_reducible refine Eq.trans ?_ rfl); rfl)
    | split
    | with_reducible apply KeptCE.mk

theorem State.standEntry_kept {base s : State} (t : Nat) (hks : Kept base s) : KeptCE base (State.standEntry s t) := by
  delta State.standEntry
  repeat' with_reducible apply roOctets_kept

theorem State.endSession_kept {base s : State} (slot : Nat) (hks : Kept base s) : Kept base (State.endSession s slot) := by
  delta State.endSession
  repeat' first
    | with_reducible assumption
    | (rw [State.mk_parts]; with_reducible apply Kept.parts)
    | ((with_reducible refine Eq.trans ?_ rfl); rfl)

theorem State.endSessions_kept {base s : State} (p : Session → Bool) (hks : Kept base s) :
    Kept base (State.endSessions s p) := by
  delta State.endSessions
  repeat' first
    | with_reducible assumption
    | (rw [State.mk_parts]; with_reducible apply Kept.parts)
    | ((with_reducible refine Eq.trans ?_ rfl); rfl)

theorem State.keyOp_kept {base s : State} (slot : Nat) (l : List Byte) (hks : Kept base s) :
    KeptE base (State.keyOp s slot l) := by
  delta State.keyOp
  repeat' first
    | with_reducible first | assumption | apply State.endSessions_kept
    | (rw [State.mk_parts]; with_reducible apply Kept.parts)
    | with_reducible apply KeptE.pure
    | (with_reducible refine KeptE.bind ?_; intro _ _)
    | ((with_reducible refine Eq.trans ?_ rfl); rfl)

theorem State.securityEntry_kept {base s : State} (idx sub : Nat) (hks : Kept base s) :
    KeptC base (State.securityEntry s idx sub) := by
  delta State.securityEntry
  repeat' first
    | with_reducible first
      | assumption | intro _ | apply State.debugLockOp_kept | apply State.putSet_kept | apply State.keyOp_kept
      | exact KeptC.none | apply KeptC.some | apply roU8_kept | apply roU32_kept | apply rwBool_kept | apply rwU8_kept
      | apply woOctets_kept
    | ((with_reducible refine Eq.trans ?_ rfl); rfl)
    | split

theorem State.capConfig_kept {base s : State} (sub : Nat) (hks : Kept base s) : KeptC base (State.capConfig s sub) := by
  delta State.capConfig
  repeat' first
    | with_reducible first | assumption | intro _ | apply State.endSessions_kept
    | (rw [State.mk_parts]; with_reducible apply Kept.parts)
    | with_reducible first | apply KeptE.ok | apply KeptE.pure
    | (with_reducible refine KeptE.bind ?_; intro _ _)
    | with_reducible first
      | exact KeptC.none | apply KeptC.some | apply roU8_kept | apply roU32_kept | apply roOctets_kept | apply rwBool_kept
      | apply rwU16_kept | apply rwU32_kept
    | ((with_reducible refine Eq.trans ?_ rfl); rfl)
    | split
    | with_reducible apply KeptCE.mk

theorem State.sessionCloseOp_kept {base s : State} (slot v : Nat) (hks : Kept base s) :
    KeptE base (State.sessionCloseOp s slot v) := by
  delta State.sessionCloseOp
  repeat' first
    | with_reducible first | assumption | apply State.endSession_kept | apply KeptE.pure
    | (with_reducible refine KeptE.bind ?_; intro _ _)

theorem State.sessionEntry_kept {base s : State} (slot sub : Nat) (hks : Kept base s) :
    KeptC base (State.sessionEntry s slot sub) := by
  delta State.sessionEntry
  repeat' first
    | with_reducible first
      | assumption | intro _ | apply State.sessionCloseOp_kept | exact KeptC.none | apply KeptC.some | apply roU8_kept
      | apply roU32_kept | apply roU64_kept | apply roTime_kept | apply roOctets_kept | apply woNum_kept
    | split

theorem State.countersEntry_kept {base s : State} (c : Nat) (hks : Kept base s) : KeptCE base (State.countersEntry s c) := by
  delta State.countersEntry
  repeat' with_reducible first | apply roOctets_kept | apply CatEntry.onlyFor_kept

theorem State.coreEventsEntry_kept {base s : State} (c : Nat) (hks : Kept base s) :
    KeptCE base (State.coreEventsEntry s c) := by
  delta State.coreEventsEntry
  repeat' first
    | with_reducible first | assumption | intro _
    | (extract_lets +onlyGivenNames x; clear_value (e : x = _);
        refine KeptCE.cut (s0 := base) e ?_ (fun hx => ?_))
    | with_reducible first
      | apply State.coreEventsOp_kept | apply rwArray_kept | exact KeptCE.put (by with_reducible assumption) _
      | apply KeptCE.mk

theorem State.globalEntry_kept {base s : State} (sub : Nat) (hks : Kept base s) : KeptC base (State.globalEntry s sub) := by
  delta State.globalEntry
  repeat' first
    | with_reducible first | assumption | intro _ | apply State.gcSelectOp_kept | apply State.gcClearOp_kept
    | (rw [State.mk_parts]; with_reducible apply Kept.parts)
    | with_reducible apply KeptE.pure
    | (with_reducible refine KeptE.bind ?_; intro _ _)
    | with_reducible first
      | exact KeptC.none | apply KeptC.some | apply roArray_kept | apply rwBool_kept | apply woNum_kept | apply rwArray_kept
    | ((with_reducible refine Eq.trans ?_ rfl); rfl)
    | split

theorem State.putTrace_kept {base s : State} (held range : Bool) (f : Debug → Debug) (hks : Kept base s) :
    KeptE base (State.putTrace s held range f) := by
  delta State.putTrace
  repeat' first
    | with_reducible assumption
    | (rw [State.mk_parts]; with_reducible apply Kept.parts)
    | with_reducible apply KeptE.pure
    | (with_reducible refine KeptE.bind ?_; intro _ _)
    | ((with_reducible refine Eq.trans ?_ rfl); rfl)

theorem State.traceEntry_kept {base s : State} (sub : Nat) (hks : Kept base s) : KeptC base (State.traceEntry s sub) := by
  delta State.traceEntry
  repeat' first
    | with_reducible first
      | assumption | intro _ | apply State.traceEnableOp_kept | apply State.triggerNowOp_kept | apply State.putTrace_kept
      | exact KeptC.none | apply KeptC.some | apply roU64_kept | apply rwBool_kept | apply rwU8_kept | apply rwU32_kept
      | apply rwU64_kept | apply woNum_kept
    | split

theorem State.eventEntry_kept {base s : State} (sub : Nat) (hks : Kept base s) : KeptC base (State.eventEntry s sub) := by
  delta State.eventEntry
  repeat' first
    | with_reducible first | assumption | intro _ | apply State.eventFreezeOp_kept
    | (rw [State.mk_parts]; with_reducible apply Kept.parts)
    | with_reducible first | apply KeptE.ok | apply KeptE.pure
    | (with_reducible refine KeptE.bind ?_; intro _ _)
    | with_reducible first
      | exact KeptC.none | apply KeptC.some | apply roArray_kept | apply rwBool_kept | apply rwU8_kept | apply rwU32_kept
    | ((with_reducible refine Eq.trans ?_ rfl); rfl)
    | split

theorem State.debugEntry_kept {base s : State} (sub : Nat) (hks : Kept base s) : KeptC base (State.debugEntry s sub) := by
  delta State.debugEntry
  repeat' first
    | with_reducible first | assumption | intro _ | apply State.applyHalts_kept
    | (rw [State.mk_parts]; with_reducible apply Kept.parts)
    | with_reducible apply KeptE.pure
    | (with_reducible refine KeptE.bind ?_; intro _ _)
    | with_reducible first | exact KeptC.none | apply KeptC.some | apply roU8_kept | apply rwU8_kept
    | ((with_reducible refine Eq.trans ?_ rfl); rfl)
    | split

theorem State.putWire_kept {base s : State} (range : Bool) (f : Settings → Settings) (hks : Kept base s) (hkf : ∀ x,
    (f x).debugLock = x.debugLock) :
    KeptE base (State.putWire s range f) := by
  delta State.putWire
  repeat' first
    | with_reducible assumption
    | exact hkf _
    | (rw [State.mk_parts]; with_reducible apply Kept.parts)
    | with_reducible apply KeptE.pure
    | (with_reducible refine KeptE.bind ?_; intro _ _)
    | ((with_reducible refine Eq.trans ?_ rfl); rfl)

theorem State.wireEntry_kept {base s : State} (sub : Nat) (hks : Kept base s) : KeptC base (State.wireEntry s sub) := by
  delta State.wireEntry
  repeat' first
    | with_reducible first
      | assumption | intro _ | apply State.flowOpenOp_kept | apply State.flowCloseOp_kept | apply State.markReleaseOp_kept
      | apply State.putWire_kept | exact KeptC.none | apply KeptC.some | apply roU16_kept | apply roU64_kept
      | apply roOctets_kept | apply rwU8_kept | apply rwU16_kept | apply rwU32_kept | apply woNum_kept | apply woOctets_kept
    | ((with_reducible refine Eq.trans ?_ rfl); rfl)
    | split
    | with_reducible apply KeptCE.mk

theorem State.portEnableOp_kept {base s : State} (p v : Nat) (hks : Kept base s) : KeptE base (State.portEnableOp s p v) := by
  delta State.portEnableOp
  repeat' first
    | with_reducible first | assumption | apply State.updXport_kept | apply State.portChanged_kept | apply KeptE.pure
    | (with_reducible refine KeptE.bind ?_; intro _ _)

theorem State.portEntry_kept {base s : State} (p sub : Nat) (hks : Kept base s) : KeptC base (State.portEntry s p sub) := by
  delta State.portEntry
  repeat' first
    | with_reducible first
      | assumption | intro _ | apply State.updXport_kept | apply State.portEnableOp_kept | apply KeptE.ok | exact KeptC.none
      | apply KeptC.some | apply roU8_kept | apply roU64_kept | apply rwBool_kept | apply rwU16_kept
    | split

theorem State.timeEntry_kept {base s : State} (sub : Nat) (hks : Kept base s) : KeptC base (State.timeEntry s sub) := by
  delta State.timeEntry
  repeat' first
    | with_reducible first
      | assumption | intro _ | apply State.updClock_kept | apply State.setTimeSource_kept | apply KeptE.ok
      | apply KeptE.pure
    | (with_reducible refine KeptE.bind ?_; intro _ _)
    | with_reducible first
      | exact KeptC.none | apply KeptC.some | apply roEntry_kept | apply roU32_kept | apply roTime_kept | apply rwU16_kept
      | apply rwU32_kept
    | split

theorem State.peerEntry_kept {base s : State} (k sub : Nat) (hks : Kept base s) : KeptC base (State.peerEntry s k sub) := by
  delta State.peerEntry
  repeat' first
    | with_reducible first | exact KeptC.none | apply KeptC.some | apply roU16_kept | apply roU32_kept | apply roU64_kept
    | split

theorem State.flowEntry_kept {base s : State} (f : Nat) (hks : Kept base s) : KeptCE base (State.flowEntry s f) := by
  delta State.flowEntry
  repeat' with_reducible first | apply roOctets_kept | apply CatEntry.onlyFor_kept

end Sys2Proof.Machine
end

