-- ==== Sys2Proof/Laws/KeptCatalogue.lean ====
section
/-! SUPPORT. What the operations of Machine/Catalogue.lean keep. -/
namespace Sys2Proof.Machine

theorem State.body_kept {base s : State} (idx sub : Nat) (hks : Kept base s) : KeptC base (State.body s idx sub) := by
  delta State.body
  repeat' with_reducible first
    | assumption | apply State.identityEntry_kept | apply State.contextIndexEntry_kept | apply State.mailboxEntry_kept
    | apply State.tallyConfig_kept | apply State.ringsIndexEntry_kept | apply State.dvorsorEntry_kept
    | apply State.halfEntry_kept | apply State.sectorEntry_kept | apply State.fabricEntry_kept
    | apply State.sharedEntry_kept | apply State.memoryEntry_kept | apply State.layerEntry_kept
    | apply State.engineEntry_kept | apply State.deviceRingEntry_kept | apply State.powerEntry_kept
    | apply State.compEntry_kept | apply State.faultEntry_kept | apply State.standEntry_kept
    | apply State.securityEntry_kept | apply State.capConfig_kept | apply State.sessionEntry_kept
    | apply State.countersEntry_kept | apply State.coreEventsEntry_kept | apply State.globalEntry_kept
    | apply State.traceEntry_kept | apply State.eventEntry_kept | apply State.debugEntry_kept | apply State.wireEntry_kept
    | apply State.portEntry_kept | apply State.timeEntry_kept | apply State.peerEntry_kept | apply State.flowEntry_kept
    | exact KeptC.none | apply KeptC.some | refine KeptC.ite ?_ ?_

theorem State.entry_kept {base s : State} {v : View} {idx sub : Nat} {e : CatEntry} (hks : Kept base s)
    (h : s.entry v idx sub = .ok e) : KeptCE base e := by
  unfold State.entry at h
  dsimp only at h
  split at h
  · split at h <;> cases h
    exact roU32_kept _ _
  · split at h
    · cases h; exact roU8_kept _ _
    · split at h
      · cases h; exact roU32_kept _ _
      · split at h
        · split at h <;> cases h
          exact State.body_kept idx sub hks _ (by assumption)
        · cases h

theorem State.catWrite_kept {base s : State} (v : View) (idx sub : Nat) (data : List Byte) (off : Nat) (last tooLong : Bool)
    (chk : Option Nat) (st : Option Staging) (hks : Kept base s) :
    KeptP base (State.catWrite s v idx sub data off last tooLong chk st) := by
  unfold State.catWrite
  dsimp only
  split
  · exact hks
  · rename_i e he
    split
    · split <;> exact hks
    · split
      · exact hks
      · split
        · exact hks
        · exact hks
        · split
          · exact hks
          · rename_i t ht
            exact State.entry_kept hks he _ t ht

theorem State.setWindow_kept {base s : State} (v : View) (w : Window) (hks : Kept base s) :
    Kept base (State.setWindow s v w) := by
  delta State.setWindow
  repeat' first
    | with_reducible assumption
    | (rw [State.mk_parts]; with_reducible apply Kept.parts)
    | ((with_reducible refine Eq.trans ?_ rfl); rfl)
    | split

theorem State.windowDone_kept {base s : State} (v : View) (a : Answer) (st : Option Staging) (hks : Kept base s) :
    Kept base (State.windowDone s v a st) := by
  delta State.windowDone
  repeat' with_reducible first | assumption | apply State.setWindow_kept

theorem State.serveWindow_kept {base s : State} (v : View) (op : Nat) (r : CatReq) (hks : Kept base s) :
    Kept base (State.serveWindow s v op r) := by
  delta State.serveWindow
  repeat' first
    | with_reducible first | assumption | apply State.catWrite_kept | apply State.windowDone_kept
    | (rw [State.mk_parts]; with_reducible apply Kept.parts)
    | ((with_reducible refine Eq.trans ?_ rfl); rfl)
    | with_reducible first | apply Kept.fst | refine Kept.ite ?_ ?_

theorem State.windowGo_kept {base s : State} (v : View) (op : Nat) (r : CatReq) (hks : Kept base s) :
    Kept base (State.windowGo s v op r) := by
  delta State.windowGo
  repeat' first
    | with_reducible first | assumption | apply State.setWindow_kept | apply State.serveWindow_kept
    | (rw [State.mk_parts]; with_reducible apply Kept.parts)
    | ((with_reducible refine Eq.trans ?_ rfl); rfl)
    | with_reducible refine Kept.ite ?_ ?_

theorem execCatRead_kept {base s : State} (v : View) (r : CatReq) (hks : Kept base s) : KeptN base (execCatRead v r s) := by
  delta execCatRead
  repeat' with_reducible first | assumption | apply State.windowGo_kept | apply KeptN.next

theorem execCatWrite_kept {base s : State} (v : View) (r : CatReq) (hks : Kept base s) : KeptN base (execCatWrite v r s) := by
  delta execCatWrite
  repeat' with_reducible first | assumption | apply State.windowGo_kept | apply KeptN.next

theorem execCatList_kept {base s : State} (v : View) (r : CatReq) (hks : Kept base s) : KeptN base (execCatList v r s) := by
  delta execCatList
  repeat' with_reducible first | assumption | apply State.windowGo_kept | apply KeptN.next

theorem execDeviceIdWrite_kept {base s : State} (value : BitVec 16) (hks : Kept base s) :
    KeptN base (execDeviceIdWrite value s) := by
  delta execDeviceIdWrite
  repeat' with_reducible first | assumption | apply State.rootRow_kept | apply State.deviceIdOp_kept | apply KeptN.next

theorem execKeyWrite_kept {base s : State} (slot : Nat) (bytes : List Byte) (hks : Kept base s) :
    KeptN base (execKeyWrite slot bytes s) := by
  delta execKeyWrite
  repeat' with_reducible first | assumption | apply State.rootRow_kept | apply State.keyOp_kept | apply KeptN.next

theorem execSessionCloseWrite_kept {base s : State} (slot : Nat) (value : Byte) (hks : Kept base s) :
    KeptN base (execSessionCloseWrite slot value s) := by
  delta execSessionCloseWrite
  repeat' with_reducible first
    | assumption | apply State.rootRow_kept | apply State.sessionCloseOp_kept | exact KeptE.error | apply KeptN.next
    | refine KeptE.ite ?_ ?_

end Sys2Proof.Machine
end

