-- ==== Sys2Proof/Laws/KeptCap.lean ====
section
/-! SUPPORT. What the operations of Machine/Cap.lean keep. -/
namespace Sys2Proof.Machine

theorem State.capRespond_kept {base s : State} (f : CapFrame) (key : List Byte) (op session keyId : Nat) (status : Word)
    (payload : List Byte) (hks : Kept base s) :
    Kept base (State.capRespond s f key op session keyId status payload) := by
  delta State.capRespond
  repeat' with_reducible first | assumption | apply State.emit_kept

theorem State.capDiscard_kept {base s : State} (hks : Kept base s) : Kept base (State.capDiscard s) := by
  delta State.capDiscard
  repeat' first
    | with_reducible assumption
    | (rw [State.mk_parts]; with_reducible apply Kept.parts)
    | ((with_reducible refine Eq.trans ?_ rfl); rfl)

theorem State.capBadTag_kept {base s : State} (hks : Kept base s) : Kept base (State.capBadTag s) := by
  delta State.capBadTag
  repeat' first
    | with_reducible assumption
    | (rw [State.mk_parts]; with_reducible apply Kept.parts)
    | ((with_reducible refine Eq.trans ?_ rfl); rfl)

theorem State.capOpen_kept {base s : State} (f : CapFrame) (k : KeySlot) (hks : Kept base s) :
    Kept base (State.capOpen s f k) := by
  delta State.capOpen
  repeat' first
    | (extract_lets +onlyGivenNames x; clear_value (e : x = _); first
        | refine Kept.cutFun (s0 := base) e (fun _ => ?_) (fun hx => ?_) | skip)
    | with_reducible first | apply State.draw_kept | apply State.capRespond_kept
    | (rw [State.mk_parts]; with_reducible apply Kept.parts)
    | with_reducible apply Kept.fst
    | split
    | apply_assumption

theorem State.capRun_kept {base s : State} (x : Session) (op : Nat) (p : List Byte) (hks : Kept base s) :
    KeptP base (State.capRun s x op p) := by
  delta State.capRun
  repeat' first
    | with_reducible assumption
    | (extract_lets +onlyGivenNames x; clear_value (e : x = _); first
        | refine Kept.cut (s0 := base) e ?_ (fun hx => ?_) | skip)
    | with_reducible apply State.catWrite_kept
    | (rw [State.mk_parts]; with_reducible apply Kept.parts)
    | (rw [State.pair_eq]; with_reducible apply KeptP.mk)
    | ((with_reducible refine Eq.trans ?_ rfl); rfl)
    | split
    | with_reducible refine Kept.of_pair ?_ (by with_reducible assumption)

theorem State.updSession_kept {base s : State} (slot : Nat) (g : Session → Session) (hks : Kept base s) :
    Kept base (State.updSession s slot g) := by
  delta State.updSession
  repeat' first
    | with_reducible assumption
    | (rw [State.mk_parts]; with_reducible apply Kept.parts)
    | ((with_reducible refine Eq.trans ?_ rfl); rfl)
    | split

theorem State.capExecute_kept {base s : State} (slot op : Nat) (f : CapFrame) (hks : Kept base s) :
    Kept base (State.capExecute s slot op f) := by
  delta State.capExecute
  repeat' first
    | with_reducible first
      | assumption | apply State.endSession_kept | apply State.capRespond_kept | apply State.capRun_kept
      | apply State.updSession_kept | apply Kept.fst
    | split

theorem State.capRequest_kept {base s : State} (slot op : Nat) (x : Session) (f : CapFrame) (hks : Kept base s) :
    Kept base (State.capRequest s slot op x f) := by
  delta State.capRequest
  repeat' first
    | with_reducible assumption
    | (extract_lets +onlyGivenNames x; clear_value (e : x = _); first
        | refine Kept.cut (s0 := base) e ?_ (fun hx => ?_) | skip)
    | with_reducible first
      | apply State.capRespond_kept | apply State.capDiscard_kept | apply State.updSession_kept
      | apply State.capExecute_kept
    | (rw [State.mk_parts]; with_reducible apply Kept.parts)
    | ((with_reducible refine Eq.trans ?_ rfl); rfl)
    | split

theorem State.capFrame_kept {base s : State} (op : Nat) (f : CapFrame) (hks : Kept base s) :
    Kept base (State.capFrame s op f) := by
  delta State.capFrame
  repeat' first
    | with_reducible first
      | assumption | apply State.capDiscard_kept | apply State.capBadTag_kept | apply State.capOpen_kept
      | apply State.capRequest_kept
    | split

theorem State.capIn_kept {base s : State} (op : Nat) (f : CapFrame) (hks : Kept base s) : Kept base (State.capIn s op f) := by
  delta State.capIn
  repeat' first
    | with_reducible first | assumption | apply State.capFrame_kept
    | (rw [State.mk_parts]; with_reducible apply Kept.parts)
    | ((with_reducible refine Eq.trans ?_ rfl); rfl)
    | with_reducible refine Kept.ite ?_ ?_

theorem execCapOpen_kept {base s : State} (f : CapFrame) (hks : Kept base s) : KeptN base (execCapOpen f s) := by
  delta execCapOpen
  repeat' with_reducible first | assumption | apply State.capIn_kept | apply KeptN.next

theorem execCapClose_kept {base s : State} (f : CapFrame) (hks : Kept base s) : KeptN base (execCapClose f s) := by
  delta execCapClose
  repeat' with_reducible first | assumption | apply State.capIn_kept | apply KeptN.next

theorem execCapKeepalive_kept {base s : State} (f : CapFrame) (hks : Kept base s) : KeptN base (execCapKeepalive f s) := by
  delta execCapKeepalive
  repeat' with_reducible first | assumption | apply State.capIn_kept | apply KeptN.next

theorem execCapRead_kept {base s : State} (f : CapFrame) (hks : Kept base s) : KeptN base (execCapRead f s) := by
  delta execCapRead
  repeat' with_reducible first | assumption | apply State.capIn_kept | apply KeptN.next

theorem execCapWrite_kept {base s : State} (f : CapFrame) (hks : Kept base s) : KeptN base (execCapWrite f s) := by
  delta execCapWrite
  repeat' with_reducible first | assumption | apply State.capIn_kept | apply KeptN.next

theorem execCapList_kept {base s : State} (f : CapFrame) (hks : Kept base s) : KeptN base (execCapList f s) := by
  delta execCapList
  repeat' with_reducible first | assumption | apply State.capIn_kept | apply KeptN.next

theorem execCapUnknownOperation_kept {base s : State} (op : BitVec 7) (f : CapFrame) (hks : Kept base s) :
    KeptN base (execCapUnknownOperation op f s) := by
  delta execCapUnknownOperation
  repeat' with_reducible first | assumption | apply State.capIn_kept | apply KeptN.next | refine Kept.ite ?_ ?_

theorem execCapIdleTimeout_kept {base s : State} (slot : Nat) (hks : Kept base s) :
    KeptN base (execCapIdleTimeout slot s) := by
  delta execCapIdleTimeout
  repeat' with_reducible first | assumption | apply State.endSession_kept | apply KeptN.next

theorem execOpenFirstRequestTimeout_kept {base s : State} (slot : Nat) (hks : Kept base s) :
    KeptN base (execOpenFirstRequestTimeout slot s) := by
  delta execOpenFirstRequestTimeout
  repeat' first
    | with_reducible first | assumption | apply State.endSession_kept | apply KeptN.next
    | split

theorem State.serveRow_kept {base s : State} (i : Instr) (hks : Kept base s) : Kept base (State.serveRow s i) := by
  unfold State.serveRow
  repeat' first
    | with_reducible first
      | assumption | apply State.answered_kept | apply State.bindOp_kept | apply State.unbindOp_kept
      | apply State.layerCancelOp_kept | apply State.descriptorOp_kept | apply State.flowOpenOp_kept
      | apply State.flowCloseOp_kept | apply State.markReleaseOp_kept | apply State.enableOp_kept
      | apply State.disableOp_kept | apply State.retryOp_kept | apply State.skipOp_kept | apply State.abortOp_kept
      | apply State.deviceEnableOp_kept | apply State.deviceDisableOp_kept | apply State.reclaimOp_kept
      | apply State.createOp_kept | apply State.destroyOp_kept | apply State.resetOp_kept | apply State.regionsOp_kept
      | apply State.registerOp_kept | apply State.unregisterOp_kept | apply State.loadTable_kept | apply State.fenceOp_kept
      | apply State.unfenceOp_kept | apply State.traceEnableOp_kept | apply State.triggerNowOp_kept
      | apply State.gcSelectOp_kept | apply State.gcClearOp_kept | apply State.coreEventsOp_kept
      | apply State.debugLockOp_kept | apply State.eventFreezeOp_kept | apply State.deviceIdOp_kept | apply State.keyOp_kept
      | apply State.sessionCloseOp_kept | exact KeptE.error
    | split

theorem State.serveRequest_kept {base s : State} (x : RootRequest) (hks : Kept base s) :
    Kept base (State.serveRequest s x) := by
  cases x <;> unfold State.serveRequest
  repeat' with_reducible first
    | assumption | apply State.serveWindow_kept | apply State.capExecute_kept | apply State.capFrame_kept
    | apply State.serveRow_kept

theorem State.serveWaiting_kept {base s : State} (hks : Kept base s) : Kept base (State.serveWaiting s) := by
  delta State.serveWaiting
  repeat' first
    | with_reducible first | assumption | apply State.serveRequest_kept
    | (rw [State.mk_parts]; with_reducible apply Kept.parts)
    | ((with_reducible refine Eq.trans ?_ rfl); rfl)
    | with_reducible first | refine Kept.foldl ?_ (fun x a hx => ?_) | refine Kept.ite ?_ ?_

theorem execContextResetComplete_kept {base s : State} (hks : Kept base s) : KeptN base (execContextResetComplete s) := by
  delta execContextResetComplete
  repeat' with_reducible first | assumption | apply State.finishReset_kept | apply State.serveWaiting_kept | apply KeptN.next

theorem execDmiAccess_kept {base s : State} (address : Byte) (op : BitVec 2) (data : Word) (hks : Kept base s) :
    KeptN base (execDmiAccess address op data s) := by
  delta execDmiAccess
  repeat' with_reducible first | assumption | apply State.dmiOp_kept | apply State.serveWaiting_kept | apply KeptN.next

theorem execDebugLock_kept {base s : State} (value : Byte) (hks : Kept base s) : KeptN base (execDebugLock value s) := by
  delta execDebugLock
  repeat' with_reducible first
    | assumption | apply State.rootRow_kept | apply State.debugLockOp_kept | apply State.serveWaiting_kept
    | apply KeptN.next

theorem execHeartbeatTimeout_kept {base s : State} (half core : Nat) (hks : Kept base s) :
    KeptN base (execHeartbeatTimeout half core s) := by
  delta execHeartbeatTimeout
  repeat' with_reducible first
    | assumption | apply State.controlCoreFails_kept | apply State.serveWaiting_kept | apply KeptN.next
    | refine Kept.ite ?_ ?_

theorem execControlCoreMemoryError_kept {base s : State} (half core : Nat) (hks : Kept base s) :
    KeptN base (execControlCoreMemoryError half core s) := by
  delta execControlCoreMemoryError
  repeat' with_reducible first
    | assumption | apply State.controlCoreFails_kept | apply State.serveWaiting_kept | apply KeptN.next

theorem execMgmtIcmpv6_kept {base s : State} (f : MgmtFrame) (hks : Kept base s) : KeptN base (execMgmtIcmpv6 f s) := by
  delta execMgmtIcmpv6
  repeat' first
    | with_reducible first | assumption | apply State.emit_kept | apply State.capDiscard_kept | apply KeptN.next
    | split

end Sys2Proof.Machine
end

