-- ==== Sys2Proof/Laws/KeptBringup.lean ====
section
/-! SUPPORT. What the operations of Machine/Bringup.lean keep. -/
namespace Sys2Proof.Machine

theorem State.halt_kept {base s : State} (reason : Nat) (hks : Kept base s) : Kept base (State.halt s reason) := by
  delta State.halt
  repeat' first
    | with_reducible assumption
    | (extract_lets +onlyGivenNames x; clear_value (e : x = _); first
        | refine Kept.cut (s0 := base) e ?_ (fun hx => ?_)
        | refine KeptO.cut (s0 := base) e ?_ (fun hx => ?_)
        | refine KeptP.cut (s0 := base) e ?_ (fun hx => ?_)
        | refine KeptS.cut (s0 := base) e ?_ (fun hx => ?_)
        | refine KeptE.cut (s0 := base) e ?_ (fun hx => ?_)
        | refine Kept.cutStep (s0 := base) e (fun _ _ => ?_) (fun hx => ?_)
        | refine Kept.cutFun2 (s0 := base) e (fun _ _ _ => ?_) (fun hx => ?_)
        | refine Kept.cutFun3 (s0 := base) e (fun _ _ _ _ => ?_) (fun hx => ?_)
        | refine Kept.cutFunTwo (s0 := base) e (fun _ _ => ?_) (fun hx => ?_)
        | refine Kept.cutFun (s0 := base) e (fun _ => ?_) (fun hx => ?_)
        | skip)
    | (rw [State.mk_parts]; with_reducible apply Kept.parts)
    | (with_reducible refine Eq.trans ?_ rfl; first | rfl | (subst_vars; rfl))
    | with_reducible refine Kept.ite ?_ ?_
    | split

/-- A block reset keeps the queue, the fuse data and device memory, and DEBUG_LOCK is then what the fuse says. -/
theorem State.resetBlock_keeps (s : State) (straps : Straps) :
    (s.resetBlock straps).pending = s.pending ∧ (s.resetBlock straps).fuses = s.fuses
      ∧ (s.resetBlock straps).set.debugLock = s.fuses.debugLockFuse ∧ (s.canonical → (s.resetBlock straps).canonical) :=
  ⟨rfl, rfl, rfl, fun h => ⟨h.1, fun _ => rfl, fun _ => rfl⟩⟩

/-- BLOCK_RESET keeps the queue and the fuse data, leaves set what the fuse sets, and keeps the canonical memories. -/
theorem execBlockReset_keeps (straps : Straps) (s t : State) (h : execBlockReset straps s = .next t) :
    t.pending = s.pending ∧ t.fuses = s.fuses ∧ t.locked ∧ (s.canonical → t.canonical) := by
  have r := s.resetBlock_keeps straps
  have k : KeptN (s.resetBlock straps) (execBlockReset straps s) := by
    unfold execBlockReset
    dsimp only
    apply KeptN.next
    apply Kept.ite
    · exact State.halt_kept _ (Kept.refl _)
    · rw [State.mk_parts]
      exact Kept.parts (State.fuseMap_kept (Kept.refl _)) rfl rfl
  have q := k t h
  refine ⟨q.pending.trans r.1, q.fuses.trans r.2.1, ?_, fun c => q.canonical (r.2.2.2 c)⟩
  have l := q.lock
  rw [r.2.2.1] at l
  unfold State.locked
  rw [q.fuses, r.2.1]
  exact l

theorem execPwrOkLow_kept {base s : State} (half : Nat) (hks : Kept base s) : KeptN base (execPwrOkLow half s) := by
  delta execPwrOkLow
  repeat' first
    | with_reducible assumption
    | (rw [State.mk_parts]; with_reducible apply Kept.parts)
    | with_reducible apply KeptN.next
    | ((with_reducible refine Eq.trans ?_ rfl); rfl)

theorem State.serveLoad_kept {base s : State} (hks : Kept base s) : Kept base (State.serveLoad s) := by
  delta State.serveLoad
  repeat' first
    | with_reducible first | assumption | apply State.fwRefused_kept | apply State.fwTranslate_kept
    | (rw [State.mk_parts]; with_reducible apply Kept.parts)
    | ((with_reducible refine Eq.trans ?_ rfl); rfl)
    | with_reducible refine Kept.ite ?_ ?_

theorem State.fwLoadOp_kept {base s : State} (hks : Kept base s) : Kept base (State.fwLoadOp s) := by
  delta State.fwLoadOp
  repeat' first
    | with_reducible first | assumption | apply State.serveLoad_kept
    | (rw [State.mk_parts]; with_reducible apply Kept.parts)
    | ((with_reducible refine Eq.trans ?_ rfl); rfl)
    | with_reducible refine Kept.ite ?_ ?_

theorem execFwLoad_kept {base s : State} (hks : Kept base s) : KeptN base (execFwLoad s) := by
  delta execFwLoad
  repeat' with_reducible first | assumption | apply State.fwLoadOp_kept | apply KeptN.next

theorem State.fwRun_kept {base s : State} (l : List Byte) (hks : Kept base s) : Kept base (State.fwRun s l) := by
  delta State.fwRun
  repeat' first
    | with_reducible assumption
    | (rw [State.mk_parts]; with_reducible apply Kept.parts)
    | ((with_reducible refine Eq.trans ?_ rfl); rfl)

theorem execFwFetchDone_kept {base s : State} (ok : Bool) (image : List Byte) (hks : Kept base s) :
    KeptN base (execFwFetchDone ok image s) := by
  delta execFwFetchDone
  repeat' with_reducible first
    | assumption | apply State.fwRefused_kept | apply State.fwRun_kept | apply KeptN.next | refine Kept.ite ?_ ?_

theorem execFirmwareInitDone_kept {base s : State} (hks : Kept base s) : KeptN base (execFirmwareInitDone s) := by
  delta execFirmwareInitDone
  repeat' first
    | with_reducible first | assumption | apply State.updEngine_kept
    | (rw [State.mk_parts]; with_reducible apply Kept.parts)
    | with_reducible apply KeptN.next
    | ((with_reducible refine Eq.trans ?_ rfl); rfl)
    | with_reducible refine Kept.ite ?_ ?_

theorem State.bringupGoes_kept {base s : State} (hks : Kept base s) : Kept base (State.bringupGoes s) := by
  delta State.bringupGoes
  repeat' first
    | with_reducible first | assumption | apply State.serveLoad_kept
    | (rw [State.mk_parts]; with_reducible apply Kept.parts)
    | ((with_reducible refine Eq.trans ?_ rfl); rfl)
    | with_reducible refine Kept.ite ?_ ?_

theorem execMeridianTrainingDone_kept {base s : State} (failed0 failed1 : List Nat) (hks : Kept base s) :
    KeptN base (execMeridianTrainingDone failed0 failed1 s) := by
  delta execMeridianTrainingDone
  repeat' first
    | with_reducible first
      | assumption | apply State.meridianLaneFails_kept | apply State.halt_kept | apply State.bringupGoes_kept
    | (rw [State.mk_parts]; with_reducible apply Kept.parts)
    | with_reducible apply KeptN.next
    | ((with_reducible refine Eq.trans ?_ rfl); rfl)
    | with_reducible first | refine Kept.foldl ?_ (fun x a hx => ?_) | refine Kept.ite ?_ ?_

theorem execHealthTestsPass_kept {base s : State} (hks : Kept base s) : KeptN base (execHealthTestsPass s) := by
  delta execHealthTestsPass
  repeat' first
    | with_reducible first | assumption | apply State.draw_kept | apply State.serveWaiting_kept | apply State.bringupGoes_kept
    | (rw [State.mk_parts]; with_reducible apply Kept.parts)
    | with_reducible apply KeptN.next
    | ((with_reducible refine Eq.trans ?_ rfl); rfl)
    | split
    | with_reducible refine Kept.of_pair ?_ (by with_reducible assumption)

theorem execHealthTestFail_kept {base s : State} (hks : Kept base s) : KeptN base (execHealthTestFail s) := by
  delta execHealthTestFail
  repeat' first
    | with_reducible assumption
    | (rw [State.mk_parts]; with_reducible apply Kept.parts)
    | with_reducible apply KeptN.next
    | ((with_reducible refine Eq.trans ?_ rfl); rfl)

theorem State.allAsk_kept {base s : State} (hks : Kept base s) : Kept base (State.allAsk s) := by
  delta State.allAsk
  repeat' with_reducible first | assumption | apply State.updSector_kept | refine Kept.foldl ?_ (fun x a hx => ?_)

theorem State.controlFinding_kept {base s : State} (half core : Nat) (hks : Kept base s) :
    Kept base (State.controlFinding s half core) := by
  delta State.controlFinding
  repeat' first
    | with_reducible first | assumption | apply State.addEntry_kept
    | (rw [State.mk_parts]; with_reducible apply Kept.parts)
    | ((with_reducible refine Eq.trans ?_ rfl); rfl)
    | with_reducible refine Kept.ite ?_ ?_

theorem execSelfTestDone_kept {base s : State} (found : SelfTest) (hks : Kept base s) :
    KeptN base (execSelfTestDone found s) := by
  delta execSelfTestDone
  repeat' first
    | with_reducible first
      | assumption | apply State.updComp_kept | apply State.blockFlag_kept | apply State.applyFindings_kept
      | apply State.halt_kept | apply State.bringupGoes_kept | apply State.allAsk_kept | apply State.controlFinding_kept
    | (rw [State.mk_parts]; with_reducible apply Kept.parts)
    | with_reducible apply KeptN.next
    | ((with_reducible refine Eq.trans ?_ rfl); rfl)
    | with_reducible first | refine Kept.foldl ?_ (fun x a hx => ?_) | refine Kept.ite ?_ ?_

theorem execClockFault_kept {base s : State} (clock : ClockId) (hks : Kept base s) : KeptN base (execClockFault clock s) := by
  delta execClockFault
  repeat' first
    | with_reducible first | assumption | apply State.failPort_kept
    | (rw [State.mk_parts]; with_reducible apply Kept.parts)
    | with_reducible apply KeptN.next
    | ((with_reducible refine Eq.trans ?_ rfl); rfl)
    | split

end Sys2Proof.Machine
end

