-- ==== Sys2Proof/Laws/KeptCoreMemory.lean ====
section
/-! SUPPORT. What the operations of Machine/CoreMemory.lean keep. -/
namespace Sys2Proof.Machine

theorem execLds_kept {base s : State} (core : Nat) (f : Fields) (ecc : Ecc) (hks : Kept base s) :
    KeptN base (execLds core f ecc s) := by
  delta execLds
  repeat' with_reducible first | assumption | apply State.issue_kept | apply KeptN.next

theorem execSts_kept {base s : State} (core : Nat) (f : Fields) (ecc : Ecc) (hks : Kept base s) :
    KeptN base (execSts core f ecc s) := by
  delta execSts
  repeat' with_reducible first | assumption | apply State.issue_kept | apply KeptN.next

theorem execVld_kept {base s : State} (core : Nat) (f : Fields) (ecc : Ecc) (hks : Kept base s) :
    KeptN base (execVld core f ecc s) := by
  delta execVld
  repeat' with_reducible first | assumption | apply State.issue_kept | apply KeptN.next

theorem execVst_kept {base s : State} (core : Nat) (f : Fields) (hks : Kept base s) : KeptN base (execVst core f s) := by
  delta execVst
  repeat' with_reducible first | assumption | apply State.issue_kept | apply KeptN.next

theorem execXld_kept {base s : State} (core : Nat) (f : CodedFields) (hks : Kept base s) : KeptN base (execXld core f s) := by
  delta execXld
  repeat' with_reducible first | assumption | apply State.issue_kept | apply KeptN.next

theorem execXst_kept {base s : State} (core : Nat) (f : CodedFields) (hks : Kept base s) : KeptN base (execXst core f s) := by
  delta execXst
  repeat' with_reducible first | assumption | apply State.issue_kept | apply KeptN.next

theorem execXmv_kept {base s : State} (core : Nat) (f : CodedFields) (hks : Kept base s) : KeptN base (execXmv core f s) := by
  delta execXmv
  repeat' with_reducible first | assumption | apply State.issue_kept | apply KeptN.next

theorem execTdigest_kept {base s : State} (core : Nat) (f : Fields) (hks : Kept base s) :
    KeptN base (execTdigest core f s) := by
  delta execTdigest
  repeat' with_reducible first | assumption | apply State.issue_kept | apply KeptN.next

theorem execMload_kept {base s : State} (core : Nat) (f : CodedFields) (hks : Kept base s) :
    KeptN base (execMload core f s) := by
  delta execMload
  repeat' with_reducible first | assumption | apply State.issue_kept | apply KeptN.next

theorem execMswap_kept {base s : State} (core : Nat) (f : Fields) (hks : Kept base s) : KeptN base (execMswap core f s) := by
  delta execMswap
  repeat' with_reducible first | assumption | apply State.issue_kept | apply KeptN.next

theorem execMstream_kept {base s : State} (core : Nat) (f : CodedFields) (hks : Kept base s) :
    KeptN base (execMstream core f s) := by
  delta execMstream
  repeat' with_reducible first | assumption | apply State.issue_kept | apply KeptN.next

end Sys2Proof.Machine
end

