-- ==== Sys2Proof/Laws/KeptCoreScalar.lean ====
section
/-! SUPPORT. What the operations of Machine/CoreScalar.lean keep. -/
namespace Sys2Proof.Machine

theorem execAdd_kept {base s : State} (core : Nat) (f : Fields) (hks : Kept base s) : KeptN base (execAdd core f s) := by
  delta execAdd
  repeat' with_reducible first | assumption | apply State.issue_kept | apply KeptN.next

theorem execSub_kept {base s : State} (core : Nat) (f : Fields) (hks : Kept base s) : KeptN base (execSub core f s) := by
  delta execSub
  repeat' with_reducible first | assumption | apply State.issue_kept | apply KeptN.next

theorem execAnd_kept {base s : State} (core : Nat) (f : Fields) (hks : Kept base s) : KeptN base (execAnd core f s) := by
  delta execAnd
  repeat' with_reducible first | assumption | apply State.issue_kept | apply KeptN.next

theorem execOr_kept {base s : State} (core : Nat) (f : Fields) (hks : Kept base s) : KeptN base (execOr core f s) := by
  delta execOr
  repeat' with_reducible first | assumption | apply State.issue_kept | apply KeptN.next

theorem execXor_kept {base s : State} (core : Nat) (f : Fields) (hks : Kept base s) : KeptN base (execXor core f s) := by
  delta execXor
  repeat' with_reducible first | assumption | apply State.issue_kept | apply KeptN.next

theorem execSll_kept {base s : State} (core : Nat) (f : Fields) (hks : Kept base s) : KeptN base (execSll core f s) := by
  delta execSll
  repeat' with_reducible first | assumption | apply State.issue_kept | apply KeptN.next

theorem execSrl_kept {base s : State} (core : Nat) (f : Fields) (hks : Kept base s) : KeptN base (execSrl core f s) := by
  delta execSrl
  repeat' with_reducible first | assumption | apply State.issue_kept | apply KeptN.next

theorem execSra_kept {base s : State} (core : Nat) (f : Fields) (hks : Kept base s) : KeptN base (execSra core f s) := by
  delta execSra
  repeat' with_reducible first | assumption | apply State.issue_kept | apply KeptN.next

theorem execMul_kept {base s : State} (core : Nat) (f : Fields) (hks : Kept base s) : KeptN base (execMul core f s) := by
  delta execMul
  repeat' with_reducible first | assumption | apply State.issue_kept | apply KeptN.next

theorem execMulhu_kept {base s : State} (core : Nat) (f : Fields) (hks : Kept base s) : KeptN base (execMulhu core f s) := by
  delta execMulhu
  repeat' with_reducible first | assumption | apply State.issue_kept | apply KeptN.next

theorem execMin_kept {base s : State} (core : Nat) (f : Fields) (hks : Kept base s) : KeptN base (execMin core f s) := by
  delta execMin
  repeat' with_reducible first | assumption | apply State.issue_kept | apply KeptN.next

theorem execMax_kept {base s : State} (core : Nat) (f : Fields) (hks : Kept base s) : KeptN base (execMax core f s) := by
  delta execMax
  repeat' with_reducible first | assumption | apply State.issue_kept | apply KeptN.next

theorem execSlt_kept {base s : State} (core : Nat) (f : Fields) (hks : Kept base s) : KeptN base (execSlt core f s) := by
  delta execSlt
  repeat' with_reducible first | assumption | apply State.issue_kept | apply KeptN.next

theorem execSltu_kept {base s : State} (core : Nat) (f : Fields) (hks : Kept base s) : KeptN base (execSltu core f s) := by
  delta execSltu
  repeat' with_reducible first | assumption | apply State.issue_kept | apply KeptN.next

theorem execNop_kept {base s : State} (core : Nat) (fetch : Fetched) (hks : Kept base s) :
    KeptN base (execNop core fetch s) := by
  delta execNop
  repeat' with_reducible first | assumption | apply State.issueWord_kept | apply KeptN.next

theorem execBeq_kept {base s : State} (core : Nat) (f : Fields) (hks : Kept base s) : KeptN base (execBeq core f s) := by
  delta execBeq
  repeat' with_reducible first | assumption | apply State.issue_kept | apply KeptN.next

theorem execBne_kept {base s : State} (core : Nat) (f : Fields) (hks : Kept base s) : KeptN base (execBne core f s) := by
  delta execBne
  repeat' with_reducible first | assumption | apply State.issue_kept | apply KeptN.next

theorem execBlt_kept {base s : State} (core : Nat) (f : Fields) (hks : Kept base s) : KeptN base (execBlt core f s) := by
  delta execBlt
  repeat' with_reducible first | assumption | apply State.issue_kept | apply KeptN.next

theorem execBge_kept {base s : State} (core : Nat) (f : Fields) (hks : Kept base s) : KeptN base (execBge core f s) := by
  delta execBge
  repeat' with_reducible first | assumption | apply State.issue_kept | apply KeptN.next

theorem execBltu_kept {base s : State} (core : Nat) (f : Fields) (hks : Kept base s) : KeptN base (execBltu core f s) := by
  delta execBltu
  repeat' with_reducible first | assumption | apply State.issue_kept | apply KeptN.next

theorem execBgeu_kept {base s : State} (core : Nat) (f : Fields) (hks : Kept base s) : KeptN base (execBgeu core f s) := by
  delta execBgeu
  repeat' with_reducible first | assumption | apply State.issue_kept | apply KeptN.next

theorem execJal_kept {base s : State} (core : Nat) (f : Fields) (hks : Kept base s) : KeptN base (execJal core f s) := by
  delta execJal
  repeat' with_reducible first | assumption | apply State.issue_kept | apply KeptN.next

theorem execJalr_kept {base s : State} (core : Nat) (f : Fields) (hks : Kept base s) : KeptN base (execJalr core f s) := by
  delta execJalr
  repeat' with_reducible first | assumption | apply State.issue_kept | apply KeptN.next

theorem execCrr_kept {base s : State} (core : Nat) (f : Fields) (hks : Kept base s) : KeptN base (execCrr core f s) := by
  delta execCrr
  repeat' with_reducible first | assumption | apply State.issue_kept | apply KeptN.next

theorem execCrw_kept {base s : State} (core : Nat) (f : Fields) (hks : Kept base s) : KeptN base (execCrw core f s) := by
  delta execCrw
  repeat' with_reducible first | assumption | apply State.issue_kept | apply KeptN.next

theorem execCntrd_kept {base s : State} (core : Nat) (f : Fields) (hks : Kept base s) : KeptN base (execCntrd core f s) := by
  delta execCntrd
  repeat' with_reducible first | assumption | apply State.issue_kept | apply KeptN.next

theorem execTrap_kept {base s : State} (core : Nat) (f : Fields) (hks : Kept base s) : KeptN base (execTrap core f s) := by
  delta execTrap
  repeat' with_reducible first | assumption | apply State.issue_kept | apply KeptN.next

end Sys2Proof.Machine
end

