-- ==== Sys2Proof/Laws/KeptCoreSync.lean ====
section
/-! SUPPORT. What the operations of Machine/CoreSync.lean keep. -/
namespace Sys2Proof.Machine

theorem execQbar_kept {base s : State} (core : Nat) (f : Fields) (hks : Kept base s) : KeptN base (execQbar core f s) := by
  delta execQbar
  repeat' with_reducible first | assumption | apply State.issue_kept | apply KeptN.next

theorem execFence_kept {base s : State} (core : Nat) (f : Fields) (hks : Kept base s) : KeptN base (execFence core f s) := by
  delta execFence
  repeat' with_reducible first | assumption | apply State.issue_kept | apply KeptN.next

theorem execXwait_kept {base s : State} (core : Nat) (f : Fields) (hks : Kept base s) : KeptN base (execXwait core f s) := by
  delta execXwait
  repeat' with_reducible first | assumption | apply State.issue_kept | apply KeptN.next

theorem execSignal_kept {base s : State} (core : Nat) (f : Fields) (hks : Kept base s) :
    KeptN base (execSignal core f s) := by
  delta execSignal
  repeat' with_reducible first | assumption | apply State.issue_kept | apply KeptN.next

theorem execTake_kept {base s : State} (core : Nat) (f : Fields) (hks : Kept base s) : KeptN base (execTake core f s) := by
  delta execTake
  repeat' with_reducible first | assumption | apply State.issue_kept | apply KeptN.next

theorem execWaitge_kept {base s : State} (core : Nat) (f : Fields) (hks : Kept base s) :
    KeptN base (execWaitge core f s) := by
  delta execWaitge
  repeat' with_reducible first | assumption | apply State.issue_kept | apply KeptN.next

theorem execSemrd_kept {base s : State} (core : Nat) (f : Fields) (hks : Kept base s) : KeptN base (execSemrd core f s) := by
  delta execSemrd
  repeat' with_reducible first | assumption | apply State.issue_kept | apply KeptN.next

theorem execSeminit_kept {base s : State} (core : Nat) (f : Fields) (hks : Kept base s) :
    KeptN base (execSeminit core f s) := by
  delta execSeminit
  repeat' with_reducible first | assumption | apply State.issue_kept | apply KeptN.next

theorem execMark_kept {base s : State} (core : Nat) (f : Fields) (hks : Kept base s) : KeptN base (execMark core f s) := by
  delta execMark
  repeat' with_reducible first | assumption | apply State.issue_kept | apply KeptN.next

theorem execGetwork_kept {base s : State} (core : Nat) (f : Fields) (hks : Kept base s) :
    KeptN base (execGetwork core f s) := by
  delta execGetwork
  repeat' with_reducible first | assumption | apply State.issue_kept | apply KeptN.next

theorem execEndwork_kept {base s : State} (core : Nat) (f : Fields) (hks : Kept base s) :
    KeptN base (execEndwork core f s) := by
  delta execEndwork
  repeat' with_reducible first | assumption | apply State.issue_kept | apply KeptN.next

end Sys2Proof.Machine
end

