-- ==== Sys2Proof/Laws/KeptCoreVector.lean ====
section
/-! SUPPORT. What the operations of Machine/CoreVector.lean keep. -/
namespace Sys2Proof.Machine

theorem execVadd_kept {base s : State} (core : Nat) (f : Fields) (hks : Kept base s) : KeptN base (execVadd core f s) := by
  delta execVadd
  repeat' with_reducible first | assumption | apply State.issue_kept | apply KeptN.next

theorem execVsub_kept {base s : State} (core : Nat) (f : Fields) (hks : Kept base s) : KeptN base (execVsub core f s) := by
  delta execVsub
  repeat' with_reducible first | assumption | apply State.issue_kept | apply KeptN.next

theorem execVmul_kept {base s : State} (core : Nat) (f : Fields) (hks : Kept base s) : KeptN base (execVmul core f s) := by
  delta execVmul
  repeat' with_reducible first | assumption | apply State.issue_kept | apply KeptN.next

theorem execVfma_kept {base s : State} (core : Nat) (f : Fields) (hks : Kept base s) : KeptN base (execVfma core f s) := by
  delta execVfma
  repeat' with_reducible first | assumption | apply State.issue_kept | apply KeptN.next

theorem execVmin_kept {base s : State} (core : Nat) (f : Fields) (hks : Kept base s) : KeptN base (execVmin core f s) := by
  delta execVmin
  repeat' with_reducible first | assumption | apply State.issue_kept | apply KeptN.next

theorem execVmax_kept {base s : State} (core : Nat) (f : Fields) (hks : Kept base s) : KeptN base (execVmax core f s) := by
  delta execVmax
  repeat' with_reducible first | assumption | apply State.issue_kept | apply KeptN.next

theorem execVand_kept {base s : State} (core : Nat) (f : Fields) (hks : Kept base s) : KeptN base (execVand core f s) := by
  delta execVand
  repeat' with_reducible first | assumption | apply State.issue_kept | apply KeptN.next

theorem execVor_kept {base s : State} (core : Nat) (f : Fields) (hks : Kept base s) : KeptN base (execVor core f s) := by
  delta execVor
  repeat' with_reducible first | assumption | apply State.issue_kept | apply KeptN.next

theorem execVxor_kept {base s : State} (core : Nat) (f : Fields) (hks : Kept base s) : KeptN base (execVxor core f s) := by
  delta execVxor
  repeat' with_reducible first | assumption | apply State.issue_kept | apply KeptN.next

theorem execVcmp_kept {base s : State} (core : Nat) (f : Fields) (hks : Kept base s) : KeptN base (execVcmp core f s) := by
  delta execVcmp
  repeat' with_reducible first | assumption | apply State.issue_kept | apply KeptN.next

theorem execVsel_kept {base s : State} (core : Nat) (f : Fields) (hks : Kept base s) : KeptN base (execVsel core f s) := by
  delta execVsel
  repeat' with_reducible first | assumption | apply State.issue_kept | apply KeptN.next

theorem execVbcast_kept {base s : State} (core : Nat) (f : Fields) (hks : Kept base s) :
    KeptN base (execVbcast core f s) := by
  delta execVbcast
  repeat' with_reducible first | assumption | apply State.issue_kept | apply KeptN.next

theorem execVext_kept {base s : State} (core : Nat) (f : Fields) (hks : Kept base s) : KeptN base (execVext core f s) := by
  delta execVext
  repeat' with_reducible first | assumption | apply State.issue_kept | apply KeptN.next

theorem execVlane_kept {base s : State} (core : Nat) (f : Fields) (hks : Kept base s) : KeptN base (execVlane core f s) := by
  delta execVlane
  repeat' with_reducible first | assumption | apply State.issue_kept | apply KeptN.next

theorem execVred_kept {base s : State} (core : Nat) (f : Fields) (hks : Kept base s) : KeptN base (execVred core f s) := by
  delta execVred
  repeat' with_reducible first | assumption | apply State.issue_kept | apply KeptN.next

theorem execVexp2_kept {base s : State} (core : Nat) (f : Fields) (hks : Kept base s) : KeptN base (execVexp2 core f s) := by
  delta execVexp2
  repeat' with_reducible first | assumption | apply State.issue_kept | apply KeptN.next

theorem execVrcp_kept {base s : State} (core : Nat) (f : Fields) (hks : Kept base s) : KeptN base (execVrcp core f s) := by
  delta execVrcp
  repeat' with_reducible first | assumption | apply State.issue_kept | apply KeptN.next

theorem execVrsqrt_kept {base s : State} (core : Nat) (f : Fields) (hks : Kept base s) :
    KeptN base (execVrsqrt core f s) := by
  delta execVrsqrt
  repeat' with_reducible first | assumption | apply State.issue_kept | apply KeptN.next

theorem execVmaxrun_kept {base s : State} (core : Nat) (f : Fields) (hks : Kept base s) :
    KeptN base (execVmaxrun core f s) := by
  delta execVmaxrun
  repeat' with_reducible first | assumption | apply State.issue_kept | apply KeptN.next

theorem execVexpsub_kept {base s : State} (core : Nat) (f : Fields) (hks : Kept base s) :
    KeptN base (execVexpsub core f s) := by
  delta execVexpsub
  repeat' with_reducible first | assumption | apply State.issue_kept | apply KeptN.next

theorem execVrescale_kept {base s : State} (core : Nat) (f : Fields) (hks : Kept base s) :
    KeptN base (execVrescale core f s) := by
  delta execVrescale
  repeat' with_reducible first | assumption | apply State.issue_kept | apply KeptN.next

theorem execVdivsafe_kept {base s : State} (core : Nat) (f : Fields) (hks : Kept base s) :
    KeptN base (execVdivsafe core f s) := by
  delta execVdivsafe
  repeat' with_reducible first | assumption | apply State.issue_kept | apply KeptN.next

end Sys2Proof.Machine
end

