-- ==== Sys2Proof/Laws/KeptRegisters.lean ====
section
/-! SUPPORT. What the operations of Machine/Registers.lean keep. -/
namespace Sys2Proof.Machine

theorem State.windowWrite_kept {base s : State} (v : View) (o w : Nat) (hks : Kept base s) :
    Kept base (State.windowWrite s v o w) := by
  delta State.windowWrite
  repeat' with_reducible first | assumption | apply State.setWindow_kept | apply State.windowGo_kept | refine Kept.ite ?_ ?_

theorem State.bufferWrite_kept {base s : State} (v : View) (o : Nat) (bs : List Byte) (hks : Kept base s) :
    Kept base (State.bufferWrite s v o bs) := by
  delta State.bufferWrite
  repeat' with_reducible first | assumption | apply State.setWindow_kept | refine Kept.ite ?_ ?_

theorem State.privWrite_kept {base s : State} (o w : Nat) (hks : Kept base s) : Kept base (State.privWrite s o w) := by
  delta State.privWrite
  repeat' first
    | with_reducible first
      | assumption | apply State.dmiOp_kept | apply State.serveWaiting_kept | apply State.fwLoadOp_kept
      | apply State.windowWrite_kept
    | (rw [State.mk_parts]; with_reducible apply Kept.parts)
    | ((with_reducible refine Eq.trans ?_ rfl); rfl)
    | split

theorem State.ringWrite_kept {base s : State} (r o w : Nat) (hks : Kept base s) : Kept base (State.ringWrite s r o w) := by
  delta State.ringWrite
  repeat' first
    | with_reducible first
      | assumption | apply State.updRing_kept | apply State.doorbellOp_kept | apply State.maskWrite_kept
      | apply State.stepReply_kept
    | split

theorem State.pageWrite_kept {base s : State} (v : View) (o size w : Nat) (hks : Kept base s) :
    Kept base (State.pageWrite s v o size w) := by
  delta State.pageWrite
  repeat' first
    | with_reducible first
      | assumption | apply State.windowWrite_kept | apply State.bufferWrite_kept | apply State.privWrite_kept
      | apply State.ringWrite_kept
    | split

theorem execRegisterWrite_kept {base s : State} (page offset size : Nat) (value : BitVec 512) (hks : Kept base s) :
    KeptN base (execRegisterWrite page offset size value s) := by
  delta execRegisterWrite
  repeat' first
    | with_reducible first | assumption | apply State.pageWrite_kept | apply KeptN.next
    | split

end Sys2Proof.Machine
end

