-- ==== Sys2Proof/Laws/KeptIdle.lean ====
section
/-! SUPPORT. What the operations of Machine/Idle.lean keep. -/
namespace Sys2Proof.Machine

theorem State.resolveOnes_kept {base s : State} (due : Nat) (hks : Kept base s) : Kept base (State.resolveOnes s due) := by
  delta State.resolveOnes
  repeat' first
    | with_reducible assumption
    | ((with_reducible intro k hk); exact hk)
    | with_reducible first | apply State.updCore_kept | apply State.run_kept | refine Kept.foldl ?_ (fun x a hx => ?_)

theorem idle_kept {base s : State} (hks : Kept base s) : Kept base (idle s) := by
  delta idle
  repeat' first
    | with_reducible first | assumption | apply State.noteCandidates_kept | apply State.resolveOnes_kept
    | (rw [State.mk_parts]; with_reducible apply Kept.parts)
    | ((with_reducible refine Eq.trans ?_ rfl); rfl)
    | with_reducible refine Kept.ite ?_ ?_

end Sys2Proof.Machine
end

