-- ==== Sys2Proof/WellFormed.lean ====
section
/-! DEFINITION. Which commands are well formed: operands that name things the block has, in the ranges that the manual gives
their fields. A command that is not well formed cannot come from the block's surroundings; its meaning is still defined. -/
namespace Sys2Proof

/-- A core id (R16). -/
def isCore (c : Nat) : Bool := decide (c < 16384)
/-- A stand id (R17). -/
def isStand (t : Nat) : Bool := decide (t < 1024)
/-- A compartment id (R17). -/
def isComp (i : Nat) : Bool := decide (i < 64)
/-- A half (R3). -/
def isHalf (h : Nat) : Bool := decide (h < 2)
/-- A sector, four in each half (R28). -/
def isSector (k : Nat) : Bool := decide (k < 8)
/-- A context (R36). -/
def isCtx (c : Nat) : Bool := decide (c < 1024)
/-- A ring: the 8 host rings of each context, then the 32 device-side rings of each half (R77, R330). -/
def isRing (r : Nat) : Bool := decide (r < 8192 + 64)
/-- A node of either half (R111). -/
def isNode (n : Nat) : Bool := decide (n < 262144)
/-- A memory port (R22). -/
def isMemPort (p : Nat) : Bool := decide (p < 12)
/-- An exchange port (R22). -/
def isXport (p : Nat) : Bool := decide (p < 8)
/-- A flow (R380). -/
def isFlow (f : Nat) : Bool := decide (f < 16383)
/-- A table (R293). -/
def isTable (t : Nat) : Bool := decide (t < 16384)
/-- A routing layer of a half's engine (R311). -/
def isLayer (l : Nat) : Bool := decide (l < 256)
/-- A queue of a core (R217). -/
def isQueue (q : Nat) : Bool := decide (q < 4)
/-- A device address (R280). -/
def isDevice (a : Nat) : Bool := decide (a < 2 ^ 40)
/-- A physical lane of one direction of an exchange port (R429). -/
def isExchangeLane (dir lane : Nat) : Bool := decide (dir < 2 ∧ lane < 17)

def View.ok : View → Bool
  | .priv => true
  | .ctx c => isCtx c

/-- The straps have the widths of R495. -/
def Straps.ok (x : Straps) : Bool :=
  decide (x.build0 < 2 ∧ x.build1 < 2 ∧ x.meridianRev0 < 2 ∧ x.meridianRev1 < 2 ∧ x.mgmtMac < 2 ^ 48)
    && x.memCap.length == 12 && x.memCap.all (fun c => decide (c < 128))
    && x.xchSpeed.length == 8 && x.xchSpeed.all fun c => decide (c < 4)

/-- What self-test names exists: a physical position of 0 to 16, a control core of 0 to 4 (R18, R431). -/
def SelfTest.ok (x : SelfTest) : Bool :=
  x.cores.all (fun p => isStand p.1 && decide (p.2 < 17)) && x.rows.all (fun p => decide (p.1 < 49154))
    && x.control.all fun p => isHalf p.1 && decide (p.2 < 5)

def ClockId.ok : ClockId → Bool
  | .refClk h => isHalf h
  | .timeRef => true
  | .host => true
  | .mem p => isMemPort p
  | .xch p => isXport p
  | .mgmt => true

/-- An overflow edge block has room for 60 references (R100). -/
def OverflowBlock.ok (b : OverflowBlock) : Bool := decide (b.refs.length ≤ 60)

def SemId.ok : SemId → Bool
  | .core c slot => isCore c && decide (slot < 48)
  | .shared i => decide (i < 4096)

def SemSource.ok : SemSource → Bool
  | .core c => isCore c
  | .command r => isRing r
  | .remote f => isFlow f

/-- The header of a routing message (R321). -/
def RouteHdr.ok (h : RouteHdr) : Bool :=
  isHalf h.originHalf && isHalf h.destHalf && decide (h.hb < 2 ∧ h.generation < 4096 ∧ h.deadline < 2 ^ 64)

def Consumer.ok : Consumer → Bool
  | .core c => isCore c
  | .unit n => isNode n
  | .shape n => isNode n
  | .ringEngine r => isRing r
  | .partialWrite n => isNode n
  | .scrubber => true

/-- The flow of a routing message, none for one between the halves of this block. -/
def flowOk (f : Option Nat) : Bool := f.all isFlow

/-- A block of device memory with its check bytes (R283). -/
def blockOk (port address : Nat) (bytes check : List Byte) : Bool :=
  isMemPort port && isDevice address && address / 2 ^ 36 == port && bytes.length == 64 && check.length == 8

/-- The operands of a command name things that the block has. -/
def Instr.WellFormed : Instr → Bool
  | .blockReset x => x.ok
  | .pwrOkLow h => isHalf h
  | .meridianTrainingDone f0 f1 => f0.all (fun l => decide (l < 136)) && f1.all fun l => decide (l < 136)
  | .healthTestsPass => true
  | .selfTestDone x => x.ok
  | .firmwareInitDone => true
  | .clockFault c => c.ok
  | .fwLoad => true
  | .fwFetchDone _ _ => true
  | .catRead v _ => v.ok
  | .catWrite v _ => v.ok
  | .catList v _ => v.ok
  | .capOpen f => f.tag.length == 32
  | .capClose f => f.tag.length == 32
  | .capKeepalive f => f.tag.length == 32
  | .capRead f => f.tag.length == 32
  | .capWrite f => f.tag.length == 32
  | .capList f => f.tag.length == 32
  | .capUnknownOperation op f => f.tag.length == 32 && !([0x01, 0x02, 0x03, 0x10, 0x11, 0x12] : List Nat).contains op.toNat
  | .capIdleTimeout slot => decide (slot < 8)
  | .openFirstRequestTimeout slot => decide (slot < 8)
  | .sessionCloseWrite slot _ => decide (slot < 8)
  | .mgmtIcmpv6 _ => true
  | .deviceIdWrite _ => true
  | .contextCreate _ => true
  | .contextDestroy _ => true
  | .contextReset _ => true
  | .contextResetComplete => true
  | .reclaim _ => true
  | .ringEnable r => isRing r
  | .ringDisable r => isRing r
  | .resumeRetry r => isRing r
  | .resumeSkip r => isRing r
  | .ringAbort r => isRing r
  | .doorbell r _ => decide (r < 8192)
  | .registerWrite p o size v =>
    decide (p < 2 ^ 11 ∧ o < 2 ^ 12) && ([1, 2, 4, 8, 16, 32, 64] : List Nat).contains size && decide (v.toNat < 2 ^ (8 * size))
  | .commandFetch r cmds _ => isRing r && decide (1 ≤ cmds.length ∧ cmds.length ≤ 16)
  | .overflowChainRead r blocks _ => isRing r && decide (blocks.length ≤ 16) && blocks.all OverflowBlock.ok
  | .refHoldTimeout r => isRing r
  | .ringStallResume h => isHalf h
  | .shapeSubstitution n _ => isNode n
  | .tick => true
  | .sectorSelect k => isSector k
  | .grantIssue k => isSector k
  | .grantWord c => isCore c
  | .kernelLoad c _ => isCore c
  | .parameterRead c _ => isCore c
  | .schedNotification h => isHalf h
  | .executorFinish n => isNode n
  | .quantumExpiry i => isComp i
  | .compartmentSwitch i => isComp i
  | .compartmentAssign i => isComp i
  | .recordRetire r => isRing r
  | .maxDelayExpiry r => decide (r < 8192)
  | .irqMaskWrite r _ => decide (r < 8192)
  | .completionRetryTimer c => isCtx c
  | .epochConsumedPoll c _ => isCtx c
  | .taskLimitExpiry n => isNode n
  | .nopCommand n => isNode n
  | .launchCommand n => isNode n
  | .copyCommand n _ _ => isNode n
  | .gatherCommand n _ => isNode n
  | .updateCommand n _ _ _ => isNode n
  | .epochCommand n => isNode n
  | .routeCommand n _ => isNode n
  | .signalCommand n => isNode n
  | .waitCommand n => isNode n
  | .fenceCommand n => isNode n
  | .markCommand n => isNode n
  | .hostStepCommand n => isNode n
  | .stepReply r _ => decide (r < 8192)
  | .add c _ => isCore c
  | .sub c _ => isCore c
  | .and c _ => isCore c
  | .or c _ => isCore c
  | .xor c _ => isCore c
  | .sll c _ => isCore c
  | .srl c _ => isCore c
  | .sra c _ => isCore c
  | .mul c _ => isCore c
  | .mulhu c _ => isCore c
  | .min c _ => isCore c
  | .max c _ => isCore c
  | .slt c _ => isCore c
  | .sltu c _ => isCore c
  | .nop c _ => isCore c
  | .beq c _ => isCore c
  | .bne c _ => isCore c
  | .blt c _ => isCore c
  | .bge c _ => isCore c
  | .bltu c _ => isCore c
  | .bgeu c _ => isCore c
  | .jal c _ => isCore c
  | .jalr c _ => isCore c
  | .crr c _ => isCore c
  | .crw c _ => isCore c
  | .cntrd c _ => isCore c
  | .trap c _ => isCore c
  | .vadd c _ => isCore c
  | .vsub c _ => isCore c
  | .vmul c _ => isCore c
  | .vfma c _ => isCore c
  | .vmin c _ => isCore c
  | .vmax c _ => isCore c
  | .vand c _ => isCore c
  | .vor c _ => isCore c
  | .vxor c _ => isCore c
  | .vcmp c _ => isCore c
  | .vsel c _ => isCore c
  | .vbcast c _ => isCore c
  | .vext c _ => isCore c
  | .vlane c _ => isCore c
  | .vred c _ => isCore c
  | .vexp2 c _ => isCore c
  | .vrcp c _ => isCore c
  | .vrsqrt c _ => isCore c
  | .vmaxrun c _ => isCore c
  | .vexpsub c _ => isCore c
  | .vrescale c _ => isCore c
  | .vdivsafe c _ => isCore c
  | .lds c _ _ => isCore c
  | .sts c _ _ => isCore c
  | .vld c _ _ => isCore c
  | .vst c _ => isCore c
  | .xld c _ => isCore c
  | .xst c _ => isCore c
  | .xmv c _ => isCore c
  | .transferDone c slot _ _ => isCore c && decide (slot < 16)
  | .tdigest c _ => isCore c
  | .mload c _ => isCore c
  | .loaderDone c => isCore c
  | .mswap c _ => isCore c
  | .mstream c _ => isCore c
  | .checksumMismatch x => isCore x.core
  | .mismatchReport h => isHalf h
  | .qbar c _ => isCore c
  | .fence c _ => isCore c
  | .xwait c _ => isCore c
  | .signal c _ => isCore c
  | .take c _ => isCore c
  | .waitge c _ => isCore c
  | .semrd c _ => isCore c
  | .seminit c _ => isCore c
  | .mark c _ => isCore c
  | .getwork c _ => isCore c
  | .endwork c _ => isCore c
  | .semaphoreCycle x arriving => x.sem.ok && arriving.all SemSource.ok
  | .semaphoreRelease c q => isCore c && isQueue q
  | .waitWatchdogFire c q => isCore c && isQueue q
  | .waitTimeout n => isNode n
  | .bind _ => true
  | .unbind _ => true
  | .remoteSignal f _ => isFlow f
  | .signalAck f _ => isFlow f
  | .flowOpen _ => true
  | .flowClose _ => true
  | .markRelease _ => true
  | .openRetryTimer f => isFlow f
  | .data p _ => isXport p
  | .ack p _ => isXport p
  | .nak p _ => isXport p
  | .openPacket p _ => isXport p
  | .openAck p _ => isXport p
  | .closePacket p _ => isXport p
  | .closed p _ => isXport p
  | .ackTimer f => isFlow f
  | .nakTimer f => isFlow f
  | .rtoExpiry f => isFlow f
  | .syncReq p _ => isXport p
  | .sync p _ => isXport p
  | .delayReq p _ => isXport p
  | .delayResp p _ => isXport p
  | .syncIntervalTimer => true
  | .ppsEdge _ _ => true
  | .macLinkChange p _ => isXport p
  | .macFault p => isXport p
  | .macLaneFail p dir lane => isXport p && isExchangeLane dir lane
  | .exchangeLaneTest p failed => isXport p && failed.all fun x => isExchangeLane x.1 x.2
  | .delivery f h _ _ entries => flowOk f && h.ok && entries.all fun e => decide (1 ≤ e.2)
  | .deliveryAllocate h => isHalf h
  | .tokens f h _ => flowOk f && h.ok
  | .answers f h _ => flowOk f && h.ok
  | .cancel f h => flowOk f && h.ok
  | .cancelAck f h => flowOk f && h.ok
  | .stepTimeoutExpiry n => isNode n
  | .layerCancel h l _ => isHalf h && isLayer l
  | .descriptorWrite h l _ => isHalf h && isLayer l
  | .biasWindowEnd h l => isHalf h && isLayer l
  | .deviceSideEnable h d => isHalf h && decide (d < 32)
  | .deviceSideDisable h d => isHalf h && decide (d < 32)
  | .regionsWrite c _ => isCtx c
  | .tableRegister _ => true
  | .tableUnregister _ => true
  | .tableRestoreDone t => isTable t
  | .epochDrainEnd t => isTable t
  | .rdata p a w bytes check _ => blockOk p a bytes check && w.ok
  | .partialWrite a bytes n b =>
    isDevice a && decide (1 ≤ bytes.length ∧ a % 64 + bytes.length ≤ 64 ∧ b.data.length = 64 ∧ b.check.length = 8) && isNode n
  | .wack x => isCore x.core && decide (x.slot < 16)
  | .scrub p a bytes check _ => blockOk p a bytes check
  | .laneRemapRsp p _ => isMemPort p
  | .coldFill t _ _ => isTable t
  | .xltRsp tag _ addr size _ _ => decide (tag < 512 ∧ addr < 2 ^ 64 ∧ 12 ≤ size ∧ size ≤ 30)
  | .pageRsp group result => decide (group < 256 ∧ result < 3)
  | .invReq itag _ _ iova size => decide (itag < 32 ∧ iova < 2 ^ 57 ∧ 12 ≤ size ∧ size ≤ 52)
  | .hostReadCompletion r _ _ _ => isRing r
  | .islandEvaluation t _ _ => isStand t
  | .fastDrop t _ => isStand t
  | .regulatorAck t => isStand t
  | .sensorFault t => isStand t
  | .retainEntry i => isComp i
  | .telemetryRefresh _ l => l.length == 64
  | .coreProbe c => isCore c
  | .probeTimeout c => isCore c
  | .fenceCore _ => true
  | .unfenceCore _ _ => true
  | .recallAck c => isCore c
  | .recallAckTimeout c => isCore c
  | .standDrained t => isStand t
  | .islandFault t => isStand t
  | .regulatorFault i => isComp i
  | .nodeLost n _ => isNode n
  | .unitFault mover u => mover || decide (u < 48)
  | .meridianLaneTest dir failed => decide (dir < 2) && failed.all fun l => decide (l < 136)
  | .heartbeatTimeout h k => isHalf h && decide (k < 5)
  | .repairLoad _ => true
  | .keyWrite slot _ => decide (slot < 8)
  | .debugLock _ => true
  | .dmiAccess _ _ _ => true
  | .halfDrained h => isHalf h
  | .traceEnable _ => true
  | .triggerNow _ => true
  | .windowEnd => true
  | .pcSampleTimer t => isStand t
  | .syncRecordTimer => true
  | .traceReadyChange _ => true
  | .gcSelect _ => true
  | .gcClear _ => true
  | .coreEvents c _ => isCtx c
  | .eventFreeze _ => true
  | .mstreamDone c => isCore c
  | .hartBreakpoint n => decide (n < 10)
  | .testPortAccess _ _ => true
  | .laneWordUncorrectable p dir lane => isXport p && isExchangeLane dir lane
  | .controlCoreMemoryError h k => isHalf h && decide (k < 5)
  | .healthTestFail => true

end Sys2Proof
end

