-- ==== Sys2Proof/Tests/Slice0.lean ====
section
/-! SUPPORT. Tests. Each theorem checks, at a concrete state that meets the hypotheses of statements of the same name in
Certificates/Slice0/Obligations.lean, what the rules of the manual give there. -/
section
-- One theorem is elaborated at a time: the kernel evaluates each test, and many at once would need many stacks.
set_option Elab.async false
namespace Sys2Proof.Tests
open Sys2Proof Sys2Proof.Machine

/-! ### Helpers -/

/-- The outcome is a next state with a property. -/
def nextIs (o : Host.Outcome State Fault Refusal) (p : State → Bool) : Bool :=
  match o with
  | .next t => p t
  | _ => false

/-- The outcome is the given next state. -/
def nextEq (o : Host.Outcome State Fault Refusal) (t : State) : Bool := nextIs o fun u => decide (u = t)

/-- Fields of a core instruction. -/
def fld (rd ra rb rc : Nat) (mod : Nat) (imm : Nat) : Fields :=
  ⟨BitVec.ofNat 5 rd, BitVec.ofNat 5 ra, BitVec.ofNat 5 rb, BitVec.ofNat 5 rc, BitVec.ofNat 4 mod, BitVec.ofNat 32 imm⟩

/-- A command of an opcode. -/
def cmdOf (op : Nat) (seq : Nat) : Cmd := { Cmd.blank with opcode := BitVec.ofNat 8 op, seq := BitVec.ofNat 64 seq }

/-- A node of ring 24, the first ring of context 3. -/
def nodeOf (op : Nat) (state : Nat) : Node :=
  { Node.fresh 24 3 7 (cmdOf op 7) with state := state, accepted := true }

/-- Context 3 exists, its first ring is enabled at sequence number 8, and its node 0 is the command before. -/
def withNode (d : Node) : State :=
  { State.reset with
    boot := { State.reset.boot with ready := true }
    ctxs := [(3, Context.reset)]
    rings := [(24, { Ring.reset with ctx := 3, enabled := true, fetch := 8, tail := 8, nextSeq := 7, completedThrough := 6 })]
    dv := { State.reset.dv with nodes := [(0, d)] } }

/-- A dispatched LAUNCH of 4 items. -/
def launch : Node := { nodeOf 1 4 with grid := 4, nextItem := 1, outstanding := 1 }

/-- A core that works item 0 of the LAUNCH at a PC, with scalar registers s1 to s4 given. -/
def coreAt (pc : Nat) (a b c d : Nat) : Core :=
  { Core.reset with
    pc := pc
    front := .decoding
    dispatchLoop := false
    kernel := some ⟨3, 9, 1024, 0, 2, 0, 0⟩
    grant := some ⟨0, 9, 0, 1, false, false, 0⟩
    items := [⟨0, 0, 0, 0, 0⟩]
    regs := ((((Core.reset.regs.set 1 (BitVec.ofNat 32 a)).set 2 (BitVec.ofNat 32 b)).set 3 (BitVec.ofNat 32 c)).set 4
      (BitVec.ofNat 32 d)) }

/-- Core 5 alone, working. -/
def working (k : Core) : State := { withNode launch with cores := [(5, k)] }

/-- Core 5 after a step, or its reset state. -/
def core5 (o : Host.Outcome State Fault Refusal) (p : Core → Bool) : Bool := nextIs o fun t => p (t.core 5)

/-! ### Cores: scalar, control flow and control -/

/-- R222 at a wrap, a sign and a shift count above 31; R216: s0 as a source and as a destination. -/
theorem test_ScalarAlu :
    (let s := working (coreAt 16 0xFFFFFFFF 2 0x80000000 33)
     let gives (i : Fields → Instr) (f : Fields) (v : Nat) : Bool := s.decodes 5 && fieldsOk 0x01 f &&
       core5 (exec (i f) s) fun k => k.s 7 == BitVec.ofNat 32 v && k.pc == 24 && k.inflight == []
     gives (.add 5) (fld 7 1 2 0 0 0) 1 && gives (.sub 5) (fld 7 0 2 0 0 0) 0xFFFFFFFE
       && gives (.and 5) (fld 7 1 2 0 0 0) 2 && gives (.or 5) (fld 7 3 2 0 0 0) 0x80000002
       && gives (.xor 5) (fld 7 1 2 0 0 0) 0xFFFFFFFD && gives (.sll 5) (fld 7 2 4 0 0 0) 4
       && gives (.srl 5) (fld 7 3 4 0 0 0) 0x40000000 && gives (.sra 5) (fld 7 3 4 0 0 0) 0xC0000000
       && gives (.mul 5) (fld 7 1 2 0 0 0) 0xFFFFFFFE && gives (.mulhu 5) (fld 7 1 2 0 0 0) 1
       && gives (.min 5) (fld 7 3 2 0 0 0) 0x80000000 && gives (.max 5) (fld 7 3 2 0 0 0) 2
       && gives (.slt 5) (fld 7 3 2 0 0 0) 1 && gives (.sltu 5) (fld 7 3 2 0 0 0) 0
       && gives (.add 5) (fld 7 1 0 0 8 3) 2
       && nextIs (exec (.add 5 (fld 0 1 2 0 0 0)) s) fun t => (t.core 5).regs == (s.core 5).regs) = true := by decide +kernel

/-- R223 with the PC at the end of what the image allows, and s1 = −1. -/
theorem test_FrontEnd_flow :
    (let s := working (coreAt 1016 0xFFFFFFFF 2 40 0)
     let goes (i : Instr) (pc : Nat) : Bool := s.decodes 5 && core5 (exec i s) fun k => k.pc == pc
     let f := fld 0 1 2 0 0 0xFFFFFFF8
     fieldsOk 0x10 f && goes (.beq 5 f) 1024 && goes (.bne 5 f) 1008 && goes (.blt 5 f) 1008 && goes (.bge 5 f) 1024
       && goes (.bltu 5 f) 1024 && goes (.bgeu 5 f) 1008
       && fieldsOk 0x16 (fld 7 0 0 0 0 8) && goes (.jal 5 (fld 7 0 0 0 0 8)) 1024
       && (core5 (exec (.jal 5 (fld 7 0 0 0 0 8)) s) fun k => k.s 7 == 1024)
       && fieldsOk 0x17 (fld 7 3 0 0 0 8) && goes (.jalr 5 (fld 7 3 0 0 0 8)) 48
       && goes (.nop 5 ⟨0, .clean⟩) 1024) = true := by decide +kernel

/-- R215, R216, R421, R433: the word of ADD s7, s1, s2 and of ADD s7, s1, 3, the fields by their bits, an opcode of no table, and the
code of the instruction memory. -/
theorem test_InstructionWords :
    (let s := working (coreAt 16 40 2 0 0)
     let w : BitVec 64 := 0x0138440000000000
     let far := fieldsOf 0x0FFFFFE800000001
     opOf w == 0x01 && fieldsOf w == fld 7 1 2 0 0 0 && nextEq (exec (.nop 5 ⟨w, .clean⟩) s) (s.ran 5 fun k => k.setS 7 42)
       && nextIs (exec (.nop 5 ⟨0x0138400800000003, .clean⟩) s) (fun t => (t.core 5).s 7 == 43)
       && far == fld 31 31 31 30 8 1 && !fieldsOk 0x0F far && !fieldsOk 0x0F (fld 0 0 0 0 0 0)
       && nextIs (exec (.nop 5 ⟨w, .corrected 1⟩) s) (fun t => t.flt.memoryCe == 1 && (t.core 5).s 7 == 42
         && t.flt.rowErrors == [(16384 + 5, 1, [0])])
       && nextIs (exec (.nop 5 ⟨w, .uncorrectable⟩) s) fun t => (t.core 5).exc == 9 && (t.core 5).grant == none) = true := by decide +kernel

/-- R224–R227: each control register, and the two halves of a counter. -/
theorem test_FrontEnd_control :
    (let k := { coreAt 16 0xE0000002 0 0 0 with
       timeHi := 9
       nanseen := true
       counters := Core.reset.counters.set 2 0x500000007 }
     let s := { working k with clock := { State.reset.clock with now := 0x300000004 } }
     let reads (n : Nat) (v : Nat) : Bool := s.decodes 5 && fieldsOk 0x18 (fld 7 0 0 0 0 n) &&
       core5 (exec (.crr 5 (fld 7 0 0 0 0 n)) s) fun k => k.s 7 == BitVec.ofNat 32 v
     let wrote (n : Nat) (p : Core → Bool) : Bool := fieldsOk 0x19 (fld 0 1 0 0 0 n) &&
       core5 (exec (.crw 5 (fld 0 1 0 0 0 n)) s) p
     reads 0 5 && reads 1 0 && reads 2 3 && reads 3 0 && reads 4 0x40000000 && reads 5 4 && reads 6 9
       && (core5 (exec (.crr 5 (fld 7 0 0 0 0 5)) s) fun k => k.timeHi == 3)
       && wrote 3 (fun k => !k.ftz && k.round == 2) && wrote 4 (fun k => !k.nanseen)
       && wrote 7 (fun k => k.items == [⟨0, 0xE0000002, 0, 0, 0⟩])
       && [0, 1, 2, 5, 6].all (fun n => wrote n fun j => j.regs == k.regs && j.timeHi == 9)
       && fieldsOk 0x1A (fld 7 0 0 0 0 2)
       && (core5 (exec (.cntrd 5 (fld 7 0 0 0 0 2)) s) fun k => k.s 7 == 7 && k.counterLatch[2] == 5)
       && fieldsOk 0x1A (fld 7 0 0 0 0 10)
       && core5 (exec (.cntrd 5 (fld 7 0 0 0 0 10)) s) fun k => k.s 7 == 0) = true := by decide +kernel

/-- R214, R216, R223, R248: the four causes, at the first PC past the image and at a misaligned target. -/
theorem test_CoreExceptions :
    (let s := working (coreAt 16 20 0 0 0)
     let past := working (coreAt 1024 0 0 0 0)
     let odd := working (coreAt 20 0 0 0 0)
     let stops (s : State) (i : Instr) (cause pc : Nat) : Bool := nextIs (exec i s) fun t =>
       (t.core 5).exc == BitVec.ofNat 8 cause && (t.core 5).excPc == pc && (t.core 5).grant == none
         && ((t.ring 24).fault.map (·.cause)) == some 0x44 && (t.ring 24).irqFault
     s.decodes 5 && isHostRing 24 && (s.ring 24).enabled && launch.result == none
       && fieldsOk 0x1B (fld 0 0 0 0 0 0) && stops s (.trap 5 (fld 0 0 0 0 0 0)) 7 16
       && !fieldsOk 0x01 (fld 7 1 2 3 0 0) && stops s (.add 5 (fld 7 1 2 3 0 0)) 1 16
       && !fieldsOk 0x10 (fld 1 1 2 0 0 0) && stops s (.beq 5 (fld 1 1 2 0 0 0)) 1 16
       && !fieldsOk 0x29 (fld 1 1 2 0 0 6) && stops s (.vcmp 5 (fld 1 1 2 0 0 6)) 1 16
       && !fieldsOk 0x68 (fld 1 1 2 0 0 0) && stops s (.mark 5 (fld 1 1 2 0 0 0)) 1 16
       && fieldsOk 0x17 (fld 7 1 0 0 0 0) && stops s (.jalr 5 (fld 7 1 0 0 0 0)) 2 20
       && stops past (.nop 5 ⟨0, .clean⟩) 2 1024 && stops odd (.nop 5 ⟨0, .clean⟩) 2 20
       && stops s (.nop 5 ⟨0x0F00000000000000, .clean⟩) 1 16 && stops s (.nop 5 ⟨0x0138441000000000, .clean⟩) 1 16) = true := by
  decide +kernel

/-! ### Cores: vectors -/

/-- Core 5 with v1 all x, v2 all y, v3 all z, and v4 all w. -/
def lanes (x y z w : Nat) : Core :=
  let v (n : Nat) : Vector Word 16 := Vector.replicate 16 (BitVec.ofNat 32 n)
  let k := coreAt 16 0x8000 10 0 0
  { k with vregs := (((k.vregs.set 1 (v x)).set 2 (v y)).set 3 (v z)).set 4 (v w) }

/-- Register v1 after a vector instruction is all `x`. -/
def gives5 (k : Core) (i : Instr) (rd x : Nat) : Bool :=
  (working k).decodes 5 && core5 (exec i (working k)) fun j => j.v (BitVec.ofNat 5 rd) == List.replicate 16 (BitVec.ofNat 32 x)

/-- R228, R231: bitwise instructions, VSEL, VBCAST, VEXT, VLANE, and the raw forms of VLD and VST. -/
theorem test_VectorMovesAndRawMemory :
    (let k := lanes 0xFF00FF00 0x0FF00FF0 0xFFFF0000 0x11
     let f := fld 7 1 2 0 0 0
     fieldsOk 0x26 f && gives5 k (.vand 5 f) 7 0x0F000F00 && gives5 k (.vor 5 f) 7 0xFFF0FFF0 && gives5 k (.vxor 5 f) 7 0xF0F0F0F0
       && fieldsOk 0x2A (fld 7 1 2 3 0 0) && gives5 k (.vsel 5 (fld 7 1 2 3 0 0)) 7 0xFF000FF0
       && fieldsOk 0x2B (fld 7 2 0 0 0 3) && gives5 k (.vbcast 5 (fld 7 2 0 0 0 3)) 7 13
       && fieldsOk 0x2C (fld 7 1 0 0 0 15) && (core5 (exec (.vext 5 (fld 7 1 0 0 0 15)) (working k)) fun j => j.s 7 == 0xFF00FF00)
       && fieldsOk 0x2D (fld 7 1 4 0 0 0) && gives5 k (.vlane 5 (fld 7 1 4 0 0 0)) 7 0xFF00FF00
       && fieldsOk 0x43 (fld 1 0 0 0 0 0x7FC0) && mapped 0x7FC0 64
       && (core5 (exec (.vst 5 (fld 1 0 0 0 0 0x7FC0)) (working k)) fun j =>
         Cells.bytes j.dmem 0x7FC0 4 == [0, 0xFF, 0, 0xFF] && Cells.wf j.dmem)
       && fieldsOk 0x42 (fld 7 0 0 0 0 0x7FC0)
       && nextIs (exec (.vst 5 (fld 1 0 0 0 0 0x7FC0)) (working k)) fun t =>
         nextIs (exec (.vld 5 (fld 7 0 0 0 0 0x7FC0) .clean) t) fun u => (u.core 5).v 7 == (u.core 5).v 1) = true := by
  decide +kernel

/-- R228 on I32 lanes: wraps, signs, conditions and reductions. -/
theorem test_VectorIntegers :
    (let k := lanes 0x80000000 0xFFFFFFFF 3 0
     let f := fld 7 1 2 0 1 0
     let c (n : Nat) : Fields := fld 7 1 2 0 1 n
     let r (n : Nat) : Fields := fld 7 2 0 0 1 n
     fieldsOk 0x20 f && gives5 k (.vadd 5 f) 7 0x7FFFFFFF && gives5 k (.vsub 5 f) 7 0x80000001 && gives5 k (.vmul 5 f) 7 0x80000000
       && fieldsOk 0x23 (fld 7 2 2 3 1 0) && gives5 k (.vfma 5 (fld 7 2 2 3 1 0)) 7 4
       && fieldsOk 0x24 f && gives5 k (.vmin 5 f) 7 0x80000000 && gives5 k (.vmax 5 f) 7 0xFFFFFFFF
       && fieldsOk 0x29 (c 5) && gives5 k (.vcmp 5 (c 0)) 7 0 && gives5 k (.vcmp 5 (c 1)) 7 0xFFFFFFFF
       && gives5 k (.vcmp 5 (c 2)) 7 0xFFFFFFFF && gives5 k (.vcmp 5 (c 3)) 7 0xFFFFFFFF && gives5 k (.vcmp 5 (c 4)) 7 0
       && gives5 k (.vcmp 5 (c 5)) 7 0
       && fieldsOk 0x2E (r 2) && gives5 k (.vred 5 (r 0)) 7 0xFFFFFFF0 && gives5 k (.vred 5 (r 1)) 7 0xFFFFFFFF
       && gives5 k (.vred 5 (r 2)) 7 0xFFFFFFFF) = true := by decide +kernel

/-- R208, R228: the special values of the F32 instructions. -/
theorem test_OnlineSoftmaxLanes :
    (let inf := 0x7F800000
     let ninf := 0xFF800000
     let nan := 0x7FC00000
     fieldsOk 0x2F (fld 7 1 0 0 0 0) && gives5 (lanes ninf 0 0 0) (.vexp2 5 (fld 7 1 0 0 0 0)) 7 0
       && fieldsOk 0x30 (fld 7 1 0 0 0 0) && gives5 (lanes 0 0 0 0) (.vrcp 5 (fld 7 1 0 0 0 0)) 7 inf
       && gives5 (lanes 0x80000000 0 0 0) (.vrcp 5 (fld 7 1 0 0 0 0)) 7 ninf
       && fieldsOk 0x31 (fld 7 1 0 0 0 0) && gives5 (lanes 0xBF800000 0 0 0) (.vrsqrt 5 (fld 7 1 0 0 0 0)) 7 nan
       && fieldsOk 0x33 (fld 7 1 2 0 0 0) && gives5 (lanes ninf 0x40000000 0 0) (.vexpsub 5 (fld 7 1 2 0 0 0)) 7 0
       && gives5 (lanes 0x40000000 0x40000000 0 0) (.vexpsub 5 (fld 7 1 2 0 0 0)) 7 0x3F800000
       && fieldsOk 0x35 (fld 7 1 2 0 0 0) && gives5 (lanes 0x40000000 0x80000000 0 0) (.vdivsafe 5 (fld 7 1 2 0 0 0)) 7 0
       && fieldsOk 0x34 (fld 3 1 2 0 0 0) && gives5 (lanes 0x40000000 0x3F800000 0x40400000 0) (.vrescale 5 (fld 3 1 2 0 0 0)) 3
         0x40E00000
       && fieldsOk 0x32 (fld 3 1 0 0 0 0)
       && core5 (exec (.vmaxrun 5 (fld 3 1 0 0 0 0)) (working (lanes nan 0 0x3F800000 0))) fun j =>
         j.nanseen && j.v 3 == List.replicate 16 0x3F800000) = true := by decide +kernel

/-! ### Cores: memory, transfers and the matrix slice -/

/-- R230 at the last word of the data memory and in the stand memory, signed and unsigned, and R248 past it and misaligned. -/
theorem test_LocalMemory :
    (let s := working (coreAt 16 0x7FFC 0x818283F4 0x17FFFE 0)
     let put (f : Fields) (a : Nat) (l : List Byte) : Bool := s.decodes 5 && fieldsOk 0x41 f && nextIs (exec (.sts 5 f .clean) s)
       fun t => t.readLocal 5 a l.length == l && Cells.wf (t.core 5).dmem && Cells.wf (t.stand 0).mem && t.readLocal 5 0x7FF8 4 == [0, 0, 0, 0]
         && (t.core 5).pc == 24 && nextIs (exec (.sts 5 f .clean) t) fun u => u.readLocal 5 a l.length == l
     let got (f : Fields) (v : Nat) : Bool := fieldsOk 0x40 f && nextIs (exec (.sts 5 (fld 0 1 2 0 2 0) .clean) s) fun t =>
       core5 (exec (.lds 5 f .clean) t) fun k => k.s 7 == BitVec.ofNat 32 v
     put (fld 0 1 2 0 2 0) 0x7FFC [0xF4, 0x83, 0x82, 0x81] && put (fld 0 1 2 0 0 3) 0x7FFF [0xF4]
       && put (fld 0 3 2 0 1 0) 0x17FFFE [0xF4, 0x83]
       && got (fld 7 1 0 0 2 0) 0x818283F4 && got (fld 7 1 0 0 1 0) 0x83F4 && got (fld 7 1 0 0 5 0) 0xFFFF83F4
       && got (fld 7 1 0 0 4 0) 0xFFFFFFF4 && mapped 0x7FFC 4) = true := by decide +kernel

/-- R230, R248: the first unmapped byte, and a misaligned word, by load and store. -/
theorem test_LocalAccessTraps :
    (let s := working (coreAt 16 0x8000 0 0 0)
     let stops (i : Instr) (cause : Nat) : Bool := core5 (exec i s) fun k =>
       k.exc == BitVec.ofNat 8 cause && k.excPc == 16 && k.grant == none && k.front == .waitingGrant
     fieldsOk 0x40 (fld 7 1 0 0 0 0) && !mapped 0x8000 1 && stops (.lds 5 (fld 7 1 0 0 0 0) .clean) 3
       && fieldsOk 0x41 (fld 0 1 2 0 0 0) && stops (.sts 5 (fld 0 1 2 0 0 0) .clean) 3
       && fieldsOk 0x40 (fld 7 0 0 0 2 6) && mapped 6 4 && stops (.lds 5 (fld 7 0 0 0 2 6) .clean) 4
       && fieldsOk 0x41 (fld 0 0 2 0 2 6) && stops (.sts 5 (fld 0 0 2 0 2 6) .clean) 4) = true := by decide +kernel

/-- A raw descriptor of one row of `cols` bytes, in data memory at 64 (R233). -/
def rawDesc (cols : Nat) : List Byte := u16 1 ++ u16 cols ++ u32 64 ++ u32 64 ++ List.replicate 20 0

/-- Core 5 with a raw descriptor of 16 bytes at 64, and context 3's region of 4 KiB at device address 0. -/
def moving : State :=
  let k := { coreAt 16 0 0 256 64 with dmem := Cells.store [] 64 (rawDesc 16) }
  let s := working k
  { s with mem := { s.mem with
    regions := [(3, [⟨0, 4096, 0, 7, 1⟩])]
    dev := Cells.store [] 0 ((List.range 16).map fun i => BitVec.ofNat 8 (i + 1)) } }

/-- R232, R233, R235: a slot at issue, and the bytes and slots when the transfer is done. -/
theorem test_Transfers :
    (let s := moving
     let f := fld 4 1 2 3 0 0
     let slot (t : State) (op : Nat) (acks : Nat) : Bool := match (t.core 5).slots with
       | [(0, x)] => x.op == BitVec.ofNat 8 op && x.acks == acks && x.tag == 0 && x.ctx == 3
       | _ => false
     let idle (t : State) : State := t.updCore 5 fun k => { k with front := .waitingGrant }
     s.decodes 5 && fieldsOk 0x44 f && inData 64 32 && !(Descriptor.ofBytes (s.readLocal 5 64 32)).bad
       && nextIs (exec (.xld 5 ⟨f, .clean⟩) s) (fun t => slot t 0x44 0 && nextIs (exec (.transferDone 5 0 false []) (idle t)) fun u =>
         u.readLocal 5 256 16 == s.dev 0 16 && (u.core 5).slots == [])
       && nextIs (exec (.xst 5 ⟨f, .clean⟩) s) (fun t => slot t 0x45 1
         && nextIs (exec (.transferDone 5 0 false []) (idle t)) (fun u => slot u 0x45 1) && nextIs (exec (.wack ⟨5, 0⟩) (idle t)) fun u =>
         slot u 0x45 0 && nextIs (exec (.transferDone 5 0 false []) u) fun v => (v.core 5).slots == [])
       && fieldsOk 0x46 (fld 4 4 0 3 0 0)
       && nextIs (exec (.xmv 5 ⟨fld 4 4 0 3 0 0, .clean⟩) s) (fun t => slot t 0x46 0
         && nextIs (exec (.transferDone 5 0 false []) (idle t)) fun u => u.readLocal 5 256 16 == s.readLocal 5 64 16)) = true := by
  decide +kernel

/-- R196, R197, R238 in B16: a stationary operand of ones, a row of four ones, and a row of eight sums of 4. -/
theorem test_MatrixSlice :
    (let one : List Byte := [0x80, 0x3F]
     let ones := (List.replicate 32 one).flatten
     let k0 := coreAt 16 1024 0x00200008 4096 0
     let s := working { k0 with dmem := Cells.store [] 1024 ones }
     let sums : List Byte := (List.replicate 8 (u32 0x40800000)).flatten
     let code : Nat := 3
     s.decodes 5 && fieldsOk 0x50 (fld 0 1 0 0 0 code) && (sliceBytes code).1 == 64
       && nextIs (exec (.mload 5 ⟨fld 0 1 0 0 0 code, .clean⟩) s) fun t => (t.core 5).loaderBusy && (t.core 5).shadow.isSome
         && nextIs (exec (.loaderDone 5) t) fun u => !(u.core 5).loaderBusy
         && nextIs (exec (.mswap 5 (fld 0 0 0 0 0 0)) u) fun v => (v.core 5).stationary == (u.core 5).shadow
         && ((u.core 5).shadow.all fun x => x.loadCheck && x.passCheck) && (v.core 5).onesUntil == 16 && v.decodes 5 && fieldsOk 0x52 (fld 0 1 2 3 0 1)
         && nextIs (exec (.mstream 5 ⟨fld 0 1 2 3 0 1, .clean⟩) v) fun w =>
           (w.core 5).lastRows.map (fun x => x.2) == [(4096, sums)] && (w.core 5).inflight.length == 1
         && nextIs (exec (.mstreamDone 5) w) fun x => x.readLocal 5 4096 32 == sums && (x.core 5).inflight == []) = true := by
  decide +kernel

/-! ### Cores: ordering, synchronisation, marking and work -/

/-- R235, R239–R241, R243, R349, R477: what is released at once, and the operations on shared semaphore 9 that leave. -/
theorem test_CoreSynchronisation :
    (let k := coreAt 16 0x80000240 16777215 0 0
     let s0 := working k
     let s := { s0 with fab := { s0.fab with shared := [(9, ⟨0, true, 3, [0, 0, 0]⟩)] } }
     let done (i : Instr) : Bool := core5 (exec i s) fun j => j.pc == 24 && j.inflight == [] && j.regs == k.regs
     let sends (i : Instr) (q : Nat) (op : SemOp) (wait : Bool) : Bool := nextIs (exec i s) fun t =>
       t.fab.msgs == [⟨.shared 9, .core 5, q, 0, none, 2, 3, 0, s.set.waitWatchdog, op⟩]
         && (t.core 5).inflight.map (fun j => (j.id, j.queue, j.started)) == (if wait then [(0, q, true)] else [])
     s.decodes 5 && s.boundTo 9 3 && amountOk 16777215
       && fieldsOk 0x61 (fld 0 0 0 0 0 0) && done (.fence 5 (fld 0 0 0 0 0 0))
       && fieldsOk 0x62 (fld 0 0 0 0 0 255) && done (.xwait 5 (fld 0 0 0 0 0 255))
       && fieldsOk 0x68 (fld 0 1 2 0 0 0) && done (.mark 5 (fld 0 1 2 0 0 0))
       && fieldsOk 0x60 (fld 0 0 0 0 0 0xFF) && (core5 (exec (.qbar 5 (fld 0 0 0 0 0 0xFF)) s) fun j => j.nextId == 4)
       && fieldsOk 0x63 (fld 0 1 2 0 0 0) && sends (.signal 5 (fld 0 1 2 0 0 0)) 3 (.signal 16777215) false
       && fieldsOk 0x64 (fld 7 1 2 0 3 0) && sends (.take 5 (fld 7 1 2 0 3 0)) 3 (.take 16777215) true
       && fieldsOk 0x65 (fld 7 1 2 0 0 0) && sends (.waitge 5 (fld 7 1 2 0 0 0)) 0 (.waitge 16777215) true
       && fieldsOk 0x66 (fld 7 1 0 0 0 0) && sends (.semrd 5 (fld 7 1 0 0 0 0)) 3 .read true
       && fieldsOk 0x67 (fld 0 1 2 0 1 0) && sends (.seminit 5 (fld 0 1 2 0 1 0)) 3 (.init 16777215 true) false) = true := by
  decide +kernel

/-- R135, R185, R204, R205, R242: GETWORK of 0 asks for GRANT_N items, ENDWORK goes to ENTRY; a failed check is reported, and the
third report within 1,000,000,000 ns fences its core. R201: a load, a pass and a row that fail. -/
theorem test_WorkAndChecks :
    (let s := working (coreAt 16 0 0 0 0)
     let asks (i : Instr) (n : Nat) (loop : Bool) : Bool := nextIs (exec i s) fun t => (t.core 5).grant == none
       && (t.core 5).askCount == n && (t.core 5).dispatchLoop == loop && (t.sector 0).waiting == [⟨5, n⟩]
     let op : Operand := ⟨3, [], [], [], []⟩
     let bad := working { coreAt 16 0 0 0 0 with stationary := some op }
     let odd : Operand := ⟨3, [], [], [], [.fin false 1 0]⟩
     let loading := working { coreAt 16 0 0 0 0 with shadow := some odd, loaderBusy := true }
     let swapping := working { coreAt 16 0 0 0 0 with shadow := some odd }
     let fails (i : Instr) (s : State) (drained : Bool) : Bool := nextIs (exec i s) fun t => t.flt.mismatchQueue == [(5, 0, 3)]
       && (t.core 5).grant == none && (t.core 5).front == (if drained then .waitingGrant else .draining)
     let told (r : List Nat) : State := { State.reset with
       clock := { State.reset.clock with now := 1000000001 }
       cores := [(5, { Core.reset with reports := r })]
       flt := { State.reset.flt with mismatchQueue := [(5, 1000000001, 3)] } }
     s.decodes 5 && fieldsOk 0x70 (fld 0 0 0 0 0 0) && asks (.getwork 5 (fld 0 0 0 0 0 0)) 2 false
       && fieldsOk 0x70 (fld 0 0 0 0 0 4) && asks (.getwork 5 (fld 0 0 0 0 0 4)) 4 false
       && fieldsOk 0x71 (fld 0 0 0 0 0 0) && asks (.endwork 5 (fld 0 0 0 0 0 0)) 2 true
       && fails (.checksumMismatch ⟨5, .pass⟩) bad true && fails (.checksumMismatch ⟨5, .row⟩) bad true
       && fails (.checksumMismatch ⟨5, .load⟩) loading false && !odd.loadCheck && fails (.loaderDone 5) loading true
       && !odd.passCheck && swapping.decodes 5 && fieldsOk 0x51 (fld 0 0 0 0 0 0) && fails (.mswap 5 (fld 0 0 0 0 0 0)) swapping false
       && nextIs (exec (.mismatchReport 0) (told [1, 7])) (fun t => !t.fenced 5 && t.flt.mismatches == 1
         && (t.core 5).reports == [7, 1000000001])
       && nextIs (exec (.mismatchReport 0) (told [2, 7])) fun t => t.fenced 5 && (t.core 5).reports == []) = true := by
  decide +kernel

/-! ### Bring-up and firmware -/

/-- Straps of a block whose two halves agree, with a capacity at every port. -/
def strapsOf (build1 rev1 cap0 : Nat) : Straps := { State.reset.straps with build1 := build1, meridianRev1 := rev1, memCap := cap0 :: List.replicate 11 64 }

/-- R495, R521, R522: equal straps let bring-up go to self-test, unequal ones and a base stack without capacity halt it. -/
theorem test_BlockResetLeaves :
    (let s0 := { withNode launch with mem := { Memory.reset with dev := [(5, 7)] } }
     let s := { s0 with fuses := { s0.fuses with debugLockFuse := 0x05 } }
     let after (x : Straps) (p : State → Bool) : Bool := nextIs (exec (.blockReset x) s) fun t => t.straps == x && t.mem.dev == [(5, 7)]
       && t.rings == [] && t.ctxs == [] && t.dv.nodes == [] && t.set.debugLock == 0x05 && !t.boot.ready && p t
     after (strapsOf 0 0 1) (fun t => t.boot.stage == 2 && t.boot.haltReason == 0)
       && after (strapsOf 0 0 64) (fun t => t.boot.stage == 2 && (t.stand 3).sparePos == 16 && (t.stand 3).spareState == 0)
       && after (strapsOf 0 0 0) (fun t => t.boot.stage == 7 && t.boot.haltReason == 5)
       && after { strapsOf 0 0 64 with xchSpeed := [1, 2, 3] } (fun t => (List.range 4).map (fun p => (t.xport p).speed) == [1, 2, 0, 0])
       && after (strapsOf 1 0 64) (fun t => t.boot.stage == 7 && t.boot.haltReason == 1)
       && after (strapsOf 0 1 64) (fun t => t.boot.stage == 7 && t.boot.haltReason == 1)) = true := by
  decide +kernel

/-- R457, R492–R494, R514, R522, R523: each part of bring-up where it ends, the last of them leaving stage 4; power-good and clocks. -/
theorem test_BringUp :
    (let s := { State.reset with boot := { State.reset.boot with stage := 2 } }
     let two := { s with boot := { s.boot with linkTrained := true, selfTested := true } }
     s.inBringup && s.flt.goodLanes 0 == 136
       && nextIs (exec (.selfTestDone ⟨[], [], []⟩) s) (fun t => t.boot.selfTested && t.boot.stage == 2 && t.boot.coresFailed == 0
         && (t.sector 7).waiting.length == 2048 && (t.sector 0).waiting.head? == some ⟨0, 1⟩)
       && nextEq (exec (.meridianTrainingDone [] []) s) { s with boot := { s.boot with linkTrained := true } }
       && nextIs (exec .healthTestsPass two) (fun t => t.boot.entropyOk && t.boot.stage == 4)
       && nextEq (exec .healthTestFail two) two
       && nextIs (exec .healthTestsPass { two with ecl := { two.ecl with incarnation := 9 } }) (fun t => t.ecl.incarnation == 9)
       && arrayFails ⟨[], (List.range 65).map fun r => (49152, r), []⟩ 49152 && !arrayFails ⟨[], (List.range 64).map fun r => (49152, r), []⟩ 49152
       && nextIs (exec (.selfTestDone ⟨[], (List.range 65).map fun r => (49152, r), []⟩) s) (fun t => t.boot.stage == 7 && t.boot.haltReason == 3)
       && nextIs (exec (.meridianTrainingDone [] (List.range 72)) s) (fun t => t.flt.goodLanes 1 == 64 && t.boot.linkTrained)
       && nextIs (exec (.meridianTrainingDone [] (List.range 73)) s) (fun t => t.flt.goodLanes 1 == 63 && t.boot.haltReason == 2 && !t.boot.linkTrained)
       && nextIs (exec (.pwrOkLow 1) s) (fun t => !t.boot.pwrOk1 && t.boot.pwrOk0)
       && nextIs (exec (.clockFault .timeRef) s) (fun t => t.boot.blockFault)
       && nextIs (exec (.clockFault .host) s) (fun t => !t.boot.blockFault && t.boot.portFaults == [.host])
       && nextIs (exec (.clockFault (.refClk 1)) s) (fun t => t.boot.blockFault) && nextIs (exec (.clockFault (.mem 11)) s) (fun t => t.boot.portFaults == [.mem 11])
       && nextIs (exec (.clockFault (.xch 7)) s) (fun t => (t.xport 7).failed && !(t.xport 6).failed && t.boot.portFaults == [.xch 7])) = true := by
  decide +kernel

/-- The base point of P-384: the public key of the private key 1. -/
def baseX : Nat :=
  0xAA87CA22BE8B05378EB1C71EF320AD746E1D3B628BA79B9859F741E082542A385502F25DBF55296C3A545E3872760AB7
def baseY : Nat :=
  0x3617DE4A96262C6F5D9E98BF9292DC29F8F41DBD289A147CE9DA3113B5F0B8C00A60B1CE1D7E819D7A431D7C90EA0E5F

/-- A firmware image of 4,096 zero bytes, signed with the private key 1 (computed outside Lean), with a given security version. -/
def imageOf (svn : Nat) : List Byte :=
  u32 0x57484E46 ++ u16 0x0301 ++ List.replicate 6 0 ++ u32 svn ++ u32 4096 ++ List.replicate 44 0
    ++ beBytes 48 baseX ++ beBytes 48 baseY ++ beBytes 48 baseX
    ++ beBytes 48 0x492AEBD2DE781D91C0B4739638744C4B3D8AA39B7899EDC63EE28E3AA1AFECBE0BF9EFB3F7F51411F8C5031A0D5069F6
    ++ List.replicate 4352 0

/-- The block waits for a firmware image whose public key has the hash KEY_HASH. -/
def fwWait (state : Nat) : State := { State.reset with
  fuses := { State.reset.fuses with
    keyHash := beBytes 48 0xA19D4DB171B582EB8052B0CFE555E17894AA22D1C8A9770950697DD8F796D2FA4BF0A56AD80006B7EA08E1191F814B65 }
  boot := { State.reset.boot with stage := 4, fwState := state, fwLen := 4608, fwAddr := 0x8000000000001000 } }

/-- R455: the image above passes every check. -/
theorem test_Firmware_image : (fwWait 1).fwCheck (imageOf 0) = 0 := by decide +kernel

/-- R453–R455: LOAD is refused with reason 7 or starts; checks 3 and 5 refuse; the end of initialisation makes the block ready. -/
theorem test_Firmware :
    (let s := fwWait 3
     let bare := { s with fuses := State.reset.fuses }
     let refused (l : List Byte) (r : Nat) : Bool := nextIs (exec (.fwFetchDone true l) (fwWait 1)) fun t =>
       t.boot.fwState == 3 && t.boot.fwReason == r && t.boot.controlCores == [] && t.boot.stage == 4
     s.boot.addressOk && allZero bare.fuses.keyHash && !allZero s.fuses.keyHash
       && nextIs (exec .fwLoad bare) (fun t => t.boot.fwState == 3 && t.boot.fwReason == 7 && t.boot.loadsRefused == 1 && t.boot.stage == 4)
       && nextIs (exec .fwLoad s) (fun t => t.boot.fwState == 1 && t.boot.fwReason == 0)
       && (fwWait 1).fwCheck [] == 2 && refused [] 2
       && nextIs (exec (.fwFetchDone false []) (fwWait 1)) (fun t => t.boot.fwState == 3 && t.boot.fwReason == 1 && t.boot.controlCores == [])
       && (fwWait 1).fwCheck (u32 0x57484E46 ++ u16 0x0301 ++ List.replicate 10 0 ++ u32 4096 ++ List.replicate 4588 0) == 4
       && nextIs (exec .firmwareInitDone { s with boot := { s.boot with stage := 5 } }) (fun t => t.boot.ready && t.boot.stage == 6
         && t.dv.paramBase0 == 64 * 2 ^ 30 - 0x1000000
         && (t.engine 1).workspace == 6 * 2 ^ 36 + 64 * 2 ^ 30 - 0x11000000)) = true := by
  decide +kernel

/-! ### The Catalogue and CAP -/

/-- A block that is ready, with a data buffer of the privileged window. -/
def readyWith (buffer : List Byte) : State := { State.reset with
  boot := { State.reset.boot with ready := true, stage := 6, entropyOk := true }
  cat := { State.reset.cat with priv := { State.reset.cat.priv with buffer := buffer } } }

def req (index sub length : Nat) : CatReq := ⟨true, false, BitVec.ofNat 16 index, BitVec.ofNat 8 sub, BitVec.ofNat 16 length⟩

/-- R56, R58, R60: a read at both ends of its lengths, writes of each kind, lists of no index, one and two. -/
theorem test_Windows_requests :
    (let s := readyWith []
     let w := readyWith [100, 0]
     let reads (n : Nat) : Bool := nextIs (exec (.catRead .priv (req 0x6000 4 n)) s) fun t => t.cat.priv.done && !t.cat.priv.busy
       && t.cat.priv.abort == 0 && t.cat.priv.type == 2 && t.cat.priv.total == 1 && t.cat.priv.buffer.head? == some 110
     let writes (v : Byte) (abort : Word) (derate : Nat) : Bool :=
       nextIs (exec (.catWrite .priv (req 0x6000 2 1)) (readyWith [v])) fun t => t.cat.priv.abort == abort && t.set.ceilingDerate == derate
     let lists (start n : Nat) (total : Nat) : Bool := nextIs (exec (.catList .priv (req start 0 n)) s) fun t =>
       t.cat.priv.abort == 0 && t.cat.priv.total == BitVec.ofNat 32 total
     !s.rootHalted && reads 1 && reads 1024 && w.cat.priv.busy == false && writes 70 0 70 && writes 90 0 90
       && writes 75 0x0C000006 100 && lists 0xA7FF 1 0 && lists 0xA7FF 1024 1
       && nextIs (exec (.catList .priv (req 0xA7FE 0 4)) s) (fun t => t.cat.priv.buffer.take 4 == [0xFE, 0xA7, 0xFF, 0xA7])
       && nextIs (exec (.catRead .priv (req 0x6000 4 1025)) s) (fun t => t.cat.priv.abort == 0x0C00000A)) = true := by
  decide +kernel

/-- R47, R60: a window of a context that does not exist. -/
theorem test_Windows :
    (let s := readyWith []
     let refused (i : Instr) : Bool := nextIs (exec i s) fun t => (t.window (.ctx 1023)).abort == 0x0C000001 && (t.window (.ctx 1023)).done
       && decide ({ t with cat := s.cat } = s)
     s.ctx 1023 == none && refused (.catRead (.ctx 1023) (req 0x1000 5 1)) && refused (.catWrite (.ctx 1023) (req 0x6000 2 1))
       && refused (.catList (.ctx 1023) (req 0 0 2))) = true := by
  decide +kernel

/-- A frame of 16 bytes of payload or any other number. -/
def frame (session seq keyId : Nat) (payload : List Byte) (key : List Byte) (op : Nat) : CapFrame :=
  let f : CapFrame := ⟨56 + payload.length, 1, false, 0, BitVec.ofNat 32 session, BitVec.ofNat 64 seq, BitVec.ofNat 16 payload.length,
    BitVec.ofNat 8 keyId, 0, 0, payload, [], [1], 9, 47140⟩
  { f with tag := hmacSha256 key (capSigned f op) }

/-- R43, R54, R489: before READY, and with the hart of the root halted. -/
theorem test_BeforeReady :
    (let s := State.reset
     let f := frame 0 0 0 [] [] 1
     let refused (v : View) (i : Instr) : Bool := nextIs (exec i s) fun t => (t.window v).abort == 0x0C00000D && (t.window v).done
       && decide ({ t with cat := s.cat } = s)
     refused .priv (.catRead .priv (req 0x1000 4 1)) && refused (.ctx 7) (.catWrite (.ctx 7) (req 0x1000 5 1))
       && refused .priv (.catList .priv (req 0x1000 5 2))
       && nextIs (exec (.catRead .priv (req 0x1000 5 1)) s) (fun t => t.cat.priv.abort == 0 && t.cat.priv.total == 1
         && t.cat.priv.buffer.head? == some 0)
       && nextEq (exec (.contextCreate 3) s) { s with cat := { s.cat with answer := 0x0C00000D } } && writesEntry (.contextCreate 3)
       && nextEq (exec (.gcClear 1) s) { s with cat := { s.cat with answer := 0x0C00000D } } && writesEntry (.gcClear 1)
       && nextEq (exec (.mgmtIcmpv6 .fragment) s) s
       && (let h := { readyWith [] with dbg := { s.dbg with halted := [0] } }
           h.rootHalted && nextEq (exec (.keyWrite 7 []) h) { h with cat := { h.cat with waiting := [.row (.keyWrite 7 [])] } }
             && nextEq (exec (.ringAbort 24) h) { h with cat := { h.cat with waiting := [.row (.ringAbort 24)] } })
       && nextEq (exec (.capOpen f) s) s && nextEq (exec (.capUnknownOperation 0x7F f) s) s && nextEq (exec (.capRead f) s) s) = true := by
  decide +kernel

/-- A block with a CAP key of the privileged role, and one session of it. -/
def capBlock (last : Nat) : State :=
  let s := readyWith []
  { s with cat := { s.cat with
    keys := [(3, ⟨0xFFFFFFFF, List.replicate 32 5⟩)]
    sessions := [(2, ⟨77, 3, .priv, [1], 9, last, 0, 0, false, List.replicate 32 6, none, false, false, none⟩)] } }

/-- R21, R63, R73, R456: single entries and the management stack. -/
theorem test_EntriesAndManagement :
    (let s := capBlock 0
     let p := { s with ecl := { s.ecl with ports := [(0, { XPort.reset with enable := true })] } }
     let own := s.linkLocal
     !s.portEnabled && p.portEnabled && s.ownAddress own && !s.ownAddress [1]
       && nextIs (exec (.deviceIdWrite 0x3FFF) s) (fun t => t.set.deviceId == 0x3FFF && t.cat.answer == 0)
       && nextIs (exec (.deviceIdWrite 0x4000) p) (fun t => t.set.deviceId == 0 && t.cat.answer == 0x0C000006)
       && nextIs (exec (.deviceIdWrite 0x3FFF) p) (fun t => t.set.deviceId == 0 && t.cat.answer == 0x0C000007)
       && nextIs (exec (.keyWrite 7 ([0xFF, 0xFF, 0xFF, 0xFF] ++ List.replicate 32 1)) s) (fun t => t.cat.answer == 0
         && Map.look t.cat.keys 7 == some ⟨0xFFFFFFFF, List.replicate 32 1⟩ && (Map.look t.cat.keys 3).isSome)
       && nextIs (exec (.sessionCloseWrite 2 1) s) (fun t => t.cat.sessions == [] && t.cat.answer == 0)
       && nextIs (exec (.mgmtIcmpv6 (.echoRequest [1] [2])) s) (fun t => t.outputs == [.echoReply [1] [2]])
       && nextIs (exec (.mgmtIcmpv6 (.neighbourSolicitation [1] own)) s) (fun t => t.outputs == [.neighbourAdvert [1] own])
       && nextEq (exec (.mgmtIcmpv6 (.neighbourSolicitation [1] [1])) s) s
       && nextIs (exec (.mgmtIcmpv6 .fragment) s) fun t => t.cat.discarded == 1) = true := by
  decide +kernel

/-- R66–R68, R70: an OPEN, the two timers, and frames whose tag does not verify. -/
theorem test_CapSessionsAndTags :
    (let s := capBlock 0
     let s0 := { s with cat := { s.cat with sessions := [] } }
     let f := frame 0 4 3 (u32 0 ++ List.replicate 16 0) (List.replicate 32 5) 1
     let bad := { frame 77 1 0 (List.replicate 16 0) (List.replicate 32 6) 0x10 with tag := List.replicate 32 0 }
     let known := { s with cat := { s.cat with sessions := [(2, { (Map.at s.cat.sessions ⟨77, 3, .priv, [1], 9, 0, 0, 0, false, [], none, false, false, none⟩ 2) with authenticated := true })] } }
     capMalformed f 1 == false && hmacSha256 (List.replicate 32 5) (capSigned f 1) == f.tag
       && capMalformed bad 0x10 == false && capMalformed bad 0x11 == false
       && hmacSha256 (List.replicate 32 6) (capSigned bad 0x10) != bad.tag && hmacSha256 (List.replicate 32 6) (capSigned bad 0x11) != bad.tag
       && nextIs (exec (.capRead bad) s) (fun t => t.cat.authFailures == 1 && t.outputs == [] && t.cat.sessions == s.cat.sessions)
       && nextIs (exec (.capWrite bad) s) (fun t => t.cat.authFailures == 1)
       && nextIs (exec (.capIdleTimeout 2) s) (fun t => t.cat.sessions == [])
       && nextIs (exec (.openFirstRequestTimeout 2) s) (fun t => t.cat.sessions == [])
       && nextEq (exec (.openFirstRequestTimeout 2) known) known && s0.cat.sessions == []
       && nextIs (exec (.capOpen f) s0) (fun t => match t.cat.sessions, t.outputs with
         | [(0, x)], [.capResponse 47140 [1] 9 0x81 _ 4 3 0 p _] => x.keyId == 3 && x.view == .priv && x.last == 0 && p.length == 20 && p.drop 16 == [0xFF, 0xFF, 0xFF, 0xFF]
         | _, _ => false)) = true := by
  decide +kernel

/-- R65, R69, R71: requests in sequence, each answered with its status and payload. -/
theorem test_CapRequests :
    (let s := capBlock 5
     let f (op : Nat) (p : List Byte) : CapFrame := frame 77 6 0 p (List.replicate 32 6) op
     let answers (i : Instr) (op : Byte) (keeps : Bool) (status : Word) (payload : List Byte) (u : State → Bool) : Bool :=
       nextIs (exec i s) fun t => u t && (match t.outputs, t.cat.sessions with
         | [.capResponse 47140 [1] 9 o 77 6 0 st p _], l => o == op && st == status && p == payload
           && (match l with
             | [(2, y)] => keeps && y.last == 6 && y.authenticated && !y.inExecution
             | _ => !keeps)
         | _, _ => false)
     let rd := u16 0x6000 ++ [4, 0] ++ u32 0 ++ u32 0 ++ u16 1 ++ u16 0
     let wr := u16 0x6000 ++ [2, 2] ++ u32 0 ++ u32 0 ++ u16 1 ++ u16 0 ++ [80]
     let ls := u16 0x1000 ++ u16 1
     capMalformed (f 3 []) 3 == false && capMalformed (f 0x10 rd) 0x10 == false && capMalformed (f 0x11 wr) 0x11 == false
       && capMalformed (f 0x12 ls) 0x12 == false && capMalformed (f 0x7F []) 0x7F == false
       && answers (.capKeepalive (f 3 [])) 0x83 true 0 [] (fun t => t.set == s.set)
       && answers (.capClose (f 2 [])) 0x82 false 0 [] (fun t => t.set == s.set)
       && answers (.capRead (f 0x10 rd)) 0x90 true 0 ([2, 0, 0, 0] ++ u32 1 ++ u32 0 ++ u16 1 ++ u16 0 ++ [110]) (fun t => t.set == s.set)
       && answers (.capWrite (f 0x11 wr)) 0x91 true 0 ([2, 0, 0, 0] ++ u32 1 ++ u32 0 ++ u32 0) (fun t => t.set.ceilingDerate == 80)
       && answers (.capList (f 0x12 ls)) 0x92 true 0 (u16 0x1001 ++ u16 1 ++ u16 0x1000) (fun t => t.set == s.set)
       && answers (.capUnknownOperation 0x7F (f 0x7F [])) 0xFF true 0x0C00000E [] (fun t => t.set == s.set)) = true := by
  decide +kernel

/-! ### Contexts, rings and acceptance -/

/-- Context 3 exists with a Tally; its first ring is configured and holds no command. -/
def ringState (g : Ring) : State := { State.reset with
  boot := { State.reset.boot with ready := true }
  ctxs := [(3, { Context.reset with tallyBase := 0x8000000000010000, nodeQuota := 0 })]
  rings := [(24, g)] }

/-- A configured ring at sequence number 5. -/
def idleRing : Ring := { Ring.reset with
  ctx := 3, buffers := [0x100000], complBase := 0x8000000000020000, nextSeq := 5, fetch := 5, tail := 5, completedThrough := 4, handedThrough := 4 }

/-- R75, R76, R142, R527, R530: creation and destruction at the highest context, the stages of a context reset, RECLAIM. -/
theorem test_Contexts :
    (let s := ringState idleRing
     let on := ringState { idleRing with enabled := true }
     let busy := { s with dv := { s.dv with resetting := some 3 } }
     let open1 := { busy with cores := [(5, { Core.reset with grant := some ⟨0, 9, 0, 1, false, false, 0⟩ })]
                              dv := { busy.dv with nodes := [(0, nodeOf 1 4)] } }
     let one (st : Nat) : State := { on with dv := { on.dv with nodes := [(0, { nodeOf 2 st with ctx := 3 })] } }
     let rich := { on with ctxs := [(3, { Context.reset with nodeQuota := 0 })] }
     nextIs (exec (.contextCreate 1023) s) (fun t => t.ctx 1023 == some Context.reset && t.ring 8191 == { Ring.reset with ctx := 1023 }
         && t.cat.answer == 0 && t.ring 24 == idleRing)
       && nextIs (exec (.contextCreate 3) s) (fun t => t.cat.answer == 0x0C000007)
       && nextIs (exec (.contextDestroy 3) s) (fun t => t.cat.answer == 0 && t.ctx 3 == none && t.rings == [])
       && nextIs (exec (.contextDestroy 3) on) (fun t => t.cat.answer == 0x0C000007 && t.ctx 3 == on.ctx 3)
       && nextIs (exec (.contextDestroy 0) s) (fun t => t.cat.answer == 0x0C000007)
       && nextIs (exec (.contextReset 3) on) (fun t => t.cat.answer == 0 && t.dv.resetting == some 3 && !(t.ring 24).enabled
         && (t.context 3).resetCount == 1)
       && nextIs (exec (.contextReset 3) busy) (fun t => t.cat.answer == 0x0C000007)
       && nextIs (exec (.contextReset 1024) busy) (fun t => t.cat.answer == 0x0C000006)
       && busy.resetSettled 3 && busy.compsHeld 3 0 ++ busy.compsHeld 3 1 == []
       && nextIs (exec .contextResetComplete busy) (fun t => t.dv.resetting == none)
       && !open1.resetSettled 3 && nextEq (exec .contextResetComplete open1) open1
       && on.nodesHeld 3 == 0 && nextIs (exec (.reclaim 3) rich) (fun t => t.cat.answer == 0 && t.rings == rich.rings)
       && nextIs (exec (.reclaim 3) (one 1)) (fun t => (match t.node 0 with
         | some e => e.state == 5 && e.status == stOverQuota
         | none => false))
       && nextIs (exec (.reclaim 3) (one 3)) (fun t => (match t.node 0 with
         | some e => e.state == 5 && e.status == stOverQuota
         | none => false))) = true := by
  decide +kernel

/-- R78, R80, R106, R346: ENABLE, DISABLE with and without a command left, and refusals. -/
theorem test_RingEnableDisable :
    (let s := ringState idleRing
     let steered := ringState { idleRing with mode := 2 }
     let on := ringState { idleRing with enabled := true }
     let left := ringState { idleRing with enabled := true, fetch := 6, tail := 6 }
     let dead := ringState { idleRing with enabled := true, draining := true, completedThrough := 3 }
     let dev := { s with rings := [(24, idleRing), (8255, { Ring.reset with ctx := 3, buffers := [0x1000], complBase := 0x4000 })] }
     idleRing.buffersOk && s.completionOk idleRing && steered.steeredRings == 0
       && nextIs (exec (.ringEnable 24) s) (fun t => t.cat.answer == 0 && (t.ring 24).enabled && (t.ring 24).fetch == 5 && (t.ring 24).tail == 5)
       && nextIs (exec (.ringEnable 24) steered) (fun t => t.cat.answer == 0 && (t.ring 24).enabled)
       && nextIs (exec (.ringEnable 24) on) (fun t => t.cat.answer == 0x0C000007)
       && on.ringState 24 == 1 && left.ringState 24 == 1 && s.ringState 24 == 0 && dead.ringState 24 == 6
       && nextIs (exec (.ringDisable 24) on) (fun t => t.cat.answer == 0 && !(t.ring 24).enabled && (t.ring 24).nextSeq == 5)
       && nextIs (exec (.ringDisable 24) left) (fun t => t.cat.answer == 0 && (t.ring 24).enabled && (t.ring 24).draining)
       && nextIs (exec (.ringDisable 24) s) (fun t => t.cat.answer == 0x0C000007)
       && nextIs (exec (.ringDisable 24) dead) (fun t => t.cat.answer == 0x0C000007)
       && dev.onPort 0x1000 (128 * 64) && dev.onPort 0x4000 (32 * 64)
       && nextIs (exec (.deviceSideEnable 1 31) dev) (fun t => t.cat.answer == 0 && (t.ring 8255).enabled && (t.ring 8255).fetch == 1)
       && nextIs (exec (.deviceSideDisable 1 31) dev) (fun t => t.cat.answer == 0x0C000007)) = true := by
  decide +kernel

/-- R83: doorbells at the latched tail and above it up to completed-through + N + 1, here 4 + 64 + 1, and beyond. -/
theorem test_Doorbells :
    (let s := ringState { idleRing with enabled := true }
     let off := ringState idleRing
     let draining := ringState { idleRing with enabled := true, draining := true }
     nextEq (exec (.doorbell 24 5) s) s && nextEq (exec (.doorbell 24 6) off) off
       && nextIs (exec (.doorbell 24 6) s) (fun t => t.ring 24 == { s.ring 24 with tail := 6 })
       && nextIs (exec (.doorbell 24 69) s) (fun t => t.ring 24 == { s.ring 24 with tail := 69 })
       && nextIs (exec (.doorbell 24 70) s) (fun t => (t.ring 24).overrun && (t.ring 24).overrunEvents == 1 && (t.ring 24).tail == 5)
       && nextIs (exec (.doorbell 24 6) draining) (fun t => (t.ring 24).tail == 6)
       && nextEq (exec (.commandFetch 24 [cmdOf 0 5] false) draining) draining) = true := by
  decide +kernel

/-- R86, R108, R531: a COPY that faulted is run again, skipped or aborted, and so is a gap. -/
theorem test_FaultControls :
    (let f (cause : Nat) : RingFault := ⟨cause, 7, 0, 0, some 0, [], none, []⟩
     let s (cause : Nat) : State :=
       let s := withNode { nodeOf 2 4 with status := 0 }
       { s with rings := [(24, { s.ring 24 with fault := some (f cause) })] }
     let ends (i : Instr) : Bool := nextIs (exec i (s fcHang)) fun t => t.cat.answer == 0 && (t.ring 24).fault == none && (match t.node 0 with
       | some e => e.state == 5 && e.status == stFaulted && e.detail == fcHang
       | none => false)
     let gap : State :=
       let s := ringState { idleRing with enabled := true, tail := 6, fault := some ⟨fcSeqGap, 5, 0, 0, none, [], none, []⟩ }
       { s with ctxs := [(3, Context.reset)], mem := { s.mem with xlat := [⟨some 0, 0, 30, 0, true, true⟩] } }
     let passes (i : Instr) : Bool := nextIs (exec i gap) fun t => t.cat.answer == 0 && (t.ring 24).fault == none && (t.ring 24).fetch == 6
       && (t.ring 24).skipping == none && (match t.node 0 with
       | some e => e.state == 5 && e.status == stSeqGap && e.seq == 5 && e.ring == 24
       | none => false)
     gap.creditCause 24 [] == 0 && gap.tallyMissing 24 0 == none && gap.ringState 24 == 4
       && nextIs (exec (.resumeRetry 24) gap) (fun t => t.cat.answer == 0 && (t.ring 24).fault == none && (t.ring 24).fetch == 5 && (t.ring 24).held == none)
       && passes (.resumeSkip 24) && passes (.ringAbort 24)
       && opCopy == 2 && (s fcHang).ringState 24 == 4 && (s fcHang).ringsOf 3 == [24]
       && nextIs (exec (.resumeRetry 24) (s fcHang)) (fun t => (t.ring 24).fault == none && (t.node 0).map (·.dispatchedAt) == some (some 0))
       && ends (.resumeSkip 24) && ends (.ringAbort 24)
       && nextIs (exec (.resumeRetry 24) (s fcNodeLost)) (fun t => t.cat.answer == 0x0C000007 && (t.ring 24).fault.isSome)
       && nextIs (exec (.ringAbort 24) (withNode launch)) (fun t => t.cat.answer == 0x0C000007)) = true := by
  decide +kernel

/-- R13, R38, R81, R441, R453, R499: registers of the host window. -/
theorem test_RegisterWrites :
    (let s0 := ringState { idleRing with enabled := true, overrun := true }
     let s := { s0 with flt := { s0.flt with repair := true, fence := true, spare := true, degraded := true } }
     let w (o size : Nat) (x : BitVec 64) : Host.Outcome State Fault Refusal := exec (.registerWrite (o / 0x1000) (o % 0x1000) size (x.setWidth 512)) s
     let page := 0x103000
     let same (a b : Host.Outcome State Fault Refusal) : Bool := nextIs a fun t => nextEq b t
     let ask : BitVec 64 := (reqWord 0 (req 0x6000 4 1)).setWidth 64 ||| 0x8000000000000000
     nextIs (w page 8 6) (fun t => (t.ring 24).tail == 6)
       && nextIs (w (page + 0x210) 8 0) (fun t => !(t.ring 24).maskFault && !(t.ring 24).maskNotify)
       && nextIs (w (page + 8) 8 0x800000000000) (fun t => !(t.ring 24).overrun)
       && nextEq (w (page + 8) 8 0) s && nextEq (w (page + 0x1BF8) 8 6) s && nextEq (w page 4 6) s && nextEq (w 0x100 4 0) s
       && nextEq (w (page + 4) 8 6) s && nextEq (w 0x10000 8 6) s && nextEq (w 0xFFFF8 8 6) s && nextEq (w 0x500000 8 6) s
       && same (w (page + 0x418) 8 7) (exec (.stepReply 24 7) s)
       && nextIs (w 0x100 8 0x8000000000000000) (fun t => !t.flt.repair && t.flt.fence && t.flt.spare && t.flt.degraded)
       && nextIs (w 0x200 8 0x8000000000001000) (fun t => t.boot.fwAddr == 0x8000000000001000)
       && nextIs (w 0x208 8 4608) (fun t => t.boot.fwLen == 4608)
       && nextIs (w 0x210 8 0x8000000000000000) (fun t => t.boot.fwLoad)
       && ask.getLsbD 63 && CatReq.ofWord ask.toNat == req 0x6000 4 1 && same (w 0xF000 8 ask) (exec (.catRead .priv (req 0x6000 4 1)) s)
       && same (w (page + 0xC00) 8 ask) (exec (.catRead (.ctx 3) (req 0x6000 4 1)) s)) = true := by
  decide +kernel

/-- R86, R88, R99, R100, R139: one NOP accepted as it is fetched, as its chain is read, and as a stall ends; a gap and a hold fault. -/
theorem test_Acceptance :
    (let g : Ring := { idleRing with enabled := true, tail := 6, buffers := [0x8000000000100000] }
     let c := cmdOf 0 5
     let s0 := ringState g
     let s1 := { s0 with ctxs := [(3, Context.reset)]
                         mem := { s0.mem with xlat := [⟨some 0, 0, 30, 0, true, true⟩] } }
     let heldAt (x : HeldCommand) (stall : Nat) : State := { s1 with rings := [(24, { g with held := some x, stall := stall })] }
     let isIn (o : Host.Outcome State Fault Refusal) : Bool := nextIs o fun t => (t.ring 24).fetch == 6 && (match t.node 0 with
       | some d => d.state == 3 && d.ring == 24 && d.seq == 5 && d.accepted
       | none => false)
     let faults (o : Host.Outcome State Fault Refusal) (cause : Nat) : Bool := nextIs o fun t => (t.ring 24).fetch == 5
       && (t.ring 24).fault.map (·.cause) == some cause
     let far : Word := 0x20000001
     s1.mayAccept 24 && s1.ringsOf 3 == [24] && s1.formOk 24 c && s1.slotsTranslated 24 5 1 == none && s1.creditCause 24 [] == 0
       && s1.tallyMissing 24 0 == none && isIn (exec (.commandFetch 24 [c] false) s1)
       && faults (exec (.commandFetch 24 [cmdOf 0 6] false) s1) fcSeqGap
       && (let dev := { s1 with rings := [(24, { g with buffers := [0x100000] })] }
           dev.mayAccept 24 && !isHostAddr ((dev.ring 24).slotAddr 5) && decide (devOf ((dev.ring 24).slotAddr 5) / 2 ^ 36 < 12))
       && isIn (exec (.overflowChainRead 24 [] false) (heldAt ⟨c, 3, 0, none⟩ 0))
       && isIn (exec (.ringStallResume 0) (heldAt ⟨c, 5, 0, some []⟩ slNodeFull))
       && (heldAt ⟨c, 3, 0, some [far]⟩ slRefWait).predNodes 24 c [far] == none
       && faults (exec (.refHoldTimeout 24) (heldAt ⟨c, 3, 0, some [far]⟩ slRefWait)) fcRefHold) = true := by
  decide +kernel

/-- R102, R120, R123, R124, R165, R169: a substitution in range, with a RELEASE ahead, and one out of range. -/
theorem test_ReadyTimes_shapes :
    (let d : Node := { nodeOf 8 1 with cmd := { cmdOf 8 7 with indirect := 4 } }
     let s (n : Nat) : State :=
       let s := withNode d
       { s with ctxs := [(3, { Context.reset with shapeBase := 0x1000, shapeSize := 64 })]
                mem := { s.mem with dev := [(0x1000, BitVec.ofNat 8 n)] } }
     let late (n : Nat) : State := { s n with dv := { (s n).dv with nodes := [(0, { d with cmd := { d.cmd with release := 9 } })] } }
     let ends (n : Nat) (b : Bool) (p : Node → Bool) : Bool := nextIs (exec (.shapeSubstitution 0 b) (s n)) fun t => (match t.node 0 with
       | some e => p e
       | none => false)
     d.pendingUnits == 0 && variableOk ((s 1).substitute 3 d.cmd) && !variableOk ((s 0).substitute 3 d.cmd)
       && ends 1 false (fun e => e.state == 3 && e.cmd.slot 2 == 1) && ends 0 false (fun e => e.state == 5 && e.status == stStateReject)
       && nextIs (exec (.shapeSubstitution 0 false) (late 1)) (fun t => (t.node 0).map (·.state) == some 2)) = true := by
  decide +kernel

/-! ### Dvorsor, completion and executors -/

/-- A property of node 0 after a step. -/
def node0 (o : Host.Outcome State Fault Refusal) (p : Node → Bool) : Bool := nextIs o fun t => match t.node 0 with
  | some d => p d
  | none => false

/-- R119, R126: RELEASE at the tick boundary and one tick later, and notifications of each kind. -/
theorem test_ReadyTimes :
    (let due (x : Nat) : State :=
       let s := withNode { nodeOf 0 2 with cmd := { cmdOf 0 7 with release := BitVec.ofNat 64 x }, delayList := some (0, 0) }
       { s with clock := { s.clock with now := 320 } }
     let told (st units : Nat) : State :=
       let s := withNode { nodeOf 0 1 with units := units, acceptOrder := 4 }
       { s with dv := { s.dv with sched0 := [(⟨0, false, 4⟩, st)] } }
     (due 320).tickNow == 320 && node0 (exec .tick (due 320)) (fun e => e.state == 3 && e.delayList == none)
       && nextEq (exec .tick (due 321)) (due 321)
       && nextIs (exec (.schedNotification 0) (told 0 2)) (fun t => t.dv.sched0 == [] && (t.node 0).map (·.units) == some 1)
       && node0 (exec (.schedNotification 0) (told 0 1)) (fun e => e.units == 0 && e.state == 3)
       && node0 (exec (.schedNotification 0) (told 1 1)) (fun e => e.state == 5 && e.status == stPredFailed)
       && nextEq (exec (.schedNotification 0) (due 320)) (due 320)) = true := by
  decide +kernel

/-- R103, R122, R129, R131: the outcomes of a selection. -/
theorem test_Selection :
    (let s := withNode (nodeOf 0 3)
     let work (grid : Nat) : State :=
       let s := withNode { launch with state := 3, grid := grid, nextItem := 0, outstanding := 0 }
       { s with ctxs := [(3, { Context.reset with kernelCount := 1 })], dv := { s.dv with comps := [(0, { Compartment.reset with holder := some 3 })] } }
     let absent := { s with ctxs := [(3, Context.reset)], dv := { s.dv with nodes := [(0, { nodeOf 4 3 with ring := 24 })] } }
     s.selectable 3 0 (nodeOf 0 3) && !s.timersHeld 0 && !s.selectable 0 0 (nodeOf 0 3) && nextEq (exec (.sectorSelect 0) s) s
       && node0 (exec (.sectorSelect 3) s) (fun e => e.state == 4 && e.sector == some 3 && e.dispatchedAt == some 0 && !e.landing)
       && node0 (exec (.sectorSelect 0) (work 0)) (fun e => e.state == 5 && e.status == stOk)
       && node0 (exec (.sectorSelect 0) (work 1)) (fun e => e.state == 4 && e.landing)
       && absent.rejects 0 (nodeOf 4 3)
       && node0 (exec (.sectorSelect 3) absent) (fun e => e.state == 5 && e.status == stStateReject)) = true := by
  decide +kernel

/-- R133–R135, R191–R193: a grant, and each step of it at the core. -/
theorem test_GrantsOfWork :
    (let s0 := withNode { launch with nextItem := 3, outstanding := 0, sector := some 0 }
     let s := { s0 with dv := { s0.dv with
       sectors := [(0, { Sector.reset with openSet := [0], waiting := [⟨5, 2⟩] })]
       comps := [(0, { Compartment.reset with holder := some 3 })] } }
     let g : Grant := ⟨0, 0, 0, 1, false, false, 0⟩
     let kn : Kernel := ⟨3, 0, 1024, 64, 2, 0, 0⟩
     let at5 (f : Front) (k : Option Kernel) (prev : Option Nat) : State :=
       working { Core.reset with front := f, kernel := k, prevNode := prev, grant := some g }
     let loads (bad : Bool) : State :=
       let s := at5 .kernelLoad none none
       { s with ctxs := [(3, { Context.reset with kernelTable := 0x10000 })]
                mem := { s.mem with dev := if bad then [] else [(0x10001, 0x10), (0x10008, 8), (0x1000C, 1)] } }
     (s.rejoin 0).served 0 == some (⟨5, 2⟩, 0, { launch with nextItem := 3, outstanding := 0, sector := some 0 })
       && nextIs (exec (.grantIssue 0) s) (fun t => (t.core 5).grant == some ⟨0, 0, 3, 1, false, false, 0⟩
         && (t.node 0).map (fun e => (e.nextItem, e.outstanding, e.workers)) == some (4, 1, [5]) && (t.sector 0).waiting == [])
       && (let r := { s with dv := { s.dv with nodes := [(0, { launch with
               nextItem := 3, outstanding := 0, sector := some 0, requeue := [⟨1, false, true, [5]⟩, ⟨2, true, true, [4]⟩] })] } }
           nextIs (exec (.grantIssue 0) r) fun t => (t.core 5).grant == some ⟨0, 0, 2, 1, true, true, 0⟩ && (t.core 5).probing
             && (t.node 0).map (fun e => (e.nextItem, e.outstanding, e.requeue)) == some (3, 1, [⟨1, false, true, [5]⟩]))
       && nextEq (exec (.grantIssue 1) s0) (s0.rejoin 0)
       && core5 (exec (.grantWord 5) (at5 .waitingGrant (some kn) (some 0))) (fun k => k.front == .decoding && k.pc == 64
         && k.s 1 == 0 && k.s 2 == 1 && k.s 3 == 0 && k.s 4 == 0)
       && core5 (exec (.grantWord 5) (at5 .waitingGrant (some kn) none)) (fun k => k.front == .paramRead)
       && core5 (exec (.grantWord 5) (at5 .waitingGrant (some { kn with id := 1 }) none)) (fun k => k.front == .kernelLoad)
       && !kernelBad ((loads false).dev 0x10000 32) && kernelBad ((loads true).dev 0x10000 32)
       && core5 (exec (.kernelLoad 5 false) (loads false)) (fun k => k.front == .paramRead
         && k.kernel.map (fun x => (x.imageLen, x.entry)) == some (8, 0) && k.imem.length == 8)
       && core5 (exec (.kernelLoad 5 false) (loads true)) (fun k => k.exc == BitVec.ofNat 8 exKernel && k.kernel == none && k.grant == none)
       && core5 (exec (.parameterRead 5 false) (at5 .paramRead (some kn) none)) (fun k => k.front == .decoding && k.pc == 64)) = true := by
  decide +kernel

/-- R144–R147: a quantum with and without a candidate, a switch and an assignment. -/
theorem test_Compartments :
    (let s0 := withNode (nodeOf 0 1)
     let hold (y : Bool) : State := { s0 with dv := { s0.dv with comps := [(0, { Compartment.reset with holder := some 4, yielding := y, quantum := 7 })] } }
     let ready : State := { s0 with dv := { s0.dv with nodes := [(0, { launch with state := 3 })] } }
     let turn : State := { (hold true) with dv := { (hold true).dv with nodes := [(0, { launch with state := 3 })] } }
     nextIs (exec (.quantumExpiry 0) (hold false)) (fun t => (t.comp 0).quantum == 0 && (t.comp 0).holder == some 4 && !(t.comp 0).yielding)
       && nextIs (exec (.quantumExpiry 0) { turn with dv := { turn.dv with comps := (hold false).dv.comps } }) (fun t => (t.comp 0).yielding)
       && nextEq (exec (.quantumExpiry 0) s0) s0
       && (hold true).quiescent 0 && (hold true).noteCandidates.candidates 0 == []
       && nextIs (exec (.compartmentSwitch 0) (hold true)) (fun t => (t.comp 0).holder == none && !(t.comp 0).yielding)
       && turn.noteCandidates.candidates 0 == [3]
       && nextIs (exec (.compartmentSwitch 0) turn) (fun t => (t.comp 0).holder == some 3 && (t.comp 0).quantum == 2000)
       && nextEq (exec (.compartmentAssign 63) s0) s0.noteCandidates
       && (let g (n : Nat) : State := { ready with dv := { ready.dv with comps := [(0, { Compartment.reset with gating := n })] } }
           nextIs (exec (.compartmentAssign 0) (g 2)) (fun t => (t.comp 0).gating == 1 && t.outputs == [.regulatorRequest 0 ((g 2).stepVolts 0 4)])
             && nextIs (exec (.compartmentAssign 0) (g 1)) (fun t => (t.comp 0).holder == some 3 && (t.comp 0).gating == 1 && t.outputs == []))
       && (let dead := { ready with dv := { ready.dv with comps := [(0, { Compartment.reset with fenced := true })] } }
           dead.compDead 0 && nextEq (exec (.compartmentAssign 0) dead) dead.noteCandidates)
       && nextIs (exec (.compartmentAssign 0) ready) (fun t => (t.comp 0).holder == some 3 && (t.comp 0).quantum == 2000)) = true := by
  decide +kernel

/-- R123, R158, R162–R168, R174, R181, R182: records, notifications, the mask, TASK_LIMIT, and reads of the Tally. -/
theorem test_CompletionAndTally :
    (let s1 := withNode { nodeOf 2 4 with result := some stOk, writeLost := true }
     let s2 := withNode { nodeOf 2 4 with result := some 4, writeLost := true }
     let retired (st : Nat) : State :=
       let s := withNode { nodeOf 0 5 with status := st }
       { s with
         rings := [(24, { s.ring 24 with handedThrough := 6, complBase := 0x8000000000020000, sizeLog2 := 6, complSizeLog2 := 6 })]
         mem := { s.mem with xlat := [⟨some 0, 0, 30, 0, true, true⟩] } }
     let notes (n : Nat) (mask : Bool) : State :=
       let s := withNode (nodeOf 0 1)
       { s with rings := [(24, { s.ring 24 with vectors := 0x00030005, pendingNotes := n, maskNotify := mask, irqFault := true })] }
     let tally (blocked host : Bool) (next : Nat) : State :=
       let s := withNode (nodeOf 0 1)
       { s with
         ctxs := [(3, { Context.reset with
           tallyBase := 0x8000000000010000, tallyBlocked := if blocked then some 5 else none, tallyHostError := host, epochNext := next })]
         mem := { s.mem with xlat := [⟨some 0, 0, 30, 0, true, true⟩] } }
     let hang := withNode { nodeOf 2 4 with dispatchedAt := some 0 }
     let calm := { hang with set := { hang.set with taskLimit := 0 } }
     node0 (exec (.executorFinish 0) s1) (fun e => e.state == 5 && e.status == stUncorrectable)
       && node0 (exec (.executorFinish 0) s2) (fun e => e.state == 5 && e.status == 4)
       && (retired 0).translated 3 ((retired 0).ring 24 |>.recordAddr 7) 32 true 4 24 == none && (retired 0).tallyMissing 24 8 == none
       && nextIs (exec (.recordRetire 24) (retired 0)) (fun t => (t.ring 24).completedThrough == 7 && t.node 0 == none)
       && nextIs (exec (.recordRetire 24) (retired 4)) (fun t => (t.ring 24).completedThrough == 7 && (t.node 0).map (·.state) == some 6)
       && nextEq (exec (.maxDelayExpiry 24) (notes 0 false)) (notes 0 false)
       && nextIs (exec (.maxDelayExpiry 24) (notes 1 false)) (fun t => t.outputs == [.msix 5] && (t.ring 24).irqNotify)
       && nextIs (exec (.maxDelayExpiry 24) (notes 1 true)) (fun t => t.outputs == [] && (t.ring 24).irqNotify)
       && nextIs (exec (.irqMaskWrite 24 1) (notes 0 false)) (fun t => t.outputs == [.msix 3] && (t.ring 24).maskNotify)
       && nextIs (exec (.irqMaskWrite 24 2) (notes 0 false)) (fun t => t.outputs == [] && (t.ring 24).maskFault)
       && hang.set.taskLimit != 0
       && nextIs (exec (.taskLimitExpiry 0) hang) (fun t => (t.ring 24).fault.map (fun f => (f.cause, f.node, f.seq)) == some (fcHang, some 0, 7)
         && (t.ring 24).irqFault)
       && nextEq (exec (.taskLimitExpiry 0) calm) calm
       && nextIs (exec (.completionRetryTimer 3) (tally true true 1)) (fun t =>
         t.outputs == [.hostRead ((tally true true 1).pasid 3) (BitVec.ofNat 64 ((tally true true 1).tallyAddr 3 0x10)) 8])
       && nextEq (exec (.completionRetryTimer 3) (tally false false 1)) (tally false false 1)
       && nextIs (exec (.epochConsumedPoll 3 (some 9)) (tally false false 512)) (fun t => (t.context 3).epochConsumed == 9)
       && nextEq (exec (.epochConsumedPoll 3 (some 9)) (tally false false 511)) (tally false false 511)) = true := by
  decide +kernel

/-- R95, R97, R132, R266, R285, R287, R477: NOP, FENCE, MARK, a LAUNCH with items, and COPYs of 0 and of 3 bytes. -/
theorem test_ExecutorsAndCopies :
    (let s (op : Nat) : State := withNode (nodeOf op 4)
     let held := withNode { nodeOf 9 4 with fenceOn := [(24, 6)] }
     let copy (n : Nat) : State :=
       let d := { nodeOf 2 4 with cmd := { cmdOf 2 7 with
         param := (((cmdOf 2 7).param.set 0 0x100).set 2 0x102).set 4 (BitVec.ofNat 32 n) } }
       let s := withNode d
       { s with mem := { s.mem with
         dev := [(0x100, 1), (0x101, 2), (0x102, 3), (0x104, 9)]
         regions := [(3, [⟨0, 4096, 0, 7, 1⟩])] } }
     let bad := { copy 3 with mem := { (copy 3).mem with regions := [(3, [⟨0, 256, 0, 7, 1⟩])] } }
     let ok (o : Host.Outcome State Fault Refusal) : Bool := node0 o fun e => e.result == some 0 && e.state == 4
     opNop == 0 && opFence == 9 && opMark == 10 && ok (exec (.nopCommand 0) (s 0)) && ok (exec (.fenceCommand 0) (s 9))
       && nextEq (exec (.fenceCommand 0) held) held && ok (exec (.markCommand 0) (s 10))
       && node0 (exec (.launchCommand 0) (withNode launch)) (fun e => e.landing && e.state == 4)
       && ((copy 3).node 0).map (fun d => ((copy 3).checkRanges 3 (deviceRanges (copyRanges d))).1) == some 0
       && ok (exec (.copyCommand 0 [] false) (copy 3)) && ok (exec (.copyCommand 0 [] false) (copy 0))
       && nextIs (exec (.copyCommand 0 [] false) (copy 3)) (fun t => t.mem.dev == [(0x100, 1), (0x101, 2), (0x102, 1), (0x103, 2), (0x104, 3)])
       && (bad.node 0).map (fun d => (bad.checkRanges 3 (deviceRanges (copyRanges d))).1) == some 2
       && nextIs (exec (.copyCommand 0 [] false) bad) (fun t => (t.ring 24).fault.map (·.cause) == some fcTranslation)) = true := by
  decide +kernel

/-! ### Tables -/

/-- A live table of 9 rows of 2 bytes at 0x1000, with bitmaps at 0x2000 and 0x3000, and a cold cache of 8 lines when asked. -/
def tableOf (state flags : Nat) : Table :=
  ⟨3, 1, BitVec.ofNat 8 flags, 2, 0x1000, 9, 8, state, 6, 0x2000, 0x3000, 0x8000000000040000, 8, 0, 0, 0, 0, 0, [], [], 0⟩

/-- A state with table 5 and one dispatched command of context 3. -/
def tableState (x : Table) (d : Node) (mem : List Host.Cell) : State :=
  let s := withNode d
  { s with
    ctxs := [(3, { Context.reset with tallyBase := 0x8000000000010000 })]
    mem := { s.mem with
      dev := mem
      tables := [(5, x)]
      regions := [(3, [⟨0, 65536, 0, 7, 1⟩])]
      xlat := [⟨some 0, 0, 30, 0, true, true⟩] } }

/-- A dispatched command with parameter words. -/
def param (op : Nat) (l : List (Nat × Nat)) : Node :=
  { nodeOf op 4 with cmd := { cmdOf op 7 with param := Vector.ofFn fun i => BitVec.ofNat 32 (((l.find? fun p => p.1 = i.val).map (·.2)).getD 0) } }

/-- R291, R292, R296, R298, R299, R302, R303: an UPDATE of the last row and of one past it, an EPOCH, both ends of table states, a
GATHER of one row, and a fetch of the cold tier. -/
theorem test_Tables :
    (let upd := param 4 [(0, 5), (1, 1), (2, 0x40000), (3, 0x80000000), (4, 0x500)]
     let s := tableState (tableOf 1 1) upd [(0x500, 0xAB), (0x507, 1)]
     let ep (st : Nat) : State := tableState (tableOf st 1) (param 5 [(0, 5)]) [(0x2000, 0xFF), (0x2001, 1)]
     let bag := param 3 [(0, 5), (1, 1), (2, 0x100), (4, 0x7FFF8), (5, 0x100)]
     let g := tableState (tableOf 1 0) bag [(0x101, 2), (0x108, 1), (0x1042, 0x80), (0x1043, 0x3F)]
     let cold := { g with mem := { g.mem with tables := [(5, { tableOf 1 4 with fills := [8, 3] })] } }
     let passes (s : State) (l : List (Nat × Nat × Bool)) : Bool := (s.checkRanges 3 l).1 == 0
     !s.earlierOn upd opUpdate 5 && !s.earlierOn upd opEpoch 5 && !s.moversLost 0 && passes s (deviceRanges (updateRanges upd (tableOf 1 1)))
       && s.rangesTranslated 3 (s.hostRanges upd.cmd) 5 0 == none && (tableOf 1 1).bitmap 7 + 1 == 0x3001
       && nextIs (exec (.updateCommand 0 [8] [] none) s) (fun t => (t.node 0).map (·.result) == some (some 0)
         && Cells.read t.mem.dev (0x1000 + 17 * 8) == 0xAB && Cells.read t.mem.dev (0x1000 + 17 * 8 + 7) == 1
         && Cells.read t.mem.dev 0x3001 == 1 && t.mem.dev.length == 5)
       && nextIs (exec (.updateCommand 0 [9] [] none) s) (fun t => t.mem.dev == s.mem.dev && (t.table 5).map (·.invalidIds) == some 1)
       && (ep 1).tallyOpen 3 (0x1000 + 32 + 8) 24 == none && (ep 1).tallyOpen 3 8 8 == none
       && nextIs (exec (.epochCommand 0) (ep 1)) (fun t => (t.table 5).map (fun x => (x.epoch, x.state)) == some (7, 2)
         && t.outputs.length == 3 && (t.node 0).map (·.result) == some (some 0))
       && nextIs (exec (.epochCommand 0) (ep 2)) (fun t => (t.table 5).map (·.state) == some 2 && t.outputs == []
         && (t.node 0).map (·.result) == some (some stStateReject))
       && nextIs (exec (.epochDrainEnd 5) (ep 2)) (fun t => (t.table 5).map (·.state) == some 1 && t.dev 0x3000 2 == [0xFF, 1])
       && nextIs (exec (.tableRestoreDone 5) (ep 3)) (fun t => (t.table 5).map (·.state) == some 1 && t.dev 0x3000 2 == [0xFF, 1])
       && nextEq (exec (.epochDrainEnd 5) (ep 1)) (ep 1) && nextEq (exec (.tableRestoreDone 5) (ep 1)) (ep 1)
       && g.bag bag 0 == some (0x200, 1) && g.gatherUnits ((tableOf 1 0).gatherPort 0) != [] && passes g (g.gatherRanges bag)
       && nextIs (exec (.gatherCommand 0 false) g) (fun t => (t.node 0).map (·.result) == some (some 0) && t.mem.gathers.length == 1)
       && (tableOf 1 4).victim 8 == 0 && (tableOf 1 4).victim 3 == 4
       && nextIs (exec (.coldFill 5 3 [1, 2, 3, 4, 5, 6, 7, 8]) cold) (fun t => (t.table 5).map (·.fills) == some [8]
         && t.dev (0x1000 + 4 * 8) 8 == [1, 2, 3, 4, 5, 6, 7, 8])
       && nextEq (exec (.coldFill 5 2 []) cold) cold) = true := by
  decide +kernel

/-- R291, R292: the bag of row 0 of F32 values 1 and 0 is pooled into the last bytes of stand memory. -/
theorem test_Tables_pool :
    (let bag := param 3 [(0, 5), (1, 1), (2, 0x100), (4, 0x7FFF8), (5, 0x100)]
     let g := tableState (tableOf 1 0) bag [(0x101, 2), (0x108, 1), (0x1002, 0x80), (0x1003, 0x3F)]
     nextIs (exec (.gatherCommand 0 false) g) fun t =>
       Cells.bytes (t.stand 0).mem 0x7FFF8 8 == [0, 0, 0x80, 0x3F, 0, 0, 0, 0] && (t.stand 0).mem.length == 2) = true := by
  decide +kernel

/-! ### Semaphores, remote signals and host steps -/

/-- A message of core 5 of an open context to shared semaphore 9. -/
def semMsg (op : SemOp) : SemMsg := ⟨.shared 9, .core 5, 1, 6, none, 2, 3, 0, 77, op⟩

/-- Shared semaphore 9 of context 3 at a value, with a message on its way. -/
def semState (mono : Bool) (value : Nat) (m : List SemMsg) : State :=
  let s := withNode (nodeOf 0 1)
  { s with fab := { s.fab with shared := [(9, ⟨mkSem mono false false value, true, 3, [0, 0, 0]⟩)], msgs := m } }

/-- R169, R175, R348–R354, R359, R363–R365: each operation at, below and above the value; a stale one; commands that send them. -/
theorem test_SemaphoreFabric :
    (let cyc (value : Nat) (op : SemOp) (p : State → Bool) : Bool :=
       nextIs (exec (.semaphoreCycle ⟨.shared 9, .clean⟩ [.core 5]) (semState false value [semMsg op])) fun t => t.fab.msgs == [] && p t
     let at9 (t : State) : Nat := semValue (t.sem (.shared 9))
     let stale := { semMsg (.signal 2) with resetCount := 1 }
     let fencedTo : SemMsg := { semMsg (.signal 2) with sem := .core 7 0 }
     let broken : State :=
       let s := semState false 5 [fencedTo]
       { s with stands := [(0, { Stand.reset with fencedMask := 0x80 })] }
     let cmd (op target n wide : Nat) : State := tableState (tableOf 1 1) (param op [(0, target), (1, wide), (2, n), (3, 1)]) []
     (semState false 5 []).arrival (semMsg .read) == 0 && (semState false 5 []).arrival stale == 1 && broken.arrival fencedTo == 2
       && cyc 5 (.signal 16777215) (fun t => semOverflow (t.sem (.shared 9)))
       && cyc 5 (.signal 1) (fun t => at9 t == 6)
       && cyc 5 (.init 16777215 true) (fun t => at9 t == 16777215 && semMono (t.sem (.shared 9)))
       && cyc 5 .read (fun t => at9 t == 5 && t.fab.releases == [⟨5, 1, 6, mkSem false false false 5, .shared 9, 3, 0, 0⟩])
       && cyc 5 (.take 5) (fun t => at9 t == 0 && t.fab.releases == [⟨5, 1, 6, 0, .shared 9, 3, 0, 5⟩])
       && cyc 5 (.take 6) (fun t => at9 t == 5 && t.fab.waiters.map (fun w => (w.core, w.amount, w.take)) == [(some 5, 6, true)] && t.fab.waiters.map (fun w => (w.ctx, w.watchdog)) == [(3, 77)])
       && cyc 5 (.waitge 5) (fun t => at9 t == 5 && t.fab.releases == [⟨5, 1, 6, 0, .shared 9, 3, 0, 0⟩] && t.fab.waiters == [])
       && cyc 5 (.waitge 6) (fun t => t.fab.waiters.map (fun w => (w.core, w.amount, w.take)) == [(some 5, 6, false)])
       && nextIs (exec (.semaphoreCycle ⟨.shared 9, .clean⟩ [.core 5]) (semState false 5 [stale])) (fun t => t.fab.stale == 1 && at9 t == 5)
       && nextIs (exec (.semaphoreCycle ⟨.shared 9, .clean⟩ [.core 5]) (semState false 5 [{ stale with kind := 1, node := some 0 }]))
         (fun t => t.fab.stale == 0 && (t.node 0).map (fun d => (d.signalState, d.signalDropped)) == some (2, true))
       && nextIs (exec (.semaphoreCycle ⟨.core 7 0, .clean⟩ [.core 5]) broken) (fun t => t.fab.fencedOps == 1 && t.sem (.core 7 0) == 0)
       && nextIs (exec (.semaphoreCycle ⟨.shared 9, .corrected 0⟩ [.core 5]) (semState false 5 [semMsg .read])) (fun t => t.flt.memoryCe == 1
         && at9 t == 5 && t.fab.releases.length == 1)
       && nextIs (exec (.semaphoreCycle ⟨.shared 9, .uncorrectable⟩ []) (semState false 5 [semMsg .read])) (fun t => t.sem (.shared 9) == 0
         && t.fab.msgs.length == 1)
       && targetOf 0 == some (.core 0 0, none)
       && nextIs (exec (.signalCommand 0) (cmd 7 0 4 0)) (fun t => (t.node 0).map (·.signalState) == some 2
         && t.fab.msgs == [⟨.core 0 0, .command 24, 0, 0, some 0, 0, 3, 0, 0, .signal 4⟩])
       && nextIs (exec (.waitCommand 0) (cmd 8 0 4 0)) (fun t => (t.node 0).map (·.signalState) == some 1
         && t.fab.msgs == [⟨.core 0 0, .command 24, 0, 0, some 0, 0, 3, 0, 0, .take 4⟩])) = true := by
  decide +kernel

/-- R169: a SIGNAL to device 2, without and with an open flow to it. -/
theorem test_SemaphoreFabric_remote :
    (let d := param 7 [(0, 0x200000), (1, 0x40000000), (2, 4)]
     let s := withNode d
     let open2 := { s with ecl := { s.ecl with flows := [(1, { Flow.reset with ctx := 3, peer := 2, peerCtx := 6, state := 2 })] } }
     let sends (s : State) (sent : Bool) : Bool := nextIs (exec (.signalCommand 0) s) fun t =>
       t.ecl.signals == [⟨24, 0, 7, 0, 2, 0x4000000000200000, 4, sent, if sent then some 6 else none⟩] && (t.node 0).map (·.signalState) == some (if sent then 2 else 1)
     targetOf (d.cmd.wide 0) == some (.core 0 0, some 2) && open2.openFlow 3 2 == some 1 && sends s false && sends open2 true) = true := by
  decide +kernel

/-- R351, R357–R360: releases to a waiting and to a flushed instruction, the watchdog, and the TIMEOUT of a WAIT. -/
theorem test_WaitsAndBindings_waits :
    (let q : QInstr := ⟨6, 0x65, fld 7 1 2 0 0 0, 1, 16, .clean, true, []⟩
     let rel (returns : Nat) : Release := ⟨5, 1, 6, 0x55, .shared 9, 3, 0, returns⟩
     let s (inflight : List QInstr) (r : List Release) (w : List Waiter) : State :=
       let s := semState false 5 []
       { s with
         cores := [(5, { coreAt 16 0 0 0 0 with inflight := inflight })]
         fab := { s.fab with releases := r, waiters := w } }
     let w (take : Bool) : Waiter := ⟨.shared 9, some 5, 1, 6, none, 3, 0, 5, 6, take⟩
     let off := s [] [] [{ w true with watchdog := 0 }]
     let old := { rel 4 with resetCount := 1 }
     let fenced := { s [] [{ rel 4 with sem := .core 7 0 }] [] with stands := [(0, { Stand.reset with fencedMask := 0x80 })] }
     let cmd (t : Nat) : State :=
       let s := semState false 5 []
       { s with
         dv := { s.dv with nodes := [(0, param 8 [(0, 0x240), (1, 0x80000000), (2, 6), (4, t)])] }
         fab := { s.fab with waiters := [⟨.shared 9, none, 0, 0, some 0, 3, 0, 0, 6, true⟩] } }
     nextIs (exec (.semaphoreRelease 5 1) (s [q] [rel 0] [])) (fun t => t.fab.releases == [] && (t.core 5).inflight == []
         && (t.core 5).s 7 == 0x55 && (t.core 5).pc == 16)
       && nextEq (exec (.semaphoreRelease 5 1) (s [] [rel 0] [])) (s [] [] [])
       && nextIs (exec (.semaphoreRelease 5 1) (s [] [rel 4] [])) (fun t => semValue (t.sem (.shared 9)) == 9 && t.fab.releases == []
         && t.fab.returns == 1)
       && nextIs (exec (.semaphoreRelease 5 1) (s [] [old] [])) (fun t => semValue (t.sem (.shared 9)) == 5 && t.fab.stale == 1 && t.fab.returns == 0)
       && nextIs (exec (.semaphoreRelease 5 1) fenced) (fun t => t.sem (.core 7 0) == 0 && t.fab.fencedOps == 1 && t.fab.returns == 0)
       && nextIs (exec (.waitWatchdogFire 5 1) (s [] [] [w true])) (fun t => t.fab.waiters == [] && t.fab.watchdogFires == 1
         && t.fab.releases == [⟨5, 1, 6, BitVec.ofNat 32 stTimeout, .shared 9, 3, 0, 0⟩] && semUnderflow (t.sem (.shared 9)) && semValue (t.sem (.shared 9)) == 5)
       && nextIs (exec (.waitWatchdogFire 5 1) (s [] [] [w false])) (fun t => t.fab.waiters == [] && !semUnderflow (t.sem (.shared 9)))
       && nextEq (exec (.waitWatchdogFire 5 1) off) off
       && nextEq (exec (.waitTimeout 0) (cmd 0)) (cmd 0)
       && nextIs (exec (.waitTimeout 0) (cmd 1)) (fun t => t.fab.waiters == [] && (t.node 0).map (·.result) == some (some stTimeout)
         && semValue (t.sem (.shared 9)) == 5)) = true := by
  decide +kernel

/-- R366, R367, R374: bindings of the last shared semaphore and refusals. -/
theorem test_WaitsAndBindings :
    (let s0 := ringState idleRing
     let s (b : Bool) : State := { s0 with fab := { s0.fab with shared := [(4095, ⟨7, b, 3, [0, 0, 0]⟩)] } }
     let l := u16 4095 ++ u16 3 ++ u16 0 ++ u16 0 ++ u16 0 ++ u16 1
     let refused (i : Instr) (s : State) (c : Word) : Bool := nextIs (exec i s) fun t => t.cat.answer == c && t.fab == s.fab
     nextIs (exec (.bind l) (s false)) (fun t => t.cat.answer == 0 && t.shared 4095 == ⟨mkSem true false false 0, true, 3, [0, 0, 0]⟩)
       && refused (.bind l) (s true) 0x0C000007 && refused (.bind []) (s true) 0x0C000005
       && nextIs (exec (.unbind 4095) (s true)) (fun t => t.cat.answer == 0 && t.shared 4095 == ⟨7, false, 3, [0, 0, 0]⟩)
       && refused (.unbind 4095) (s false) 0x0C000007 && refused (.unbind 4096) (s true) 0x0C000006) = true := by
  decide +kernel

/-- R370, R388–R390: a SIGNAL message above its mark, at its mark, and of a context without the right; an acknowledgement. -/
theorem test_RemoteSignals :
    (let m (seq : Nat) : SignalMsg := ⟨1, 7, 0, 4, BitVec.ofNat 64 seq, 0x8000000000000240⟩
     let s (ctx : Nat) (l : List (List Byte)) : State :=
       let s := semState false 5 []
       { s with
         ctxs := [(3, Context.reset), (4, Context.reset)]
         ecl := { s.ecl with
           flows := [(1, { Flow.reset with ctx := ctx, peer := 2, peerCtx := 6, state := 2, inbox := l })]
           marks := [⟨ctx, 2, 6, (List.replicate 16 0).set 15 8⟩] } }
     let value (t : State) : Nat := semValue (t.sem (.shared 9))
     let sig (kind : Nat) (l : List (List Byte)) : State :=
       let s := s 3 l
       { s with ecl := { s.ecl with signals := [⟨24, kind, 7, 0, 2, 0x240, 4, true, some 6⟩] } }
     let told (n ctx : Nat) (p : State → Bool) : Bool := (s ctx [signalBytes (m n), [7]]).delivers 1 (signalBytes (m n))
       && nextIs (exec (.remoteSignal 1 (m n)) (s ctx [signalBytes (m n), [7]])) fun t => (t.flow 1).inbox == [[7]] && p t
     let ack (kind : Nat) : SignalMsg := ⟨BitVec.ofNat 8 kind, 0, 0, 0, 7, 0⟩
     ((s 3 []).flowMarks 1).getD 15 0 == 8 && (s 3 []).remoteAllowed 3 (.shared 9) && !(s 4 []).remoteAllowed 4 (.shared 9)
       && told 9 3 (fun t => value t == 9 && t.fab.remoteDuplicates == 0)
       && told 8 3 (fun t => value t == 5 && t.fab.remoteDuplicates == 1)
       && told 9 4 (fun t => value t == 5 && t.fab.remoteRefused == 1)
       && nextEq (exec (.remoteSignal 1 (m 9)) (s 3 [[7], signalBytes (m 9)])) (s 3 [[7], signalBytes (m 9)])
       && nextEq (exec (.signalAck 1 (ack 0)) (sig 0 [])) (sig 0 []) && (sig 0 [ackBytes (ack 0)]).delivers 1 (ackBytes (ack 0))
       && nextIs (exec (.signalAck 1 (ack 0)) (sig 0 [ackBytes (ack 0)])) (fun t => t.ecl.signals == [] && (t.node 0).map (·.result) == some (some 0))
       && nextIs (exec (.signalAck 1 (ack 1)) (sig 1 [ackBytes (ack 1)])) (fun t => t.ecl.signals == [] && (t.node 0).map (·.signalState) == some 2)) = true := by
  decide +kernel

/-- R341–R343: a HOSTSTEP with and without a mailbox, a second one, and replies. -/
theorem test_HostSteps :
    (let d := param 11 [(0, 77), (2, 5)]
     let s (mailbox : Nat) (seq : Nat) (mask : Bool) : State :=
       let s := withNode d
       { s with
         rings := [(24, { s.ring 24 with mailbox := BitVec.ofNat 64 mailbox, stepSeq := seq, maskNotify := mask, vectors := 4 })]
         mem := { s.mem with xlat := [⟨some 0, 0, 30, 0, true, true⟩] } }
     !(s 0 0 false).earlierStep d && (s 0 7 false).nodeOf 24 7 == some 0
       && nextIs (exec (.hostStepCommand 0) (s 0 0 false)) (fun t => (t.ring 24).stepSeq == 7 && (t.ring 24).stepId == 77
         && (t.ring 24).stepCookie == 5 && t.outputs == [.msix 4])
       && nextIs (exec (.hostStepCommand 0) (s 0x8000000000001000 0 true)) (fun t => (t.ring 24).stepSeq == 7
         && t.outputs == [.hostWrite (some 0) 0x1000 ((s 0 0 false).stepRecord d)])
       && nextEq (exec (.hostStepCommand 0) (s 0 3 false)) (s 0 3 false)
       && nextEq (exec (.stepReply 24 8) (s 0 7 false)) (s 0 7 false)
       && nextIs (exec (.stepReply 24 7) (s 0 7 false)) (fun t => (t.ring 24).stepSeq == 0 && (t.node 0).map (·.result) == some (some 0))) = true := by
  decide +kernel

/-! ### Eclahild, fabric time and exchange ports -/

/-- Port 0 is UP and port 7 is enabled; flow 1 of context 3 to device 2 is in a state. -/
def wireState (st : Nat) (x : Flow) : State :=
  let s := withNode (nodeOf 0 1)
  { s with ecl := { s.ecl with
    ports := [(0, { XPort.reset with enable := true, linkUp := true }), (7, { XPort.reset with enable := true })]
    incarnation := 99
    flows := [(1, { x with ctx := 3, peer := 2, peerCtx := 6, planes := 0x81, state := st, remote := 8, peerInc := 55 })]
    marks := [⟨3, 2, 6, List.replicate 16 0⟩] } }

/-- A packet of device 2 for flow 1, with its CRC. -/
def packetOf (type : Byte) (last : Bool) (psn ack : Nat) (seg : List Byte) : Packet :=
  let p : Packet := ⟨State.reset.frameHeader 0 2 0, 1, if last then 1 else 0, 0, BitVec.ofNat 16 seg.length, 2, 0, 8, 1, 0, BitVec.ofNat 32 psn, BitVec.ofNat 32 ack, 55, 99, seg, 0, []⟩
  { p with crc := packetCrc type p }

/-- The one packet that has left: its port, type and the packet. -/
def leaves (t : State) (port type : Nat) (q : Packet → Bool) : Bool :=
  match t.outputs with
  | [.packet a ty p] => a == port && ty == BitVec.ofNat 8 type && q p
  | _ => false

/-- R379–R382, R390, R397: the states of a flow, and its mark set. -/
theorem test_Flows_states :
    (let s := wireState 0 Flow.reset
     let rec0 (f p : Nat) : List Byte := u16 f ++ u16 3 ++ u16 p ++ u16 6 ++ [0x81] ++ List.replicate 7 0
     let body := u16 6 ++ u16 3 ++ [0x81, 0, 0, 0]
     let op := packetOf typeOpen false 0 0 body
     let oa := packetOf typeOpenAck false 0 0 body
     let other := packetOf typeOpen false 0 0 (u16 7 ++ u16 3 ++ [1, 0, 0, 0])
     let cl := packetOf typeClose false 0 0 []
     let cd := packetOf typeClosed false 0 0 []
     s.upPlanes 0x81 == [0] && ((wireState 1 Flow.reset).receive 0 typeOpen op).2 && (wireState 1 Flow.reset).matchOpen op == some 1
       && (wireState 1 Flow.reset).matchOpen other == none
       && nextIs (exec (.flowOpen (rec0 16382 16383)) s) (fun t => t.cat.answer == 0 && (t.flow 16382).state == 1 && t.outputs.length == 1
         && (t.flow 16382).peer == 16383 && t.hasMarks 3 16383 6)
       && nextIs (exec (.openRetryTimer 1) (wireState 1 Flow.reset)) (fun t => leaves t 0 4 fun p => p.srcFlow == 1)
       && nextEq (exec (.openRetryTimer 1) s) s
       && nextIs (exec (.openPacket 0 op) (wireState 1 Flow.reset)) (fun t => (t.flow 1).state == 2 && (t.flow 1).remote == 8
         && leaves t 0 5 fun p => p.dstFlow == 8)
       && nextIs (exec (.openPacket 0 other) (wireState 1 Flow.reset)) (fun t => t.ecl.unmatchedOpens == 1 && t.outputs == [])
       && nextIs (exec (.openAck 0 oa) (wireState 1 Flow.reset)) (fun t => (t.flow 1).state == 2 && t.outputs == [])
       && nextIs (exec (.flowClose 1) (wireState 2 Flow.reset)) (fun t => (t.flow 1).state == 0 && (t.flow 1).reason == 1 && t.cat.answer == 0)
       && nextIs (exec (.flowClose 16382) s) (fun t => t.cat.answer == 0x0C000007)
       && nextIs (exec (.closePacket 0 cl) (wireState 2 Flow.reset)) (fun t => (t.flow 1).state == 0 && (t.flow 1).reason == 2)
       && nextIs (exec (.closed 0 cd) (wireState 2 Flow.reset)) (fun t => (t.flow 1).state == 0 && (t.flow 1).reason == 3)
       && nextIs (exec (.markRelease (u16 3 ++ u16 2 ++ u16 6)) s) (fun t => t.cat.answer == 0 && t.ecl.marks == [])) = true := by
  decide +kernel

/-- R383, R385, R386: packets at the ends of the PSN range, and each timer. -/
theorem test_Flows :
    (let x (e : Nat) (u : List TxPacket) (owed : Nat) (gap : Option Nat) : State :=
       wireState 2 { Flow.reset with expected := e, unacked := u, ackOwed := owed, gapSince := gap }
     let u : TxPacket := ⟨4, true, [0x10, 1], 7, 0, 0, 0⟩
     let d (psn : Nat) : Packet := packetOf typeData true psn 1 [0x10, 9]
     let again (o : Host.Outcome State Fault Refusal) : Bool := nextIs o fun t => (t.flow 1).unacked == [{ u with plane := 0, retries := 1 }]
       && (t.flow 1).retransmits == 1 && leaves t 0 1 fun p => p.psn == 4 && p.segment == [0x10, 1]
     ((x 0 [] 0 none).receive 0 typeData (d 0)).2 && ((x 4 [u] 0 none).receive 0 typeNak (packetOf typeNak false 4 4 [])).2
       && nextIs (exec (.data 0 (d 0xFFFFFFFF)) (x 0xFFFFFFFF [] 14 none)) (fun t => (t.flow 1).expected == 0 && (t.flow 1).ackOwed == 15
         && (t.flow 1).inbox == [[0x10, 9]] && t.outputs == [])
       && nextIs (exec (.ack 0 (packetOf typeAck false 0 5 [])) (x 1 [u] 0 none)) (fun t => (t.flow 1).unacked == [])
       && nextIs (exec (.ack 0 (packetOf typeAck false 0 4 [])) (x 1 [u] 0 none)) (fun t => (t.flow 1).unacked == [u])
       && again (exec (.nak 0 (packetOf typeNak false 4 4 [])) (x 1 [u] 0 none)) && again (exec (.rtoExpiry 1) (x 1 [u] 0 none))
       && nextEq (exec (.rtoExpiry 1) (x 1 [] 0 none)) (x 1 [] 0 none)
       && nextIs (exec (.ackTimer 1) (x 9 [] 1 none)) (fun t => (t.flow 1).ackOwed == 0 && leaves t 0 2 fun p => p.ackPsn == 9)
       && nextIs (exec (.nakTimer 1) (x 9 [] 0 (some 0))) (fun t => leaves t 0 3 fun p => p.psn == 9)
       && nextEq (exec (.ackTimer 1) (x 9 [] 0 none)) (x 9 [] 0 none) && nextEq (exec (.nakTimer 1) (x 9 [] 0 none)) (x 9 [] 0 none)
       && nextIs (exec (.data 0 { d 1 with crc := 0 }) (x 1 [] 0 none)) (fun t => (t.xport 0).crcErrors == 1 && (t.flow 1).expected == 1)
       && (x 1 [] 0 none).ours (d 1) && nextEq (exec (.data 0 { d 1 with header := List.replicate 14 0 }) (x 1 [] 0 none)) (x 1 [] 0 none)) = true := by
  decide +kernel

/-- R393, R394, R511: one exchange, step by step, and the 1588 input. -/
theorem test_TimeAndPorts_time :
    (let s (ex : Option TimeExchange) (source : Nat) : State :=
       let s := wireState 2 Flow.reset
       { s with clock := { s.clock with now := 1000, source := source, exchange := ex } }
     let p (op ta : Nat) : Packet := packetOf typeTime false 0 0 (timeBody op ta 6)
     let down : State := { s none 2 with ecl := Eclahild.reset }
     (s none 2).timeMaster == some 2 && (s none 0xFFFF).timeMaster == none && ((s none 2).receive 0 typeTime (p 4 0)).2
       && nextIs (exec (.syncReq 0 (p 4 0)) (s none 2)) (fun t => leaves t 0 8 fun q => q.segment == timeBody 1 1000 6)
       && nextIs (exec (.delayReq 0 (p 2 0)) (s none 2)) (fun t => leaves t 0 8 fun q => q.segment == timeBody 3 1000 6)
       && nextIs (exec (.sync 0 (p 1 900)) (s (some ⟨6, 0, 0, 0, 0, 1⟩) 2)) (fun t => t.clock.exchange == some ⟨6, 0, 900, 1000, 1000, 2⟩
         && leaves t 0 8 fun q => q.segment == timeBody 2 0 6)
       && nextIs (exec (.delayResp 0 (p 3 1300)) (s (some ⟨6, 0, 900, 1000, 1000, 2⟩) 2)) (fun t => t.clock.exchange == none
         && t.clock.offset == 100 && t.clock.pathDelay == 200)
       && nextEq (exec .syncIntervalTimer (s none 0xFFFF)) (s none 0xFFFF)
       && nextIs (exec .syncIntervalTimer (s none 2)) (fun t => t.clock.exchange == some ⟨1, 0, 0, 0, 0, 1⟩
         && leaves t 0 8 fun q => q.segment == timeBody 4 0 1)
       && nextIs (exec .syncIntervalTimer down) (fun t => t.clock.missed == 1 && t.outputs == [])
       && nextEq (exec (.ppsEdge 5000 true) (s none 2)) (s none 2)
       && nextIs (exec (.ppsEdge 5000 true) (s none 0xFFFE)) (fun t => t.clock.offset == 4000)
       && nextIs (exec (.ppsEdge 5000 false) (s none 0xFFFE)) (fun t => t.clock.missed == 1 && t.clock.now == 1000)) = true := by
  decide +kernel

/-- R378, R429, R507: links and lanes of a port. -/
theorem test_TimeAndPorts :
    (let s (l : List Nat) : State :=
       let s := wireState 0 Flow.reset
       { s with ecl := { s.ecl with ports := [(0, { XPort.reset with enable := true, linkUp := true, lanesFailed0 := l })] } }
     let dead := { s [] with ecl := { (s []).ecl with ports := [(0, { XPort.reset with enable := true, failed := true })] } }
     let spared (i : Instr) : Bool := nextIs (exec i (s [])) (fun t => (t.xport 0).lanesFailed0 == [5] && t.flt.lanesSpared == 1 && t.flt.repair && !t.flt.degraded)
       && nextIs (exec i (s [4])) fun t => (t.xport 0).failed && t.flt.degraded
     nextIs (exec (.macLinkChange 7 true) (s [])) (fun t => (t.xport 7).linkUp && t.xport 0 == (s []).xport 0)
       && nextIs (exec (.macLinkChange 0 false) (s [])) (fun t => !(t.xport 0).linkUp)
       && nextIs (exec (.macFault 0) (s [])) (fun t => (t.xport 0).failed && t.flt.degraded && t.flt.repair && t.flt.generation == 1 && t.flt.logNext == 1)
       && nextEq (exec (.macFault 0) dead) dead
       && spared (.macLaneFail 0 0 5) && spared (.exchangeLaneTest 0 [(0, 5)]) && spared (.laneWordUncorrectable 0 0 5)
       && nextEq (exec (.laneWordUncorrectable 7 0 5) (s [])) (s [])) = true := by
  decide +kernel

/-! ### Expert routing -/

/-- A layer descriptor of context 3: two experts, one pick, with a flags byte and a STEP_TIMEOUT. -/
def layerBytes (flags timeout : Nat) : List Byte :=
  u16 3 ++ u8 flags ++ u8 1 ++ u32 2 ++ u8 1 ++ u8 1 ++ u16 16 ++ u16 16 ++ u16 0 ++ u32 4 ++ u32 0
    ++ u64 0x2000 ++ u64 0x2100 ++ u64 0x2200 ++ u16 1 ++ u8 1 ++ u8 0 ++ u32 0x40000000 ++ u32 0x3F800000 ++ u32 timeout

/-- A dispatched ROUTE of one token on layer 5 in generation 4095. -/
def routeNode : Node := param 6 [(0, 5), (1, 1), (2, 4095), (4, 0x100), (6, 0x200), (8, 0x300)]

/-- A state with that ROUTE, layer 5 of half 0, and flow 1 open to device 2. -/
def routeState (l : Layer) (x : Experts) (inbox : List (List Byte)) : State :=
  let s := tableState (tableOf 1 1) routeNode []
  { s with
    ctxs := [(3, { Context.reset with shapeSize := 16 })]
    exp := { x with layers := [(5, l)], engines := [(0, { Engine.reset with poolBase := 0x8000, poolSize := 4096 })] }
    ecl := { s.ecl with flows := [(1, { Flow.reset with ctx := 3, peer := 2, peerCtx := 6, state := 2, inbox := inbox })] } }

def layer5 (timeout : Nat) : Layer := { Layer.reset with bytes := layerBytes 1 timeout }

/-- The ROUTE in the engine with one delivery sent, whose one assignment is owed. -/
def openRoute : Route :=
  ⟨0, 3, 0, 5, 4095, [⟨1, false, [0], [0], 0, 0, 0, 0⟩], [⟨2, 0, some 1, 0, true, [(0, 0, 0)]⟩], [(0, 1)]⟩

/-- R315, R320, R323, R324, R332, R338, R344: a ROUTE that waits, starts, is answered or cancelled. -/
theorem test_RoutingSteps :
    (let l := layer5 10
     let s := routeState l Experts.reset []
     let busy := routeState l { Experts.reset with quarantines := [⟨0, 4095, [⟨2, 0, some 1⟩]⟩] } []
     let locked := routeState { l with locked := true } Experts.reset []
     let behind := { s with dv := { s.dv with nodes := [(0, { routeNode with dispatchOrder := 4 }), (1, { routeNode with dispatchOrder := 3 })] } }
     let run (b : List (List Byte)) : State := routeState l { Experts.reset with routes := [openRoute] } b
     let hd : RouteHdr := ⟨0, 0, 0, 4095, 0⟩
     let entry (st : Nat) : AnswerEntry := ⟨tokenTag 0 4095 0 0, st, List.replicate 16 1⟩
     let answer (st : Nat) : Instr := .answers (some 1) hd [entry st]
     let box (st : Nat) : List (List Byte) := [answersBytes hd [entry st]]
     let result (o : Host.Outcome State Fault Refusal) (r : Option Nat) : Bool := nextIs o fun t => (t.node 0).map (·.result) == some r && t.exp.routes == []
     let ranges : List (Nat × Nat × Bool) := [(0x100, 8, false), (0x200, 16, false), (0x300, 80, true)]
     (s.checkRanges 3 ranges).1 == 0 && l.nexp == 2 && l.maxK == 1 && s.generationBusy 0 4095 == false
       && nextEq (exec (.routeCommand 0 false) busy) busy && nextEq (exec (.routeCommand 0 false) locked) locked
       
       && nextIs (exec (.routeCommand 0 false) s) (fun t => t.exp.routes.map (fun x => (x.node, x.half, x.layer, x.generation, x.demand)) == [(0, 0, 5, 4095, [(0, 1)])]
         && (t.layer 0 5).tokens == 1 && (t.node 0).map (·.result) == some none)
       && result (exec (answer 0) (run (box 0))) (some stOk) && result (exec (answer 1) (run (box 1))) (some stOk) && result (exec (answer 2) (run (box 2))) (some stCancelled)
       && nextEq (exec (answer 0) (run [])) (run []) && behind.routeBehind 0 { routeNode with dispatchOrder := 4 }
       && nextEq (exec (.routeCommand 0 false) behind) behind && !s.routeBehind 0 routeNode
       && nextIs (exec (answer 0) (routeState l Experts.reset (box 0))) (fun t => (t.engine 0).lateAnswers == 1)
       && result (exec (.stepTimeoutExpiry 0) s) (some stCancelled) && result (exec (.layerCancel 0 5 4095) s) (some stCancelled)
       && result (exec (.stepTimeoutExpiry 0) (run [])) (some stCancelled)
       && nextEq (exec (.stepTimeoutExpiry 0) (routeState (layer5 0) Experts.reset [])) (routeState (layer5 0) Experts.reset [])
       && nextIs (exec (.layerCancel 0 5 4096) s) (fun t => t.cat.answer == 0x0C000006)) = true := by
  decide +kernel

/-- R326–R329, R332, R333: a delivery that fits exactly, one byte block too large, a token, and cancellation. -/
theorem test_ReceivePools :
    (let s0 (x : Experts) (l : List (List Byte)) : State :=
       let s := routeState (layer5 0) x l
       { s with
         rings := [(24, s.ring 24), (8192, { Ring.reset with ctx := 3, enabled := true })]
         mem := { s.mem with dev := [(0x7000, 1), (0x7002, 1), (0x7004, 16), (0x7006, 16)] } }
     let at' (l : List (List Byte)) (x : Experts) (pool : Nat) : State :=
       let t := s0 x l
       { t with exp := { t.exp with engines := [(0, { Engine.reset with expertTable := 0x7000, expertCount := 1, poolBase := 0x8000, poolSize := pool })] } }
     let s := at' []
     let hd : RouteHdr := ⟨1, 0, 1, 7, 0⟩
     let dl : List (List Byte) := [deliveryBytes hd 16 16 [(0, 2)]]
     let tk : TokenEntry := ⟨0x1234, 0, List.replicate 16 9⟩
     let w : WaitingDelivery := ⟨3, some 1, 0, 2, hd, 16, 16, [(0, 2)]⟩
     let p : Portion := ⟨0, 3, some 1, 2, 1, 7, 1, 0, 0, 2, 16, 16, 0x8000, 128, [], none, none, false, 0⟩
     let pl : Portion := { p with flow := none }
     let placed (o : Host.Outcome State Fault Refusal) : Bool := nextIs o fun t => t.exp.portions == [p] && t.exp.waiting == []
     let cancels (q : Portion) : State := s { Experts.reset with localMsgs := [⟨0, 3, hdrBytes 4 hd⟩], portions := [q] } 128
     portionSize 2 16 16 == 128 && !(s Experts.reset 128).portionRefused 0 3 0 16 16
       && placed (exec (.delivery (some 1) hd 16 16 [(0, 2)]) (at' dl Experts.reset 128))
       && nextEq (exec (.delivery (some 1) hd 16 16 [(0, 2)]) (s Experts.reset 128)) (s Experts.reset 128)
       && placed (exec (.deliveryAllocate 0) (s { Experts.reset with waiting := [w] } 128))
       && nextIs (exec (.delivery (some 1) hd 16 16 [(0, 2)]) (at' dl { Experts.reset with waiting := [w] } 128)) (fun t => t.exp.waiting == [w, w])
       && nextIs (exec (.delivery (some 1) hd 16 16 [(0, 2)]) (at' dl Experts.reset 127)) (fun t => (t.engine 0).poolRefused == 1
         && t.exp.portions.map (·.refused) == [1])
       && nextIs (exec (.tokens (some 1) hd [tk]) (at' [tokensBytes hd [tk]] { Experts.reset with portions := [p] } 128)) (fun t =>
         t.exp.portions == [{ p with tags := [0x1234] }] && t.dev 0x8000 16 == List.replicate 16 9 && t.dev 0x8020 2 == [0x34, 0x12])
       && nextIs (exec (.cancel none hd) (cancels pl)) (fun t => t.exp.portions == [] && t.exp.localMsgs == [⟨1, 3, hdrBytes 5 hd⟩])
       && nextIs (exec (.cancel none hd) (cancels { pl with launch := some (8192, 1) })) (fun t => t.exp.portions.map (·.cancelled) == [true])
       && nextIs (exec (.cancelAck none hd) (s { Experts.reset with
           localMsgs := [⟨1, 3, hdrBytes 5 hd⟩], quarantines := [⟨1, 7, [⟨0, 0, none⟩]⟩] } 128)) (fun t => t.exp.quarantines == [])) = true := by
  decide +kernel

/-- R312, R337, R344: descriptors, and windows of even and of uneven demand. -/
theorem test_Layers :
    (let s (l : Layer) : State :=
       let s := withNode (nodeOf 0 1)
       { s with ctxs := [(3, { Context.reset with shapeSize := 16 })], exp := { Experts.reset with layers := [(5, l)] } }
     let loop (w : Map Nat) : State := s { Layer.reset with bytes := layerBytes 3 0, ended := [w], streak := 7 }
     let none5 := { layer5 0 with ended := [[(1, 5)]] }
     !(s Layer.reset).layerBad (layerBytes 3 10) && (s Layer.reset).layerBad (layerBytes 3 9)
       && nextIs (exec (.descriptorWrite 0 5 (layerBytes 3 10)) (loop [])) (fun t => t.cat.answer == 0
         && t.layer 0 5 == { Layer.reset with bytes := layerBytes 3 10, streak := 7 })
       && nextIs (exec (.descriptorWrite 0 5 (layerBytes 1 10)) (loop [])) (fun t => (t.layer 0 5).streak == 0)
       && nextIs (exec (.descriptorWrite 0 5 []) (loop [])) (fun t => t.cat.answer == 0x0C000005)
       && nextIs (exec (.descriptorWrite 0 5 (layerBytes 3 9)) (loop [])) (fun t => t.cat.answer == 0x0C000006)
       && nextEq (exec (.biasWindowEnd 0 5) (s Layer.reset)) (s Layer.reset)
       && nextIs (exec (.biasWindowEnd 0 5) (s none5)) (fun t => t.layer 0 5 == layer5 0 && t.mem == (s none5).mem)
       && nextIs (exec (.biasWindowEnd 0 5) (loop [])) (fun t => (t.layer 0 5).streak == 0 && (t.layer 0 5).ended == [] && (t.layer 0 5).biasUpdates == 0)
       && nextIs (exec (.biasWindowEnd 0 5) { loop [(1, 5)] with
           exp := { Experts.reset with layers := [(5, { Layer.reset with bytes := (layerBytes 3 0).set 54 0xC0 |>.set 55 0x3F, ended := [[(1, 5)]] })] } }) (fun t =>
         (t.layer 0 5).streak == 1 && (t.layer 0 5).imbalanced == 1 && (t.layer 0 5).biasUpdates == 1)) = true := by
  decide +kernel

/-! ### Memory, regions and translation -/

/-- R282–R285, R505: a clean, a corrected and an uncorrectable block, partial writes, and the answers to lane remaps. -/
theorem test_MemoryBlocks :
    (let blk : List Byte := List.replicate 64 7
     let bad : List Byte := blk.set 63 8
     let chk := rsCheck blk
     let s0 := withNode launch
     let s (dev : List Host.Cell) : State := { s0 with mem := { s0.mem with dev := dev }
                                                       straps := { s0.straps with memCap := [1] } }
     let left (dev : List Host.Cell) (was : List Byte) : State := { s dev with mem := { (s dev).mem with partials := [⟨0, 127, was, [5], none⟩] } }
     let off := { s [] with set := { Settings.reset with scrubHours := 0 } }
     let remap (w : List (Nat × Nat)) : State := { s0 with mem := { s0.mem with ports := [(2, { MemPort.reset with
       remap := some (1, 9), remapWaiting := w, lanesFailed := (1, 9) :: w })] } }
     let lost (i : Instr) (action : Nat) : Bool := nextIs (exec i (s [])) fun t => (t.port 0).uncorrectable == 1 && t.mem.dev == []
       && t.flt.log.map (fun e => (e.cls, e.action, e.location)) == [(0x0A, action, 0)]
     rsDecode blk chk == some (blk ++ chk, []) && (rsDecode bad chk).map (·.1.take 64) == some blk
       && nextIs (exec (.rdata 0 127 (.unit 0) blk chk ⟨false, true⟩) (s [])) (fun t => decide ({ t with dbg := (s []).dbg } = s []))
       && nextIs (exec (.rdata 0 127 (.unit 0) bad chk ⟨false, false⟩) (s [])) (fun t => (t.port 0).corrected == 1 && (t.port 0).writebacks == 1
         && t.outputs == [.blockWrite 64 blk chk] && t.mem.dev == [])
       && (s []).onPort 64 64 && !(s []).onPort (2 ^ 30) 64
       && nextIs (exec (.scrub 0 64 bad chk ⟨false, true⟩) (s [])) (fun t => (t.port 0).corrected == 1 && (t.port 0).writebacksDropped == 1 && t.outputs == [])
       && lost (.rdata 0 64 (.unit 0) blk chk ⟨true, false⟩) 7 && lost (.scrub 0 64 blk chk ⟨true, true⟩) 0
       && nextIs (exec (.rdata 0 64 (.unit 0) blk chk ⟨true, false⟩) (s [])) (fun t => (t.node 0).map (·.uncorrectable) == some true)
       && nextIs (exec (.rdata 0 64 (.partialWrite 0) blk chk ⟨true, false⟩) (s [])) (fun t => (t.node 0).map (·.writeLost) == some true)
       && nextEq (exec (.scrub 0 64 blk chk ⟨true, true⟩) off) off && nextEq (exec (.scrub 0 (2 ^ 30) blk chk ⟨true, false⟩) (s [])) (s [])
       && nextIs (exec (.partialWrite 127 [5] 0 ⟨blk, chk, true⟩) (s [])) (fun t => t.mem.dev == [] && (t.port 0).uncorrectable == 1 && t.outputs == [] && (t.node 0).map (·.writeLost) == some true)
       && nextIs (exec (.partialWrite 127 [5] 0 ⟨blk, chk, true⟩) (left [(127, 5)] [9])) (fun t => t.mem.dev == [(127, 9)] && t.mem.partials == []
         && (t.node 0).map (·.writeLost) == some true)
       && (left [(127, 5)] [9]).dev 127 1 == [5]
       && nextIs (exec (.partialWrite 127 [5] 0 ⟨bad, chk, false⟩) (s [])) (fun t => (t.port 0).corrected == 1
         && t.outputs == [.blockWrite 64 (blk.set 63 5) (rsCheck (blk.set 63 5))])
       && nextIs (exec (.partialWrite 127 [5] 0 ⟨blk, chk, false⟩) (left [(127, 5)] [9])) (fun t => t.mem.dev == [(127, 5)] && t.mem.partials == []
         && (t.node 0).map (·.writeLost) == some false)
       && nextIs (exec (.partialWrite 127 [5] 0 ⟨blk, chk, false⟩) (s [])) (fun t => t.mem.dev == [(127, 5)]
         && t.outputs == [.blockWrite 64 (blk.set 63 5) (rsCheck (blk.set 63 5))])
       && nextEq (exec (.laneRemapRsp 3 true) (remap [])) (remap [])
       && nextIs (exec (.laneRemapRsp 2 true) (remap [])) (fun t => t.flt.spare && (t.port 2).remap == none && (t.port 2).lanesFailed == [(1, 9)])
       && nextIs (exec (.laneRemapRsp 2 false) (remap [(0, 3)])) (fun t => t.flt.lanesSpared == 1 && (t.port 2).remap == some (0, 3)
         && (t.port 2).lanesFailed == [(0, 3)] && t.flt.entries == [⟨0x0A, 0, 18, 9, 0⟩])
       && (let held := { remap [] with flt := { State.reset.flt with entries := [⟨0x0A, 0, 18, 9, 0⟩] } }
         nextIs (exec (.laneRemapRsp 2 false) held) fun t => decide (t.flt = held.flt) && (t.port 2).lanesFailed == [])) = true := by
  decide +kernel

/-- The bytes of one region followed by 15 invalid ones. -/
def regionSet (base size iova flags : Nat) : List Byte :=
  u64 base ++ u64 size ++ u64 iova ++ u8 flags ++ List.replicate 487 0

/-- A descriptor of table 16383 of context 3. -/
def tableBytes (id owner rows : Nat) : List Byte :=
  u16 id ++ u16 owner ++ u8 1 ++ u8 0 ++ u16 2 ++ u64 0x1000 ++ u32 rows ++ u16 16 ++ List.replicate 74 0

/-- R286, R288, R295, R448: region sets and table descriptors that are taken and refused. -/
theorem test_RegionsAndTables :
    (let s := ringState idleRing
     let resetting := { s with dv := { s.dv with resetting := some 3 } }
     let tab (st : Nat) : State := { s with mem := { s.mem with tables := [(5, tableOf st 0)] } }
     let answers (i : Instr) (s : State) (c : Word) (p : State → Bool) : Bool := nextIs (exec i s) fun t => t.cat.answer == c && p t
     let last := 0xFFFFFFFFC0
     answers (.regionsWrite 3 []) s 0x0C000005 (fun _ => true)
       && answers (.regionsWrite 1024 (regionSet 0 64 0 7)) s 0x0C000006 (fun _ => true)
       && answers (.regionsWrite 3 (regionSet 0 63 0 7)) s 0x0C000006 (fun t => t.mem == s.mem)
       && answers (.regionsWrite 4 (regionSet 0 64 0 7)) s 0x0C000007 (fun _ => true)
       && answers (.regionsWrite 3 (regionSet 0 64 0 7)) resetting 0x0C000007 (fun _ => true)
       && answers (.regionsWrite 3 (regionSet 0 64 0 7)) s 0 (fun t => ((Map.look t.mem.regions 3).getD []).map (·.state) == 1 :: List.replicate 15 0
         && t.mem.requests == [])
       && inAperture last && answers (.regionsWrite 3 (regionSet last 64 0x5FC0 7)) s 0 (fun t =>
         ((Map.look t.mem.regions 3).getD []).map (·.state) == 2 :: List.replicate 15 0 && t.mem.requests == [⟨0, some 0, 3, 0x5000, true, 1, 3, 0x5000⟩])
       && answers (.tableRegister []) s 0x0C000005 (fun _ => true)
       && answers (.tableRegister (tableBytes 16384 3 9)) s 0x0C000006 (fun _ => true)
       && answers (.tableRegister (tableBytes 16383 4 9)) s 0x0C000007 (fun _ => true)
       && answers (.tableRegister (tableBytes 16383 3 9)) s 0 (fun t => (t.table 16383).map (fun x => (x.owner, x.rows, x.state)) == some (3, 9, 1))
       && answers (.tableUnregister 4) s 0x0C000006 (fun _ => true)
       && answers (.tableUnregister 5) (tab 2) 0x0C000007 (fun _ => true)
       && answers (.tableUnregister 5) (tab 1) 0 (fun t => t.table 5 == none)) = true := by
  decide +kernel

/-- R306–R309, R500, R501: answers to translation and page requests, invalidations, and host reads. -/
theorem test_Translations :
    (let g : Ring := { idleRing with enabled := true, tail := 6, buffers := [0x8000000000100000] }
     let s (m : Memory) : State :=
       let s := ringState g
       { s with ctxs := [(3, Context.reset)], mem := m, boot := { s.boot with fwState := 1 } }
     let q (purpose : Nat) : XltRequest := ⟨511, some 0, 3, 0x100000, false, purpose, 24, 0x100000⟩
     let m := Memory.reset
     let rec0 : FaultRecord := ⟨0x100000, some 0, 3, false, false, 1, [⟨0, 24, 0x100280, false⟩], 1, 0⟩
     let x : Translation := ⟨some 0, 0x100000, 12, 0x7000, true, true⟩
     let via : Region := ⟨2 ^ 40 - 64, 64, 0x100000, 7, 1⟩
     let slot : TransferSlot := ⟨0, 0x44, 2 ^ 40 - 64, 2 ^ 40 - 64, 0, { Descriptor.ofBytes [] with rows := 1, cols := 8, srcFmt := 1 }, 0, false, 0, 0, 0, 1, 77, 0, 3⟩
     let using1 : State := { s { m with xlat := [x], regions := [(3, [via])] } with cores := [(5, { Core.reset with slots := [(0, slot)] })] }
     let faults (o : Host.Outcome State Fault Refusal) (a : BitVec 64) : Bool := nextIs o fun t =>
       (t.ring 24).fault.map (fun f => (f.cause, f.address, f.node)) == some (fcTranslation, a, none) && (t.ring 24).fetch == 5
     let reqs (p : Nat) : State := s { m with requests := [q p] }
     nextEq (exec (.xltRsp 510 false 0 12 true true) (reqs 0)) (reqs 0)
       && nextEq (exec (.xltRsp 511 true 0 12 true true) (reqs 6)) (s m)
       && nextIs (exec (.xltRsp 511 false 0x7000 12 false true) (reqs 0)) (fun t => t.mem.records == [(0, { rec0 with requesters := [⟨0, 24, 0x100000, false⟩] })]
         && t.outputs == [.pageReq 0 (some 0) 0x100000 false] && (t.ring 24).stall == slPageRequest && t.mem.pageRequests == 1)
       && nextIs (exec (.xltRsp 511 true 0 12 true true) (reqs 3)) (fun t => t.boot.fwState == 3 && t.boot.fwReason == 1)
       && nextIs (exec (.xltRsp 511 false 0x7FFF 12 true true) (reqs 6)) (fun t => t.mem.xlat == [x] && t.mem.requests == [])
       && nextEq (exec (.pageRsp 1 0) (s { m with records := [(0, rec0)] })) (s { m with records := [(0, rec0)] })
       && nextIs (exec (.pageRsp 0 0) (s { m with records := [(0, rec0)] })) (fun t => t.mem.records == []
         && t.mem.requests == [⟨0, some 0, 3, 0x100000, false, 0, 24, 0x100280⟩])
       && (s m).mayAccept 24 && faults (exec (.pageRsp 0 1) (s { m with records := [(0, rec0)] })) 0x8000000000100000
       && nextIs (exec (.invReq 9 (some 0) false 0x100000 12) (s { m with xlat := [x, { x with iova := 0x101000 }], pinned := [x] })) (fun t =>
         t.mem.xlat == [{ x with iova := 0x101000 }] && t.mem.pinned == [] && t.outputs.getLast? == some (.invCpl 9))
       && nextIs (exec (.invReq 9 (some 0) false 0x100000 12) using1) (fun t => t.mem.xlat == [] && !t.outputs.contains (.invCpl 9)
         && t.mem.invWaiting == [⟨9, [], [(5, 77)]⟩])
       && nextIs (exec (.hostReadCompletion 24 0x8000000000100280 false []) (s m)) (fun t => decide ({ t with dbg := (s m).dbg } = s m))
       && (s m).nodeReading 24 0x100280 == none
       && faults (exec (.hostReadCompletion 24 0x8000000000100280 true []) (s m)) 0x8000000000100000) = true := by
  decide +kernel

/-! ### Power and clock islands -/

/-- Stand 1023 and compartment 63 in given states, 1 ms after reset. -/
def island (x : Stand) (c : Compartment) : State :=
  let s := State.reset
  { s with fuses := { s.fuses with ceilings := [(1023, 1000)] }, clock := { s.clock with now := 1000000 }, stands := [(1023, x)], dv := { s.dv with comps := [(63, c)] } }

/-- R404–R408, R410, R412: each branch of an evaluation, at its limits; the regulator; the fast path. -/
theorem test_Islands :
    (let st (step : Nat) : Stand := { Stand.reset with step := step }
     let c (v : Nat) : Compartment := { Compartment.reset with supply := v, gating := 0 }
     let s (x : Stand) (v : Nat) : State := island x (c v)
     let ceil := (s (st 2) 900).ceilOf 1023
     let eval (x : Stand) (v i t : Nat) (p : Stand → Bool) : Bool := nextIs (exec (.islandEvaluation 1023 i t) (s x v)) fun u => p (u.stand 1023)
     let retained := island (st 2) { Compartment.reset with gating := 2 }
     let waking := island (st 2) { Compartment.reset with gating := 1, supply := 450 }
     let v (k : Nat) : Nat := (s (st 2) 900).stepVolts 63 k
     retained.retained 63 && nextEq (exec (.islandEvaluation 1023 0 0) retained) retained
       && nextEq (exec (.islandEvaluation 1023 0 0) (s { st 2 with runSince := 999901 } 900)) (s { st 2 with runSince := 999901 } 900)
       && eval { st 2 with runSince := 999900 } 900 0 110 (fun x => x.step == 4 && x.trip && x.headroom == 0)
       && eval { st 2 with trip := true } 900 0 101 (fun x => x.step == 4 && x.trip)
       && eval { st 4 with trip := true } 900 ceil 100 (fun x => !x.trip)
       && eval (st 2) 900 0 101 (fun x => x.step == 3) && eval (st 2) 900 (ceil + 1) 20 (fun x => x.step == 3)
       && eval (st 2) 900 0 95 (fun x => x.step == 1) && eval (st 2) 900 0 96 (fun x => x.step == 2)
       && eval (st 2) 0 0 95 (fun x => x.step == 2 && x.pendingStep == some 1)
       && waking.islandsOff 63 && nextEq (exec (.islandEvaluation 1023 0 110) waking) waking
       && nextIs (exec (.islandEvaluation 1023 0 101) (s (st 2) 900)) (fun t => (t.comp 63).supply == min 900 (t.requested 63) && (t.stand 1023).derate == 100)
       && nextIs (exec (.regulatorAck 1023) waking) (fun t => (t.comp 63).gating == 0 && (t.comp 63).supply == max 450 (v 4)
         && (t.stand 1023).step == 4 && (t.stand 1008).step == 4 && (t.core 16383).dispatchLoop && (t.core 16383).front == .waitingGrant
         && (t.stand 1007) == Stand.reset)
       && eval (st 2) 900 ceil 20 (fun x => x.step == 2 && x.headroom == 0)
       && eval (st 0) 900 0 20 (fun x => x.step == 0 && x.headroom == 255)
       && nextEq (exec (.regulatorAck 1023) (s (st 2) 900)) (s (st 2) 900)
       && nextIs (exec (.regulatorAck 1023) (s { st 2 with pendingStep := some 1 } 900)) (fun t => (t.stand 1023).step == 1 && (t.stand 1023).pendingStep == none)
       && nextEq (exec (.fastDrop 1023 (11 * ceil / 10)) (s (st 2) 900)) (s (st 2) 900)
       && nextEq (exec (.fastDrop 1023 100000000) (s (st 4) 900)) (s (st 4) 900)
       && nextIs (exec (.fastDrop 1023 (11 * ceil / 10 + 1)) (s (st 3) 900)) (fun t => (t.stand 1023).step == 4 && (t.stand 1023).fastDropped && t.pwr.fastDrops == 1)
       && eval { st 2 with fastDropped := true } 900 0 96 (fun x => !x.fastDropped)
       && eval { st 2 with fastDropped := true, lastChange := 1000000 } 900 0 96 (fun x => x.fastDropped)) = true := by
  decide +kernel

/-- R407: see above. -/
theorem test_FastPath :
    (let x : Stand := { Stand.reset with step := 3, fastDropped := true }
     let s := island x { Compartment.reset with supply := 900 }
     !s.islandsOff 63 && nextEq (exec (.fastDrop 1023 100000000) s) s
       && nextIs (exec (.fastDrop 1023 100000000) { s with stands := [(1023, { x with fastDropped := false })] }) (fun t =>
         t.stand 1023 == { x with step := 4, lastChange := 1000000 } && (t.comp 63).supply == min 900 (t.requested 63))
       && nextIs (exec (.islandEvaluation 1023 0 96) s) (fun t => !(t.stand 1023).fastDropped)
       && nextIs (exec (.islandEvaluation 1023 0 96) { s with stands := [(1023, { x with lastChange := 1000000 })] }) fun t => (t.stand 1023).fastDropped) = true := by
  decide +kernel

/-- R408–R410, R414: a sensor that fails twice, a compartment that enters RETAIN, and telemetry. -/
theorem test_Islands_gating :
    (let s := island Stand.reset { Compartment.reset with supply := 900 }
     let held := island Stand.reset { Compartment.reset with holder := some 3 }
     let twice := island { Stand.reset with sensorFault := true } Compartment.reset
     nextEq (exec (.sensorFault 1023) twice) twice
       && nextIs (exec (.sensorFault 1023) s) (fun t => (t.stand 1023).sensorFault && t.flt.log.map (fun e => (e.cls, e.location, e.action)) == [(6, 1023, 0)])
       && nextEq (exec (.retainEntry 63) held) held
       && nextIs (exec (.retainEntry 63) s) (fun t => (t.comp 63).gating == 2 && (t.comp 63).supply == 450 && t.retained 63 && (t.stand 1023).headroomAt == none)
       && nextIs (exec (.telemetryRefresh 5 (List.replicate 64 2)) s) (fun t => t.pwr.now == 5 && t.pwr.peak == 5 && t.pwr.energy == 5
         && (t.comp 0).power == 2 && (t.comp 63).power == 2)) = true := by
  decide +kernel

/-! ### Faults, fencing and repair -/

/-- Core 5 in a state, in a stand whose spare is in a state. -/
def faultState (k : Core) (spare : Nat) : State :=
  let s := withNode launch
  { s with cores := [(5, k)], stands := [(0, { Stand.reset with spareState := spare })] }

/-- R420, R422, R423, R435, R440, R530: probes, fences with and without a spare, the fence of a working core, UNFENCE, recalls. -/
theorem test_Fences_cores :
    (let free := Core.reset
     let g : Grant := ⟨0, 9, 0, 1, false, false, 0⟩
     let fencedBy (o : Host.Outcome State Fault Refusal) (spare cls flags : Nat) : Bool := nextIs o fun t => t.fenced 5 && !t.fenced 6
       && t.flt.fence && t.flt.coresFenced == 1 && (t.core 5).grant == none
       && t.flt.log.map (fun e => (e.cls, e.action, e.location)) == [(cls, if spare == 0 && cls == 2 then 2 else 1, 5)]
       && t.flt.entries == [if spare == 0 then ⟨1, flags, 0, 5, 0⟩ else ⟨2, flags, 5, 0, 0⟩]
       && (t.stand 0).spareState == (if spare == 0 then 2 else 1) && (t.stand 0).draining == (spare == 0) && t.flt.spare == (spare != 0)
     let probed (spare : Nat) : State := faultState { free with probing := true } spare
     let recalled := faultState { free with recalling := some 0 } 1
     let busy := faultState { free with probing := true, grant := some g } 1
     let mask (resetting : Bool) (draining : Bool) : State :=
       let s := faultState free 1
       { s with
         stands := [(0, { Stand.reset with spareState := 1, fencedMask := 0x20, draining := draining })]
         flt := { s.flt with entries := [⟨2, 0, 5, 0, 0⟩], resetCores := [5] }
         dv := { s.dv with resetting := if resetting then some 3 else none } }
     let answers (i : Instr) (s : State) (c : Word) : Bool := nextIs (exec i s) fun t => t.cat.answer == c
     let rec2 (cores : List Nat) (retry : Bool) : State :=
       let s := faultState { free with recalling := some 0, grant := some g } 1
       { s with flt := { s.flt with recalls := [⟨0, cores, retry⟩] } }
     nextIs (exec (.coreProbe 5) busy) (fun t => (t.core 5).probing) && nextEq (exec (.coreProbe 5) (probed 1)) (probed 1)
       && nextEq (exec (.probeTimeout 5) recalled) recalled
       && nextEq (exec (.recallAck 5) (probed 0)) (probed 0) && nextEq (exec (.recallAckTimeout 5) (probed 0)) (probed 0)
       && fencedBy (exec (.probeTimeout 5) (probed 0)) 0 2 0 && fencedBy (exec (.probeTimeout 5) (probed 1)) 1 2 0
       && fencedBy (exec (.recallAckTimeout 5) recalled) 1 2 0 && fencedBy (exec (.fenceCore 5) (probed 0)) 0 0x12 1
       && nextIs (exec (.probeTimeout 5) busy) (fun t => t.fenced 5 && (t.node 0).map (fun e => (e.requeue, e.outstanding)) == some ([⟨0, false, true, []⟩], 0))
       && answers (.fenceCore 16384) busy 0x0C000006 && answers (.unfenceCore 16384 true) busy 0x0C000006
       && answers (.fenceCore 5) (mask false false) 0x0C000007 && answers (.unfenceCore 5 true) busy 0x0C000007
       && answers (.unfenceCore 5 true) (mask false true) 0x0C000007 && answers (.unfenceCore 5 false) (mask false false) 0x0C000007
       && nextIs (exec (.unfenceCore 5 true) (mask true false)) (fun t => t.flt.unfences == [(5, true)] && t.fenced 5)
       && nextIs (exec (.unfenceCore 5 true) (mask false false)) (fun t => t.cat.answer == 0 && !t.fenced 5 && t.flt.entries == []
         && (t.sector 0).waiting == [⟨5, 1⟩])
       && nextIs (exec (.recallAck 5) (rec2 [5, 6] false)) (fun t => t.flt.recalls == [⟨0, [6], false⟩] && (t.core 5).grant == none)
       && nextIs (exec (.recallAck 5) (rec2 [5] true)) (fun t => t.flt.recalls == [] && (t.node 0).map (fun e => (e.requeue, e.outstanding)) == some ([⟨0, false, true, []⟩], 0))) = true := by
  decide +kernel

/-- R425, R426: the end of a substitution, and fences of a whole stand and compartment. -/
theorem test_Fences :
    (let s (drained : Bool) : State :=
       let s := faultState (if drained then Core.reset else coreAt 16 0 0 0 0) 2
       { s with stands := [(0, { Stand.reset with spareState := 2, draining := true, substituting := some 15, fencedMask := 0x8000 })] }
     let quiet := State.reset
     let dark := { quiet with
       stands := [(1023, { Stand.reset with standFenced := true, fencedMask := 0xFFFF })]
       dv := { quiet.dv with comps := [(63, { Compartment.reset with fenced := true })] } }
     (s true).standDrained 0 && !(s false).standDrained 0 && nextEq (exec (.standDrained 0) (s false)) (s false)
       && nextIs (exec (.standDrained 0) (s true)) (fun t => !t.fenced 15 && (t.stand 0).sparePos == 15 && (t.stand 0).spareState == 1
         && !(t.stand 0).draining && (t.stand 0).substituting == none)
       && nextIs (exec (.islandFault 1023) quiet) (fun t => (t.stand 1023).standFenced && t.fenced 16383 && t.fenced 16368 && !t.fenced 16367
         && t.flt.fence && t.flt.log.map (fun e => (e.cls, e.action, e.location)) == [(5, 1, 1023)])
       && nextEq (exec (.islandFault 1023) dark) dark
       && !(quiet.comp 63).fenced
       && nextEq (exec (.regulatorFault 63) dark) dark) = true := by
  decide +kernel

/-- R428, R431–R434: lost nodes, units, Meridian lanes and control cores. -/
theorem test_Repairs_units :
    (let s := withNode launch
     let dead := withNode { launch with state := 5 }
     let lost (q : Bool) (cause rows : Nat) : Bool := nextIs (exec (.nodeLost 0 ⟨q, .uncorrectable⟩) s) fun t =>
       (t.ring 24).fault.map (fun f => (f.cause, f.node, f.seq)) == some (cause, some 0, 7) && t.flt.rowsRepaired == BitVec.ofNat 64 rows
     let lanes (f : Faults) : State := { s with flt := f }
     let f0 := Faults.reset
     let failed (n : Nat) : List Nat := (List.range n).map fun i => i
     let halted := { s with dbg := { s.dbg with halted := [9] } }
     let taken := lanes { f0 with spareTaken1 := true }
     nextEq (exec (.nodeLost 0 ⟨false, .uncorrectable⟩) dead) dead && nextEq (exec (.nodeLost 0 ⟨false, .clean⟩) s) s
       && nextIs (exec (.nodeLost 0 ⟨false, .corrected 9⟩) s) (fun t => t.flt.memoryCe == 1 && t.flt.rowErrors == [(arrayNode 0, 9, [0])] && decide (t.dv = s.dv))
       && nextIs (exec (.nodeLost 0 ⟨true, .corrected 9⟩) s) (fun t => t.flt.queueCe == 1 && t.flt.memoryCe == 0)
       && nextIs (exec (.nodeLost 0 ⟨false, .corrected 9⟩) { s with set := { s.set with ceRowLimit := 1 } }) (fun t => t.flt.rowErrors == [] && t.flt.rowsRepaired == 1) && lost true fcQueueLost 0 && lost false fcNodeLost 1
       && nextIs (exec (.unitFault true 47) s) (fun t => t.flt.unitsFenced == [(1, 47)] && t.flt.fence
         && t.flt.entries == [⟨11, 0, 95, 0, 0⟩])
       && nextIs (exec (.unitFault false 47) s) (fun t => nextEq (exec (.unitFault false 47) t) t
         && Map.at t.dbg.events [] (65536 * unGather + 47) == [Event.mk 0 2 0x10 0])
       && nextIs (exec (.meridianLaneTest 1 [135]) s) (fun t => t.flt.meridianSuspect1 == [135] && t.flt.meridianFailed1 == [])
       && nextIs (exec (.meridianLaneTest 0 [127]) (lanes { f0 with meridianSuspect0 := [127] })) (fun t => t.flt.meridianFailed0 == [127]
         && t.flt.meridianSpares0 == 1 && t.flt.lanesSpared == 1 && !t.flt.meridianNarrow0)
       && nextIs (exec (.meridianLaneTest 0 [71]) (lanes { f0 with meridianSuspect0 := [71], meridianSpares0 := 8, meridianFailed0 := failed 71 })) (fun t =>
         t.flt.meridianFailed0.length == 72 && t.flt.meridianNarrow0 && t.flt.spare && t.flt.degraded && !t.flt.meridianDown)
       && nextIs (exec (.meridianLaneTest 0 [80]) (lanes { f0 with meridianFailed0 := failed 73 })) (fun t => t.flt.meridianDown
         && (t.ring 24).fault.map (·.cause) == some fcMeridianDown)
       && nextEq (exec (.heartbeatTimeout 1 4) halted) halted
       && nextIs (exec (.heartbeatTimeout 0 0) halted) (fun t => t.flt.controlFailed == [0] && t.flt.spareTaken0 && t.flt.takeovers == 1)
       && nextIs (exec (.controlCoreMemoryError 1 3) s) (fun t => t.flt.controlFailed == [11] && t.flt.spareTaken1 && t.flt.takeovers == 1
         && nextEq (exec (.controlCoreMemoryError 1 3) t) t)
       && nextIs (exec (.controlCoreMemoryError 1 4) taken) (fun t => t.flt.degraded && t.flt.takeovers == 0)) = true := by
  decide +kernel

/-- A repair table with its CHECK. -/
def repairBytes (entries : List RepairEntry) : List Byte :=
  let es := (entries.map RepairEntry.bytes).flatten
  let head := u16 0x0301 ++ u16 entries.length ++ u32 9 ++ List.replicate 32 0
  head ++ u32 (crc32c (head ++ es)).toNat ++ u32 0 ++ es

/-- R438–R440: tables of no entry and of one entry of each kind that the statement names, and refusals. -/
theorem test_Repairs :
    (let s := { State.reset with boot := { State.reset.boot with ready := true } }
     let on := withNode launch
     let loads (e : RepairEntry) (p : State → Bool) : Bool := nextIs (exec (.repairLoad (repairBytes [e])) s) fun t =>
       t.cat.answer == 0 && t.flt.entries == [e] && t.flt.generation == 9 && p t
     loads ⟨1, 0, 1023, 16, 5⟩ (fun t => (t.stand 1023).sparePos == 16 && (t.stand 1023).spareState == 1)
       && loads ⟨2, 1, 16383, 0, 5⟩ (fun t => t.fenced 16383 && !t.fenced 16382) && loads ⟨3, 0, 1023, 0, 5⟩ (fun t => (t.stand 1023).standFenced)
       && (⟨4, 0, 63, 0, 5⟩ : RepairEntry).ok && loads ⟨8, 0, 7, 0, 5⟩ (fun t => (t.xport 7).failed)
       && loads ⟨11, 0, 95, 0, 5⟩ (fun t => t.flt.unitsFenced == [(1, 47)])
       && nextIs (exec (.repairLoad (repairBytes [])) s) (fun t => t.cat.answer == 0 && t.flt.generation == 9)
       && nextIs (exec (.repairLoad (repairBytes [⟨2, 1, 16384, 0, 5⟩])) s) (fun t => t.cat.answer == 0x0C000006 && t.flt == s.flt)
       && nextIs (exec (.repairLoad ((repairBytes []).set 40 0xFF)) s) (fun t => t.cat.answer == 0x0C000006)
       && nextIs (exec (.repairLoad (repairBytes [])) on) (fun t => t.cat.answer == 0x0C000007)) = true := by
  decide +kernel

/-! ### Debug, trace and counters -/

/-- A block with a debug module and trace in given states. -/
def debugState (d : Debug) (lock : Nat) : State := { State.reset with
  boot := { State.reset.boot with ready := true }
  dbg := d
  set := { Settings.reset with debugLock := BitVec.ofNat 8 lock } }

/-- R458, R459, R488, R489, R512: each bit of DEBUG_LOCK, halts and resumes of the last hart, failed accesses, the test port. -/
theorem test_DebugPort :
    (let d := { Debug.reset with dmactive := true, haltMode := 1, traceEnable := true, armed := true, traceState := 1 }
     let s := debugState d 0
     let halted := debugState { d with halted := [9], suspended1 := some 0 } 0
     let access (a : Byte) (op : BitVec 2) (x : Word) (s : State) (p : State → Bool) : Bool :=
       nextIs (exec (.dmiAccess a op x) s) fun t => t.dbg.dbgDone && !t.dbg.dbgBusy && t.dbg.dbgDoneEvents == 1 && p t
     nextIs (exec (.debugLock 0) (debugState d 4)) (fun t => t.cat.answer == 0x0C000007 && t.set.debugLock == 4)
       && nextIs (exec (.debugLock 1) halted) (fun t => t.cat.answer == 0 && t.set.debugLock == 1 && t.dbg.halted == [])
       && nextIs (exec (.debugLock 7) (debugState d 5)) (fun t => t.set.debugLock == 7 && !t.tracing && t.dbg.traceState == 3)
       && nextEq (exec (.hartBreakpoint 9) (debugState d 1)) (debugState d 1)
       && nextIs (exec (.hartBreakpoint 9) s) (fun t => t.dbg.halted == [9] && t.timersHeld 1 && !t.timersHeld 0)
       && access 0x10 2 0x80090001 s (fun t => t.dbg.halted == [9] && t.timersHeld 1 && !t.timersHeld 0 && t.dbg.dbgResult == 0)
       && nextEq (exec (.hartBreakpoint 10) s) s && nextEq (exec (.hartBreakpoint 9) halted) halted
       && halted.timersHeld 1 && access 0x10 2 0x40090001 halted (fun t => t.dbg.halted == [] && !t.timersHeld 1 && t.dbg.dbgResult == 0)
       && access 0x10 2 0 (debugState d 1) (fun t => t.dbg.dbgResult == 2) && access 0x10 3 0 s (fun t => t.dbg.dbgResult == 2 && t.dbg.dbgData == 0)
       && access 0x11 1 0 s (fun t => t.dbg.dbgResult == 0 && t.freeCtr == 1)
       && halted.isDrained 1 && nextIs (exec (.halfDrained 1) halted) (fun t => t.dbg.drained == [1])
       && nextEq (exec (.halfDrained 0) halted) halted
       && nextEq (exec (.testPortAccess 3 false) (debugState d 4)) (debugState d 4)
       && nextIs (exec (.testPortAccess 3 true) (debugState d 4)) (fun t => t.dbg.tapIr == 3 && t.outputs.length == 1)
       && nextIs (exec (.testPortAccess 3 false) s) (fun t => t.dbg.tapIr == 3 && t.outputs.length == 1)) = true := by
  decide +kernel

/-- R473, R476, R480–R484: the trace stream from enable to the end of its window. -/
theorem test_TraceStream :
    (let s (d : Debug) (lock : Nat) : State := debugState d lock
     let on : Debug := { Debug.reset with traceEnable := true, armed := true, traceState := 1, traceMode := 2, triggerSelect := 0x20, freezeOn := 1, triggerPost := 3 }
     let sync : List Byte := [0x0A] ++ List.replicate 15 0
     let answers (i : Instr) (x : State) (c : Word) : Bool := nextIs (exec i x) fun t => t.cat.answer == c && t.outputs == [] && t.dbg == x.dbg
     let win (n : Nat) : Debug := { on with traceState := 2, windowLeft := n, armed := false }
     let smp : Debug := { on with traceMode := 0, sampleControl := 0x0100, sampleComps := 0x8000000000000000 }
     (s on 0).tracing && answers (.traceEnable 2) (s on 0) 0x0C000006 && answers (.triggerNow 2) (s on 0) 0x0C000006
       && answers (.traceEnable 1) (s Debug.reset 2) 0x0C000007 && answers (.traceEnable 1) (s { Debug.reset with traceMode := 1 } 0) 0x0C000007
       && nextIs (exec (.traceEnable 1) (s Debug.reset 0)) (fun t => t.cat.answer == 0 && t.tracing && t.dbg.traceState == 1 && t.dbg.writeIndex == 1
         && t.outputs == [.traceRecord sync])
       && nextIs (exec (.traceEnable 0) (s on 0)) (fun t => !t.dbg.traceEnable && t.dbg.traceState == 0)
       && nextIs (exec (.traceEnable 0) (s (win 1) 0)) (fun t => !t.dbg.traceEnable && t.dbg.traceState == 3)
       && answers (.triggerNow 1) (s Debug.reset 0) 0
       && nextIs (exec (.triggerNow 1) (s on 0)) (fun t => t.dbg.traceState == 2 && t.dbg.triggerIndex == 0 && t.dbg.writeIndex == 1 && t.dbg.windowLeft == 3
         && t.dbg.eventFreeze && t.outputs == [.traceRecord ([0x0E, 5] ++ List.replicate 14 0)])
       && nextIs (exec .windowEnd (s (win 0) 0)) (fun t => t.dbg.traceState == 3) && nextEq (exec .windowEnd (s (win 1) 0)) (s (win 1) 0)
       && nextEq (exec .syncRecordTimer (s Debug.reset 0)) (s Debug.reset 0)
       && nextIs (exec .syncRecordTimer (s on 0)) (fun t => t.outputs == [.traceRecord sync] && t.dbg.writeIndex == 1)
       && nextEq (exec (.pcSampleTimer 1007) (s smp 0)) (s smp 0)
       && nextIs (exec (.pcSampleTimer 1023) (s smp 0)) (fun t => (t.stand 1023).sampleTag == 1 && t.dbg.writeIndex == 16 && t.outputs.length == 16)
       && nextIs (exec (.pcSampleTimer 1023) { s smp 0 with stands := [(1023, { Stand.reset with fencedMask := 0xFFFE })] }) (fun t => t.dbg.writeIndex == 1)
       && nextIs (exec (.traceReadyChange false) (s on 0)) (fun t => !t.dbg.traceReady)
       && nextIs (exec (.traceReadyChange true) (s { on with traceReady := false, fifo := [(1, sync)] } 0)) (fun t => t.dbg.fifo == []
         && t.outputs == [.traceRecord sync] && t.dbg.writeIndex == 1)) = true := by
  decide +kernel

/-- R468, R470–R472, R487, R490: selects, clears and refusals. -/
theorem test_Counters :
    (let d := { Debug.reset with gcValues := List.replicate 256 7 }
     let s0 := debugState d 0
     let s := { s0 with
       ctxs := [(3, Context.reset)]
       cores := [(16383, Core.reset), (0, Core.reset)]
       dv := { s0.dv with comps := [(63, { Compartment.reset with holder := some 3 })] } }
     let answers (i : Instr) (c : Word) (p : State → Bool) : Bool := nextIs (exec i s) fun t => t.cat.answer == c && p t
     let sel := (List.replicate 256 (0 : Word)).set 255 0x01000001
     selectOk 0x01000001 && answers (.gcSelect []) 0x0C000005 (fun _ => true) && answers (.gcSelect (sel.set 0 0xFFFFFFFF)) 0x0C000006 (fun _ => true)
       && answers (.gcSelect sel) 0 (fun t => t.dbg.gcValues == (List.replicate 256 7).set 255 0 && t.dbg.gcSelect == sel)
       && answers (.gcClear 0) 0x0C000006 (fun t => t.dbg == s.dbg) && answers (.gcClear 1) 0 (fun t => t.dbg.gcValues == List.replicate 256 0)
       && answers (.eventFreeze 2) 0x0C000006 (fun _ => true) && answers (.eventFreeze 1) 0 (fun t => t.dbg.eventFreeze)
       && answers (.coreEvents 3 []) 0x0C000005 (fun _ => true) && (s.comp 63).holder == some 3
       && answers (.coreEvents 3 (List.replicate 8 0x0100)) 0x0C000006 (fun _ => true)
       && answers (.coreEvents 4 (List.replicate 8 0)) 0x0C000007 (fun _ => true)
       && nextIs (exec (.coreEvents 3 (List.replicate 8 1)) { s with dv := s0.dv }) (fun t => (t.context 3).coreEvents == List.replicate 8 1
         && t.cat.answer == 0 && t.cores == s.cores)) = true := by
  decide +kernel

/-! ### The block as a whole -/

/-- A step runs the command at the front of the queue and keeps the queue's rest; an idle step advances time by one nanosecond, and
not in reset; reset leaves canonical memory and DEBUG_LOCK with the bits of its fuse. -/
theorem test_StepRunsFront :
    (let s := { withNode launch with pending := [.clockFault .timeRef, .tick] }
     let s0 := { withNode launch with boot := { State.reset.boot with stage := 6, ready := true } }
     nextIs (step s) (fun t => t.pending == [.tick] && t.boot.blockFault)
       && clockRuns s0 && nextIs (step s0) (fun t => t.clock.now == 1 && t.pending == [] && t.cores == s0.cores)
       && !clockRuns State.reset && nextEq (step State.reset) State.reset
       && Memory.wf State.reset.mem && Cells.wf (State.reset.core 16383).dmem && Cells.wf (State.reset.stand 1023).mem
       && State.reset.fuses.debugLockFuse &&& State.reset.set.debugLock == State.reset.fuses.debugLockFuse) = true := by
  decide +kernel

/-! ### Well-formed commands: an ill-formed term for each check, and the last value that it allows -/

theorem test_WellFormed_ids :
    (let blk := List.replicate 64 (0 : Byte)
     let chk := List.replicate 8 (0 : Byte)
     ([.nop 16383 ⟨0, .clean⟩, .islandFault 1023, .regulatorFault 63, .halfDrained 1, .sectorSelect 7, .completionRetryTimer 1023,
        .ringEnable 8255, .doorbell 8191 0, .nopCommand 262143, .laneRemapRsp 11 true, .macFault 7, .ackTimer 16382, .epochDrainEnd 16383,
        .layerCancel 1 255 0, .semaphoreRelease 0 3, .transferDone 0 15 false [], .capIdleTimeout 7, .hartBreakpoint 9,
        .deviceSideEnable 1 31, .meridianLaneTest 1 [135], .heartbeatTimeout 1 4, .unitFault false 47, .unitFault true 48,
        .macLaneFail 0 1 16, .catRead (.ctx 1023) (req 0 0 0), .pageRsp 255 2, .xltRsp 511 false 0 12 true true, .invReq 31 none true 0 52,
        .partialWrite 0xFFFFFFFFFF [1] 0 ⟨blk, chk, false⟩] : List Instr).all Instr.WellFormed
      && ([.nop 16384 ⟨0, .clean⟩, .islandFault 1024, .regulatorFault 64, .halfDrained 2, .sectorSelect 8, .completionRetryTimer 1024,
        .ringEnable 8256, .doorbell 8192 0, .nopCommand 262144, .laneRemapRsp 12 true, .macFault 8, .ackTimer 16383, .epochDrainEnd 16384,
        .layerCancel 2 0 0, .layerCancel 0 256 0, .semaphoreRelease 0 4, .transferDone 0 16 false [], .capIdleTimeout 8, .hartBreakpoint 10,
        .deviceSideEnable 0 32, .meridianLaneTest 2 [], .meridianLaneTest 0 [136], .heartbeatTimeout 0 5, .unitFault false 48,
        .macLaneFail 0 2 0, .macLaneFail 0 0 17, .exchangeLaneTest 0 [(0, 17)], .catRead (.ctx 1024) (req 0 0 0), .pageRsp 256 0,
        .pageRsp 0 3, .xltRsp 512 false 0 12 true true, .xltRsp 0 false 0 11 true true, .invReq 32 none true 0 12, .invReq 0 none true 0 53,
        .partialWrite 0x10000000000 [1] 0 ⟨blk, chk, false⟩, .partialWrite 63 [1, 2] 0 ⟨blk, chk, false⟩, .partialWrite 0 [] 0 ⟨blk, chk, false⟩,
        .partialWrite 0 [1] 0 ⟨[], chk, false⟩, .partialWrite 0 [1] 0 ⟨blk, [], false⟩] : List Instr).all
        fun i => !i.WellFormed) = true := by
  decide +kernel

theorem test_WellFormed_values :
    (let f := frame 0 0 0 [] [] 3
     let blk := List.replicate 64 (0 : Byte)
     let chk := List.replicate 8 (0 : Byte)
     let h : RouteHdr := ⟨1, 1, 1, 4095, 0xFFFFFFFFFFFFFFFF⟩
     ([.blockReset (strapsOf 1 1 127), .selfTestDone ⟨[(1023, 16)], [(49153, 0)], [(1, 4)]⟩, .clockFault (.mem 11), .clockFault (.xch 7),
        .meridianTrainingDone [135] [0], .capKeepalive f, .capUnknownOperation 4 f, .registerWrite 0x7ff 0xfff 1 255, .registerWrite 0 0 64 (BitVec.ofNat 512 (2 ^ 511)), .commandFetch 0 [Cmd.blank] false,
        .overflowChainRead 0 [⟨0, 0, 0, List.replicate 60 0⟩] false, .semaphoreCycle ⟨.core 0 47, .clean⟩ [.remote 16382], .semaphoreCycle ⟨.shared 4095, .clean⟩ [.command 8255],
        .rdata 11 0xBFFFFFFFC0 (.ringEngine 8255) blk chk ⟨false, false⟩, .cancel none h, .delivery (some 16382) h 16 16 [(0, 1)],
        .telemetryRefresh 0 (List.replicate 64 0)] : List Instr).all Instr.WellFormed
      && ([.blockReset (strapsOf 2 0 64), .blockReset (strapsOf 0 2 64), .blockReset (strapsOf 0 0 128), .blockReset { strapsOf 0 0 64 with xchSpeed := [] },
        .blockReset { strapsOf 0 0 64 with mgmtMac := 2 ^ 48 }, .selfTestDone ⟨[(1024, 0)], [], []⟩, .selfTestDone ⟨[(0, 17)], [], []⟩,
        .selfTestDone ⟨[], [(49154, 0)], []⟩, .selfTestDone ⟨[], [], [(0, 5)]⟩, .clockFault (.refClk 2), .clockFault (.mem 12), .clockFault (.xch 8),
        .meridianTrainingDone [136] [], .meridianTrainingDone [] [136], .capKeepalive { f with tag := [] }, .capUnknownOperation 3 f,
        .registerWrite 0x800 0 8 0, .registerWrite 0 0x1000 8 0, .registerWrite 0 0 3 0, .registerWrite 0 0 1 256, .commandFetch 0 [] false, .commandFetch 0 (List.replicate 17 Cmd.blank) false,
        .overflowChainRead 0 [⟨0, 0, 0, List.replicate 61 0⟩] false, .overflowChainRead 0 (List.replicate 17 ⟨0, 0, 0, []⟩) false,
        .semaphoreCycle ⟨.core 0 48, .clean⟩ [], .semaphoreCycle ⟨.core 16384 0, .clean⟩ [], .semaphoreCycle ⟨.shared 4096, .clean⟩ [], .semaphoreCycle ⟨.shared 0, .clean⟩ [.core 16384],
        .semaphoreCycle ⟨.shared 0, .clean⟩ [.command 8256], .semaphoreCycle ⟨.shared 0, .clean⟩ [.remote 16383], .rdata 0 0x1000000000 .scrubber blk chk ⟨false, false⟩,
        .rdata 0 0 (.core 16384) blk chk ⟨false, false⟩, .rdata 0 0 (.unit 262144) blk chk ⟨false, false⟩, .rdata 0 0 (.shape 262144) blk chk ⟨false, false⟩,
        .rdata 0 0 (.partialWrite 262144) blk chk ⟨false, false⟩, .rdata 0 0 (.ringEngine 8256) blk chk ⟨false, false⟩, .scrub 0 0 [] chk ⟨false, false⟩, .scrub 0 0 blk [] ⟨false, false⟩,
        .scrub 12 0xC000000000 blk chk ⟨false, false⟩, .cancel (some 16383) h, .cancel none { h with originHalf := 2 }, .cancel none { h with destHalf := 2 },
        .cancel none { h with hb := 2 }, .cancel none { h with generation := 4096 }, .cancel none { h with deadline := 2 ^ 64 },
        .delivery none h 16 16 [(0, 0)], .telemetryRefresh 0 []] : List Instr).all fun i => !i.WellFormed) = true := by
  decide +kernel

end Sys2Proof.Tests
end
end

section
/-! The registers of the host window: where a write lands (R13, R499), what each register does with it, and the statement on
register writes. -/
namespace Sys2Proof.Machine

/-! ### Bits of a register's value -/

theorem bit_toNat {n : Nat} (w : BitVec n) (i : Nat) : bit w.toNat i = w.getLsbD i := by
  rw [BitVec.getLsbD, Nat.testBit_eq_decide_div_mod_eq, bit, bits, Nat.shiftRight_eq_div_pow, Nat.pow_one]

/-! ### The pages of the host window -/

theorem hostPage_priv {x : Nat} (hx : x < 0x10000) : hostPage x = some (.priv, x) := by simp [hostPage, hx]

theorem hostPage_ctx {c o : Nat} (hc : c < 1024) (ho : o < 0x1000) : hostPage (0x100000 + 0x1000 * c + o) = some (.ctx c, o) := by
  have hpriv : ¬ 0x100000 + 0x1000 * c + o < 0x10000 := by omega
  have hin : 0x100000 ≤ 0x100000 + 0x1000 * c + o ∧ 0x100000 + 0x1000 * c + o < 0x500000 := by omega
  have hpage : (0x100000 + 0x1000 * c + o - 0x100000) / 0x1000 = c := by omega
  have hoff : (0x100000 + 0x1000 * c + o) % 0x1000 = o := by omega
  rw [hostPage, if_neg hpriv, if_pos hin, hpage, hoff]

theorem hostPage_none {x : Nat} (hx : (0x10000 ≤ x ∧ x < 0x100000) ∨ 0x500000 ≤ x) : hostPage x = none := by
  rw [hostPage, if_neg (by omega), if_neg (by omega)]

theorem exec_registerWrite_of_page {x o : Nat} {u : View} (size : Nat) (v : BitVec 512) (s : State)
    (hx : hostPage x = some (u, o)) :
    exec (.registerWrite (x / 0x1000) (x % 0x1000) size v) s = .next (s.pageWrite u o size v.toNat) := by
  simp only [exec, execRegisterWrite, Nat.div_add_mod, hx]

theorem exec_registerWrite_of_no_page {x : Nat} (size : Nat) (v : BitVec 512) (s : State) (hx : hostPage x = none) :
    exec (.registerWrite (x / 0x1000) (x % 0x1000) size v) s = .next s := by
  simp only [exec, execRegisterWrite, Nat.div_add_mod, hx]

/-! ### The registers of a page -/

/-- Below the Catalogue window of a context page no page has a data buffer. -/
theorem bufferOffset_none (u : View) {o : Nat} (ho : o < 0xC00) : bufferOffset u o = none := by
  cases u <;> (simp only [bufferOffset]; exact if_neg (by omega))

theorem State.pageWrite_unaligned (s : State) (u : View) {o size : Nat} (w : Nat) (ho : o < 0xC00) (h : size ≠ 8 ∨ o % 8 ≠ 0) :
    s.pageWrite u o size w = s := by
  simp only [State.pageWrite, bufferOffset_none u ho, if_pos h]

theorem State.pageWrite_absent (s : State) {c o : Nat} (size w : Nat) (ho : o < 0xC00) (hctx : s.ctx c = none) :
    s.pageWrite (.ctx c) o size w = s := by
  have hwin : ¬ (0xC00 ≤ o ∧ o < 0xC20) := by omega
  simp [State.pageWrite, bufferOffset_none _ ho, hwin, hctx]

theorem State.pageWrite_priv (s : State) {o : Nat} (w : Nat) (ho : o < 0xF100) (h8 : o % 8 = 0) :
    s.pageWrite .priv o 8 w = s.privWrite o w := by
  have hbuf : bufferOffset .priv o = none := if_neg (by omega)
  simp [State.pageWrite, hbuf, h8]

theorem State.pageWrite_request (s : State) (c w : Nat) : s.pageWrite (.ctx c) 0xC00 8 w = s.windowWrite (.ctx c) 0 w := rfl

theorem State.pageWrite_ring (s : State) {c o r k : Nat} (w : Nat) (hctx : s.ctx c ≠ none) (ho : o < 0xC00) (h8 : o % 8 = 0)
    (hr : pageRing o = some (r, k)) : s.pageWrite (.ctx c) o 8 w = s.ringWrite (8 * c + r) k w := by
  have hwin : ¬ (0xC00 ≤ o ∧ o < 0xC20) := by omega
  simp [State.pageWrite, bufferOffset_none _ ho, h8, hwin, hctx, hr]

/-! ### The blocks of a context page -/

theorem pageRing_ring {k j : Nat} (hk : k < 8) (hj : j < 0x40) : pageRing (0x40 * k + j) = some (k, j) := by
  rw [pageRing, if_pos (by omega), show (0x40 * k + j) / 0x40 = k by omega, show (0x40 * k + j) % 0x40 = j by omega]

theorem pageRing_notification {k j : Nat} (hk : k < 8) (hj : j < 0x20) :
    pageRing (0x200 + 0x20 * k + j) = some (k, 0x200 + j) := by
  rw [pageRing, if_neg (by omega), if_pos (by omega), show (0x200 + 0x20 * k + j - 0x200) / 0x20 = k by omega,
    show (0x200 + 0x20 * k + j) % 0x20 = j by omega]

theorem pageRing_steering {k j : Nat} (hk : k < 8) (hj : j < 0x20) :
    pageRing (0x400 + 0x20 * k + j) = some (k, 0x400 + j) := by
  rw [pageRing, if_neg (by omega), if_neg (by omega), if_pos (by omega), show (0x400 + 0x20 * k + j - 0x400) / 0x20 = k by omega,
    show (0x400 + 0x20 * k + j) % 0x20 = j by omega]

/-! ### What a register does with a value -/

/-- A busy window ignores GO as it ignores every write of CAT_REQ (R56). -/
theorem State.windowWrite_go (s : State) (u : View) {w : Nat} (hgo : bit w 63 = true) :
    s.windowWrite u 0 w = s.windowGo u (bits w 56 2) (CatReq.ofWord w) := by
  cases hbusy : (s.window u).busy <;> simp [State.windowWrite, State.windowGo, hbusy, hgo]

section
variable (s : State) (r : Nat) (w : BitVec 64)

theorem State.ringWrite_doorbell : .next (s.ringWrite r 0x000 w.toNat) = exec (.doorbell r w) s := rfl

theorem State.ringWrite_irqMask : .next (s.ringWrite r 0x210 w.toNat) = exec (.irqMaskWrite r w) s := rfl

theorem State.ringWrite_stepReply : .next (s.ringWrite r 0x418 w.toNat) = exec (.stepReply r w) s := rfl

theorem State.ringWrite_ringStatus :
    s.ringWrite r 0x008 w.toNat = s.updRing r fun g => { g with overrun := g.overrun && !w.getLsbD 47 } := by
  rw [← bit_toNat]
  rfl

theorem State.ringWrite_irqStatus :
    s.ringWrite r 0x208 w.toNat = s.updRing r fun g => { g with
      irqFault := g.irqFault && !w.getLsbD 63
      irqNotify := g.irqNotify && !w.getLsbD 62 } := by
  simp only [← bit_toNat]
  rfl

theorem State.ringWrite_stepStatus :
    s.ringWrite r 0x410 w.toNat = s.updRing r fun g => { g with stepFlag := g.stepFlag && !w.getLsbD 63 } := by
  rw [← bit_toNat]
  rfl

theorem State.privWrite_faultStatus :
    s.privWrite 0x100 w.toNat = { s with flt := { s.flt with
      repair := s.flt.repair && !w.getLsbD 63
      fence := s.flt.fence && !w.getLsbD 62
      spare := s.flt.spare && !w.getLsbD 61
      degraded := s.flt.degraded && !w.getLsbD 60 } } := by
  simp only [← bit_toNat]
  rfl

theorem State.privWrite_fwAddr :
    s.privWrite 0x200 w.toNat = { s with boot := { s.boot with fwAddr := BitVec.ofNat 64 (blockAddrOf w.toNat) } } := rfl

theorem State.privWrite_fwLen : s.privWrite 0x208 w.toNat = { s with boot := { s.boot with fwLen := w } } := by
  have hlen : BitVec.ofNat 64 w.toNat = w := by simp
  simp only [State.privWrite, hlen]

theorem State.privWrite_fwControl (hload : w.getLsbD 63 = true) : .next (s.privWrite 0x210 w.toNat) = exec .fwLoad s := by
  have hbit : bit w.toNat 63 = true := by rw [bit_toNat, hload]
  exact congrArg _ (if_pos hbit)

theorem State.privWrite_request (w : Nat) : s.privWrite 0xF000 w = s.windowWrite .priv 0 w := by
  simp [State.privWrite]

end

/-! ### Writes at an address of the host window -/

section
variable (s : State) (c k : Nat) (w : BitVec 64)

/-- An aligned 8-byte write below the data buffer of the privileged page is the write of that register. -/
theorem exec_registerWrite_priv {x : Nat} (hx : x < 0xF100) (h8 : x % 8 = 0) :
    exec (.registerWrite (x / 0x1000) (x % 0x1000) 8 (w.setWidth 512)) s = .next (s.privWrite x w.toNat) := by
  rw [exec_registerWrite_of_page _ _ _ (hostPage_priv (by omega)), s.pageWrite_priv _ hx h8,
    BitVec.toNat_setWidth_of_le (by decide)]

/-- An aligned 8-byte write to a block of a ring in the page of a context that is there is the write of that register. -/
theorem exec_registerWrite_ring {x o r j : Nat} (hx : x = 0x100000 + 0x1000 * c + o) (hc : c < 1024) (ho : o < 0xC00)
    (h8 : o % 8 = 0) (hctx : s.ctx c ≠ none) (hr : pageRing o = some (r, j)) :
    exec (.registerWrite (x / 0x1000) (x % 0x1000) 8 (w.setWidth 512)) s = .next (s.ringWrite (8 * c + r) j w.toNat) := by
  rw [hx, exec_registerWrite_of_page _ _ _ (hostPage_ctx hc (by omega)), s.pageWrite_ring _ hctx ho h8 hr,
    BitVec.toNat_setWidth_of_le (by decide)]

theorem exec_registerWrite_request (hc : c < 1024) :
    exec (.registerWrite ((0x100000 + 0x1000 * c + 0xC00) / 0x1000) ((0x100000 + 0x1000 * c + 0xC00) % 0x1000) 8 (w.setWidth 512)) s
      = .next (s.windowWrite (.ctx c) 0 w.toNat) := by
  rw [exec_registerWrite_of_page _ _ _ (hostPage_ctx hc (by decide)), s.pageWrite_request,
    BitVec.toNat_setWidth_of_le (by decide)]

theorem exec_registerWrite_ring_block (hc : c < 1024) (hk : k < 8) (hctx : s.ctx c ≠ none) {j : Nat} (hj : j < 0x40)
    (h8 : j % 8 = 0) :
    let x := 0x100000 + 0x1000 * c + 0x40 * k + j
    exec (.registerWrite (x / 0x1000) (x % 0x1000) 8 (w.setWidth 512)) s = .next (s.ringWrite (8 * c + k) j w.toNat) :=
  exec_registerWrite_ring s c w (Nat.add_assoc _ _ _) hc (by omega) (by omega) hctx (pageRing_ring hk hj)

theorem exec_registerWrite_notification_block (hc : c < 1024) (hk : k < 8) (hctx : s.ctx c ≠ none) {j : Nat} (hj : j < 0x20)
    (h8 : j % 8 = 0) :
    let x := 0x100000 + 0x1000 * c + 0x200 + 0x20 * k + j
    exec (.registerWrite (x / 0x1000) (x % 0x1000) 8 (w.setWidth 512)) s
      = .next (s.ringWrite (8 * c + k) (0x200 + j) w.toNat) :=
  exec_registerWrite_ring s c w (by omega) hc (by omega) (by omega) hctx (pageRing_notification hk hj)

theorem exec_registerWrite_steering_block (hc : c < 1024) (hk : k < 8) (hctx : s.ctx c ≠ none) {j : Nat} (hj : j < 0x20)
    (h8 : j % 8 = 0) :
    let x := 0x100000 + 0x1000 * c + 0x400 + 0x20 * k + j
    exec (.registerWrite (x / 0x1000) (x % 0x1000) 8 (w.setWidth 512)) s
      = .next (s.ringWrite (8 * c + k) (0x400 + j) w.toNat) :=
  exec_registerWrite_ring s c w (by omega) hc (by omega) (by omega) hctx (pageRing_steering hk hj)

/-- GO starts the row of the operation that bits [57:56] of the request name (R56). -/
theorem exec_of_windowWrite_go (u : View) {out : Host.Outcome State Fault Refusal} (hgo : w.getLsbD 63 = true)
    (hout : out = .next (s.windowWrite u 0 w.toNat)) :
    (bits w.toNat 56 2 = 0 → out = exec (.catRead u (CatReq.ofWord w.toNat)) s)
      ∧ (bits w.toNat 56 2 = 1 → out = exec (.catWrite u (CatReq.ofWord w.toNat)) s)
      ∧ (bits w.toNat 56 2 = 2 → out = exec (.catList u (CatReq.ofWord w.toNat)) s) := by
  rw [s.windowWrite_go u (by rw [bit_toNat, hgo])] at hout
  refine ⟨fun hop => ?_, fun hop => ?_, fun hop => ?_⟩ <;> rw [hout, hop] <;> rfl

end
end Sys2Proof.Machine

namespace Sys2Proof.Proofs
open Sys2Proof Sys2Proof.Machine

/-- Settles O33: a write is resolved to its page and its register, and each register answers as its row or by its own
equation. -/
theorem registerWrites : Obligations.RegisterWrites := by
  unfold Obligations.RegisterWrites
  intro s c k o size w v hc page wr
  refine ⟨fun hctx hk => ?ringRegisters, fun hgo => ⟨?contextRequest, ?privRequest, ?fwControl⟩, ?faultStatus, ?fwAddr, ?fwLen,
    fun ho => ?noPage, fun hctx ho => ?absentContext, fun hbad ho => ⟨?unalignedContext, ?unalignedPriv⟩⟩
  case ringRegisters =>
    have ring {j : Nat} := exec_registerWrite_ring_block s c k w hc hk hctx (j := j)
    have notification {j : Nat} := exec_registerWrite_notification_block s c k w hc hk hctx (j := j)
    have steering {j : Nat} := exec_registerWrite_steering_block s c k w hc hk hctx (j := j)
    let r := 8 * c + k
    exact ⟨(ring (j := 0) (by decide) rfl).trans (s.ringWrite_doorbell r w),
      (notification (j := 0x10) (by decide) rfl).trans (s.ringWrite_irqMask r w),
      (steering (j := 0x18) (by decide) rfl).trans (s.ringWrite_stepReply r w),
      (ring (j := 8) (by decide) rfl).trans (congrArg _ (s.ringWrite_ringStatus r w)),
      (notification (j := 8) (by decide) rfl).trans (congrArg _ (s.ringWrite_irqStatus r w)),
      (steering (j := 0x10) (by decide) rfl).trans (congrArg _ (s.ringWrite_stepStatus r w))⟩
  case contextRequest => exact exec_of_windowWrite_go s w (.ctx c) hgo (exec_registerWrite_request s c w hc)
  case privRequest =>
    have hreq := exec_registerWrite_priv s w (x := 0xF000) (by decide) rfl
    rw [s.privWrite_request] at hreq
    exact exec_of_windowWrite_go s w .priv hgo hreq
  case fwControl => exact (exec_registerWrite_priv s w (by decide) rfl).trans (s.privWrite_fwControl w hgo)
  case faultStatus => exact (exec_registerWrite_priv s w (by decide) rfl).trans (congrArg _ (s.privWrite_faultStatus w))
  case fwAddr => exact (exec_registerWrite_priv s w (by decide) rfl).trans (congrArg _ (s.privWrite_fwAddr w))
  case fwLen => exact (exec_registerWrite_priv s w (by decide) rfl).trans (congrArg _ (s.privWrite_fwLen w))
  case noPage => exact exec_registerWrite_of_no_page size v s (hostPage_none ho)
  case absentContext => rw [exec_registerWrite_of_page _ _ _ (hostPage_ctx hc (by omega)), s.pageWrite_absent _ _ ho hctx]
  case unalignedContext => rw [exec_registerWrite_of_page _ _ _ (hostPage_ctx hc (by omega)), s.pageWrite_unaligned _ _ ho hbad]
  case unalignedPriv => rw [exec_registerWrite_of_page _ _ _ (hostPage_priv (by omega)), s.pageWrite_unaligned _ _ ho hbad]

end Sys2Proof.Proofs
end

section
/-! The windows and the entries of the Catalogue: what a window shows of an answer, what the root does with a request before READY
(R54), and what a read or a write of a named entry answers (R48, R60, R61). -/
namespace Sys2Proof.Machine

/-! ### The window of a view -/

section
variable (s : State) (v : View) (w : Window) (c : Catalogue)

@[simp] theorem State.window_setWindow : (s.setWindow v w).window v = w := by
  cases v with
  | priv => rfl
  | ctx k => exact Map.at_put_self _ _ _ _

@[simp] theorem State.setWindow_boot : (s.setWindow v w).boot = s.boot := by cases v <;> rfl

/-- A window is the Catalogue's: nothing outside the Catalogue changes with it. -/
theorem State.setWindow_frame : { s.setWindow v w with cat := c } = { s with cat := c } := by cases v <;> rfl

variable (a : Answer) (st : Option Staging)

theorem State.windowDone_frame : { s.windowDone v a st with cat := c } = { s with cat := c } := s.setWindow_frame v _ c

@[simp] theorem State.windowDone_abort : ((s.windowDone v a st).window v).abort = a.abort := by simp [State.windowDone]

@[simp] theorem State.windowDone_done : ((s.windowDone v a st).window v).done = true := by simp [State.windowDone]

@[simp] theorem State.windowDone_total : ((s.windowDone v a st).window v).total = BitVec.ofNat 32 a.total := by
  simp [State.windowDone]

/-- The bytes of an answer stand from the first byte of the data buffer on (R60). -/
theorem State.windowDone_buffer_head {b : Byte} {bs : List Byte} (hdata : a.data = b :: bs) :
    ((s.windowDone v a st).window v).buffer.head? = some b := by
  simp [State.windowDone, hdata, setSlice, slice]

end

/-! ### Entries -/

/-- A static index of R52 is visible in the privileged view. -/
theorem State.indexVisible_priv_of_static (s : State) {idx : Nat} (hstatic : isDynamic idx = false)
    (hidx : (highestOf idx).isSome = true) : s.indexVisible .priv idx = true := by
  obtain ⟨h, hh⟩ := Option.isSome_iff_exists.mp hidx
  simp [State.indexVisible, State.indexExists, hh, hstatic]

/-- An entry of a static index, in the privileged view (R48, check 1). -/
theorem State.entry_priv_of_body {s : State} {idx sub : Nat} {e : CatEntry} (hstatic : isDynamic idx = false)
    (hidx : (highestOf idx).isSome = true) (hsub : sub ≠ 0) (hbody : s.body idx sub = some e) (hview : e.p ≠ .no) :
    s.entry .priv idx sub = .ok e := by
  have hvisible := s.indexVisible_priv_of_static hstatic hidx
  simp [State.entry, hvisible, hstatic, hsub, hbody, CatEntry.access, hview]

section
variable (s : State)

/-- READY, 0x1000.05 (R54). -/
theorem State.entry_ready : s.entry .priv 0x1000 5 = .ok (roEntry 0x01 1 true (u8 (b2n s.boot.ready))) :=
  State.entry_priv_of_body (by decide) (by decide) (by decide) rfl (by simp [roEntry])

/-- TJ_CRIT, 0x6000.04 (R414). -/
theorem State.entry_tjCrit : s.entry .priv 0x6000 4 = .ok (roU8 false s.fuses.tjCrit) :=
  State.entry_priv_of_body (by decide) (by decide) (by decide) rfl (by simp [roU8, roEntry])

/-- CEILING_DERATE, 0x6000.02 (R414). -/
theorem State.entry_ceilingDerate : s.entry .priv 0x6000 2 = .ok (rwU8 false s.set.ceilingDerate fun v =>
    s.putSet (!([70, 80, 90, 100] : List Nat).contains v) fun y => { y with ceilingDerate := v }) :=
  State.entry_priv_of_body (by decide) (by decide) (by decide) rfl (by simp [rwU8, rwNum])

end

/-! ### Reads and writes of an entry without CHKGEN -/

section
variable {s : State} {v : View} {idx sub : Nat} {e : CatEntry}

theorem State.catRead_of_entry (off : Nat) {n limit : Nat} (he : s.entry v idx sub = .ok e) (hview : e.access v ≠ .wo)
    (hn : n ≤ limit) :
    s.catRead v idx sub off n limit none = ⟨abOk, e.type, s.indexGeneration idx, e.get.length, (e.get.drop off).take n⟩ := by
  simp only [State.catRead, he, State.generationBad, if_neg hview, if_neg (Nat.not_lt.mpr hn)]

/-- A value of a scalar type is written in one segment (R61), whatever is staged. -/
theorem segment_scalar (staged : List Byte) {data : List Byte} (htype : e.type < 0x0A)
    (hlen : data.length = e.max) : segment e staged data 0 true false = .ok (some data, []) := by
  simp [segment, htype, hlen]

/-- A write in one segment of a scalar entry that takes the value commits it (R48, R61). -/
theorem State.catWrite_scalar {t : State} {data : List Byte} (st : Option Staging) (he : s.entry v idx sub = .ok e)
    (hview : e.access v ≠ .ro) (htype : e.type < 0x0A) (hlen : data.length = e.max) (hput : e.put data = .ok t) :
    s.catWrite v idx sub data 0 true false none st = (t, ⟨abOk, e.type, s.indexGeneration idx, data.length, []⟩, none) := by
  simp [State.catWrite, he, State.generationBad, hview, segment_scalar _ htype hlen, hput]

end

/-! ### A list (R60) -/

/-- A list of one index from 0x1000 on names it, and 0x1001 as the next one. -/
theorem State.catList_first (s : State) : s.catList .priv 0x1000 1 = ([0x1000], 0x1001) := by
  have hall : (indexRanges.map fun r => (List.range r.2.1).map (r.1 + ·)).flatten
      = 0x1000 :: 0x1001 :: ((indexRanges.drop 2).map fun r => (List.range r.2.1).map (r.1 + ·)).flatten := rfl
  have hfirst := s.indexVisible_priv_of_static (idx := 0x1000) (by decide) (by decide)
  have hnext := s.indexVisible_priv_of_static (idx := 0x1001) (by decide) (by decide)
  simp [State.catList, hall, hfirst, hnext]

/-! ### Requests before READY (R54) -/

section
variable {s : State} {v : View} (op : Nat) (r : CatReq)

/-- A free window takes a request, and before READY no request waits. -/
theorem State.windowGo_not_ready (hready : s.boot.ready = false) (hbusy : (s.window v).busy = false) :
    s.windowGo v op r = (s.setWindow v { s.window v with req := reqWord op r }).serveWindow v op r := by
  simp [State.windowGo, hready, hbusy]

theorem State.serveWindow_not_ready (hready : s.boot.ready = false)
    (hreq : ¬ (op = 0 ∧ r.index.toNat = 0x1000 ∧ r.sub.toNat = 5)) :
    s.serveWindow v op r = s.windowDone v (.refused abNotReady) none := by
  have hcond : (!s.boot.ready && !(op == 0 && r.index.toNat == 0x1000 && r.sub.toNat == 5)) = true := by
    rw [hready, Bool.not_false, Bool.true_and, Bool.not_eq_true', ← Bool.not_eq_true]
    simpa [and_assoc] using hreq
  exact if_pos hcond

/-- Before READY a request for anything but 0x1000.05 shows 0x0C00_000D, and nothing but the Catalogue changes. -/
theorem State.windowGo_refused_before_ready (hready : s.boot.ready = false) (hbusy : (s.window v).busy = false)
    (hreq : ¬ (op = 0 ∧ r.index.toNat = 0x1000 ∧ r.sub.toNat = 5)) :
    ((s.windowGo v op r).window v).abort = abNotReady ∧ ((s.windowGo v op r).window v).done = true
      ∧ { s.windowGo v op r with cat := s.cat } = s := by
  rw [State.windowGo_not_ready op r hready hbusy, State.serveWindow_not_ready op r (by simpa using hready) hreq]
  exact ⟨State.windowDone_abort .., State.windowDone_done .., (State.windowDone_frame ..).trans (State.setWindow_frame ..)⟩

end

/-- Before READY a read of 0x1000.05 in the privileged window shows 0. -/
theorem State.windowGo_shows_ready {s : State} {r : CatReq} (hready : s.boot.ready = false)
    (hbusy : s.cat.priv.busy = false) (hindex : r.index = 0x1000) (hsub : r.sub = 5) (hlen : r.length = 1)
    (hgen : r.chkgen = false) (haux : s.cat.priv.aux = 0) :
    s.windowGo .priv 0 r = (s.setWindow .priv { s.window .priv with req := reqWord 0 r }).windowDone .priv
      ⟨abOk, 0x01, 0, 1, [0]⟩ none := by
  rw [State.windowGo_not_ready (v := .priv) 0 r hready hbusy]
  generalize hs : s.setWindow .priv { s.window .priv with req := reqWord 0 r } = s1
  have hready1 : s1.boot.ready = false := by simpa [← hs] using hready
  have haux1 : (s1.window .priv).aux = 0 := by
    rw [← hs, State.window_setWindow]
    exact haux
  have hread : s1.catRead .priv 0x1000 5 0 1 1024 none = ⟨abOk, 0x01, 0, 1, [0]⟩ := by
    rw [State.catRead_of_entry 0 s1.entry_ready nofun (by decide), hready1]
    rfl
  simp [State.serveWindow, hindex, hsub, hlen, hgen, haux1, windowSize, bits, hread]

end Sys2Proof.Machine
end

section
/-! The rows that write one entry of the Catalogue (R21, R43, R54, R73, R456, R489) and the management stack (R63). -/
namespace Sys2Proof.Machine

/-! ### The root serves a row (R43, R54, R489) -/

section
variable {s : State} (i : Instr)

theorem State.rootServes_not_ready (go : State) (hready : s.boot.ready = false) :
    s.rootServes i go = s.answers abNotReady := by
  simp [State.rootServes, hready, State.answers]

theorem State.rootServes_halted (go : State) (hready : s.boot.ready = true) (hhalt : s.rootHalted = true) :
    s.rootServes i go = { s with cat := { s.cat with waiting := s.cat.waiting ++ [.row i] } } := by
  simp [State.rootServes, hready, hhalt]

theorem State.rootServes_serves (go : State) (hserves : s.serves) : s.rootServes i go = go := by
  obtain ⟨hready, hhalt⟩ := hserves
  simp [State.rootServes, hready, hhalt]

theorem State.rootRow_ok {r : Except Word State} {t : State} (hserves : s.serves) (hr : r = .ok t) :
    s.rootRow i r = t.answers abOk := by
  rw [State.rootRow, State.rootServes_serves i _ hserves, hr]
  rfl

theorem State.rootRow_error {r : Except Word State} {code : Word} (hserves : s.serves) (hr : r = .error code) :
    s.rootRow i r = s.answers code := by
  rw [State.rootRow, State.rootServes_serves i _ hserves, hr]
  rfl

end

/-- The row of an entry's write leaves to the root what the root does with it when it serves the row. -/
theorem exec_of_writesEntry {i : Instr} (hi : writesEntry i = true) (s : State) :
    exec i s = .next (s.rootServes i (s.serveRow i)) := by
  unfold writesEntry at hi
  split at hi
  case h_34 => cases hi
  all_goals rfl

/-! ### DEVICE_ID, KEY_WRITE and CLOSE of a session -/

section
variable {s : State}

theorem State.deviceIdOp_ok {v : Nat} (hv : v ≤ 0x3FFF) (hport : s.portEnabled = false) :
    s.deviceIdOp v = .ok { s with set := { s.set with deviceId := v } } := by
  have hrange : ¬ 0x3FFF < v := by omega
  simp only [State.deviceIdOp, hrange, hport]
  rfl

theorem State.deviceIdOp_range {v : Nat} (hv : 0x3FFF < v) : s.deviceIdOp v = .error abRange := by
  simp only [State.deviceIdOp, hv]
  rfl

theorem State.deviceIdOp_state {v : Nat} (hv : v ≤ 0x3FFF) (hport : s.portEnabled = true) : s.deviceIdOp v = .error abState := by
  have hrange : ¬ 0x3FFF < v := by omega
  simp only [State.deviceIdOp, hrange, hport]
  rfl

/-- A key of the privileged role fills its slot, and the sessions of the slot end (R456, R463). -/
theorem State.keyOp_privileged {slot : Nat} {key : List Byte} (hslot : slot < 8) (hkey : key.length = 32) :
    s.keyOp slot ([0xFF, 0xFF, 0xFF, 0xFF] ++ key)
      = .ok (State.endSessions { s with cat := { s.cat with keys := Map.put s.cat.keys slot ⟨0xFFFFFFFF, key⟩ } }
          fun x => x.keyId == slot) := by
  have hrole : field ([0xFF, 0xFF, 0xFF, 0xFF] ++ key) 0 4 = rolePriv := by simp [field, slice, leNat, rolePriv]
  have hslice : slice ([0xFF, 0xFF, 0xFF, 0xFF] ++ key) 4 32 = key := by simp [slice, hkey, List.take_of_length_le]
  have hlength : ([0xFF, 0xFF, 0xFF, 0xFF] ++ key).length = 36 := by simp [hkey]
  have hbound : ¬ 8 ≤ slot := by omega
  simp only [State.keyOp, hrole, hslice, hlength, hbound]
  rfl

theorem State.endSession_single {slot : Nat} {x : Session} (hsess : s.cat.sessions = [(slot, x)]) :
    s.endSession slot = { s with cat := { s.cat with sessions := [] } } := by
  simp [State.endSession, hsess, Map.del]

theorem State.sessionCloseOp_one (slot : Nat) : s.sessionCloseOp slot 1 = .ok (s.endSession slot) := rfl

end

/-! ### The management stack (R63) -/

section
variable {s : State}

theorem exec_mgmtIcmpv6_not_ready (f : MgmtFrame) (hready : s.boot.ready = false) : exec (.mgmtIcmpv6 f) s = .next s := by
  simp [exec, execMgmtIcmpv6, hready]

variable (hready : s.boot.ready = true) (src dst : List Byte)
include hready

theorem exec_echoRequest : exec (.mgmtIcmpv6 (.echoRequest src dst)) s = .next (s.emit (.echoReply src dst)) := by
  simp [exec, execMgmtIcmpv6, hready]

theorem exec_neighbourSolicitation : exec (.mgmtIcmpv6 (.neighbourSolicitation src dst)) s
    = .next (if s.ownAddress dst then s.emit (.neighbourAdvert src dst) else s) := by
  simp [exec, execMgmtIcmpv6, hready]

theorem exec_fragment : exec (.mgmtIcmpv6 .fragment) s = .next s.capDiscard := by simp [exec, execMgmtIcmpv6, hready]

end
end Sys2Proof.Machine
end

section
/-! CAP frames that the block takes (R63, R67), and the OPEN and the frames whose tag fails (R66, R68). -/
namespace Sys2Proof.Machine

/-! ### The one session of a block -/

/-- The state with one session, in a slot, and no other. -/
def State.onlySession (s : State) (slot : Nat) (x : Session) : State := { s with cat := { s.cat with sessions := [(slot, x)] } }

section
variable {s : State} {slot : Nat} {x : Session} (hsess : s.cat.sessions = [(slot, x)])
include hsess

theorem State.look_single : Map.look s.cat.sessions slot = some x := by simp [hsess, Map.look]

theorem State.updSession_single (g : Session → Session) : s.updSession slot g = s.onlySession slot (g x) := by
  simp only [State.updSession, State.look_single hsess]
  simp [hsess, Map.put, State.onlySession]

theorem State.sessionOf_single : s.sessionOf x.id = some (slot, x) := by simp [State.sessionOf, hsess]

end

theorem State.updSession_onlySession (s : State) (slot : Nat) (x : Session) (g : Session → Session) :
    (s.onlySession slot x).updSession slot g = s.onlySession slot (g x) := State.updSession_single rfl g

/-! ### Frames that are taken (R54, R63, R67, R489) -/

/-- Before READY no frame is a CAP frame of the block, and none waits (R54). -/
theorem State.capIn_not_ready {s : State} (op : Nat) (f : CapFrame) (hready : s.boot.ready = false) : s.capIn op f = s := by
  simp [State.capIn, State.capFrame, hready]

section
variable {s : State} {f : CapFrame} (hready : s.boot.ready = true) (hcap : s.cat.capEnable = true)
  (hhalt : s.rootHalted = false) (hport : f.dstPort = s.cat.udpPort)
include hready hcap hhalt hport

/-- An OPEN under a key, once its tag verifies (R66). -/
theorem State.capIn_open {k : KeySlot} (hentropy : s.boot.entropyOk = true) (hform : capMalformed f 0x01 = false)
    (hzero : f.session = 0) (hkey : Map.look s.cat.keys f.keyId.toNat = some k)
    (htag : hmacSha256 k.key (capSigned f 0x01) = f.tag) : s.capIn 0x01 f = s.capOpen f k := by
  simp [State.capIn, State.capFrame, hready, hcap, hhalt, hport, hentropy, hform, hzero, hkey, htag]

/-- Every other frame of a session is its request, or is discarded for its tag (R67). -/
theorem State.capIn_session {op slot : Nat} {x : Session} (hop : op ≠ 0x01) (hform : capMalformed f op = false)
    (hsess : s.sessionOf f.session = some (slot, x)) (hkey : f.keyId = 0) :
    s.capIn op f = if hmacSha256 x.key (capSigned f op) = f.tag then s.capRequest slot op x f else s.capBadTag := by
  simp [State.capIn, State.capFrame, hready, hcap, hhalt, hport, hform, hop, hsess, hkey]

end

/-! ### Responses (R63, R66) -/

section
variable (s : State) (f : CapFrame) (key : List Byte) (op session keyId : Nat) (status : Word) (payload : List Byte)

theorem State.capRespond_outputs (session : Word) (keyId : Byte) :
    (s.capRespond f key op session.toNat keyId.toNat status payload).outputs = s.outputs ++ [.capResponse f.dstPort f.srcAddr
      f.srcPort (BitVec.ofNat 8 (op % 128 + 128)) session f.seq keyId status payload
      (hmacSha256 key (capHeader (BitVec.ofNat 8 (op % 128 + 128)) session.toNat f.seq.toNat payload.length keyId.toNat
        status.toNat ++ payload))] := by
  simp [State.capRespond, State.emit]

end

/-! ### OPEN (R66, R68) -/

theorem length_leBytes (n v : Nat) : (leBytes n v).length = n := by
  induction n generalizing v with
  | zero => rfl
  | succ n ih => simp [leBytes, ih]

/-- An OPEN under a privileged key, when no session is open: it takes slot 0, and its identifier and its nonce are answered. -/
theorem State.capOpen_first {s : State} {f : CapFrame} {key : List Byte} (hlen : f.payload.length = 20)
    (hsess : s.cat.sessions = []) : ∃ x nonce tag, (s.capOpen f ⟨0xFFFFFFFF, key⟩).cat.sessions = [(0, x)]
      ∧ x.keyId = f.keyId.toNat ∧ x.view = .priv ∧ x.last = 0 ∧ x.authenticated = false ∧ x.peer = f.srcAddr
      ∧ (s.capOpen f ⟨0xFFFFFFFF, key⟩).cat.usedIds = s.cat.usedIds ++ [x.id]
      ∧ (s.capOpen f ⟨0xFFFFFFFF, key⟩).outputs = s.outputs ++ [.capResponse f.dstPort f.srcAddr f.srcPort 0x81 x.id f.seq
          f.keyId 0 (nonce ++ [0xFF, 0xFF, 0xFF, 0xFF]) tag]
      ∧ nonce.length = 16 := by
  have hslot : (List.range 8).find? (fun i => (Map.look s.cat.sessions i).isNone) = some 0 := by rw [hsess]; rfl
  have hrole : (0xFFFFFFFF : Word).toNat = rolePriv := rfl
  simp only [State.capOpen, hlen, hrole, hslot, ne_eq, not_true_eq_false, false_and, if_false]
  exact ⟨_, _, _, congrArg (Map.put · 0 _) hsess, rfl, rfl, rfl, rfl, rfl, rfl, State.capRespond_outputs .., length_leBytes _ _⟩

end Sys2Proof.Machine
end

section
/-! Requests of a CAP session (R65, R69, R71): what each operation answers, and what the next request of a session leaves. -/
namespace Sys2Proof.Machine

/-! ### What an operation does (R71) -/

section
variable {s : State} {x : Session} {p : List Byte} {e : CatEntry}

theorem State.capRun_empty {op : Nat} (hop : op = 0x02 ∨ op = 0x03) : s.capRun x op [] = (s, 0, [], none) := by
  rcases hop with rfl | rfl <;> rfl

/-- A READ of an entry that the session's view may read, without CHKGEN. -/
theorem State.capRun_read (hlen : p.length = 16) (hgen : bit (field p 3 1) 0 = false)
    (he : s.entry x.view (field p 0 2) (field p 2 1) = .ok e) (hview : e.access x.view ≠ .wo) (hn : field p 12 2 ≤ 1160) :
    let data := (e.get.drop (field p 4 4)).take (field p 12 2)
    s.capRun x 0x10 p = (s, abOk, u8 e.type ++ [0, 0, 0] ++ u32 e.get.length ++ u32 (s.indexGeneration (field p 0 2))
      ++ u16 data.length ++ u16 0 ++ data, none) := by
  simp [State.capRun, hlen, hgen, State.catRead_of_entry _ he hview hn]

/-- A WRITE in one segment of a scalar entry that takes the value, without CHKGEN. -/
theorem State.capRun_write {t : State} (hlen : p.length = 16 + field p 12 2) (hgen : bit (field p 3 1) 0 = false)
    (hlast : bit (field p 3 1) 1 = true) (hoff : field p 4 4 = 0) (hn : field p 12 2 ≤ 1160)
    (he : State.entry { s with freeCtr := s.freeCtr + 1 } x.view (field p 0 2) (field p 2 1) = .ok e)
    (hview : e.access x.view ≠ .ro) (htype : e.type < 0x0A) (hmax : (p.drop 16).length = e.max)
    (hput : e.put (p.drop 16) = .ok t) :
    s.capRun x 0x11 p = (t, abOk, u8 e.type ++ [0, 0, 0] ++ u32 (p.drop 16).length ++ u32 (s.indexGeneration (field p 0 2))
      ++ u32 0, none) := by
  have hwrite := State.catWrite_scalar x.staging he hview htype hmax hput
  simp only [State.capRun, hgen, hlast, hoff, decide_eq_false (Nat.not_lt.mpr hn), Bool.false_eq_true, if_false, hwrite]
  rw [if_neg (not_not_intro hlen)]
  rfl

/-- A LIST for at most as many indices as a response has room for. -/
theorem State.capRun_list {l : List Nat} {next : Nat} (hlen : p.length = 4) (hone : 1 ≤ field p 2 2) (hn : field p 2 2 ≤ 580)
    (hlist : s.catList x.view (field p 0 2) (field p 2 2) = (l, next)) :
    s.capRun x 0x12 p = (s, 0, u16 next ++ u16 l.length ++ (l.map u16).flatten, none) := by
  have hrange : ¬ (field p 2 2 < 1 ∨ 580 < field p 2 2) := by omega
  simp only [State.capRun, hlen, if_neg hrange, hlist, ne_eq, not_true_eq_false, if_false]

/-- An operation that R65 does not list is answered 0x0C00_000E, without a payload (log 26). -/
theorem State.capRun_unknown {op : Nat} (hop : ¬ (op = 2 ∨ op = 3 ∨ op = 0x10 ∨ op = 0x11 ∨ op = 0x12)) :
    s.capRun x op p = (s, abUnknown, [], none) := by
  unfold State.capRun
  dsimp only
  split
  case h_6 => rfl
  all_goals exact (hop (by decide)).elim

end

/-! ### Three requests of a privileged session (R71) -/

/-- The payload of a READ of one byte of TJ_CRIT, 0x6000.04. -/
def readTjCrit : List Byte := u16 0x6000 ++ [4, 0] ++ u32 0 ++ u32 0 ++ u16 1 ++ u16 0

/-- The payload of a WRITE of 80 to CEILING_DERATE, 0x6000.02, with LAST. -/
def writeDerate80 : List Byte := u16 0x6000 ++ [2, 2] ++ u32 0 ++ u32 0 ++ u16 1 ++ u16 0 ++ [80]

/-- The payload of a LIST of one index from 0x1000 on. -/
def listFirst : List Byte := u16 0x1000 ++ u16 1

section
variable (s : State) {x : Session} (hview : x.view = .priv)
include hview

theorem State.capRun_readTjCrit : s.capRun x 0x10 readTjCrit
    = (s, abOk, [2, 0, 0, 0] ++ u32 1 ++ u32 0 ++ u16 1 ++ u16 0 ++ u8 s.fuses.tjCrit, none) := by
  have he := s.entry_tjCrit
  have haccess : (roU8 false s.fuses.tjCrit).access .priv ≠ .wo := nofun
  rw [← hview] at he haccess
  exact State.capRun_read (p := readTjCrit) (by decide) (by decide) he haccess (by decide)

theorem State.capRun_writeDerate80 : s.capRun x 0x11 writeDerate80
    = ({ s with freeCtr := s.freeCtr + 1, set := { s.set with ceilingDerate := 80 } }, abOk,
      [2, 0, 0, 0] ++ u32 1 ++ u32 0 ++ u32 0, none) := by
  have he := State.entry_ceilingDerate { s with freeCtr := s.freeCtr + 1 }
  rw [← hview] at he
  exact State.capRun_write (p := writeDerate80) (by decide) (by decide) (by decide) (by decide) (by decide) he
    (by rw [hview]; nofun) (show 0x02 < 0x0A by decide) rfl rfl

theorem State.capRun_listFirst : s.capRun x 0x12 listFirst = (s, 0, u16 0x1001 ++ u16 1 ++ u16 0x1000, none) := by
  have hlist := s.catList_first
  rw [← hview] at hlist
  exact State.capRun_list (p := listFirst) (by decide) (by decide) (by decide) hlist

end

/-! ### The session of a request (R69) -/

/-- A session that executes its next request. -/
def Session.executing (x : Session) (now seq : Nat) : Session :=
  { x with authenticated := true, lastRequest := now, last := seq, inExecution := true, cached := none }

/-- A session whose request in execution has its answer, which is kept. -/
def Session.answering (x : Session) (op seq : Nat) (status : Word) (payload : List Byte) (st : Option Staging) : Session :=
  { x with inExecution := false, staging := st, cached := some ⟨BitVec.ofNat 8 op, seq, status, payload⟩ }

section
variable {s t : State} {slot op : Nat} {x : Session} {f : CapFrame} {status : Word} {p : List Byte} {st : Option Staging}

/-- The next request of a session is executed at once when it is no UNFENCE that waits (R69, R530). -/
theorem State.capRequest_next (hsess : s.cat.sessions = [(slot, x)]) (hidle : x.inExecution = false)
    (hseq : f.seq.toNat = x.last + 1) (hheld : op ≠ 0x11 ∨ f.payload.length ≠ 18) :
    s.capRequest slot op x f = (s.onlySession slot (x.executing s.now f.seq.toNat)).capExecute slot op f := by
  have hnot (u : State) (y : Session) : u.capHeld op y f = false := by
    rcases hheld with hop | hlen
    · simp [State.capHeld, hop]
    · simp [State.capHeld, hlen]
  simp only [State.capRequest, hidle, hnot, State.updSession_single hsess, State.updSession_onlySession]
  exact if_pos hseq

variable (hrun : s.capRun x op f.payload = (t, status, p, st)) (hsess : s.cat.sessions = [(slot, x)])
  (hkept : t.cat.sessions = [(slot, x)]) (hend : x.ending = false)
include hrun hsess hkept hend

/-- A request that leaves its session open is answered, and the answer is kept. -/
theorem State.capExecute_open (hopen : op ≠ 0x02) : s.capExecute slot op f
    = (t.onlySession slot (x.answering op f.seq.toNat status p st)).capRespond f x.key op x.id.toNat 0 status p := by
  simp only [State.capExecute, State.look_single hsess, hrun, State.look_single hkept, State.updSession_single hkept]
  rw [if_neg (by simp [hend, hopen])]
  rfl

omit hend in
/-- A CLOSE that succeeds is answered, and its session has ended. -/
theorem State.capExecute_close (hop : op = 0x02) (hstatus : status = 0) : s.capExecute slot op f
    = (t.endSession slot).capRespond f x.key op x.id.toNat 0 status p := by
  simp only [State.capExecute, State.look_single hsess, hrun, State.look_single hkept]
  rw [if_pos (by simp [hop, hstatus])]

end

/-! ### The next request of the one session (R67, R69) -/

/-- The block takes a frame, under the identifier of its one session, that is the session's next request. -/
structure State.NextRequest (s : State) (slot : Nat) (x : Session) (f : CapFrame) : Prop where
  ready : s.boot.ready = true
  enabled : s.cat.capEnable = true
  hartRuns : s.rootHalted = false
  port : f.dstPort = s.cat.udpPort
  session : s.cat.sessions = [(slot, x)]
  id : f.session = x.id
  keyId : f.keyId = 0
  idle : x.inExecution = false
  stays : x.ending = false
  seq : f.seq.toNat = x.last + 1

/-- The row of an operation that R65 does not list. -/
theorem exec_capUnknownOperation {op : BitVec 7} (s : State) (f : CapFrame)
    (hop : ¬ (op.toNat = 1 ∨ op.toNat = 2 ∨ op.toNat = 3 ∨ op.toNat = 0x10 ∨ op.toNat = 0x11 ∨ op.toNat = 0x12)) :
    exec (.capUnknownOperation op f) s = .next (s.capIn op.toNat f) := by
  have hlisted : ([0x01, 0x02, 0x03, 0x10, 0x11, 0x12] : List Nat).contains op.toNat = false := by simpa using hop
  simp only [exec, execCapUnknownOperation, hlisted]
  rfl

section
variable {s t : State} {slot op : Nat} {x : Session} {f : CapFrame} {status : Word} {q p : List Byte} {st : Option Staging}
  (h : s.NextRequest slot x f) (hq : f.payload = q) (hop : op ≠ 0x01) (hheld : op ≠ 0x11 ∨ q.length ≠ 18)
  (hmeets : capMalformed f op = false ∧ hmacSha256 x.key (capSigned f op) = f.tag)
include h hq hop hheld hmeets

theorem State.capIn_next :
    s.capIn op f = (s.onlySession slot (x.executing s.now f.seq.toNat)).capExecute slot op f := by
  obtain ⟨hform, htag⟩ := hmeets
  have hfind : s.sessionOf f.session = some (slot, x) := by rw [h.id, State.sessionOf_single h.session]
  rw [State.capIn_session h.ready h.enabled h.hartRuns h.port hop hform hfind h.keyId, if_pos htag,
    State.capRequest_next h.session h.idle h.seq (by rw [hq]; exact hheld)]

variable (hrun : (s.onlySession slot (x.executing s.now f.seq.toNat)).capRun (x.executing s.now f.seq.toNat) op q
    = (t, status, p, st))
  (hkept : t.cat.sessions = [(slot, x.executing s.now f.seq.toNat)]) (hout : t.outputs = s.outputs)
include hrun hkept hout

/-- The response of a request that leaves its session open, and the session after it. -/
theorem State.capIn_next_open (hopen : op ≠ 0x02) : ∃ tag, (s.capIn op f).outputs = s.outputs
      ++ [.capResponse f.dstPort f.srcAddr f.srcPort (BitVec.ofNat 8 (op % 128 + 128)) x.id f.seq 0 status p tag]
    ∧ (s.capIn op f).set = t.set
    ∧ ∃ y, (s.capIn op f).cat.sessions = [(slot, y)] ∧ y.last = f.seq.toNat ∧ y.authenticated = true
      ∧ y.inExecution = false ∧ y.key = x.key := by
  rw [← hq] at hrun
  rw [State.capIn_next h hq hop hheld hmeets, State.capExecute_open hrun rfl hkept h.stays hopen, ← hout]
  exact ⟨_, State.capRespond_outputs (keyId := 0) .., rfl, _, rfl, rfl, rfl, rfl, rfl⟩

/-- The response of a CLOSE that succeeds; no session is left. -/
theorem State.capIn_next_closed (hclose : op = 0x02) (hstatus : status = 0) : ∃ tag, (s.capIn op f).outputs = s.outputs
      ++ [.capResponse f.dstPort f.srcAddr f.srcPort (BitVec.ofNat 8 (op % 128 + 128)) x.id f.seq 0 status p tag]
    ∧ (s.capIn op f).set = t.set ∧ (s.capIn op f).cat.sessions = [] := by
  rw [← hq] at hrun
  rw [State.capIn_next h hq hop hheld hmeets, State.capExecute_close hrun rfl hkept hclose hstatus, State.endSession_single hkept,
    ← hout]
  exact ⟨_, State.capRespond_outputs (keyId := 0) .., rfl, rfl⟩

end
end Sys2Proof.Machine
end

section
/-! The statements on the Catalogue before READY, on its rows of single entries and the management stack, and on CAP. -/
namespace Sys2Proof.Proofs
open Sys2Proof Sys2Proof.Machine

/-- Settles O25: before READY each request of a window but the read of 0x1000.05 ends at the first check, and each CAP frame is
dropped. -/
theorem beforeReady : Obligations.BeforeReady := by
  unfold Obligations.BeforeReady
  intro s v r f hready
  refine ⟨fun hbusy i hi => ?refused, fun hbusy hindex hsub hlen hgen haux => ?ready, fun i op hi => ?silent⟩
  case refused =>
    have refused (op : Nat) := State.windowGo_refused_before_ready op r hready hbusy
    rcases hi with rfl | rfl | ⟨rfl, hreq⟩
    · exact ⟨_, rfl, refused 1 (by simp)⟩
    · exact ⟨_, rfl, refused 2 (by simp)⟩
    · refine ⟨_, rfl, refused 0 fun h => hreq ?_⟩
      obtain ⟨-, hindex, hsub⟩ := h
      exact ⟨BitVec.eq_of_toNat_eq hindex, BitVec.eq_of_toNat_eq hsub⟩
  case ready =>
    have hgo := State.windowGo_shows_ready hready hbusy hindex hsub hlen hgen haux
    refine ⟨s.windowGo .priv 0 r, rfl, ?_⟩
    rw [hgo]
    exact ⟨State.windowDone_abort _ .priv .., State.windowDone_done _ .priv .., State.windowDone_total _ .priv ..,
      State.windowDone_buffer_head _ .priv _ _ rfl⟩
  case silent =>
    have silent (op : Nat) := State.capIn_not_ready op f hready
    rcases hi with rfl | rfl | rfl | rfl | rfl | rfl | rfl
    · exact congrArg _ (silent 0x01)
    · exact congrArg _ (silent 0x02)
    · exact congrArg _ (silent 0x03)
    · exact congrArg _ (silent 0x10)
    · exact congrArg _ (silent 0x11)
    · exact congrArg _ (silent 0x12)
    · simp only [exec, execCapUnknownOperation, silent, ite_self]

/-- Settles O26: what the root does with a row before READY and with its hart halted, then the rows of single entries and the
frames of the management stack. -/
theorem entriesAndManagement : Obligations.EntriesAndManagement := by
  unfold Obligations.EntriesAndManagement
  refine ⟨fun s i hi => ?rows, fun s hready hhalt => ?entries, fun s src dst => ?management⟩
  case rows =>
    rw [exec_of_writesEntry hi]
    exact ⟨fun hready => congrArg _ (State.rootServes_not_ready i _ hready),
      fun hready hhalt => congrArg _ (State.rootServes_halted i _ hready hhalt)⟩
  case entries =>
    have hserves : s.serves := ⟨hready, hhalt⟩
    refine ⟨fun v hv hport => ?deviceId, fun v hv => ?range, fun v hv hport => ?state, fun slot key hslot hkey => ?key,
      fun slot x hsess => ?close⟩
    case deviceId => exact congrArg _ (State.rootRow_ok _ hserves (State.deviceIdOp_ok hv hport))
    case range => exact congrArg _ (State.rootRow_error _ hserves (State.deviceIdOp_range hv))
    case state => exact congrArg _ (State.rootRow_error _ hserves (State.deviceIdOp_state hv hport))
    case key =>
      have hrow := State.rootRow_ok (.keyWrite slot ([0xFF, 0xFF, 0xFF, 0xFF] ++ key)) hserves
        (State.keyOp_privileged (s := s) hslot hkey)
      refine ⟨_, congrArg Host.Outcome.next hrow, rfl, ?_, fun k hk => ?_, rfl, rfl⟩
      · exact Map.look_put_self ..
      · exact Map.look_put_ne _ _ hk
    case close =>
      refine congrArg _ (State.rootRow_ok (t := { s with cat := { s.cat with sessions := [] } }) _ hserves ?_)
      have hentry : (Map.look s.cat.sessions slot).isNone = false := by simp [hsess, Map.look]
      rw [hentry, ← State.endSession_single hsess]
      exact State.sessionCloseOp_one slot
  case management =>
    refine ⟨fun hready f => exec_mgmtIcmpv6_not_ready f hready, fun hready => ⟨exec_echoRequest hready src dst, fun hown => ?own,
      fun hown => ?other, exec_fragment hready⟩⟩
    case own => exact (exec_neighbourSolicitation hready src dst).trans (congrArg _ (if_pos hown))
    case other => rw [exec_neighbourSolicitation hready src dst, hown]; rfl

/-- Settles O27: an OPEN takes the lowest free slot, the two timers free the slot, and a frame of a session whose tag fails
counts as such. -/
theorem capSessionsAndTags : Obligations.CapSessionsAndTags := by
  unfold Obligations.CapSessionsAndTags
  refine ⟨⟨?opens, fun s slot x hsess => ⟨?idle, fun hauth => ?unauthenticated, fun hauth => ?authenticated⟩⟩, ?badTag⟩
  case opens =>
    intro s f key hready hcap hhalt hentropy hport hform hzero hkey htag hlen hsess
    have hopen := State.capIn_open hready hcap hhalt hport hentropy hform hzero hkey htag
    obtain ⟨x, nonce, tag, hx⟩ := State.capOpen_first (key := key) hlen hsess
    exact ⟨_, x, nonce, tag, congrArg Host.Outcome.next hopen, hx⟩
  case idle => exact congrArg _ (State.endSession_single hsess)
  case unauthenticated =>
    simp only [exec, execOpenFirstRequestTimeout, State.look_single hsess, hauth, State.endSession_single hsess]
    rfl
  case authenticated =>
    simp only [exec, execOpenFirstRequestTimeout, State.look_single hsess, hauth]
    rfl
  case badTag =>
    intro s slot x f hready hcap hhalt hport hsess hid hkey i op hi hform htag
    have hrow : exec i s = .next (s.capIn op f) ∧ op ≠ 0x01 := by
      rcases hi with ⟨rfl, rfl⟩ | ⟨rfl, rfl⟩ | ⟨rfl, rfl⟩ | ⟨rfl, rfl⟩ | ⟨rfl, rfl⟩ <;> exact ⟨rfl, by decide⟩
    obtain ⟨hexec, hop⟩ := hrow
    have hfind : s.sessionOf f.session = some (slot, x) := by rw [hid, State.sessionOf_single hsess]
    rw [hexec, State.capIn_session hready hcap hhalt hport hop hform hfind hkey, if_neg htag]
    rfl

/-- Settles O28: each operation's answer, in the response and the session that the next request of a session leaves. -/
theorem capRequests : Obligations.CapRequests := by
  unfold Obligations.CapRequests
  intro s slot x f hready hcap hhalt hport hsess hid hkey hidle hend hview hseq meets answers
  have h : s.NextRequest slot x f := ⟨hready, hcap, hhalt, hport, hsess, hid, hkey, hidle, hend, hseq⟩
  refine ⟨fun hmeets hp => ?keepalive, fun hmeets hp => ?close, fun hmeets hp => ?read, fun hmeets hp => ?write,
    fun hmeets hp => ?list, fun op hop hmeets => ?unknown⟩
  case keepalive =>
    obtain ⟨tag, hout, hset, hkeeps⟩ := State.capIn_next_open h hp (op := 0x03) (by decide) (by decide) hmeets
      (State.capRun_empty (.inr rfl)) rfl rfl (by decide)
    exact ⟨_, _, tag, rfl, hout, rfl, hset, hkeeps⟩
  case close =>
    obtain ⟨tag, hout, hset, hends⟩ := State.capIn_next_closed h hp (op := 0x02) (by decide) (by decide) hmeets
      (State.capRun_empty (.inl rfl)) rfl rfl rfl rfl
    exact ⟨_, _, tag, rfl, hout, rfl, hset, hends⟩
  case read =>
    obtain ⟨tag, hout, hset, hkeeps⟩ := State.capIn_next_open h hp (by decide) (by decide) hmeets
      (State.capRun_readTjCrit _ hview) rfl rfl (by decide)
    exact ⟨_, _, tag, rfl, hout, rfl, hset, hkeeps⟩
  case write =>
    obtain ⟨tag, hout, hset, hkeeps⟩ := State.capIn_next_open h hp (by decide) (by decide) hmeets
      (State.capRun_writeDerate80 _ hview) rfl rfl (by decide)
    exact ⟨_, _, tag, rfl, hout, rfl, hset, hkeeps⟩
  case list =>
    obtain ⟨tag, hout, hset, hkeeps⟩ := State.capIn_next_open h hp (by decide) (by decide) hmeets
      (State.capRun_listFirst _ hview) rfl rfl (by decide)
    exact ⟨_, _, tag, rfl, hout, rfl, hset, hkeeps⟩
  case unknown =>
    have hlisted : ¬ (op.toNat = 1 ∨ op.toNat = 2 ∨ op.toNat = 3 ∨ op.toNat = 0x10 ∨ op.toNat = 0x11 ∨ op.toNat = 0x12) := by
      simpa [← BitVec.toNat_inj] using hop
    obtain ⟨tag, hout, hset, hkeeps⟩ := State.capIn_next_open h rfl (op := op.toNat) (by omega) (.inl (by omega)) hmeets
      (State.capRun_unknown (by omega)) rfl rfl (by omega)
    rw [Nat.mod_eq_of_lt op.isLt] at hout
    exact ⟨_, _, tag, exec_capUnknownOperation s f hlisted, hout, rfl, hset, hkeeps⟩

end Sys2Proof.Proofs
end
